-- ==== Sys2Proof/Word.lean ====
section
/-! DEFINITION. The word types of the T96 and their plainest arithmetic.
R11: bit 0 is the least significant bit, and multi-byte fields are little-endian. -/
namespace Sys2Proof

abbrev Byte := BitVec 8
abbrev W16 := BitVec 16
abbrev W32 := BitVec 32
abbrev W64 := BitVec 64

/-- A quantity that saturates at `top` (R163, R389). -/
def satInc (top n : Nat) : Nat := if n < top then n + 1 else top

end Sys2Proof
end

