-- ==== Sys2Proof/Syntax.lean ====
section
/-! DEFINITION. The commands of the block: one constructor of `Instr` per row of the opcode table, with the operands
that the environment supplies. Log entries 8, 10, 13 and 15 say how a physical event or a cryptographic outcome
becomes an operand. -/
namespace Sys2Proof

/-- What the check of one line finds when a command reads it (R248 to R250): a corrected error, an uncorrectable
error or failed tag, a line that the host returns with CXL poison, or a flit of the die network that its ECC cannot correct
(R396), with whether the wipe that then follows reads back as zero (R273, R406). Such a flit comes with HDM_READ and PATROL_SCRUB alone,
whatever it carried, since the error names neither a line nor a command: a DESIGN CHOICE (log entry 15). -/
inductive FindKind where
  | ce | ue | hostPoison
  | flitUe (wipeOk : Bool)
  deriving DecidableEq, Repr

/-- A finding at the device line `line` (device address / 64), met at the read number `nth` of that line by the command. -/
structure Finding where
  line : Nat
  kind : FindKind
  nth : Nat
  deriving DecidableEq, Repr

/-- A failed check of one engine while a LAYER runs: a parity error in its eddy-table copy or in a codebook (R137), a residue or
duplicate-evaluation mismatch (R400), an ECC outcome at a line of its scratch, met in a slot or a sidecar (R160, R248), or one at a
line of the staging part of its core's scratch (R248, R256): corrected where `ue` is false. -/
inductive EngFaultKind where
  | eddyParity | codebookParity | mismatch
  | scratch (line : Nat) (ue : Bool)
  | stage (line : Nat) (ue : Bool)
  deriving DecidableEq, Repr

/-- A failed check of engine `e` in the work of operator number `op` of the run. -/
structure EngFault where
  e : Fin 96
  kind : EngFaultKind
  op : Nat
  deriving DecidableEq, Repr

/-- The ways an engine forms products (R107, R110). -/
inductive ArrayPath where
  | splice | ewise | log | table | strand
  deriving DecidableEq, Repr

/-- Operands of an array instruction: the fields of R92 (CONFIG spelled out as path, rung, format codes and group size,
with the eddy table that the log path binds), and the side data that the sequencer sends with it (R80, R92, R142, R146):
whether these are the first steps of their tiles, the k-block elements that are no padding, the FP32 scales of rows and
columns, and the E8M0 codes of both operands by element. `env` holds the findings at lines of engine scratch. -/
structure ArrayInsn where
  tag : BitVec 2
  slot : BitVec 8
  count : BitVec 8
  src : BitVec 32
  stride : BitVec 24
  path : ArrayPath
  rung : Fin 5
  fa : BitVec 5
  fb : BitVec 5
  group : BitVec 2
  eddy : Fin 4
  first : Bool
  kvalid : Nat
  rowScale : List (BitVec 32)
  colScale : List (BitVec 32)
  mxa : List Byte
  mxb : List Byte
  env : List Finding
  deriving DecidableEq, Repr

/-- The operand fields of a Twine instruction word (R206). `chunk` is given when the instruction is the first one that
the sequencer issues for a chunk (R205): its number, and whether the pass is pass 2 (log entry 26); a further instruction
goes to the chunk context `ctx` (R215). -/
structure TwineOps where
  p : Bool
  d : BitVec 5
  a : BitVec 5
  b : BitVec 5
  c : BitVec 5
  rm : BitVec 3
  chunk : Option (Nat × Bool)
  ctx : Fin 4
  env : List Finding
  deriving DecidableEq, Repr

/-- The authorisation of a vendor request (R444, R445): a Jokarek token or an owner's signature, told by the key that made it, with
what it signs: the bytes it covers (a token's target state, or the payload of the request with the signature bytes zero), the serial
number, and the number of lifecycle entries used. `ok`: the signature verifies under that key. -/
structure Auth where
  ok : Bool
  jokarek : Bool
  key : BitVec 256
  covers : List Byte
  serial : BitVec 64
  used : Nat
  deriving DecidableEq, Repr

/-- What the boot ROM and firmware find during a boot (R427, R441, R425, R273, R431 step 8, R34): the TRNG passes its
start-up tests, the lid loop is intact, the helper data corrects the PUF response, the sealed-bank wipe reads back as zero, and the engines that fail the start-up self-test, each with its ARR_BIST column code (R34, R103). -/
structure BootEnv where
  trngOk : Bool
  loopOk : Bool
  pufOk : Bool
  wipeOk : Bool
  selftest : List (Fin 96 × BitVec 5)
  deriving DecidableEq, Repr

/-- Measurements of one window of the power controller (R505, R515): input power in W, input voltage in mV, input current
in mA, and the temperatures in °C of sensors 0x0010 to 0x0017 and 0x0020 to 0x002B, in the order of their IDs. -/
structure PowerMeasure where
  watts : Nat
  millivolts : Nat
  milliamps : Nat
  temps : List Int
  deriving DecidableEq, Repr

inductive TamperKind where
  | lid | supply | clock | temperature
  deriving DecidableEq, Repr

/-- An IDE key-management operation (R510, R511) on stream 0, the CXL.cachemem stream, or on selective stream 1 to 4,
which carries CXL.io traffic where `io` is set and else UIO to the fabric addresses `base` to `limit`: an AES-256 key programmed (R426),
the stream started, the stream ended. -/
inductive IdeMsg where
  | keyProg (sid : Fin 5) (io : Bool) (base limit : Nat) (key : BitVec 256)
  | start (sid : Fin 5)
  | stop (sid : Fin 5)
  deriving DecidableEq, Repr

/-- A firmware image (R428): the bytes of its header from 0x000, where a byte that is not listed is zero, and the outcomes of what
the boot ROM computes over it (log entry 8): the root public key to which CERT chains, with the firmware-signing usage, whether SIG
verifies, the owner key (by the digest of its public key) under which OWNER_SIG verifies, and the SM3 digests of the four stages. -/
structure Image where
  header : List Byte
  root : Option Nat
  sigOk : Bool
  owner : Option (BitVec 256)
  stageDigests : List (BitVec 256)
  deriving DecidableEq, Repr

/-- What a read of a sealed bank shows (R248 to R251): its cluster and its line, and whether the error cannot be corrected, with
whether the wipe that then follows reads back as zero (R273, R406). -/
structure BankFind where
  cluster : Fin 4
  line : Nat
  ue : Bool
  wipeOk : Bool
  deriving DecidableEq, Repr

/-- What the check of an SPDM request finds (R436): whether it is well formed, whether it arrived inside the secure session
of its transport, whether it asks for a signature, what the read of the sealed bank that holds the session state or the identity key
shows, and for a vendor-defined request the registry (true: PCI-SIG), the vendor ID and the code byte. -/
structure SpdmReq where
  wellFormed : Bool
  secured : Bool
  sign : Bool
  bank : Option BankFind
  pciSig : Bool
  vendorId : BitVec 16
  code : Byte
  deriving DecidableEq, Repr

/-- A gauge frame of R378 as received: its sync word, count, epoch and CRC. -/
structure GaugeFrame where
  sync : BitVec 16
  count : BitVec 64
  epoch : BitVec 32
  crc : BitVec 16
  deriving DecidableEq, Repr

/-- A line unit as received (R326): the bytes in error in each of its two codewords, and the outcome of the line CRC. -/
structure LineCheck where
  e0 : Nat
  e1 : Nat
  crcOk : Bool
  deriving DecidableEq, Repr

/-- A GAUGE ordered set (R344) with the outcome of its tag, and the port's LCLK count at its receipt (R345). -/
structure GaugeSet where
  line : LineCheck
  tagOk : Bool
  keyEpoch : Bool
  depth : BitVec 3
  srcLost : Bool
  epoch : BitVec 32
  gauge : BitVec 64
  phase : BitVec 16
  tTx : BitVec 48
  tEcho : BitVec 48
  turn : BitVec 32
  tRx : BitVec 48
  deriving DecidableEq, Repr

/-- A flit of R327 with the outcome of its checks (R329) and its decrypted payload. -/
structure Flit where
  line : LineCheck
  tagOk : Bool
  ftype : BitVec 4
  vc : BitVec 4
  phase : Bool
  first : Bool
  last : Bool
  keyEpoch : Bool
  crVc : BitVec 4
  crPhase : Bool
  crCount : BitVec 7
  seq : BitVec 16
  ack : BitVec 16
  payload : List Byte
  deriving DecidableEq, Repr

/-- A HELLO of R322: `chain` is its two certificates, `root` the root public key to which they chain, and `serial` that of the device
certificate. -/
structure HelloMsg where
  line : LineCheck
  wellFormed : Bool
  root : Option Nat
  chain : List Byte
  nonce : BitVec 256
  serial : BitVec 64
  lifecycle : BitVec 3
  addr : BitVec 16
  port : BitVec 4
  bl : Byte
  digest : BitVec 256
  deriving DecidableEq, Repr

/-- A later message of AUTH: its bytes, whether it is well formed, and whether its confirmation value or signature verifies. -/
structure LinkMsg where
  line : LineCheck
  body : List Byte
  wellFormed : Bool
  ok : Bool
  deriving DecidableEq, Repr

/-- The transport a management message arrives on (R436, R514): DOE on CXL.io, MCTP over PCIe vendor-defined messages, or
MCTP over I3C. -/
inductive Transport where
  | doe | vdm | i3c
  deriving DecidableEq, Repr

/-- The commands, one constructor per row of the opcode table. -/
inductive Instr where
  /-- NOP (R357): the next descriptor of queue q, a NOP, starts and completes. -/
  | nop (q : Fin 32) (env : List Finding)
  /-- LAYER (R360): the next descriptor of queue q, a LAYER, starts; `faults` are the engine check failures met. -/
  | layer (q : Fin 32) (env : List Finding) (faults : List EngFault)
  /-- LOAD (R95): engine e executes the array instruction LOAD. -/
  | load (e : Fin 96) (insn : ArrayInsn)
  /-- STEPS (R88): engine e executes the array instruction STEPS. -/
  | steps (e : Fin 96) (insn : ArrayInsn)
  /-- ELEMENTWISE (R107): engine e executes the array instruction ELEMENTWISE. -/
  | elementwise (e : Fin 96) (insn : ArrayInsn)
  /-- RECONFIGURE (R99): engine e executes the array instruction RECONFIGURE. -/
  | reconfigure (e : Fin 96) (insn : ArrayInsn)
  /-- ARRAY_ABORT (R101): engine e executes the array instruction ABORT. -/
  | arrayAbort (e : Fin 96)
  /-- COPY (R363): the next descriptor of queue q, a MOVE of this operation, starts. -/
  | copy (q : Fin 32) (env : List Finding)
  /-- CONVERT (R265): the next descriptor of queue q, a MOVE of this operation, starts. -/
  | convert (q : Fin 32) (env : List Finding)
  /-- TRANSPOSE (R266): the next descriptor of queue q, a MOVE of this operation, starts. -/
  | transpose (q : Fin 32) (env : List Finding)
  /-- FILL (R363): the next descriptor of queue q, a MOVE of this operation, starts. -/
  | fill (q : Fin 32) (env : List Finding)
  /-- IADD32 (R260): the next descriptor of queue q, a MOVE of this operation, starts. -/
  | iadd32 (q : Fin 32) (env : List Finding)
  /-- IADD64 (R260): the next descriptor of queue q, a MOVE of this operation, starts. -/
  | iadd64 (q : Fin 32) (env : List Finding)
  /-- SWAP32 (R260): the next descriptor of queue q, a MOVE of this operation, starts. -/
  | swap32 (q : Fin 32) (env : List Finding)
  /-- SWAP64 (R260): the next descriptor of queue q, a MOVE of this operation, starts. -/
  | swap64 (q : Fin 32) (env : List Finding)
  /-- CAS32 (R260): the next descriptor of queue q, a MOVE of this operation, starts. -/
  | cas32 (q : Fin 32) (env : List Finding)
  /-- CAS64 (R260): the next descriptor of queue q, a MOVE of this operation, starts. -/
  | cas64 (q : Fin 32) (env : List Finding)
  /-- FADD32 (R260): the next descriptor of queue q, a MOVE of this operation, starts. -/
  | fadd32 (q : Fin 32) (env : List Finding)
  /-- ALLREDUCE (R282): the next descriptor of queue q, a REDUCE with COLL 0, starts. -/
  | allreduce (q : Fin 32) (env : List Finding)
  /-- REDUCE_SCATTER (R282): the next descriptor of queue q, a REDUCE with COLL 1, starts. -/
  | reduceScatter (q : Fin 32) (env : List Finding)
  /-- UPDATE (R211): the next descriptor of queue q, an UPDATE, starts. -/
  | update (q : Fin 32) (env : List Finding)
  /-- FENCE (R372): the next descriptor of queue q, a FENCE, starts. -/
  | fence (q : Fin 32) (env : List Finding)
  /-- WAIT_GAUGE (R382): the next descriptor of queue q, a WAIT_GAUGE, starts. -/
  | waitGauge (q : Fin 32) (env : List Finding)
  /-- WAIT_GAUGE_TICK (R382): the gauge copy has reached the TICK of the running WAIT_GAUGE of queue q. -/
  | waitGaugeTick (q : Fin 32)
  /-- SIGNAL_ADD (R367): the next descriptor of queue q, a SIGNAL with SET 0, starts and completes. -/
  | signalAdd (q : Fin 32) (env : List Finding)
  /-- SIGNAL_SET (R367): the next descriptor of queue q, a SIGNAL with SET 1, starts and completes. -/
  | signalSet (q : Fin 32) (env : List Finding)
  /-- CODEBOOK (R133): the next descriptor of queue q, a TABLE_LOAD of kind CODEBOOK, starts. -/
  | codebook (q : Fin 32) (env : List Finding)
  /-- EDDY (R135): the next descriptor of queue q, a TABLE_LOAD of kind EDDY, starts. -/
  | eddy (q : Fin 32) (env : List Finding)
  /-- PREC_INIT (R366): the next descriptor of queue q, a TABLE_LOAD of kind PREC_INIT, starts. -/
  | precInit (q : Fin 32) (env : List Finding)
  /-- PROGRAM_LOAD (R210): the next descriptor of queue q, a PROGRAM_LOAD, starts. -/
  | programLoad (q : Fin 32) (env : List Finding)
  /-- SNAP (R459): the next descriptor of queue q, a SNAP, starts. -/
  | snap (q : Fin 32) (env : List Finding)
  /-- SNAP_LATCH (R460): the gauge copy has reached the tick of the running SNAP of queue q. -/
  | snapLatch (q : Fin 32)
  /-- COMMAND_COMPLETION (R373): the oldest running command of queue q completes. -/
  | commandCompletion (q : Fin 32)
  /-- COMMIT (R186): the run of queue q commits. -/
  | commit (q : Fin 32)
  /-- REPLAY (R183): the marked run of queue q is computed again one rung wider. -/
  | replay (q : Fin 32) (env : List Finding) (faults : List EngFault)
  /-- TWINE_NOP (R208): core c issues the Twine instruction NOP. -/
  | twineNop (c : Fin 16) (o : TwineOps)
  /-- ADD (R208): core c issues the Twine instruction ADD. -/
  | add (c : Fin 16) (o : TwineOps)
  /-- SUB (R208): core c issues the Twine instruction SUB. -/
  | sub (c : Fin 16) (o : TwineOps)
  /-- MUL (R208): core c issues the Twine instruction MUL. -/
  | mul (c : Fin 16) (o : TwineOps)
  /-- DIV (R208): core c issues the Twine instruction DIV. -/
  | div (c : Fin 16) (o : TwineOps)
  /-- FMA (R208): core c issues the Twine instruction FMA. -/
  | fma (c : Fin 16) (o : TwineOps)
  /-- FMS (R208): core c issues the Twine instruction FMS. -/
  | fms (c : Fin 16) (o : TwineOps)
  /-- FNMA (R208): core c issues the Twine instruction FNMA. -/
  | fnma (c : Fin 16) (o : TwineOps)
  /-- SQRT (R208): core c issues the Twine instruction SQRT. -/
  | sqrt (c : Fin 16) (o : TwineOps)
  /-- RSQRT (R208): core c issues the Twine instruction RSQRT. -/
  | rsqrt (c : Fin 16) (o : TwineOps)
  /-- MIN (R208): core c issues the Twine instruction MIN. -/
  | tmin (c : Fin 16) (o : TwineOps)
  /-- MAX (R208): core c issues the Twine instruction MAX. -/
  | tmax (c : Fin 16) (o : TwineOps)
  /-- ABS (R208): core c issues the Twine instruction ABS. -/
  | abs (c : Fin 16) (o : TwineOps)
  /-- NEG (R208): core c issues the Twine instruction NEG. -/
  | neg (c : Fin 16) (o : TwineOps)
  /-- COPYSIGN (R208): core c issues the Twine instruction COPYSIGN. -/
  | copysign (c : Fin 16) (o : TwineOps)
  /-- CLIP (R208): core c issues the Twine instruction CLIP. -/
  | clip (c : Fin 16) (o : TwineOps)
  /-- CLT (R208): core c issues the Twine instruction CLT. -/
  | clt (c : Fin 16) (o : TwineOps)
  /-- CLE (R208): core c issues the Twine instruction CLE. -/
  | cle (c : Fin 16) (o : TwineOps)
  /-- CEQ (R208): core c issues the Twine instruction CEQ. -/
  | ceq (c : Fin 16) (o : TwineOps)
  /-- CUN (R208): core c issues the Twine instruction CUN. -/
  | cun (c : Fin 16) (o : TwineOps)
  /-- SEL (R208): core c issues the Twine instruction SEL. -/
  | sel (c : Fin 16) (o : TwineOps)
  /-- CVT (R198): core c issues the Twine instruction CVT. -/
  | cvt (c : Fin 16) (o : TwineOps)
  /-- RINT (R208): core c issues the Twine instruction RINT. -/
  | rint (c : Fin 16) (o : TwineOps)
  /-- EXP2 (R208): core c issues the Twine instruction EXP2. -/
  | exp2 (c : Fin 16) (o : TwineOps)
  /-- LOG2 (R208): core c issues the Twine instruction LOG2. -/
  | log2 (c : Fin 16) (o : TwineOps)
  /-- POWN (R208): core c issues the Twine instruction POWN. -/
  | pown (c : Fin 16) (o : TwineOps)
  /-- SCALB (R208): core c issues the Twine instruction SCALB. -/
  | scalb (c : Fin 16) (o : TwineOps)
  /-- IDX (R208): core c issues the Twine instruction IDX. -/
  | idx (c : Fin 16) (o : TwineOps)
  /-- MOV (R208): core c issues the Twine instruction MOV. -/
  | mov (c : Fin 16) (o : TwineOps)
  /-- NFIN (R208): core c issues the Twine instruction NFIN. -/
  | nfin (c : Fin 16) (o : TwineOps)
  /-- LD (R212): core c issues the Twine instruction LD. -/
  | ld (c : Fin 16) (o : TwineOps)
  /-- ST (R218): core c issues the Twine instruction ST. -/
  | st (c : Fin 16) (o : TwineOps)
  /-- RED (R213): core c issues the Twine instruction RED. -/
  | red (c : Fin 16) (o : TwineOps)
  /-- BINV (R222): core c issues the Twine instruction BINV. -/
  | binv (c : Fin 16) (o : TwineOps)
  /-- SQ_TAIL (R352): doorbell write of SQ_TAIL of queue q. -/
  | sqTail (q : Fin 32) (v : BitVec 32)
  /-- CQ_HEAD (R353): doorbell write of CQ_HEAD of queue q. -/
  | cqHead (q : Fin 32) (v : BitVec 32)
  /-- EV_HEAD (R354): doorbell write of EV_HEAD. -/
  | evHead (v : BitVec 32)
  /-- EVENT_RECORD_WRITE (R354): the oldest held event record is written to the event ring. -/
  | eventRecordWrite
  /-- HALT_DB (R383): doorbell write of HALT_DB. -/
  | haltDb (v : BitVec 64)
  /-- HALT_TAKES_EFFECT (R384): the requested HALTs take effect. -/
  | haltTakesEffect
  /-- HALT_MESSAGE (R385): a HALT control message (16 bytes) is delivered from port p. -/
  | haltMessage (p : Fin 16) (msg : List Byte)
  /-- QUEUE_ENABLE (R389): write of QUE_Qn_CTL with EN 1 (bit 0 of v is taken as 1). -/
  | queueEnable (q : Fin 32) (v : BitVec 64)
  /-- QUEUE_DISABLE (R389): write of QUE_Qn_CTL with EN 0 (bit 0 of v is taken as 0). -/
  | queueDisable (q : Fin 32) (v : BitVec 64)
  /-- GLB_RST (R492): write of GLB_RST. -/
  | glbRst (v : BitVec 64) (boot : BootEnv)
  /-- T1_INIT (R247): the zeroing of T1 completes. -/
  | t1Init
  /-- T2_INIT (R493): the zeroing of T2 completes. -/
  | t2Init
  /-- PORT_ENABLE (R318): write of LNK_Pp_CTL with EN 1 (bit 0 of v is taken as 1). -/
  | portEnable (p : Fin 16) (v : BitVec 64)
  /-- PORT_DISABLE (R318): write of LNK_Pp_CTL with EN 0 (bit 0 of v is taken as 0). -/
  | portDisable (p : Fin 16) (v : BitVec 64)
  /-- RELEASE (R342): write of LNK_Pp_CTL with RELEASE 1 (bit 7 of v is taken as 1). -/
  | release (p : Fin 16) (v : BitVec 64)
  /-- LNK_RT_LOAD (R332): write of LNK_RT with LOAD 1 (bit 0 of v is taken as 1). -/
  | lnkRtLoad (v : BitVec 64) (env : List Finding)
  /-- ARM (R277): write of CFL_GRPn_CTL with ARM 1 (bit 0 of v is taken as 1). -/
  | arm (n : Fin 8) (v : BitVec 64) (env : List Finding)
  /-- DISARM (R278): write of CFL_GRPn_CTL with ARM 0 (bit 0 of v is taken as 0). -/
  | disarm (n : Fin 8) (v : BitVec 64)
  /-- HELD_WRITE_TAKES_EFFECT (R278): the held writes of group n take effect once none of its REDUCEs runs. -/
  | heldWriteTakesEffect (n : Fin 8) (env : List Finding)
  /-- OBS_SNAPSEL_ARM (R461): write of OBS_SNAPSEL with ARM 1 (ARM of v is taken as 1). -/
  | obsSnapselArm (v : BitVec 64)
  /-- MAILBOX_SNAPSHOT_LATCH (R461): the armed mailbox snapshot latches. -/
  | mailboxSnapshotLatch
  /-- RESUME (R468): write of OBS_TCTL of core c with RESUME 1. -/
  | resume (c : Fin 16) (v : BitVec 64)
  /-- OBS_TRIG_SW (R468): write of OBS_TRIG of core c with SW 1. -/
  | obsTrigSw (c : Fin 16) (v : BitVec 64)
  /-- MARK (R466): write of OBS_MARK. -/
  | mark (v : BitVec 64)
  /-- OBS_EVSEL (R458): write of OBS_EVSEL of core c. -/
  | obsEvsel (c : Fin 16) (v : BitVec 64)
  /-- MBX_REQ (R481): write of MBX_REQ. -/
  | mbxReq (v : BitVec 64)
  /-- MAILBOX_CAPTURE_COMPLETE (R481): the mailbox capture is written to DATA0 to DATA7. -/
  | mailboxCaptureComplete
  /-- W1C_CLEAR (R479): write of a W1C register at BAR0 offset off. -/
  | w1cClear (off : Nat) (v : BitVec 64)
  /-- SU_WRITE (R476): BAR0 write of size bytes at offset off. -/
  | suWrite (off : Nat) (size : Nat) (v : BitVec 64)
  /-- CONFIGURATION_SWEEP (R483): a configuration sweep ends; disturbed: an SU write was accepted or a BUSY bit read 1 during it. -/
  | configurationSweep (disturbed : Bool)
  /-- POWER_CONTROLLER_WINDOW (R505): a 1 ms window of the power controller ends with these measurements. -/
  | powerControllerWindow (m : PowerMeasure)
  /-- PATROL_SCRUB (R252): patrol scrubbing reads a line of T1 or T2 and finds this. -/
  | patrolScrub (f : Finding)
  /-- FIRMWARE_REMEASURE (R433): the resident stages are measured again; ok: the digests agree; wipeOk: as for TRNG_FAILURE. -/
  | firmwareRemeasure (ok : Bool) (wipeOk : Bool)
  /-- TRNG_FAILURE (R427): a continuous health test of the TRNG fails in service; wipeOk: the wipe of R406 reads back as zero (R273). -/
  | trngFailure (wipeOk : Bool)
  /-- TAMPER_EVENT (R442): a tamper condition is detected; wipeOk: its wipe reads back as zero (R273). -/
  | tamperEvent (k : TamperKind) (wipeOk : Bool)
  /-- PWR_EN_RISE (R504): PWR_EN goes high with the input in range. -/
  | pwrEnRise (boot : BootEnv)
  /-- PWR_EN_FALL (R504): PWR_EN goes low; wipeOk: its wipe reads back as zero (R273). -/
  | pwrEnFall (wipeOk : Bool)
  /-- PERST_ASSERT (R500): PERST# is asserted. -/
  | perstAssert
  /-- PERST_RELEASE (R500): PERST# is released. -/
  | perstRelease (boot : BootEnv)
  /-- CXL_LINK_DOWN (R511): CXL link down, hot reset or fundamental reset. -/
  | cxlLinkDown (boot : BootEnv)
  /-- FUNCTION_LEVEL_RESET (R511): function-level reset over CXL.io. -/
  | functionLevelReset (boot : BootEnv)
  /-- CRITICAL_VOLTAGE (R503): the 54 V input leaves its critical limits; wipeOk: as for TRNG_FAILURE. -/
  | criticalVoltage (wipeOk : Bool)
  /-- CRITICAL_TEMPERATURE (R506): a temperature sensor reaches its critical limit; wipeOk: as for TRNG_FAILURE. -/
  | criticalTemperature (sensor : Nat) (wipeOk : Bool)
  /-- IDE_KM (R511): IDE key management starts or ends an IDE stream. -/
  | ideKm (m : IdeMsg)
  /-- HDM_READ (R270): host CXL.mem read of the 64-byte line at byte x of the HDM range. -/
  | hdmRead (x : Nat) (env : List Finding)
  /-- HDM_WRITE (R270): host CXL.mem write of the bytes that mask names in the line at byte x; `env` are the findings of the
  controller's own read of a line written in part (R246). -/
  | hdmWrite (x : Nat) (data : List Byte) (mask : BitVec 64) (env : List Finding)
  /-- GAUGE_TICK (R378): the sub-tick of GAUGE_REF wraps to 0. -/
  | gaugeTick
  /-- FREE_RUN_TICK (R380): one microsecond of the local reference passes. -/
  | freeRunTick
  /-- GAUGE_FRAME (R379): a 128-bit gauge frame is received whole. -/
  | gaugeFrame (f : GaugeFrame)
  /-- LOST (R380): no GAUGE_REF edge for 200 ns, or the third bad frame in a row; ref: GAUGE_REF is present, and frames are what is missing. -/
  | lost (ref : Bool)
  /-- GAUGE_SET_TRANSMIT (R344): the first line unit after a sixteenth tick: every ACTIVE port sends a GAUGE set. -/
  | gaugeSetTransmit
  /-- GAUGE_SET (R345): port p receives a GAUGE ordered set. -/
  | gaugeSet (p : Fin 16) (m : GaugeSet)
  /-- DATA_FLIT (R329): port p receives a DATA flit; `env` are the read findings met where it completes a packet that reads memory, and
  `accBad` tells that a CONTRIB it completes meets an uncorrectable error in its window's accumulator (R307). -/
  | dataFlit (p : Fin 16) (f : Flit) (env : List Finding) (accBad : Bool)
  /-- CREDIT_FLIT (R334): port p receives a CREDIT flit. -/
  | creditFlit (p : Fin 16) (f : Flit)
  /-- RETRY_REQ (R337): port p receives a RETRY_REQ flit. -/
  | retryReq (p : Fin 16) (f : Flit)
  /-- RETRY_REQ_REPEAT (R337): 2 microseconds have passed without the expected SEQ at port p. -/
  | retryReqRepeat (p : Fin 16)
  /-- HELLO (R322): port p receives a HELLO. -/
  | hello (p : Fin 16) (m : HelloMsg)
  /-- LINK_KEY_EXCHANGE (R322): port p receives a key-exchange message. -/
  | linkKeyExchange (p : Fin 16) (m : LinkMsg)
  /-- TRANSCRIPT_SIGNATURE (R322): port p receives a transcript signature. -/
  | transcriptSignature (p : Fin 16) (m : LinkMsg)
  /-- LINKMGT_DONE (R322): port p receives a LINKMGT DONE. -/
  | linkmgtDone (p : Fin 16) (m : LinkMsg)
  /-- KEY_UPDATE (R324): port p receives a KEY_UPDATE. -/
  | keyUpdate (p : Fin 16) (f : Flit)
  /-- KEY_UPDATE_SEND (R324): port p starts a new epoch of its own direction. -/
  | keyUpdateSend (p : Fin 16)
  /-- SIGNAL_DETECT (R318): signal has been present at port p on these lanes for 1 ms. -/
  | signalDetect (p : Fin 16) (lanes : BitVec 4)
  /-- TRAIN_COMPLETE (R319): equalisation ends at port p with these lanes locked. -/
  | trainComplete (p : Fin 16) (locked : BitVec 4)
  /-- ALIGN_COMPLETE (R318): ALIGN ends at port p, or fails or times out; lanes: the lanes that the partners agree on, in the lane order agreed (R317),
without those skewed too far (R343). -/
  | alignComplete (p : Fin 16) (ok : Bool) (lanes : List (Fin 4))
  /-- AUTH_TIMEOUT (R318): AUTH of port p has lasted 100 ms. -/
  | authTimeout (p : Fin 16)
  /-- RETRAIN_COMPLETE (R318): RETRAIN ends at port p, or fails. -/
  | retrainComplete (p : Fin 16) (ok : Bool)
  /-- LANE_LOSS (R319): a lane of port p loses lock; signal: the lanes that have signal. -/
  | laneLoss (p : Fin 16) (lane : Fin 4) (signal : BitVec 4)
  /-- SIGNAL_LOSS (R320): the partner signal is lost on every lane of port p. -/
  | signalLoss (p : Fin 16)
  /-- RETRY_STORM (R340): more than STORM_TH retries in 1 ms at port p; errors: corrected symbols and CRC failures per lane in the window. -/
  | retryStorm (p : Fin 16) (errors : List Nat)
  /-- CREDIT_STARVATION (R340): channel vc of port p has waited without credit beyond its limit. -/
  | creditStarvation (p : Fin 16) (vc : Fin 9)
  /-- MALFORMED_LIMIT (R341): more than MAL_TH malformed flits in 1 ms at port p. -/
  | malformedLimit (p : Fin 16)
  /-- WINDOW_OPEN (R292): the home of the REDUCE running on queue q opens its next window; `accBad`: its accumulator shows an
  uncorrectable error (R307). -/
  | windowOpen (q : Fin 32) (env : List Finding) (accBad : Bool)
  /-- GRANT (R292): a GRANT packet from link address src is delivered; port: the unit of DST_PORT for a CONTRIB, else the port of arrival. -/
  | grant (src : BitVec 16) (port : Fin 16) (pkt : List Byte) (env : List Finding)
  /-- CONTRIB (R286): a CONTRIB packet from link address src is delivered; port: the unit of DST_PORT for a CONTRIB, else the port of arrival. -/
  | contrib (src : BitVec 16) (port : Fin 16) (pkt : List Byte) (accBad : Bool)
  /-- RESULT (R296): a RESULT packet from link address src is delivered; port: the unit of DST_PORT for a CONTRIB, else the port of arrival. -/
  | result (src : BitVec 16) (port : Fin 16) (pkt : List Byte)
  /-- DONE (R304): a DONE packet from link address src is delivered; port: the unit of DST_PORT for a CONTRIB, else the port of arrival. -/
  | done (src : BitVec 16) (port : Fin 16) (pkt : List Byte)
  /-- ABORT (R306): a ABORT packet from link address src is delivered; port: the unit of DST_PORT for a CONTRIB, else the port of arrival. -/
  | abort (src : BitVec 16) (port : Fin 16) (pkt : List Byte)
  /-- DEADLINE_DUE (R298): the deadline of the REDUCE running on queue q becomes due at unit u. -/
  | deadlineDue (q : Fin 32) (u : Fin 16)
  /-- ABANDON (R301): ABANDON ticks have passed since a rank became late at the home of the REDUCE running on queue q. -/
  | abandon (q : Fin 32)
  /-- ROUTE_LOSS_ABANDON (R407): ABANDON ticks have passed since the REDUCE running on queue q lost the route to a home. -/
  | routeLossAbandon (q : Fin 32)
  /-- SET_ENDPOINT_ID (R514): management request SET_ENDPOINT_ID. -/
  | setEndpointId (tr : Transport) (eid : Byte)
  /-- GET_ENDPOINT_ID (R514): management request GET_ENDPOINT_ID. -/
  | getEndpointId (tr : Transport)
  /-- GET_ENDPOINT_UUID (R514): management request GET_ENDPOINT_UUID. -/
  | getEndpointUuid (tr : Transport)
  /-- GET_MCTP_VERSION_SUPPORT (R514): management request GET_MCTP_VERSION_SUPPORT. -/
  | getMctpVersionSupport (tr : Transport) (ty : Byte)
  /-- GET_MESSAGE_TYPE_SUPPORT (R514): management request GET_MESSAGE_TYPE_SUPPORT. -/
  | getMessageTypeSupport (tr : Transport)
  /-- GET_TID (R514): management request GET_TID. -/
  | getTid (tr : Transport)
  /-- GET_PLDM_VERSION (R514): management request GET_PLDM_VERSION. -/
  | getPldmVersion (tr : Transport) (ty : Byte)
  /-- GET_PLDM_TYPES (R514): management request GET_PLDM_TYPES. -/
  | getPldmTypes (tr : Transport)
  /-- GET_PLDM_COMMANDS (R514): management request GET_PLDM_COMMANDS. -/
  | getPldmCommands (tr : Transport) (ty : Byte)
  /-- GET_PDR (R515): management request GET_PDR. -/
  | getPdr (tr : Transport) (h : Nat)
  /-- GET_SENSOR_READING (R515): management request GET_SENSOR_READING. -/
  | getSensorReading (tr : Transport) (id : Nat)
  /-- GET_STATE_SENSOR_READINGS (R515): management request GET_STATE_SENSOR_READINGS. -/
  | getStateSensorReadings (tr : Transport) (id : Nat)
  /-- SET_NUMERIC_SENSOR_ENABLE (R515): management request SET_NUMERIC_SENSOR_ENABLE. -/
  | setNumericSensorEnable (tr : Transport) (id : Nat) (en : Byte)
  /-- PLATFORM_EVENT_MESSAGE (R515): management request PLATFORM_EVENT_MESSAGE. -/
  | platformEventMessage (tr : Transport)
  /-- POLL_FOR_PLATFORM_EVENT_MESSAGE (R515): management request POLL_FOR_PLATFORM_EVENT_MESSAGE. -/
  | pollForPlatformEventMessage (tr : Transport)
  /-- EVENT_MESSAGE_BUFFER_SIZE (R515): management request EVENT_MESSAGE_BUFFER_SIZE. -/
  | eventMessageBufferSize (tr : Transport) (n : Nat)
  /-- QUERY_DEVICE_IDENTIFIERS (R516): firmware-update request QUERY_DEVICE_IDENTIFIERS. -/
  | queryDeviceIdentifiers (tr : Transport)
  /-- GET_FIRMWARE_PARAMETERS (R516): firmware-update request GET_FIRMWARE_PARAMETERS. -/
  | getFirmwareParameters (tr : Transport)
  /-- REQUEST_UPDATE (R516): firmware-update request REQUEST_UPDATE. -/
  | requestUpdate (tr : Transport)
  /-- PASS_COMPONENT_TABLE (R516): firmware-update request PASS_COMPONENT_TABLE. -/
  | passComponentTable (tr : Transport)
  /-- UPDATE_COMPONENT (R516): firmware-update request UPDATE_COMPONENT. -/
  | updateComponent (tr : Transport) (size : Nat)
  /-- REQUEST_FIRMWARE_DATA (R516): firmware-update request REQUEST_FIRMWARE_DATA. -/
  | requestFirmwareData (tr : Transport) (last : Bool) (img : Image)
  /-- TRANSFER_COMPLETE (R516): firmware-update request TRANSFER_COMPLETE. -/
  | transferComplete (tr : Transport) (ok : Bool)
  /-- VERIFY_COMPLETE (R516): firmware-update request VERIFY_COMPLETE. -/
  | verifyComplete (tr : Transport)
  /-- APPLY_COMPLETE (R516): firmware-update request APPLY_COMPLETE. -/
  | applyComplete (tr : Transport) (boot : BootEnv)
  /-- ACTIVATE_FIRMWARE (R516): firmware-update request ACTIVATE_FIRMWARE. -/
  | activateFirmware (tr : Transport) (selfContained : Bool) (boot : BootEnv)
  /-- GET_STATUS (R516): firmware-update request GET_STATUS. -/
  | getStatus (tr : Transport)
  /-- CANCEL_UPDATE_COMPONENT (R516): firmware-update request CANCEL_UPDATE_COMPONENT. -/
  | cancelUpdateComponent (tr : Transport)
  /-- CANCEL_UPDATE (R516): firmware-update request CANCEL_UPDATE. -/
  | cancelUpdate (tr : Transport)
  /-- GET_VERSION (R436): SPDM request GET_VERSION. -/
  | getVersion (tr : Transport) (rq : SpdmReq)
  /-- GET_CAPABILITIES (R436): SPDM request GET_CAPABILITIES. -/
  | getCapabilities (tr : Transport) (rq : SpdmReq)
  /-- NEGOTIATE_ALGORITHMS (R436): SPDM request NEGOTIATE_ALGORITHMS. -/
  | negotiateAlgorithms (tr : Transport) (rq : SpdmReq)
  /-- GET_DIGESTS (R436): SPDM request GET_DIGESTS. -/
  | getDigests (tr : Transport) (rq : SpdmReq)
  /-- GET_CERTIFICATE (R435): SPDM request GET_CERTIFICATE. -/
  | getCertificate (tr : Transport) (rq : SpdmReq) (slot : Nat)
  /-- CHALLENGE (R436): SPDM request CHALLENGE. -/
  | challenge (tr : Transport) (rq : SpdmReq)
  /-- GET_MEASUREMENTS (R437): SPDM request GET_MEASUREMENTS. -/
  | getMeasurements (tr : Transport) (rq : SpdmReq) (index : Byte)
  /-- KEY_EXCHANGE (R436): SPDM request KEY_EXCHANGE. -/
  | keyExchange (tr : Transport) (rq : SpdmReq)
  /-- FINISH (R436): SPDM request FINISH. -/
  | finish (tr : Transport) (rq : SpdmReq) (ok : Bool)
  /-- HEARTBEAT (R436): SPDM request HEARTBEAT. -/
  | heartbeat (tr : Transport) (rq : SpdmReq)
  /-- END_SESSION (R436): SPDM request END_SESSION. -/
  | endSession (tr : Transport) (rq : SpdmReq)
  /-- JOB_KEY_SET (R438): vendor request JOB_KEY_SET. -/
  | jobKeySet (tr : Transport) (rq : SpdmReq) (jobId : BitVec 64) (secret : BitVec 256)
  /-- JOB_KEY_CLEAR (R439): vendor request JOB_KEY_CLEAR. -/
  | jobKeyClear (tr : Transport) (rq : SpdmReq)
  /-- JOB_KEY_CLEAR_TAKES_EFFECT (R439): the commands running at the JOB_KEY_CLEAR request have ended. -/
  | jobKeyClearTakesEffect
  /-- LC_ADVANCE (R447): vendor request LC_ADVANCE: target state and owner-key digest; auth: its authorisation, none where its 64 bytes are zero (R444, R445); wipeOk: the wipe of R447 reads back as zero. -/
  | lcAdvance (tr : Transport) (rq : SpdmReq) (target : Byte) (digest : BitVec 256) (auth : Option Auth) (wipeOk : Bool) (boot : BootEnv)
  /-- SVN_COMMIT (R434): vendor request SVN_COMMIT; auth: its owner signature, none where its 64 bytes are zero (R444). -/
  | svnCommit (tr : Transport) (rq : SpdmReq) (floor : BitVec 16) (auth : Option Auth)
  /-- TEST_UNLOCK (R448): vendor request TEST_UNLOCK; auth: its Jokarek token (R445); wipeOk: the wipe reads back as zero. -/
  | testUnlock (tr : Transport) (rq : SpdmReq) (auth : Auth) (wipeOk : Bool)
  /-- LINK_FOLLOWED_TICK (R380): the followed port's gauge advances by one tick. -/
  | linkFollowedTick
  /-- FIRMWARE_WATCHDOG (R396): the watchdog of the module controller runs out; wipeOk: as for TRNG_FAILURE. -/
  | firmwareWatchdog (wipeOk : Bool)
  /-- CORE_WATCHDOG (R396): a watchdog of core c runs out. -/
  | coreWatchdog (c : Fin 16)
  deriving DecidableEq, Repr

end Sys2Proof
end

