-- ==== Sys2Proof/Decode.lean ====
section
/-! DEFINITION. The table gives no row of this hardware any bits: its commands are events and register writes, and none is
spelled by a word of its own. -/
namespace Sys2Proof

/-- The command that a word spells by the table's bits: no row gives any. -/
def decodeTableWord (_nbits _w : Nat) : Option Instr := none

end Sys2Proof
end

