-- ==== Sys2Proof/Machine/Bits.lean ====
section
/-! DEFINITION. Byte-order, bit-field and checksum helpers over plain numbers.
R11 (little-endian), R18 (notation), R483 (CRC-32C), R378 (CRC-16), R327 (CRC-64). -/
namespace Sys2Proof.Machine

/-- `x[lo + w - 1 : lo]` of R18. -/
def bits (x lo w : Nat) : Nat := (x >>> lo) % 2 ^ w

/-- Bit `i` as a Bool. -/
def bitAt (x i : Nat) : Bool := bits x i 1 == 1

/-- A Bool as a bit. -/
def b2n (b : Bool) : Nat := if b then 1 else 0

/-- `x` with its field `[lo + w - 1 : lo]` replaced by the low `w` bits of `v`. -/
def setBits (x lo w v : Nat) : Nat :=
  x - (bits x lo w) * 2 ^ lo + (v % 2 ^ w) * 2 ^ lo

/-- The two's-complement value of the low `w` bits of `n`. -/
def sext (w n : Nat) : Int :=
  let v := n % 2 ^ w
  if v < 2 ^ (w - 1) then (v : Int) else (v : Int) - (2 ^ w : Nat)

/-- The low `w` bits of an integer in two's complement. -/
def twos (w : Nat) (i : Int) : Nat := (i % (2 ^ w : Nat)).toNat

/-- The little-endian number that a byte list holds (R11). -/
def leNat : List Byte → Nat
  | [] => 0
  | b :: bs => b.toNat + 256 * leNat bs

/-- `n` as `k` bytes, least significant first (R11). -/
def leBytes : Nat → Nat → List Byte
  | 0, _ => []
  | k + 1, n => BitVec.ofNat 8 n :: leBytes k (n / 256)

/-- The field `[lo + w - 1 : lo]` of the little-endian word of `n` bytes at byte offset `off` (R17). -/
def fieldAt (bs : List Byte) (off n lo w : Nat) : Nat :=
  bits (leNat ((bs.drop off).take n)) lo w

/-- A byte list cut or zero-padded to `n` bytes. -/
def padTo (n : Nat) (bs : List Byte) : List Byte := bs.take n ++ List.replicate (n - bs.length) 0

/-- One bit-step of a reflected CRC with polynomial `poly`. -/
def crcStepR (poly c : Nat) : Nat := if c % 2 == 1 then (c / 2) ^^^ poly else c / 2

/-- A reflected CRC over bytes. -/
def crcR (poly : Nat) (c : Nat) (bs : List Byte) : Nat :=
  bs.foldl (fun c b => (List.range 8).foldl (fun c _ => crcStepR poly c) (c ^^^ b.toNat)) c

/-- CRC-32C of R483: reflected polynomial 0x82F6_3B78, initial value and final exclusive or 0xFFFF_FFFF. -/
def crc32c (bs : List Byte) : Nat := crcR 0x82F63B78 0xFFFFFFFF bs ^^^ 0xFFFFFFFF

/-- One bit-step of an unreflected CRC of width `w`: the next data bit enters at the top. -/
def crcStepN (w poly c bit : Nat) : Nat :=
  if bits c (w - 1) 1 ^^^ bit == 1 then ((c * 2) % 2 ^ w) ^^^ poly else (c * 2) % 2 ^ w

/-- An unreflected CRC over bits in the order given. -/
def crcN (w poly init : Nat) (bs : List Nat) : Nat := bs.foldl (crcStepN w poly) init

/-- The bits of a byte, most significant first. -/
def byteBitsMsb (b : Byte) : List Nat := (List.range 8).map fun i => bits b.toNat (7 - i) 1

/-- CRC-64 of ECMA-182 with initial value all ones and final inversion (R327). -/
def crc64 (bs : List Byte) : Nat :=
  crcN 64 0x42F0E1EBA9EA3693 0xFFFFFFFFFFFFFFFF (bs.flatMap byteBitsMsb) ^^^ 0xFFFFFFFFFFFFFFFF

/-- CRC-16 of a gauge frame (R378): polynomial 0x1021, initial value 0xFFFF, over the count and the epoch
in the order in which the frame carries their bits, least significant first. -/
def gaugeCrc (count epoch : Nat) : Nat :=
  crcN 16 0x1021 0xFFFF ((List.range 64).map (fun i => bits count i 1) ++ (List.range 32).map (fun i => bits epoch i 1))

/-- `⌈a / b⌉`. -/
def ceilDiv (a b : Nat) : Nat := (a + b - 1) / b

/-- The first index of a list at which `p` holds. -/
def findIdx? {α : Type} (p : α → Bool) : List α → Nat → Option Nat
  | [], _ => none
  | a :: as, i => if p a then some i else findIdx? p as (i + 1)

/-- A list with its element `i` replaced by `f` of it. -/
def updAt {α : Type} (f : α → α) : List α → Nat → List α
  | [], _ => []
  | a :: as, 0 => f a :: as
  | a :: as, i + 1 => a :: updAt f as i

/-- A list in an order that `pick` draws: at each place one of the entries left. -/
def shuffle {α : Type} (pick : Nat → Nat) : Nat → List α → List α
  | 0, _ => []
  | n + 1, l =>
    match l.drop (pick n % (n + 1)) with
    | [] => []
    | x :: r => x :: shuffle pick n (l.take (pick n % (n + 1)) ++ r)

end Sys2Proof.Machine
end

