-- ==== Sys2Proof/Machine/Num.lean ====
section
/-! DEFINITION. Exact real values and the one rounding of R60: magnitudes that are rationals or square
roots of rationals, their comparison, and their rounding onto a binary grid.
R18 (types), R60 (conversions work from the exact value), R69 (stochastic rounding). -/
namespace Sys2Proof.Machine

/-- An exact magnitude: `(num / den) * 2^e`, or its square root when `sq` holds.
Square roots serve LNS4 codes of odd L (R44) and the vector engine's SQRT and RSQRT (R208). -/
structure Mag where
  num : Nat
  den : Nat
  e : Int
  sq : Bool
  deriving DecidableEq, Repr

/-- The dyadic magnitude `m * 2^e`. -/
def Mag.dy (m : Nat) (e : Int) : Mag := ⟨m, 1, e, false⟩

def Mag.zero : Mag := Mag.dy 0 0

def Mag.isZero (x : Mag) : Bool := x.num == 0

/-- An exact value: NaN, an infinity, or a signed magnitude. -/
inductive EVal where
  | nan
  | inf (neg : Bool)
  | fin (neg : Bool) (x : Mag)
  deriving DecidableEq, Repr

/-- `n * 2^k` for `k ≥ 0`, and the floor of it otherwise. -/
def shiftI (n : Nat) (k : Int) : Nat := if 0 ≤ k then n <<< k.toNat else n >>> (-k).toNat

/-- Newton's iteration for the integer square root, from a start at or above it. -/
def isqrtFrom : Nat → Nat → Nat → Nat
  | 0, _, x => x
  | k + 1, n, x => let y := (x + n / x) / 2; if y < x then isqrtFrom k n y else x

/-- The floor of the square root. -/
def isqrt (n : Nat) : Nat := if n == 0 then 0 else isqrtFrom (Nat.log2 n + 2) n (2 ^ (Nat.log2 n / 2 + 1))

/-- `⌊(num / den) * 2^k⌋`. -/
def ratShift (num den : Nat) (k : Int) : Nat :=
  if 0 ≤ k then (num <<< k.toNat) / den else num / (den <<< (-k).toNat)

/-- `⌊x / 2^q⌋`, exact for every magnitude. -/
def Mag.floorAt (x : Mag) (q : Int) : Nat :=
  if x.sq then isqrt (ratShift x.num x.den (x.e - 2 * q)) else ratShift x.num x.den (x.e - q)

/-- `num / den * 2^k = n`, exactly. -/
def ratEqShift (num den : Nat) (k : Int) (n : Nat) : Bool :=
  if 0 ≤ k then num <<< k.toNat == n * den else num == n * (den <<< (-k).toNat)

/-- `x = n * 2^q`, exactly. -/
def Mag.isGrid (x : Mag) (q : Int) (n : Nat) : Bool :=
  if x.sq then ratEqShift x.num x.den (x.e - 2 * q) (n * n) else ratEqShift x.num x.den (x.e - q) n

/-- `⌊log2 (num / den)⌋` for non-zero `num`, `den`. -/
def ratLog2 (num den : Nat) : Int :=
  let l : Int := (Nat.log2 num : Int) - (Nat.log2 den : Int)
  if ratShift num den (-l) == 0 then l - 1 else l

/-- `⌊log2 x⌋` for a non-zero magnitude. -/
def Mag.ilog2 (x : Mag) : Int :=
  let l := ratLog2 x.num x.den + x.e
  if x.sq then l / 2 else l

/-- The square of a magnitude as a rational with a binary exponent. -/
def Mag.square (x : Mag) : Mag :=
  if x.sq then ⟨x.num, x.den, x.e, false⟩ else ⟨x.num * x.num, x.den * x.den, 2 * x.e, false⟩

/-- `a ≤ b` for two magnitudes that are no square roots. -/
def ratLe (a b : Mag) : Bool :=
  let k := a.e - b.e
  if 0 ≤ k then decide ((a.num <<< k.toNat) * b.den ≤ b.num * a.den)
  else decide (a.num * b.den ≤ (b.num <<< (-k).toNat) * a.den)

/-- `a ≤ b`, exactly. -/
def Mag.le (a b : Mag) : Bool :=
  if !a.sq && !b.sq then ratLe a b else ratLe a.square b.square

def Mag.lt (a b : Mag) : Bool := !(b.le a)

def Mag.eqv (a b : Mag) : Bool := a.le b && b.le a

/-- The exact product of a magnitude and a rational with a binary exponent (`s` is no square root). -/
def Mag.mul (a s : Mag) : Mag :=
  if a.sq then ⟨a.num * (s.num * s.num), a.den * (s.den * s.den), a.e + 2 * s.e, true⟩
  else if s.sq then ⟨s.num * (a.num * a.num), s.den * (a.den * a.den), s.e + 2 * a.e, true⟩
  else ⟨a.num * s.num, a.den * s.den, a.e + s.e, false⟩

/-- `x * 2^k`. -/
def Mag.scale2 (x : Mag) (k : Int) : Mag :=
  if x.sq then { x with e := x.e + 2 * k } else { x with e := x.e + k }

/-- The rounding modes: the five of R206, ties toward `+∞` of R53, and stochastic with 16 braid bits (R69). -/
inductive Rnd where
  | rne | rtz | rtp | rtn | rta | tiesUp
  | stoch (r : Nat)
  deriving DecidableEq, Repr

/-- Whether a magnitude truncated at the grid `2^q` to `n` moves up to `n + 1`. `half` is the first bit
below the grid, and `rest` says whether anything lies below that bit. -/
def roundUp (mode : Rnd) (neg : Bool) (x : Mag) (q : Int) (n : Nat) (half rest : Bool) : Bool :=
  match mode with
  | .rne => half && (rest || n % 2 == 1)
  | .rtz => false
  | .rtp => !neg && (half || rest)
  | .rtn => neg && (half || rest)
  | .rta => half
  | .tiesUp => half && (rest || !neg)
  | .stoch r => decide (r < x.floorAt (q - 16) % 65536)

/-- The multiple of `2^q` to which `x` of sign `neg` rounds. -/
def Mag.roundAt (x : Mag) (neg : Bool) (q : Int) (mode : Rnd) : Nat :=
  let f1 := x.floorAt (q - 1)
  let n := f1 / 2
  let half := f1 % 2 == 1
  let rest := !(x.isGrid (q - 1) f1)
  if roundUp mode neg x q n half rest then n + 1 else n

/-- A dyadic magnitude with its trailing zero bits moved into the exponent is not needed anywhere;
sums of dyadics are formed on the lower of the two exponents. -/
def dyAdd (a : Int) (ea : Int) (b : Int) (eb : Int) : Int × Int :=
  if ea ≤ eb then (a + b * (2 ^ (eb - ea).toNat : Nat), ea)
  else (a * (2 ^ (ea - eb).toNat : Nat) + b, eb)

/-- A dyadic integer pair `(i, e)` as an exact value; `zneg` gives the sign of a zero. -/
def EVal.ofDy (i e : Int) (zneg : Bool) : EVal :=
  if i == 0 then .fin zneg Mag.zero else .fin (decide (i < 0)) (Mag.dy i.natAbs e)

def EVal.isNan : EVal → Bool
  | .nan => true
  | _ => false

def EVal.isInf : EVal → Bool
  | .inf _ => true
  | _ => false

def EVal.isFin : EVal → Bool
  | .fin _ _ => true
  | _ => false

def EVal.isZero : EVal → Bool
  | .fin _ x => x.isZero
  | _ => false

/-- The exact product of a value and a finite non-negative factor. -/
def EVal.scale (v : EVal) (s : Mag) : EVal :=
  match v with
  | .fin n x => .fin n (x.mul s)
  | v => v

/-- A finite dyadic value as a signed integer on the exponent it carries. Values that are no dyadics
(LNS4 of odd L) never reach a sum (R170 converts them before the array). -/
def EVal.toDy : EVal → Int × Int
  | .fin n x => (if n then -(x.num : Int) else x.num, x.e)
  | _ => (0, 0)

end Sys2Proof.Machine
end

