-- ==== Sys2Proof/Machine/Formats.lean ====
section
/-! DEFINITION. The sixteen formats of R36 to R52: their codes, widths, values, limits and packing. -/
namespace Sys2Proof.Machine

/-- The format codes of R36. -/
inductive Fmt where
  | fp32 | fp64 | bf16 | fp16 | e4m3 | e5m2 | e2m1 | lns4 | k4 | int4 | int8 | int16 | int32 | ternary | binary | rem16
  deriving DecidableEq, Repr

/-- The 5-bit code of a format (R36). -/
def fmtCode : Fmt → Nat
  | .fp32 => 0x00 | .fp64 => 0x01 | .bf16 => 0x02 | .fp16 => 0x03 | .e4m3 => 0x04 | .e5m2 => 0x05
  | .e2m1 => 0x06 | .lns4 => 0x07 | .k4 => 0x08 | .int4 => 0x09 | .int8 => 0x0A | .int16 => 0x0B
  | .int32 => 0x0C | .ternary => 0x0D | .binary => 0x0E | .rem16 => 0x0F

/-- The format of a code; none for the reserved codes 0x10 to 0x1F (R36). -/
def fmtOfCode : Nat → Option Fmt
  | 0x00 => some .fp32 | 0x01 => some .fp64 | 0x02 => some .bf16 | 0x03 => some .fp16
  | 0x04 => some .e4m3 | 0x05 => some .e5m2 | 0x06 => some .e2m1 | 0x07 => some .lns4
  | 0x08 => some .k4 | 0x09 => some .int4 | 0x0A => some .int8 | 0x0B => some .int16
  | 0x0C => some .int32 | 0x0D => some .ternary | 0x0E => some .binary | 0x0F => some .rem16
  | _ => none

/-- Element width in bits (R36). -/
def fmtWidth : Fmt → Nat
  | .fp32 => 32 | .fp64 => 64 | .bf16 => 16 | .fp16 => 16 | .e4m3 => 8 | .e5m2 => 8 | .e2m1 => 4 | .lns4 => 4
  | .k4 => 4 | .int4 => 4 | .int8 => 8 | .int16 => 16 | .int32 => 32 | .ternary => 2 | .binary => 1 | .rem16 => 16

/-- The lowest rung at which the splice array accepts the format as an operand (R36); none where it never does. -/
def fmtArrayRung : Fmt → Option Nat
  | .fp32 => some 4 | .fp64 => none | .bf16 => some 2 | .fp16 => some 3 | .e4m3 => some 1 | .e5m2 => some 1
  | .e2m1 => some 0 | .lns4 => some 0 | .k4 => some 1 | .int4 => some 1 | .int8 => some 2 | .int16 => some 3
  | .int32 => none | .ternary => some 0 | .binary => some 0 | .rem16 => none

/-- Exponent width, fraction width and bias of a floating-point format (R38, R42, R43, R44). -/
structure FpParam where
  w : Nat
  m : Nat
  bias : Nat
  deriving DecidableEq, Repr

def fpParam : Fmt → Option FpParam
  | .fp64 => some ⟨11, 52, 1023⟩
  | .fp32 => some ⟨8, 23, 127⟩
  | .bf16 => some ⟨8, 7, 127⟩
  | .fp16 => some ⟨5, 10, 15⟩
  | .e4m3 => some ⟨4, 3, 7⟩
  | .e5m2 => some ⟨5, 2, 15⟩
  | .e2m1 => some ⟨2, 1, 1⟩
  | _ => none

/-- Whether exponent field all ones stands for infinities and NaN (R38, R43); E4M3 and E2M1 have no infinity. -/
def fmtHasInf : Fmt → Bool
  | .fp64 | .fp32 | .bf16 | .fp16 | .e5m2 => true
  | _ => false

/-- The IEEE formats, which always overflow to infinity (R62). -/
def fmtIsIeee : Fmt → Bool
  | .fp64 | .fp32 | .bf16 | .fp16 => true
  | _ => false

/-- The integer class of R79. -/
def fmtIsInt : Fmt → Bool
  | .int4 | .int8 | .int16 | .ternary | .binary => true
  | _ => false

/-- Formats that may carry MX block scales (R58). -/
def fmtIsMx : Fmt → Bool
  | .e4m3 | .e5m2 | .e2m1 => true
  | _ => false

/-- The canonical NaN of a format (R38, R42, R43); 0 where the format has no NaN. -/
def fmtNan : Fmt → Nat
  | .fp64 => 0x7FF8000000000000 | .fp32 => 0x7FC00000 | .bf16 => 0x7FC0 | .fp16 => 0x7E00
  | .e4m3 => 0x7F | .e5m2 => 0x7E | _ => 0

/-- An element split under R79: class (0 finite, 1 NaN, 2 infinity), sign, significand and exponent. -/
structure Split where
  cl : Nat
  sg : Bool
  sig : Nat
  e : Int
  deriving DecidableEq, Repr

def Split.zero : Split := ⟨0, false, 0, 0⟩

/-- The split of a floating-point code (R38, R42, R43, R44, R79). -/
def splitFp (f : Fmt) (p : FpParam) (x : Nat) : Split :=
  let sg := bitAt x (p.w + p.m)
  let ex := bits x p.m p.w
  let fr := bits x 0 p.m
  if fmtHasInf f && ex == 2 ^ p.w - 1 then (if fr == 0 then ⟨2, sg, 0, 0⟩ else ⟨1, sg, 0, 0⟩)
  else if f == .e4m3 && ex == 15 && fr == 7 then ⟨1, sg, 0, 0⟩
  else if ex == 0 then ⟨0, sg, fr, 1 - (p.bias : Int) - p.m⟩
  else ⟨0, sg, 2 ^ p.m + fr, (ex : Int) - p.bias - p.m⟩

/-- The signed value of an integer-class code (R48, R49). TERNARY 0b10 reads as 0; BINARY 0 is −1. -/
def intOfCode (f : Fmt) (x : Nat) : Int :=
  match f with
  | .int4 => sext 4 x
  | .int8 => sext 8 x
  | .int16 => sext 16 x
  | .int32 => sext 32 x
  | .rem16 => sext 16 x
  | .ternary => match x % 4 with
    | 1 => 1
    | 3 => -1
    | _ => 0
  | .binary => if x % 2 == 1 then 1 else -1
  | _ => 0

/-- The E4M3 code behind a K4 index: entry `c` of the bight's codebook, a NaN entry read as 0x00 (R46, R47, R123). -/
def k4Entry (cb : List Nat) (c : Nat) : Nat :=
  let x := cb.getD (c % 16) 0
  if x == 0x7F || x == 0xFF then 0 else x

/-- The split of a stored element for the array (R79, R112). LNS4 has no split of its own. -/
def splitElem (f : Fmt) (cb : List Nat) (x : Nat) : Split :=
  match f with
  | .k4 => splitFp .e4m3 ⟨4, 3, 7⟩ (k4Entry cb x)
  | .lns4 => Split.zero
  | f =>
    match fpParam f with
    | some p => splitFp f p x
    | none => let v := intOfCode f x; ⟨0, decide (v < 0), v.natAbs, 0⟩

/-- The value of a split. -/
def Split.val (s : Split) : EVal :=
  match s.cl with
  | 0 => .fin s.sg (Mag.dy s.sig s.e)
  | 1 => .nan
  | _ => .inf s.sg

/-- The magnitude of a non-zero LNS4 code, 2^((L − 4) / 2) (R44). -/
def lnsMag (l : Nat) : Mag := ⟨1, 1, (l : Int) - 4, true⟩

/-- The exact value of a stored element (R38 to R49). LNS4 code 0x8 reads as +0 (R45). -/
def elemVal (f : Fmt) (cb : List Nat) (x : Nat) : EVal :=
  match f with
  | .lns4 =>
    let l := x % 8
    if l == 0 then .fin false Mag.zero
    else if l % 2 == 0 then .fin (bitAt x 3) (Mag.dy 1 (((l : Int) - 4) / 2)) else .fin (bitAt x 3) (lnsMag l)
  | f => (splitElem f cb x).val

/-- The largest finite magnitude of a floating-point format as an integer on a grid (R38, R42 to R44). -/
def fmtMax : Fmt → Mag
  | .e4m3 => Mag.dy 7 6
  | .e2m1 => Mag.dy 3 1
  | .int4 => Mag.dy 7 0
  | .int8 => Mag.dy 127 0
  | .int16 => Mag.dy 32767 0
  | .int32 => Mag.dy 0x7FFFFFFF 0
  | f =>
    match fpParam f with
    | some p => Mag.dy (2 ^ (p.m + 1) - 1) ((p.bias : Int) - p.m)
    | none => Mag.zero

/-- The code of `(−1)^neg * n * 2^q`, for `n` on the grid of its binade (at most 2^(M+1)). -/
def fpEncode (p : FpParam) (neg : Bool) (n : Nat) (q : Int) : Nat :=
  let mag := ((q + p.bias + p.m - 1).toNat) * 2 ^ p.m + n
  b2n neg * 2 ^ (p.w + p.m) + (if n == 0 then 0 else mag)

/-- The grid exponent of `x` in a format: its binade's ulp, no finer than the subnormal grid. -/
def fpGrid (p : FpParam) (x : Mag) : Int :=
  if x.isZero then 1 - (p.bias : Int) - p.m
  else max (x.ilog2 - p.m) (1 - (p.bias : Int) - p.m)

/-- ±infinity of a format that has it. -/
def fpInf (p : FpParam) (neg : Bool) : Nat := b2n neg * 2 ^ (p.w + p.m) + (2 ^ p.w - 1) * 2 ^ p.m

/-- Element `i` of packed data under R50, from the bytes it lies in. -/
def unpackAt (w : Nat) (get : Nat → Byte) (i : Nat) : Nat :=
  if w < 8 then bits (get (i * w / 8)).toNat (i * w % 8) w
  else leNat ((List.range (w / 8)).map fun b => get (i * (w / 8) + b))

/-- A list of element codes packed under R50. The bits of the last byte beyond the last element are written as zero: a DESIGN CHOICE (log
entry 47), since the spec does not say whether a write leaves them as they were. -/
def packElems (w : Nat) (xs : List Nat) : List Byte :=
  if w < 8 then leBytes (ceilDiv (xs.length * w) 8) (xs.foldr (fun x acc => x % 2 ^ w + acc * 2 ^ w) 0)
  else xs.flatMap (leBytes (w / 8))

end Sys2Proof.Machine
end

