-- ==== Sys2Proof/Machine/Convert.lean ====
section
/-! DEFINITION. Conversion of one exact value into a format (R60 to R69), the MX block rule (R59),
the REM16 split (R51 to R53) and the braid generator (R73). -/
namespace Sys2Proof.Machine

/-- The four conversion events of R61. -/
structure ConvEv where
  nx : Bool
  ovf : Bool
  ufl : Bool
  inv : Bool
  deriving DecidableEq, Repr

def ConvEv.none : ConvEv := ⟨false, false, false, false⟩
def ConvEv.invOnly : ConvEv := ⟨false, false, false, true⟩

/-- Round `x` into a floating-point format and raise the events of R61; overflow takes the result of R62. -/
def convFp (f : Fmt) (p : FpParam) (mode : Rnd) (nonSat neg : Bool) (x : Mag) : Nat × ConvEv :=
  let q := fpGrid p x
  let n := x.roundAt neg q mode
  let exact := x.isGrid q n
  if !((Mag.dy n q).le (fmtMax f)) then
    let r := if fmtIsIeee f then fpInf p neg
      else match f, nonSat with
        | .e4m3, true => 0x7F
        | .e5m2, true => fpInf p neg
        | .e4m3, false => b2n neg * 128 + 0x7E
        | .e5m2, false => b2n neg * 128 + 0x7B
        | _, _ => b2n neg * 8 + 7
    (r, ⟨true, true, false, false⟩)
  else (fpEncode p neg n q, ⟨!exact, false, n == 0 && !x.isZero, false⟩)

/-- Conversion to LNS4 (R64), on the binary exponent and the top eight fraction bits of `x`. -/
def convLns (neg : Bool) (x : Mag) : Nat × ConvEv :=
  if x.isZero then (0, ConvEv.none)
  else
    let e := x.ilog2
    let t := x.floorAt (e - 8) - 256
    let h : Int := if t < 0x30 then 0 else if t < 0xAF then 1 else 2
    let l := 2 * e + h + 4
    if l ≤ 0 then (0, ⟨true, false, true, false⟩)
    else if 8 ≤ l then (b2n neg * 8 + 7, ⟨true, true, false, false⟩)
    else (b2n neg * 8 + l.toNat, ⟨!(x.eqv (lnsMag l.toNat)), false, false, false⟩)

/-- Whether `(−1)^neg * x` is below, equal to or above the dyadic `i * 2^e` (−1, 0, 1). -/
def cmpDy (neg : Bool) (x : Mag) (i e : Int) : Int :=
  let m := Mag.dy i.natAbs e
  if x.isZero && i == 0 then 0
  else if i < 0 then
    if !neg || x.isZero then 1 else if x.eqv m then 0 else if x.lt m then 1 else -1
  else
    if neg && !x.isZero then -1 else if x.eqv m then 0 else if x.lt m then -1 else 1

/-- The signed dyadic of a codebook entry. -/
def k4Dy (cb : List Nat) (c : Nat) : Int × Int := (splitElem .k4 cb c).val.toDy

/-- Whether entry `c` is strictly nearer to the value than entry `b` (R65): compared with their midpoint. -/
def k4Nearer (cb : List Nat) (neg : Bool) (x : Mag) (b c : Nat) : Bool :=
  let vb := k4Dy cb b
  let vc := k4Dy cb c
  let s := dyAdd vb.1 vb.2 vc.1 vc.2
  let d := dyAdd vc.1 vc.2 (-vb.1) vb.2
  let r := cmpDy neg x s.1 (s.2 - 1)
  if 0 < d.1 then r == 1 else if d.1 < 0 then r == -1 else false

/-- The index that wins a left-to-right contest over the sixteen entries; a tie keeps the lower index. -/
def k4Best (better : Nat → Nat → Bool) : Nat :=
  (List.range 15).foldl (fun b i => if better b (i + 1) then i + 1 else b) 0

/-- Whether entry `c` has strictly smaller magnitude than entry `b`. -/
def k4Smaller (cb : List Nat) (b c : Nat) : Bool :=
  let vb := k4Dy cb b
  let vc := k4Dy cb c
  (Mag.dy vc.1.natAbs vc.2).lt (Mag.dy vb.1.natAbs vb.2)

/-- Whether entry `c` lies strictly further in the direction of an infinity of sign `neg` than entry `b`. -/
def k4Further (cb : List Nat) (neg : Bool) (b c : Nat) : Bool :=
  let vb := k4Dy cb b
  let vc := k4Dy cb c
  let d := dyAdd vc.1 vc.2 (-vb.1) vb.2
  if neg then decide (d.1 < 0) else decide (0 < d.1)

/-- Conversion of a value to K4 (R63, R65). A NaN takes the entry of least magnitude, and of two such entries the one of the lower index: a
DESIGN CHOICE (log entry 47), since R65 states its tie rule for distances alone. -/
def convK4 (cb : List Nat) (v : EVal) : Nat × ConvEv :=
  match v with
  | .nan => (k4Best (k4Smaller cb), ConvEv.invOnly)
  | .inf neg => (k4Best (k4Further cb neg), ConvEv.invOnly)
  | .fin neg x =>
    let c := k4Best (k4Nearer cb neg x)
    let d := k4Dy cb c
    (c, ⟨cmpDy neg x d.1 d.2 != 0, false, false, false⟩)

/-- Conversion to a two's-complement integer of width `w` (R67): rounded, then saturated with OVF. -/
def convInt (w : Nat) (mode : Rnd) (neg : Bool) (x : Mag) : Nat × ConvEv :=
  let n := x.roundAt neg 0 mode
  let v : Int := if neg then -(n : Int) else n
  let hi : Int := (2 ^ (w - 1) : Nat) - 1
  let lo : Int := -(2 ^ (w - 1) : Nat)
  if hi < v then (twos w hi, ⟨true, true, false, false⟩)
  else if v < lo then (twos w lo, ⟨true, true, false, false⟩)
  else (twos w v, ⟨!(x.isGrid 0 n), false, n == 0 && !x.isZero, false⟩)

/-- Conversion to TERNARY: RNE clamped to ±1 (R66). -/
def convTernary (neg : Bool) (x : Mag) : Nat × ConvEv :=
  let n := min (x.roundAt neg 0 .rne) 1
  (if n == 0 then 0 else if neg then 3 else 1, ⟨!(x.isGrid 0 n), false, false, false⟩)

/-- Conversion to BINARY: +1 for y ≥ +0, −1 for y ≤ −0 (R66). -/
def convBinary (neg : Bool) (x : Mag) : Nat × ConvEv :=
  (if neg then 0 else 1, ⟨!(x.isGrid 0 1), false, false, false⟩)

/-- The width of a two's-complement target. -/
def intWidth : Fmt → Nat
  | .int4 => 4 | .int8 => 8 | .int16 => 16 | _ => 32

/-- One conversion of an exact scaled value into a format (R60 to R69). `cb` is the bight's codebook of a
K4 target. RND does not reach LNS4, K4, TERNARY and BINARY targets (R64 to R66). -/
def convertTo (f : Fmt) (cb : List Nat) (mode : Rnd) (nonSat : Bool) (v : EVal) : Nat × ConvEv :=
  match f with
  | .k4 => convK4 cb v
  | .lns4 =>
    match v with
    | .nan => (0, ConvEv.invOnly)
    | .inf neg => (b2n neg * 8 + 7, ConvEv.invOnly)
    | .fin neg x => convLns neg x
  | .ternary =>
    match v with
    | .nan => (0, ConvEv.invOnly)
    | .inf neg => (if neg then 3 else 1, ConvEv.invOnly)
    | .fin neg x => convTernary neg x
  | .binary =>
    match v with
    | .nan => (1, ConvEv.invOnly)
    | .inf neg => (if neg then 0 else 1, ConvEv.invOnly)
    | .fin neg x => convBinary neg x
  | f =>
    match fpParam f with
    | some p =>
      match v with
      | .nan => (fmtNan f, ConvEv.invOnly)
      | .inf neg =>
        if fmtIsIeee f then (fpInf p neg, ConvEv.none)
        else match f, nonSat with
          | .e4m3, true => (0x7F, ConvEv.invOnly)
          | .e5m2, true => (fpInf p neg, ConvEv.none)
          | .e4m3, false => (b2n neg * 128 + 0x7E, ConvEv.invOnly)
          | .e5m2, false => (b2n neg * 128 + 0x7B, ConvEv.invOnly)
          | _, _ => (b2n neg * 8 + 7, ConvEv.invOnly)
      | .fin neg x => convFp f p mode nonSat neg x
    | none =>
      match v with
      | .nan => (0, ConvEv.invOnly)
      | .inf neg =>
        let w := intWidth f
        (if neg then 2 ^ (w - 1) else 2 ^ (w - 1) - 1, ConvEv.invOnly)
      | .fin neg x => convInt (intWidth f) mode neg x

/-- The magnitude of a value; none for NaN and infinities. -/
def EVal.magF : EVal → Option Mag
  | .fin _ x => some x
  | _ => none

/-- The larger of two magnitudes. -/
def Mag.maxOf (a b : Mag) : Mag := if a.le b then b else a

/-- The largest magnitude of the finite elements (R59, R174). -/
def amaxOf (vs : List EVal) : Mag :=
  vs.foldl (fun a v => match v with
    | .fin _ x => a.maxOf x
    | _ => a) Mag.zero

/-- `emax_F` of R59. -/
def mxEmax : Fmt → Int
  | .e4m3 => 8
  | .e5m2 => 15
  | _ => 2

/-- The block exponent E of R59, steps 1 to 4. -/
def mxExp (f : Fmt) (amax : Mag) : Int :=
  if amax.isZero then -127
  else
    let e := amax.ilog2 - mxEmax f
    let e := if (amax.scale2 (-e)).le (fmtMax f) then e else e + 1
    max (-127) (min 127 e)

/-- An output MX block (R59): its E8M0 scale code, and the factor 2^−E, or none when the block holds a NaN or
an infinity, in which case every element is written as the canonical NaN, or 0x0 for E2M1, with INV. -/
def mxBlock (f : Fmt) (vs : List EVal) : Nat × Option Int :=
  if vs.any (fun v => !v.isFin) then (0xFF, none)
  else let e := mxExp f (amaxOf vs); ((e + 127).toNat, some e)

/-- The value of an E8M0 code (R58); none for 0xFF, which reads as NaN (R59). -/
def e8m0 (c : Nat) : Option Int := if c % 256 == 255 then none else some ((c % 256 : Nat) - 127)

/-- The exponent of ulp(p) of a stored parameter (R51). -/
def ulpExp (p : FpParam) (x : Nat) : Int :=
  let ex := bits x p.m p.w
  (if ex == 0 then 1 else (ex : Int)) - p.bias - p.m

/-- The exact signed integer pair of a pair (p, r) (R52): `p + r * 2^−16 * ulp(p)`; none where p is infinite or NaN. -/
def remPair (f : Fmt) (x : Nat) (r : Int) : Option (Int × Int) :=
  match fpParam f with
  | none => none
  | some p =>
    let s := splitFp f p x
    if s.cl != 0 then none
    else
      let u := ulpExp p x
      some (dyAdd (if s.sg then -(s.sig : Int) else s.sig) s.e r (u - 16))

/-- Sum of a signed magnitude and a dyadic, for dyadic magnitudes. -/
def subDy (neg : Bool) (x : Mag) (i e : Int) : Int × Int :=
  dyAdd (if neg then -(x.num : Int) else x.num) x.e (-i) e

/-- The REM16 split of R53 of an exact dyadic value: the stored parameter, the remainder and the events of R217. -/
def remSplit (f : Fmt) (nonSat : Bool) (v : EVal) : Nat × Nat × ConvEv :=
  match fpParam f, v with
  | some p, .fin neg x =>
    let c := convFp f p .tiesUp nonSat neg x
    if c.2.ovf then (c.1, 0, c.2)
    else
      let s := splitFp f p c.1
      let d := subDy neg x (if s.sg then -(s.sig : Int) else s.sig) s.e
      let u := ulpExp p c.1
      let rq := (Mag.dy d.1.natAbs d.2).roundAt (decide (d.1 < 0)) (u - 16) .rne
      let ri : Int := if d.1 < 0 then -(rq : Int) else rq
      let r := max (-0x8000) (min 0x7FFF ri)
      let pr := (remPair f c.1 r).getD (0, 0)
      let diff := subDy neg x pr.1 pr.2
      (c.1, twos 16 r, ⟨diff.1 != 0, false, pr.1 == 0 && !x.isZero, false⟩)
  | _, v => let c := convertTo f [] .tiesUp nonSat v; (c.1, 0, c.2)

/-- `rotl` on 64 bits (R18). -/
def rotl64 (x k : Nat) : Nat := ((x <<< (k % 64)) % 2 ^ 64) ||| (x >>> (64 - k % 64))

/-- The braid generator of R73. -/
def braid16 (seed step layer op role index : Nat) : Nat :=
  let c := 0x6A5D39C1E2B48F07
  let key := fun i => rotl64 seed (16 * i) ^^^ c
  let a0 := ((step % 2 ^ 32) <<< 32) ||| ((layer % 2 ^ 24) <<< 8) ||| (role % 256)
  let b0 := ((op % 65536) <<< 48) ||| bits index 2 48
  let round := fun (s : Nat × Nat) (ir : Nat × Nat) =>
    let a := (s.1 + s.2) % 2 ^ 64
    let b := rotl64 s.2 ir.2 ^^^ a
    let a := (rotl64 a 32 + key ir.1) % 2 ^ 64
    (a, b)
  let s := [(0, 20), (1, 44), (2, 28), (3, 12)].foldl round (a0, b0)
  bits (s.1 ^^^ s.2) (16 * (index % 4)) 16

end Sys2Proof.Machine
end

