-- ==== Sys2Proof/Config.lean ====
section
/-! DEFINITION. The free values: what the spec leaves open where the machine goes on. Each is an opaque constant
applied to the state's counter `fresh` (log entry 14), or to the operands it depends on; nothing is known of its values. -/
namespace Sys2Proof

/-- A byte of a destination whose content the spec leaves unspecified (R369, R375), at one device address. -/
opaque Config.freeByte : Nat → Nat → Byte

/-- A natural number the spec leaves open: where a HALT catches a command (R384), the arrival order of the atomics of an
FADD MOVE (R262), the lanes a port uses where more are locked (R319), cycle counts, a key or a key identity that the security
block makes (R427, R438). -/
opaque Config.freeNat : Nat → Nat

/-- Cycles, or events whose number is a matter of time, that a counter of a core gathers in one unit of the state's counter `fresh`
(R454, R458), from the value of `fresh` and the counter. -/
opaque Config.freeTicks : Nat → Nat → Nat

/-- CONFIG of an array instruction (R92, R466), whose fields the spec names and does not place: path, rung, format codes, group code. -/
opaque Config.arrayConfig : Nat → Nat → Nat → Nat → Nat → Nat

/-- The scale exponent of a managed output whose format R172 gives no maximum (log entry 22), from the format code,
the history maximum and the headroom. -/
opaque Config.freeExp : Nat → Nat → Nat → Nat

/-- The engine to which a logical tile of a command is dealt (R28), from the value of `fresh` and the tile. -/
opaque Config.freeEngine : Nat → Nat → Nat

/-- A byte of engine scratch after firmware has staged data there (R255), from its generation, engine and offset. -/
opaque Config.freeScratch : Nat → Nat → Nat → Byte

/-- What a boot finds where a command brings no outcome of it: a GLB_RST written by SU_WRITE (log entry 30). -/
opaque Config.freeBoot : Nat → Option BootEnv

/-- Whether OVF_MODE reaches a finite value of a LAYER output too (R62): R176 gives it the saturated value, R62 the value of the mode (log
entry 47). -/
opaque Config.outOvfMode : Bool

/-- SM3 (R322, R324, R437), which the spec names and its standard defines: a digest as a number of 256 bits. -/
opaque Config.sm3 : List Byte → Nat

/-- The key derivation function of R424: the first `k` bits that it returns. -/
opaque Config.kdf : List Byte → Nat → Nat

/-- The PUF key P that the helper data recovers from the response (R425). -/
opaque Config.pufKey : BitVec 256 → BitVec 256 → Nat

/-- The order of the SM2 recommended curve (R425). -/
opaque Config.sm2Order : Nat

/-- The public key of an SM2 private key (R322, R425). -/
opaque Config.sm2Public : Nat → Nat

/-- An SM2 signature (r, s) under a private key over a digest, made with a value that the TRNG gives (R322, R437). -/
opaque Config.sm2Sign : Nat → Nat → Nat → Nat

/-- The optional confirmation value of the SM2 key exchange (R322): from the identity key, the ephemeral key and the messages so far. -/
opaque Config.sm2Confirm : Nat → Nat → List Byte → Nat

/-- SM4-GCM under a key and IV, over additional data and plaintext: ciphertext and tag as one number (R325). -/
opaque Config.sm4Gcm : Nat → Nat → List Byte → List Byte → Nat

/-- An SM4-GMAC tag under a key and IV (R325). -/
opaque Config.sm4Gmac : Nat → Nat → List Byte → Nat

/-- The 8 parity bytes of an RS(136, 128) codeword (R326), whose generator the spec does not give. -/
opaque Config.rsParity : List Byte → Nat

/-- The findings of a read where a command brings none: a table that SU_WRITE makes the module read (log entry 30). -/
opaque Config.freeFindings : Nat → List Finding

end Sys2Proof
end

