-- ==== Sys2Proof/Machine/Defaults.lean ====
section
/-! DEFINITION. What the reset state holds beyond zeros: the default eddy table (R116), and the identity key of a module (R425). -/
namespace Sys2Proof.Machine

/-- The default eddy table of R116. -/
def eddyDefault : List Byte :=
  [0x3C, 0x35, 0x2E, 0x28, 0x23, 0x1E, 0x1A, 0x16, 0x13, 0x10, 0x0E, 0x0C, 0x0A, 0x08, 0x07, 0x06] ++
  [0x05, 0x04, 0x04, 0x03, 0x03, 0x02, 0x02, 0x02, 0x01, 0x01, 0x01, 0x01, 0x01, 0x01, 0x00, 0x00]

/-- An ASCII label, with no terminator (R424). -/
def ascii (l : String) : List Byte := l.toList.map fun c => BitVec.ofNat 8 c.toNat

/-- The identity private key d: P of the PUF and its helper data, DRS of P and the device secret, then d (R425, steps 1 to 3). -/
def identityOf (puf helper secret : BitVec 256) : Nat :=
  let drs := Config.kdf (leBytes 32 (Config.pufKey puf helper) ++ leBytes 32 secret.toNat) 256
  1 + Config.kdf (leBytes 32 drs ++ ascii "T96 IDENTITY") 384 % (Config.sm2Order - 2)

end Sys2Proof.Machine
end

