-- ==== Sys2Proof/Machine/State.lean ====
section
/-! DEFINITION. The state of the block as plain data, and its state at reset.
Registers of classes SU and W1C are held in one file keyed by BAR0 offset (`regs`, R475); every other piece of state
has one home below, and the MR images of registers are computed from it. -/
namespace Sys2Proof.Machine

/-! ### Queues (R350 to R377) -/

/-- QUE_Qn_STAT.STATE (R389). -/
inductive QState where
  | disabled | running | stopped | halted
  deriving DecidableEq, Repr

/-- What a held write does: stores its bytes, writes its lines poisoned (R251), or leaves unspecified bytes (R375). -/
inductive WKind where
  | data | poison | free
  deriving DecidableEq, Repr

/-- A write to device addresses that becomes visible at a command's completion (R369). -/
structure MemWrite where
  addr : Nat
  bytes : List Byte
  kind : WKind
  deriving DecidableEq, Repr

/-- One contribution taken by a window (R286, R300): the rank, and whether a backup sent it. -/
structure Taken where
  rank : Nat
  backup : Bool
  deriving DecidableEq, Repr

/-- One element of an open window (R285): the 320-bit accumulator and its flags. -/
structure AccEl where
  acc : BitVec 320
  fnan : Bool
  fpinf : Bool
  fninf : Bool
  allneg0 : Bool
  nanrank : Nat
  deriving DecidableEq, Repr

/-- A rank that became late at a window (R299), with the gauge count at which it did and whether its backup was granted. -/
structure LateRank where
  rank : Nat
  since : Nat
  granted : Bool
  deriving DecidableEq, Repr

/-- A window that a confluence unit holds for a home (R285, R292, R293): its index in the shard, whether it took a shared
place of the unit, its accumulators, the payloads of a STAT window, the copies taken and the late ranks. -/
structure Window where
  w : Nat
  shared : Bool
  els : List AccEl
  recs : List (List Byte)
  taken : List Taken
  late : List LateRank
  poison : Bool
  deriving DecidableEq, Repr

/-- The fields of a DONE (R294). -/
structure DoneMsg where
  rank : Nat
  nan : Nat
  ovf : Nat
  nanrank : Nat
  poison : Bool
  deriving DecidableEq, Repr

/-- A copy's PAY_CRC kept for the comparison of R302. -/
structure CopyCrc where
  w : Nat
  rank : Nat
  backup : Bool
  crc : Nat
  deriving DecidableEq, Repr

/-- A REDUCE that runs (R281 to R308), with its fields after clamps, its group's parameters at its start, and its progress. -/
structure Reduce where
  group : Nat
  scatter : Bool
  elem : Nat
  bucket : Nat
  count : Nat
  step : Nat
  src : Nat
  srcFmt : Nat
  scaleExp : Int
  dst : Nat
  dstFmt : Nat
  dstRnd : Nat
  dstNonSat : Bool
  dstRole : Nat
  dstQ : Nat
  rstride : Nat
  indexBase : Nat
  guardPtr : Nat
  deadline : Nat
  warm : Bool
  bf16 : Bool
  /-- the scale record of SRC or of DST cannot be used (R519) -/
  srcPoison : Bool
  dstPoison : Bool
  /-- a write to DST or to the guard word was refused (R519) -/
  refused : Bool
  nextW : Nat
  windows : List Window
  crcs : List CopyCrc
  homeNan : Nat
  homeOvf : Nat
  homeNanrank : Nat
  homePoison : Bool
  /-- the lowest window handled poisoned here (R309) -/
  badWindow : Option Nat
  homeDone : Bool
  /-- ranks with a SUBST event in this bucket -/
  subst : List Nat
  /-- ranks late anywhere in this bucket, granted in every window opened later (R300) -/
  late : List LateRank
  mismatch : Bool
  /-- RESULT windows received: home rank and window -/
  results : List (Nat × Nat)
  dones : List DoneMsg
  /-- homes whose route was lost, with the gauge count (R407) -/
  lost : List (Nat × Nat)
  deriving DecidableEq, Repr

/-- What a running command still has to do before it can complete. -/
inductive Work where
  /-- nothing but its completion -/
  | plain
  /-- FENCE: the descriptors waited for (R372) -/
  | fence (waits : List (Nat × Nat))
  /-- WAIT_GAUGE: the tick (R382) -/
  | waitGauge (tick : Nat)
  /-- SNAP: destination, selection, tick, and whether a gauge jump passed the tick (R459, R460) -/
  | snap (dst select tick : Nat) (jumped : Bool)
  /-- SIGNAL: counter, SET and VALUE (R367) -/
  | signal (token : Nat) (set : Bool) (value : BitVec 32)
  /-- PROGRAM_LOAD: slot and image as read (R210) -/
  | program (slot : Nat) (image : List Byte)
  /-- EDDY: table and image as read (R135) -/
  | eddy (et : Nat) (image : List Byte)
  /-- UPDATE: bound slot, none where it binds none (R225), NORM_PTR write, outputs of the blocks with which of them were kept, writes of the chunks in
  order with the IEEE flags of each, elements guarded, and whether the guard tripped (R211 to R227) -/
  | update (slot : Option Nat) (norm : List MemWrite) (blocks : List (List MemWrite × Bool)) (chunks : List (List MemWrite × Nat))
      (guarded : Nat) (tripped : Bool)
  /-- a REDUCE -/
  | reduce (r : Reduce)
  /-- a REDUCE that has ended, with the STATUS of its record, which waits for an event record to be held (R354) -/
  | ended (r : Reduce) (status : Nat)
  /-- a LAYER descriptor of an uncommitted run -/
  | layer
  deriving DecidableEq, Repr

/-- A running command: a descriptor that has started and whose completion record is not yet written. -/
structure Cmd where
  /-- ring index (R351) -/
  idx : BitVec 32
  /-- the 128 bytes of the descriptor as read -/
  desc : List Byte
  /-- KIND of its completion record -/
  kind : Nat
  /-- STATUS of its completion record so far: 0 DONE; 1 CONTAINED -/
  status : Nat
  clamped : Bool
  /-- cores that hold its work (log entry 23) -/
  cores : Nat
  /-- the 16 RESULT bytes (R374) -/
  result : List Byte
  /-- writes that become visible at completion -/
  writes : List MemWrite
  /-- destination ranges, whose content is unspecified when the command is stopped (R375) -/
  dests : List (Nat × Nat)
  work : Work
  deriving DecidableEq, Repr

/-- What one operator of a run yielded in its last attempt: the marking events and the fields of a REPLAY record (R182,
R187), and the formats that fix the rung of R86. -/
structure OpEv where
  convS : Nat
  convW : Nat
  accF : Nat
  accI : Nat
  bso : Nat
  lowTile : Nat
  amaxS : Nat
  amaxW : Nat
  expS : Int
  expW : Int
  rung : Nat
  deriving DecidableEq, Repr

/-- A failed check counted for one engine in one command (R137, R400): `mismatch` or a parity error. -/
structure EngErr where
  e : Nat
  mismatch : Bool
  count : Nat
  deriving DecidableEq, Repr

/-- An operator of a run that has started (R165): its descriptor, the scale data and eddy table it read or bound at its
start (R57, R134), what its last attempt yielded, the sounding records to be written at commit (R186), and a managed
scale record (R176). -/
structure OpRec where
  desc : List Byte
  sa : List Byte
  sb : List Byte
  sc : List Byte
  eddy : List Byte
  ev : OpEv
  recs : List (List Byte)
  managed : Option Int
  errs : List EngErr
  /-- engines and ARR_ACCSTAT flags already set for this command (R163) -/
  flagged : List (Nat × Nat)
  /-- an INT32 value was converted (R155, R374) -/
  conv : Bool
  /-- PRC_RPLSTAT.REPLAY has been set for this command (R188) -/
  replayed : Bool
  /-- the engine that each logical tile was last dealt to (R28) -/
  tiles : List Nat
  deriving DecidableEq, Repr

/-- A LAYER run in progress on a queue (R165). -/
structure Run where
  layer : Nat
  prec : Nat
  step : Nat
  /-- the 64 bytes of the policy as read at the start (R167) -/
  pol : List Byte
  /-- rung of the attempt, and replays so far -/
  rung : Nat
  replays : Nat
  /-- the lowered ceiling in force at the start (R411) -/
  ceil : Option Nat
  ops : List OpRec
  /-- a descriptor with LAST = 1 has started -/
  ended : Bool
  deriving DecidableEq, Repr

/-- One queue (R350). -/
structure Queue where
  state : QState
  /-- ring index of the next descriptor to start -/
  head : BitVec 32
  /-- ring index one past the last descriptor submitted -/
  tail : BitVec 32
  /-- ring index of the oldest descriptor without a completion record -/
  oldest : BitVec 32
  /-- completion records written since enable -/
  cqCount : Nat
  /-- count last written to CQ_HEAD -/
  cqHead : BitVec 32
  /-- CLAMP_CNT -/
  clamps : Nat
  /-- running commands, oldest first -/
  active : List Cmd
  /-- completion records formed and not yet written, with their IRQ bit (R512: they wait for the IDE stream) -/
  recs : List (List Byte × Bool)
  run : Option Run
  deriving DecidableEq, Repr

/-- A HALT that was requested and has not taken effect (R383). -/
structure HaltReq where
  mask : BitVec 32
  hops : Nat
  id : BitVec 32
  deriving DecidableEq, Repr

/-- An event record in the holding buffer or waiting for an entry (R354): the queue of its command (0xFF: none) and its bytes. -/
structure EvRec where
  queue : Nat
  bytes : List Byte
  deriving DecidableEq, Repr

/-! ### The gauge (R378 to R382) -/

/-- A frame kept for comparison: its count and epoch, and the GAUGE_REF tick at which it arrived. -/
structure SeenFrame where
  count : Nat
  epoch : Nat
  arrived : Nat
  deriving DecidableEq, Repr

structure Gauge where
  /-- GAU_COUNT -/
  count : Nat
  subtick : Nat
  /-- wraps of the sub-tick since reset: local time in GAUGE_REF ticks (R379) -/
  refTicks : Nat
  epoch : Nat
  /-- GAU_STAT.SRC -/
  src : Nat
  /-- the source's count while the count holds below it (R381) -/
  holding : Option Nat
  refOk : Bool
  locked : Bool
  /-- the last frame with a correct CRC, while not locked -/
  prev : Option SeenFrame
  /-- a frame that disagreed, while locked -/
  disagree : Option SeenFrame
  /-- frames missing or failed in a row -/
  bad : Nat
  /-- LNK_MSTAT.GSRC_PORT -/
  port : Nat
  /-- LNK_MSTAT.DEPTH -/
  depth : Nat
  deriving DecidableEq, Repr

/-! ### Memory (R232 to R271) -/

/-- The T3 keys that JOB_KEY_SET derives, and the secret they come from, which a sealed bank keeps (R426, R438): the data key and the tweak
key of the XTS pair, 128 bits each, and the integrity key, 256 bits. -/
structure JobKey where
  secret : BitVec 256
  data : Nat
  tweak : Nat
  tag : Nat
  deriving DecidableEq, Repr

/-- A T3 unit as stored in the fabric (R244): where it was written, under which unit number and tag place, what its tag shows of the
integrity key (`mac`, a one-way value), and whether its tag was made with the poison byte 0x01. -/
structure T3Unit where
  fab : Nat
  unit : Nat
  tagAddr : Nat
  mac : Nat
  poison : Bool
  deriving DecidableEq, Repr

/-! ### Ports (R315 to R349) -/

/-- The states of R318. -/
inductive PState where
  | disabled | detect | train | align | auth | active | retrain | quarantine
  deriving DecidableEq, Repr

/-- A receive buffer that a flit holds (R333, R334): its port, the buffer (a channel 0 to 8, or 0xF for the shared pool), the phase. -/
structure RxBuf where
  port : Nat
  buffer : Nat
  phase : Bool
  deriving DecidableEq, Repr

/-- A flit to send: FTYPE, channel, phase, FIRST, LAST, its plaintext payload, and the receive buffer that a flit on its way through
the module holds until it leaves. -/
structure OutFlit where
  ftype : Nat
  vc : Nat
  phase : Bool
  first : Bool
  last : Bool
  payload : List Byte
  buf : Option RxBuf
  deriving DecidableEq, Repr

/-- A sequenced flit on the line (R325, R327, R337): its SEQ, the ACK it carries, its key epoch and IV count, the credit it returns, and its
content. -/
structure LineFlit where
  seq : Nat
  ack : Nat
  epoch : Nat
  iv : Nat
  crVc : Nat
  crPhase : Bool
  crCount : Nat
  flit : OutFlit
  deriving DecidableEq, Repr

/-- A sequenced flit in the port, with the traffic key under which it leaves, which never does (R325, R422). -/
structure SentFlit extends LineFlit where
  key : Nat
  deriving DecidableEq, Repr

/-- Credits that the port has to return: the buffer, the phase, and how many flits (R334). -/
structure Owed where
  buffer : Nat
  phase : Bool
  count : Nat
  deriving DecidableEq, Repr

/-- A GAUGE ordered set on the line (R344): key epoch, DEPTH, SRC_LOST, EPOCH, GAUGE, PHASE, T_TX, T_ECHO, TURN, and the IV count of its
tag. -/
structure LineSet where
  keyEpoch : Nat
  depth : Nat
  lost : Bool
  epoch : Nat
  gauge : Nat
  phase : Nat
  tTx : Nat
  echo : Nat
  turn : Nat
  iv : Nat
  deriving DecidableEq, Repr

/-- A GAUGE set in the port, with the key of its tag (R325, R422). -/
structure SentSet extends LineSet where
  key : Nat
  deriving DecidableEq, Repr

/-- A packet of which the first flits have arrived (R330, R331). -/
structure PartPkt where
  vc : Nat
  phase : Bool
  /-- output port; 16: delivered here; 17: discarded; 18: what is left of a malformed packet -/
  out : Nat
  bytes : List Byte
  /-- flits in all -/
  flits : Nat
  /-- flits that have arrived -/
  got : Nat
  /-- the receive buffers that they hold -/
  bufs : List RxBuf
  deriving DecidableEq, Repr

structure Port where
  state : PState
  /-- the narrowest width a narrowing has left since the allowed width was last restored, coded as WIDTH (R319) -/
  narrow : Nat
  width : Nat
  /-- lanes in use, and the lane order agreed in ALIGN (R317) -/
  lanes : BitVec 4
  order : List Nat
  present : Bool
  qreason : Nat
  partnerAddr : Nat
  partnerPort : Nat
  /-- ALIGN was entered from RETRAIN -/
  retraining : Bool
  /-- width before the narrowing in progress -/
  oldWidth : Nat
  /-- the port has trained since reset, and IDLE sets have filled its line (R344) -/
  lined : Bool
  /-- bytes corrected and line units not decoded, but for those of IDLE sets (R348; log entry 46) -/
  fecCorr : Nat
  fecFail : Nat
  /-- AUTH: messages received so far, and the bytes of every message sent and received (R322) -/
  authStep : Nat
  transcript : List Byte
  initiator : Bool
  /-- next SEQ to send, and the SEQ expected (R328, R337) -/
  txSeq : Nat
  rxSeq : Nat
  /-- a RETRY_REQ was sent and the expected SEQ has not arrived -/
  discarding : Bool
  /-- a RETRY_REQ was sent in this session (R467) -/
  asked : Bool
  retryBuf : List SentFlit
  waiting : List OutFlit
  /-- credits held: reserved of channel v and phase h at 2v + h; the shared pool -/
  credits : List Nat
  shared : Nat
  /-- receive buffers in use: reserved ones of channel v and phase h at 2v + h, and those of the shared pool (R333) -/
  rxUsed : List Nat
  rxShared : Nat
  owed : List Owed
  /-- the module's link address as taken at AUTH -/
  myAddr : Nat
  partial_ : List PartPkt
  txEpoch : Nat
  rxEpoch : Nat
  /-- sequenced flits and ordered sets of the current epoch of its own direction -/
  txCount : Nat
  setCount : Nat
  /-- the session's update secret, and the traffic keys of both directions in their current epochs (R324) -/
  secret : Nat
  txKey : Nat
  rxKey : Nat
  /-- the partner's address and port number as its HELLO gave them -/
  helloAddr : Nat
  helloPort : Nat
  retries : Nat
  malformed : Nat
  /-- the last GAUGE set accepted: DEPTH, SRC_LOST, the source's count and sub-tick at its receipt, epoch; T_TX to echo, the
  LCLK count at its receipt, and the one-way delay estimated from it (R345) -/
  gValid : Bool
  gDepth : Nat
  gLost : Bool
  gCount : Nat
  gSub : Nat
  gEpoch : Nat
  gTx : Nat
  gRx : Nat
  gDelay : Nat
  deriving DecidableEq, Repr

/-! ### Groups (R275 to R280) -/

/-- A group-table entry (R276), with whether it was ignored (R277). -/
structure Member where
  addr : Nat
  rank : Nat
  backup : Bool
  ignored : Bool
  deriving DecidableEq, Repr

structure Group where
  armed : Bool
  crc : Nat
  fault : Nat
  faultIdx : Nat
  members : List Member
  ranks : Nat
  self : Nat
  warmin : Nat
  start : Nat
  abandon : Nat
  test : Bool
  bf16 : Bool
  /-- ranks whose backup's MISMATCH was recorded since arming (R300, R302) -/
  mismatched : List Nat
  /-- writes held until no REDUCE of the group runs: register offset and value (R278) -/
  held : List (Nat × BitVec 64)
  /-- by bucket: the step of the last REDUCE that ended, and its outcome (R292, R306, R308) -/
  lastStep : List (Nat × Nat × Nat)
  deriving DecidableEq, Repr

/-- A packet held until the REDUCE it belongs to starts (R292; log entry 21). -/
structure HeldPkt where
  src : Nat
  port : Nat
  pkt : List Byte
  deriving DecidableEq, Repr

/-! ### Engines (R76 to R109, R141, R255) -/

/-- The splice configuration (R99): the path, the rung of the width, both format codes, the group code and, for the log
path, the bound eddy table. -/
structure SpliceCfg where
  path : ArrayPath
  rung : Nat
  fa : Nat
  fb : Nat
  group : Nat
  eddy : Nat
  deriving DecidableEq, Repr

/-- A stationary buffer, the same in every cube column (R77, R93 to R97): its tag, whether it is valid, whether the steps
of its pass have been through it, its entries by k-block element and column, the block-scale codes beside them, its
codebook register (R123), whether the block was read poisoned, and its elements that lie in a poisoned line, by k times the columns plus the
column. -/
structure StatBuf where
  tag : Nat
  valid : Bool
  released : Bool
  entries : List (BitVec 32)
  mx : List Byte
  codebook : List Byte
  poison : Bool
  bad : List Nat
  deriving DecidableEq, Repr

/-- An array instruction of the injection port (R92). -/
inductive ArrayOp where
  | steps (i : ArrayInsn)
  | elementwise (i : ArrayInsn)
  | reconfigure (i : ArrayInsn)
  deriving DecidableEq, Repr

structure Engine where
  cfg : SpliceCfg
  /-- the eddy table in every k-column, copied at the drain (R134) -/
  eddy : List Byte
  /-- pass counter (R96) -/
  counter : Nat
  bufA : StatBuf
  bufB : StatBuf
  /-- slot state table: slots whose tag is not EMPTY, ascending (R141) -/
  slots : List (Nat × Nat)
  /-- engine scratch: bytes that differ from what its generation reads as, ascending (R255) -/
  scratch : List Host.Cell
  gen : Nat
  /-- poisoned lines of engine scratch -/
  poison : List Nat
  /-- blocks that the load port waits to write, and the array instructions that wait to be injected, in order (R97) -/
  waitLoads : List ArrayInsn
  waitSteps : List ArrayOp
  deriving DecidableEq, Repr

/-! ### Outputs -/

/-- A device certificate (R435): serial number and stepping of its module, and the public key of its identity key. -/
structure DevCert where
  serial : BitVec 64
  stepping : Byte
  pub : Nat
  deriving DecidableEq, Repr

/-- A HELLO as sent (R322): its intermediate certificate is `inter`. -/
structure SentHello where
  nonce : Nat
  inter : List Byte
  cert : DevCert
  addr : Nat
  port : Nat
  lifecycle : Nat
  bl : Nat
  digest : Nat
  deriving DecidableEq, Repr

/-- What the module sends (log entry 17). -/
inductive OutMsg where
  | msix (v : Nat)
  /-- a sequenced flit, and its line unit as it leaves on each lane (R326) -/
  | flit (p : Nat) (f : LineFlit) (lanes : List (Nat × List Byte))
  | retryReq (p : Nat) (seq : Nat) (lanes : List (Nat × List Byte))
  | hello (p : Nat) (h : SentHello)
  /-- a message of AUTH after HELLO, with its content -/
  | linkMsg (p : Nat) (name : String) (body : List Byte)
  | gaugeSet (p : Nat) (x : LineSet) (lanes : List (Nat × List Byte))
  | cxlData (data : List Byte) (poison : Bool)
  | reply (name : String) (code : Nat) (data : List Byte)
  /-- the ALGORITHMS response: signature, key exchange, hash, session protection (R436) -/
  | algorithms (sig kex hash aead : String)
  /-- ALERT# asserted or released -/
  | alert (low : Bool)
  /-- an in-band interrupt on the I3C bus, under the module's dynamic address (R514) -/
  | inBand (addr : Nat)
  /-- THERM# asserted, until the module is off, which is the end of the same shutdown (R500, R503) -/
  | thermtrip
  deriving DecidableEq, Repr

/-! ### The module -/

/-- Where the module stands in R492 to R494. -/
inductive Phase where
  /-- unpowered (R504) -/
  | off
  /-- every domain held in reset (R493) -/
  | held
  /-- the boot ROM holds the module without firmware (R432) -/
  | romHeld
  /-- firmware runs and T1 and T2 are being written as zero (R247) -/
  | zeroing
  /-- GLB_STAT.READY is 1 -/
  | run
  deriving DecidableEq, Repr

/-- ERR_FATAL (R421). -/
structure Fatal where
  cause : Nat
  info : Nat
  deriving DecidableEq, Repr

/-- An IDE stream with its key, which lasts until it is reprogrammed or reset (R426, R511, R512): stream 0 is CXL.cachemem; 1 to 4 are
selective streams, for CXL.io where `io` is set and else for UIO to the fabric addresses `base` to `limit`. IDE_KM has enabled it or has
ended it. -/
structure IdeStream where
  sid : Nat
  io : Bool
  enabled : Bool
  key : BitVec 256
  base : Nat
  limit : Nat
  active : Bool
  deriving DecidableEq, Repr

/-- An entry of the MSI-X table (R355, R510). -/
structure MsixEntry where
  addr : BitVec 64
  data : BitVec 32
  masked : Bool
  deriving DecidableEq, Repr

/-- Mailbox (R480, R481). -/
structure Mailbox where
  sel : BitVec 32
  tag : BitVec 16
  reqTag : BitVec 16
  valid : Bool
  pend : Bool
  absent : Bool
  capture : List Byte
  data : List Byte
  deriving DecidableEq, Repr

/-! ### Cores: vector engine (R196 to R218), counters and traces (R454 to R473) -/

/-- A reduction accumulator of Twine (R213): the kind it was first used with, and what it has gathered: an exact sum in
units of 2^-1074 (SUM, AMAX) or 2^-2148 (SUMSQ), or a count; and the special values met. -/
structure RedAcc where
  kind : Option Nat
  sum : Int
  nan : Bool
  pinf : Bool
  ninf : Bool
  deriving DecidableEq, Repr

/-- The UPDATE bound to a core's vector engine (R200): its descriptor, its shard descriptor as read, SCALE of G's record, the
schedule values S0 to S3 and the program image. -/
structure Bundle where
  q : Nat
  idx : Nat
  desc : List Byte
  shard : List Byte
  gscale : Option Nat
  sched : List (BitVec 64)
  image : List Byte
  deriving DecidableEq, Repr

/-- A chunk context (R205, R215): V0 to V15 by lane, S0 to S7, its chunk, and whether G was loaded in it (R214). -/
structure ChunkCtx where
  v : List (List (BitVec 64))
  sreg : List (BitVec 64)
  chunk : Nat
  gseen : Bool
  deriving DecidableEq, Repr

/-- The vector engine of a core (R205, R212, R215): the chunk context that instructions go to and its number, the other ones
as they were left (by number, four in all), K0 to K7, A0 and A1, the sticky flags, the pass in progress, the elements guarded,
whether the guard has tripped (R214), the writes of ST that pass 2 has collected, and the bound UPDATE. -/
structure Twine where
  v : List (List (BitVec 64))
  sreg : List (BitVec 64)
  sel : Nat
  ctxs : List ChunkCtx
  kreg : List (BitVec 64)
  acc : List RedAcc
  flags : Nat
  pass2 : Bool
  chunk : Nat
  guarded : Nat
  gseen : Bool
  tripped : Bool
  stores : List MemWrite
  bundle : Option Bundle
  deriving DecidableEq, Repr

/-- A counter bank (R454 to R457): the header of the command that opened it, the events counted in it, and the value of `fresh` from
which its timed counts run while it is active (log entry 3); a frozen bank holds its final counts. -/
structure Bank where
  opened : Bool
  layer : Nat
  queue : Nat
  op : Nat
  kind : Nat
  idx : Nat
  start : Nat
  overlap : Bool
  cnts : List Nat
  since : Nat
  deriving DecidableEq, Repr

/-- A trace buffer (R463 to R469): slots written, WPTR, the next RSEQ, FROZEN, TRIGGERED, the records still to be written
after a trigger, the records drained since reset, records not yet drained, records that have left the on-die queue and are on their way
to the spill ring, the records that may stand in the staging queue, and drops whose DROP record is not yet written. -/
structure Trace where
  slots : List (Nat × List Byte)
  wptr : Nat
  rseq : Nat
  frozen : Bool
  triggered : Bool
  post : Option Nat
  spilled : Nat
  undrained : Nat
  leaving : List (List Byte)
  staged : Nat
  dropped : Nat
  deriving DecidableEq, Repr

/-- The staging part of a core's scratch, 16 MiB (R256): bytes that differ from what its generation reads as, and poisoned
lines. -/
structure Staging where
  bytes : List Host.Cell
  gen : Nat
  poison : List Nat
  deriving DecidableEq, Repr

structure Core where
  stage : Staging
  twine : Twine
  active : Bank
  frozen : Bank
  /-- OBS_EVSEL in effect, and whether a write awaits the next swap (R458) -/
  evsel : BitVec 64
  evPend : Bool
  trace : Trace
  deriving DecidableEq, Repr

/-- The mailbox snapshot (R461): what is armed (AT, SELECT, passed by a jump), the buffer, SNAP_DONE. -/
structure SnapBuf where
  armed : Option (Nat × Nat × Bool)
  buf : List Byte
  done : Bool
  deriving DecidableEq, Repr

/-! ### Power (R502 to R507) -/

/-- The power controller (R505): s, calm, k, the step in force, and the last measurements (R515). -/
structure Power where
  step : Nat
  calm : Nat
  k : Nat
  inForce : Nat
  meas : PowerMeasure
  deriving DecidableEq, Repr

/-! ### Security (R422 to R453) -/

structure OwnerSlot where
  digest : Option (BitVec 256)
  revoked : Bool
  deriving DecidableEq, Repr

/-- One-time-programmable memory: the PUF helper data and the device secret (R422), lifecycle entries written so far, each a code
and its stored complement (R443), the security version floor, the tamper-count fuses, and the owner-key slots (R444). -/
structure Otp where
  helper : BitVec 256
  secret : BitVec 256
  lc : List (Nat × Nat)
  svnFloor : Nat
  tamper : Nat
  owners : List OwnerSlot
  deriving DecidableEq, Repr

/-- The boot flash: both slots, the boot record, and the device certificate with that of the Jokarek intermediate, which issued it (R422,
R428, R430, R435). -/
structure Flash where
  inter : List Byte
  a : Option Image
  b : Option Image
  preferB : Bool
  cert : DevCert
  deriving DecidableEq, Repr

/-- What the last boot left (R431, R451, R452): ROM_STATUS, the slot and image booted, FALLBACK, OWNER_SIG, and the
measurements of indices 1 to 7. -/
structure Boot where
  romStatus : Nat
  image : Option Image
  slotB : Bool
  fallback : Bool
  ownerSig : Bool
  meas : List Nat
  deriving DecidableEq, Repr

/-- The session of an SPDM transport, with the identity of its keys (R426, R436). -/
inductive Session where
  | none
  | handshake (key : Nat)
  | established (key : Nat)
  deriving DecidableEq, Repr

/-! ### Management (R514 to R516) -/

/-- The states of a firmware update (R516). -/
inductive FwState where
  | idle | requested | table | transfer | transferred | verified | applied
  deriving DecidableEq, Repr

structure Mgmt where
  /-- endpoint IDs of MCTP over VDM and over I3C -/
  eidVdm : Byte
  eidI3c : Byte
  /-- sensors that SetNumericSensorEnable has disabled -/
  disabled : List Nat
  /-- sensor events that await collection, oldest first: sensor and whether it rose above its threshold -/
  events : List (Nat × Bool)
  bufSize : Nat
  fw : FwState
  fwImage : Option Image
  /-- the preferred slot before the update in progress was applied (R516) -/
  fwPrefer : Bool
  /-- the dynamic address on the I3C bus, which the bus controller assigns (R514) -/
  i3cAddr : Nat
  deriving DecidableEq, Repr

/-- The configuration check (R483 to R485): CUR, SWEEPS, and whether a run of mismatches is in progress. -/
structure CfgCheck where
  cur : Nat
  sweeps : Nat
  drifting : Bool
  deriving DecidableEq, Repr

structure State where
  /-- commands that wait, first in first out -/
  pending : List Instr
  phase : Phase
  /-- counter that the free values are applied to (log entry 14) -/
  fresh : Nat
  /-- SU and W1C registers that differ from their Reset value, by BAR0 offset, ascending -/
  regs : List (Nat × BitVec 64)
  /-- bytes of the device address space that are not zero, by key, ascending (R232; T3 bytes under their fabric address) -/
  mem : List Host.Cell
  /-- poisoned lines (device address / 64), ascending (R250) -/
  poison : List Nat
  t3 : List T3Unit
  queues : Vector Queue 32
  /-- token counters (R371) -/
  tokens : Vector (BitVec 32) 256
  /-- event records held (R354), records waiting for an entry, and counts of QUE_EVSTAT and EV_HEAD -/
  events : List EvRec
  evWait : List EvRec
  evTail : Nat
  evHead : Nat
  evLost : Nat
  /-- QUE_RCLAMP.CNT -/
  rclamp : Nat
  halts : List HaltReq
  /-- HALTs originated (R385), and the last 64 received -/
  haltCount : BitVec 32
  haltSeen : List (Nat × Nat)
  gauge : Gauge
  ports : Vector Port 16
  /-- route table (R332): entry of each link address that is VALID -/
  routes : List (Nat × Nat)
  groups : Vector Group 8
  early : List HeldPkt
  /-- packets that the module has sent to its own link address, on their way over the die network (R331) -/
  looped : List HeldPkt
  resetCause : Nat
  bl : Nat
  t1Init : Bool
  t2Init : Bool
  /-- MEM_UEADDR (R254) -/
  ueAddr : BitVec 64
  jobFatal : Bool
  fatal : Option Fatal
  mbx : Mailbox
  /-- ENG_INSV of every engine (R33) -/
  inService : Vector Bool 96
  engines : Vector Engine 96
  /-- column fuses (R102) -/
  fuses : Vector Nat 96
  /-- eddy tables ET0 to ET3, their CRC fields and LOADED bits (R116, R136, R138) -/
  eddies : Vector (List Byte) 4
  eddyCrc : Vector Nat 4
  eddyLoaded : Vector Bool 4
  /-- start-up self-test results as ARR_BIST shows them: column code, 0x1F without a fault (R34, R103) -/
  bist : Vector Nat 96
  /-- program slots: the image last loaded, empty list when none (R210), and its CRC (R231) -/
  programs : Vector (List Byte) 16
  progCrc : Vector Nat 16
  cores : Vector Core 16
  snap : SnapBuf
  power : Power
  /-- fuses of identity (R496) -/
  serial : BitVec 64
  stepping : Byte
  otp : Otp
  flash : Flash
  boot : Boot
  /-- the PUF's response, a physical structure of the die (R422, R425) -/
  puf : BitVec 256
  /-- the Jokarek root's public key in the boot ROM (R322, R435) -/
  romRoot : Nat
  /-- the identity private key d, where it is derived and usable (R425, R451) -/
  idKey : Option Nat
  /-- the T1 and T2 XTS key pairs in the encryption engines (R426, R427, R431) -/
  t1key : Option Nat
  t2key : Option Nat
  /-- the test-unlock latch (R448) -/
  unlocked : Bool
  /-- the measurement log of the running boot, in a sealed bank (R431) -/
  measLog : List (Nat × Nat)
  /-- SPDM sessions over DOE, VDM and I3C -/
  sessions : Vector Session 3
  /-- a JOB_KEY_CLEAR that has not taken effect: the commands (queue, ring index) that still keep the key (R439) -/
  jobClear : Option (List (Nat × Nat))
  mgmt : Mgmt
  cfg : CfgCheck
  /-- ALERT# is asserted (R500) -/
  alert : Bool
  /-- PERST# is asserted (R500) -/
  perst : Bool
  /-- PWR_EN is high (R500, R503, R504) -/
  pwrEn : Bool
  /-- the frangible lid loop has been found open, and stays so (R441) -/
  loopOpen : Bool
  ide : List IdeStream
  /-- MSI-X table and pending bits of BAR4 (R510) -/
  msix : Vector MsixEntry 34
  msixPending : Vector Bool 34
  /-- the installed T3 job keys; none while MEM_STAT.T3_KEY is 0 (R245, R438) -/
  t3key : Option JobKey
  outbox : List OutMsg
  deriving DecidableEq, Repr

/-! ### Reset (R16, R492, R493) -/

def Queue.reset : Queue :=
  { state := .disabled, head := 0, tail := 0, oldest := 0, cqCount := 0, cqHead := 0, clamps := 0, active := [], recs := []
    run := none }

/-- GAU_STAT.SRC is 3 and LNK_MSTAT.DEPTH 7 until a source is followed (R381, R348). -/
def Gauge.reset : Gauge :=
  { count := 0, subtick := 0, refTicks := 0, epoch := 0, src := 3, holding := none, refOk := false, locked := false, prev := none
    disagree := none, bad := 0, port := 0, depth := 7 }

def Port.reset : Port :=
  { state := .disabled, narrow := 0, width := 3, lanes := 0, order := [], present := false, qreason := 0, partnerAddr := 0, partnerPort := 0
    retraining := false, oldWidth := 3, lined := false, fecCorr := 0, fecFail := 0, authStep := 0, transcript := [], initiator := false, txSeq := 0, rxSeq := 0
    discarding := false, asked := false, retryBuf := [], waiting := [], credits := List.replicate 18 0, shared := 0
    rxUsed := List.replicate 18 0, rxShared := 0, owed := [], myAddr := 0, partial_ := []
    txEpoch := 0, rxEpoch := 0, txCount := 0, setCount := 0, secret := 0, txKey := 0, rxKey := 0, helloAddr := 0, helloPort := 0
    retries := 0, malformed := 0, gValid := false, gDepth := 7, gLost := false, gCount := 0, gSub := 0, gEpoch := 0, gTx := 0
    gRx := 0, gDelay := 0 }

def Group.reset : Group :=
  { armed := false, crc := 0, fault := 0, faultIdx := 0, members := [], ranks := 0, self := 0, warmin := 0, start := 0
    abandon := 0, test := false, bf16 := false, mismatched := [], held := [], lastStep := [] }

def StatBuf.reset : StatBuf :=
  { tag := 0, valid := false, released := false, entries := [], mx := [], codebook := [], poison := false, bad := [] }

/-- The splice of an engine at reset: a DESIGN CHOICE (log entry 1), the splice path at rung 0 with E2M1 operands. -/
def SpliceCfg.reset : SpliceCfg := { path := .splice, rung := 0, fa := 6, fb := 6, group := 0, eddy := 0 }

def Engine.reset : Engine :=
  { cfg := SpliceCfg.reset, eddy := eddyDefault, counter := 0, bufA := StatBuf.reset, bufB := StatBuf.reset, slots := []
    scratch := [], gen := 0, poison := [], waitLoads := [], waitSteps := [] }

def RedAcc.reset : RedAcc := { kind := none, sum := 0, nan := false, pinf := false, ninf := false }

def Twine.reset : Twine :=
  { v := List.replicate 16 [], sreg := List.replicate 8 0, sel := 0
    ctxs := List.replicate 4 { v := List.replicate 16 [], sreg := List.replicate 8 0, chunk := 0, gseen := false }, kreg := List.replicate 8 0, acc := [RedAcc.reset, RedAcc.reset]
    flags := 0, pass2 := false, chunk := 0, guarded := 0, gseen := false, tripped := false, stores := [], bundle := none }

def Bank.reset : Bank :=
  { opened := false, layer := 0, queue := 0, op := 0, kind := 0, idx := 0, start := 0, overlap := false
    cnts := List.replicate 8 0, since := 0 }

def Trace.reset : Trace :=
  { slots := [], wptr := 0, rseq := 0, frozen := false, triggered := false, post := none, spilled := 0, undrained := 0
    leaving := [], staged := 0, dropped := 0 }

def Core.reset : Core :=
  { stage := { bytes := [], gen := 0, poison := [] }, twine := Twine.reset, active := Bank.reset, frozen := Bank.reset, evsel := 0, evPend := false, trace := Trace.reset }

def Power.reset : Power :=
  { step := 0, calm := 0, k := 0, inForce := 0
    meas := { watts := 0, millivolts := 54000, milliamps := 0, temps := List.replicate 20 0 } }

/-- The OTP of a module that has made no transition: MANUFACTURE (R443); a DESIGN CHOICE (log entry 12). -/
def Otp.reset : Otp := { helper := 0, secret := 0, lc := [], svnFloor := 0, tamper := 0, owners := List.replicate 4 { digest := none, revoked := false } }

/-- The image that slot A holds from the factory, with a SIG at 0x0C0 and a CERT of one byte at 0x200: a DESIGN CHOICE (log entry 12). -/
def Image.factory : Image :=
  { header := [0x4A, 0x36, 0x39, 0x54, 0, 0, 1, 0] ++ List.replicate 184 0 ++ [1] ++ List.replicate 127 0 ++ [1] ++ List.replicate 191 0 ++ [0x30]
    root := some 0, sigOk := true, owner := none, stageDigests := List.replicate 4 0 }

/-- The device certificate that agrees with the PUF, the device secret and the serial number of reset (log entry 12). -/
def Flash.reset : Flash :=
  { inter := [], a := some Image.factory, b := none, preferB := false
    cert := { serial := 0, stepping := 0, pub := Config.sm2Public (identityOf 0 0 0) } }

def Boot.reset : Boot :=
  { romStatus := 0, image := none, slotB := false, fallback := false, ownerSig := false, meas := [] }

def Mgmt.reset : Mgmt :=
  { eidVdm := 0, eidI3c := 0, disabled := [], events := [], bufSize := 0, fw := .idle, fwImage := none, fwPrefer := false
    i3cAddr := 0 }

def Mailbox.reset : Mailbox :=
  { sel := 0, tag := 0, reqTag := 0, valid := false, pend := false, absent := false, capture := [], data := List.replicate 64 0 }

/-- The module at the start of R493: every domain held in reset, every register at its Reset value (R16), every port and
queue DISABLED, memory with nothing listed (log entries 1, 2 and 12). -/
def State.reset : State :=
  { pending := [], phase := .held, fresh := 0, regs := [], mem := [], poison := [], t3 := []
    queues := Vector.replicate 32 Queue.reset, tokens := Vector.replicate 256 0
    events := [], evWait := [], evTail := 0, evHead := 0, evLost := 0, rclamp := 0, halts := [], haltCount := 0, haltSeen := []
    gauge := Gauge.reset, ports := Vector.replicate 16 Port.reset, routes := [], groups := Vector.replicate 8 Group.reset
    early := [], looped := [], resetCause := 0, bl := 0, t1Init := false, t2Init := false, ueAddr := 0xE000000000000000, jobFatal := false
    fatal := none, mbx := Mailbox.reset, inService := Vector.replicate 96 true, engines := Vector.replicate 96 Engine.reset
    fuses := Vector.replicate 96 16, eddies := Vector.replicate 4 eddyDefault, eddyCrc := Vector.replicate 4 0
    eddyLoaded := Vector.replicate 4 false, bist := Vector.replicate 96 0x1F, programs := Vector.replicate 16 []
    progCrc := Vector.replicate 16 0, cores := Vector.replicate 16 Core.reset
    snap := { armed := none, buf := List.replicate 4288 0, done := false }, power := Power.reset, serial := 0, stepping := 0
    otp := Otp.reset, flash := Flash.reset, boot := Boot.reset, puf := 0, romRoot := 0, idKey := none, t1key := none, t2key := none, unlocked := false, measLog := []
    sessions := Vector.replicate 3 .none, jobClear := none, mgmt := Mgmt.reset
    cfg := { cur := 0, sweeps := 0, drifting := false }, alert := false, perst := true
    pwrEn := true, loopOpen := false
    ide := [], msix := Vector.replicate 34 { addr := 0, data := 0, masked := false }, msixPending := Vector.replicate 34 false
    t3key := none, outbox := [] }

/-- The stops of the model. The spec gives every command an effect, so no command stops the machine with a fault. -/
inductive Fault where
  deriving DecidableEq, Repr

/-- Why a command is refused. -/
inductive Refusal where
  /-- an arm of `exec` without a meaning; safe -/
  | notModelled (mnemonic : String)
  deriving DecidableEq, Repr

abbrev Res := Host.Outcome State Fault Refusal

end Sys2Proof.Machine
end

