-- ==== Sys2Proof/Machine/Regs.lean ====
section
/-! DEFINITION. The canonical list of cells and the register file of the SU and W1C registers (R475): offsets, Reset
values, field access, and the flags and counts of W1C registers (R479). -/
namespace Sys2Proof.Machine

/-- A cell list read: the entry of key `k`, or what an unlisted key reads as. -/
def getCell {α : Type} (d : Nat → α) (k : Nat) : List (Nat × α) → α
  | [] => d k
  | (k', v) :: r => if k = k' then v else getCell d k r

/-- A cell list written: keys stay strictly rising and no entry equals what an unlisted key reads as. -/
def putCell {α : Type} [DecidableEq α] (d : Nat → α) (k : Nat) (v : α) : List (Nat × α) → List (Nat × α)
  | [] => if v = d k then [] else [(k, v)]
  | (k', v') :: r =>
    if k < k' then (if v = d k then (k', v') :: r else (k, v) :: (k', v') :: r)
    else if k = k' then (if v = d k then r else (k, v) :: r)
    else (k', v') :: putCell d k v r

/-- The canonical form of a cell list: keys strictly rising, no entry equal to what its key reads as when unlisted. -/
def cellsWf {α : Type} [DecidableEq α] (d : Nat → α) : List (Nat × α) → Bool
  | [] => true
  | (k, v) :: r => decide (v ≠ d k) && r.all (fun c => decide (k < c.1)) && cellsWf d r

/-! ### Offsets -/
def offGlbRst : Nat := 0x28
def offQsq (n : Nat) : Nat := 0x010000 + 0x20 * n
def offQcq (n : Nat) : Nat := 0x010008 + 0x20 * n
def offQctl (n : Nat) : Nat := 0x010010 + 0x20 * n
def offQev : Nat := 0x010400
def offJobseed : Nat := 0x010410
def offGauCtl : Nat := 0x020000
def offGauFlags : Nat := 0x020018
def offEccstat : Nat := 0x030000
def offQos : Nat := 0x030018
def offT3Base : Nat := 0x030100
def offT3Size : Nat := 0x030108
def offT3Tag : Nat := 0x030110
def offHdm : Nat := 0x030120
def offPctl (p : Nat) : Nat := 0x040000 + 0x1000 * p
def offPerr (p : Nat) : Nat := 0x040010 + 0x1000 * p
def offLnkAddr : Nat := 0x040F00
def offLnkRt : Nat := 0x040F08
def offGctl : Nat := 0x040F10
def offGrpCtl (n : Nat) : Nat := 0x050000 + 0x40 * n
def offGrpTbl (n : Nat) : Nat := 0x050008 + 0x40 * n
def offGrpStart (n : Nat) : Nat := 0x050010 + 0x40 * n
def offCflEvstat : Nat := 0x050208
def offCflEvcnt : Nat := 0x050210
def offRplstat : Nat := 0x060000
def offUpdStat : Nat := 0x070000
def offErrStat : Nat := 0x0A0000
def offErrCtl : Nat := 0x0A0010
def offDegrade : Nat := 0x0A0018
def offStepreq : Nat := 0x0B0008
def offCfgCtl : Nat := 0x0D0000
def offCfgRef : Nat := 0x0D0008
def offCfg : Nat := 0x0D0018
/-- The register window of core c (R23). -/
def offCore (c : Nat) : Nat := 0x100000 + 0x40000 * c
def offTblerr (c : Nat) : Nat := offCore c + 0x210
def offAccstat (c : Nat) : Nat := offCore c + 0x218
def offAccpsn (c : Nat) : Nat := offCore c + 0x220

/-- Reset values of the SU and W1C registers, zero where not listed (the Reset columns; R16). -/
def regReset (off : Nat) : BitVec 64 :=
  if 0x010000 ≤ off ∧ off < 0x010400 ∧ (off % 0x20 = 0 ∨ off % 0x20 = 8) then 0x04
  else if off = offQev then 0x06
  else if off = offGauCtl then 0x1
  else if off = offQos then 0x00000D0D1A264040
  else if 0x050000 ≤ off ∧ off < 0x050200 ∧ off % 0x40 = 0 then 0x0000001000000000
  else if off = offGctl then 0x1
  else if off = offErrCtl then 0x10
  else if off = offDegrade then 0x6
  else if 0x100000 ≤ off ∧ off < 0x500000 ∧ off % 0x40000 = 0x1000 then 0x8000000000000000
  else 0

def regGet (s : State) (off : Nat) : BitVec 64 := getCell regReset off s.regs

def regPut (s : State) (off : Nat) (v : BitVec 64) : State := { s with regs := putCell regReset off v s.regs }

/-- Field `[lo + w - 1 : lo]` of a held register. -/
def regField (s : State) (off lo w : Nat) : Nat := bits (regGet s off).toNat lo w

def regBit (s : State) (off i : Nat) : Bool := bitAt (regGet s off).toNat i

def regPutField (s : State) (off lo w v : Nat) : State :=
  regPut s off (BitVec.ofNat 64 (setBits (regGet s off).toNat lo w v))

/-! ### W1C flags (R479) -/

/-- One added to the saturating count field `[lo + w - 1 : lo]`. -/
def cntInc (s : State) (off lo w : Nat) : State :=
  regPutField s off lo w (min (regField s off lo w + 1) (2 ^ w - 1))

/-- A setting of flag `bit`, counted in the 16-bit field at `cnt`. -/
def setFlag (s : State) (off bit cnt : Nat) : State := cntInc (regPutField s off bit 1 1) off cnt 16

/-- A setting of a flag that has no count field of its own in the register. -/
def setFlagOnly (s : State) (off bit : Nat) : State := regPutField s off bit 1 1

/-- QUE_RCLAMP.CNT (R388): one more, saturating. -/
def rclampInc (s : State) : State := { s with rclamp := min (s.rclamp + 1) 0xFFFFFFFF }

/-- The counter of free values moves on (log entry 14). -/
def freshen (s : State) : State := { s with fresh := s.fresh + 1 }

end Sys2Proof.Machine
end

