-- ==== Sys2Proof/Machine/Mem.lean ====
section
/-! DEFINITION. Device memory: the address map (R232, R233), bytes and lines, T3 units and their tags (R244, R245),
poison (R250), and the conditions on host and T3 accesses (R245, R512). -/
namespace Sys2Proof.Machine

/-- A list in an order that the spec leaves open: a free value, which takes as many values of `fresh` as the list is long. -/
def freeOrder {α : Type} (fresh : Nat) (l : List α) : List α := shuffle (fun i => Config.freeNat (fresh + i)) l.length l

/-- What an unlisted byte reads as (log entry 2: T1, T2 and core scratch are zeroed at reset, R247, R256). -/
def memDefault : Nat → Byte := fun _ => 0

/-- The canonical form of memory. -/
def Memory.wf (m : List Host.Cell) : Bool := cellsWf memDefault m

/-- The regions of R232. -/
inductive Region where
  | t1 | t2 | t3 | core | host | unmapped
  deriving DecidableEq, Repr

def t2Start : Nat := 0x40000000000
def t3Start : Nat := 0x400000000000
def coreStart : Nat := 0x1000000000000
def hostStart : Nat := 0x8000000000000000

def regionOf (a : Nat) : Region :=
  if a ≤ 0x3FFFFFFFFF then .t1
  else if t2Start ≤ a ∧ a ≤ 0x7FFFFFFFFFF then .t2
  else if t3Start ≤ a ∧ a ≤ 0x7FFFFFFFFFFF then .t3
  else if coreStart ≤ a ∧ a ≤ 0x1000007FFFFFF then .core
  else if hostStart ≤ a ∧ a ≤ 0x81FFFFFFFFFFFFFF then .host
  else .unmapped

/-- The distance from the start of the region (R232). -/
def tierOffset (a : Nat) : Nat :=
  match regionOf a with
  | .t1 => a
  | .t2 => a - t2Start
  | .t3 => a - t3Start
  | .core => a - coreStart
  | .host => a - hostStart
  | .unmapped => a

/-- MEM_T3_BASE.EN and MEM_T3_SIZE bound the backed part of T3 (R232, R271). -/
def t3Limit (s : State) : Nat := if regBit s offT3Base 0 then regField s offT3Size 0 16 * 2 ^ 30 else 0

/-- Backed addresses (R232). -/
def backed (s : State) (a : Nat) : Bool :=
  match regionOf a with
  | .t1 => decide (a < 0x3B9ACA0000)
  | .t2 => decide (a < 0x7A352944000)
  | .t3 => decide (a - t3Start < t3Limit s)
  | .core => true
  | .host => true
  | .unmapped => false

/-- The fabric address of a T3 tier offset (R236, R271). -/
def t3Fab (s : State) (off : Nat) : Nat := (regField s offT3Base 12 52 * 4096 + off) % 2 ^ 64

/-- The key of a device address in the memory list; T3 bytes lie under their fabric address. -/
def memKey (s : State) (a : Nat) : Nat :=
  if regionOf a = .t3 then 2 ^ 64 + t3Fab s (a - t3Start) else a

/-- One byte; unbacked addresses read as zero (R233). -/
def rdByte (s : State) (a : Nat) : Byte := if backed s a then getCell memDefault (memKey s a) s.mem else 0

/-- `n` bytes from `a`; addresses wrap at 2^64. -/
def rd (s : State) (a n : Nat) : List Byte := (List.range n).map fun i => rdByte s ((a + i) % 2 ^ 64)

/-- A little-endian value of `n` bytes (R11). -/
def rdNat (s : State) (a n : Nat) : Nat := leNat (rd s a n)

/-! ### T3 units (R244) -/

def t3TagAddr (s : State) (u : Nat) : Nat := (regField s offT3Tag 12 52 * 4096 + 16 * u) % 2 ^ 64

/-- The unit stored at a fabric address. -/
def t3Find (s : State) (fab : Nat) : Option T3Unit := s.t3.find? fun x => x.fab == fab

/-- What a tag shows of the integrity key that made it: a one-way value (log entry 8). -/
def JobKey.mac (k : JobKey) : Nat := Config.sm3 (leBytes 32 k.tag)

/-- What the tag check of unit `u` finds: a good tag, the tag of a poisoned unit, or a tag that fails. -/
inductive TagCheck where
  | good | poisoned | fails
  deriving DecidableEq, Repr

def t3Check (s : State) (u : Nat) : TagCheck :=
  match t3Find s (t3Fab s (256 * u)) with
  | none => .fails
  | some x =>
    if x.unit == u && x.tagAddr == t3TagAddr s u && s.t3key.map JobKey.mac == some x.mac then
      (if x.poison then .poisoned else .good)
    else .fails

/-- A unit written whole with its tag; a tag written elsewhere over the same place is gone. -/
def t3Stamp (s : State) (u : Nat) (bad : Bool) : State :=
  match s.t3key with
  | none => s
  | some k =>
    let x : T3Unit := ⟨t3Fab s (256 * u), u, t3TagAddr s u, k.mac, bad⟩
    { s with t3 := x :: s.t3.filter fun y => y.fab != x.fab && y.tagAddr != x.tagAddr }

/-! ### Lines and poison (R250) -/

/-- Sorted insertion without repeats. -/
def insNat (n : Nat) : List Nat → List Nat
  | [] => [n]
  | a :: r => if n < a then n :: a :: r else if n = a then a :: r else a :: insNat n r

/-- Whether the stored line is poisoned. A line of host memory is one that the module has written with poison, which the host then holds and
returns (R250, R251; log entry 39). -/
def linePoisoned (s : State) (l : Nat) : Bool :=
  match regionOf (64 * l) with
  | .t3 => t3Check s (tierOffset (64 * l) / 256) == .poisoned
  | _ => s.poison.contains l

/-- A line stored poisoned in place (R250), or written to the host with poison (R251). -/
def poisonLine (s : State) (l : Nat) : State :=
  if s.fatal.isSome || !backed s (64 * l) then s
  else match regionOf (64 * l) with
    | .t3 => t3Stamp s (tierOffset (64 * l) / 256) true
    | _ => { s with poison := insNat l s.poison }

/-- The lines that `n` bytes from `a` touch, ascending. -/
def linesOf (a n : Nat) : List Nat :=
  if n = 0 then [] else (List.range ((a + n - 1) / 64 - a / 64 + 1)).map fun i => a / 64 + i

/-- The blocks of 256 bytes of the device address space that `n` bytes from `a` touch, ascending. -/
def blocksOf (a n : Nat) : List Nat :=
  if n = 0 then [] else (List.range ((a + n - 1) / 256 - a / 256 + 1)).map fun i => a / 256 + i

def wrByte (s : State) (a : Nat) (b : Byte) : State :=
  if backed s a then { s with mem := putCell memDefault (memKey s a) b s.mem } else s

/-- Bytes placed one by one. -/
def wrBytes (s : State) (a : Nat) : List Byte → State
  | [] => s
  | b :: bs => wrBytes (wrByte s (a % 2 ^ 64) b) (a + 1) bs

/-- A line that a write covers whole is clean afterwards; one covered in part keeps its poison (R246, R250). -/
def cleanLines (s : State) (a n : Nat) : State :=
  { s with poison := s.poison.filter fun l => !(decide (a ≤ 64 * l) && decide (64 * l + 64 ≤ a + n)) }

/-- The tag of the block of 256 bytes at `b` after a write of `n` bytes from `a`, where it is a backed unit of T3: written whole it gets a
good tag, and written in part it keeps what its check finds (R244). -/
def t3Tag (a n : Nat) (s : State) (b : Nat) : State :=
  let u := tierOffset (256 * b) / 256
  let whole := decide (a ≤ 256 * b) && decide (256 * b + 256 ≤ a + n)
  if regionOf (256 * b) = .t3 && backed s (256 * b) then t3Stamp s u (!whole && t3Check s u != .good) else s

/-- The tags of the units that a write of `n` bytes from `a` touches, wherever it begins. -/
def t3Tags (s : State) (a n : Nat) : State := (blocksOf a n).foldl (t3Tag a n) s

/-- A write of bytes from `a`: discarded where unbacked (R233), and stopped after a device-fatal error (R406). -/
def wr (s : State) (a : Nat) (bs : List Byte) : State :=
  if s.fatal.isSome || bs.isEmpty then s
  else wrBytes (cleanLines (t3Tags s a bs.length) a bs.length) a bs

/-- Every line of `n` bytes from `a` written poisoned. -/
def wrPoison (s : State) (a n : Nat) : State := (linesOf a n).foldl poisonLine s

/-! ### Conditions on host and T3 accesses (R245, R512) -/

/-- The lifecycle state (R443): the last entry whose complement matches, else MANUFACTURE. -/
def lcState (s : State) : Nat :=
  match (s.otp.lc.filter fun e => e.1 + e.2 == 7).getLast? with
  | some e => e.1
  | none => 0

/-- CXL.cache and CXL.mem traffic may cross (R512, R511). -/
def hostOk (s : State) : Bool :=
  s.ide.any (fun i => i.sid == 0 && i.active) || (lcState s == 0 && !(s.ide.any fun i => i.sid == 0 && i.enabled))

/-- UIO traffic to a fabric address may cross (R512). -/
def uioOk (s : State) (fab : Nat) : Bool :=
  let cov := fun (i : IdeStream) => i.sid != 0 && !i.io && decide (i.base ≤ fab) && decide (fab ≤ i.limit)
  s.ide.any (fun i => cov i && i.active) || (lcState s == 0 && !(s.ide.any fun i => cov i && i.enabled))

/-- Register, doorbell and MSI-X traffic crosses: in clear, or under a selective stream for CXL.io; one that IDE_KM has enabled and that is
not active drops it (R511, R512). Configuration requests and DOE go on, since IDE_KM runs over DOE (log entry 37). -/
def ioOk (s : State) : Bool := s.ide.all fun i => i.sid == 0 || !i.io || !i.enabled || i.active

/-- The job key serves a command (queue, ring index): it is installed, and no JOB_KEY_CLEAR came before the command
started (R439). -/
def keyServes (s : State) (w : Nat × Nat) : Bool :=
  s.t3key.isSome && (match s.jobClear with
    | none => true
    | some l => l.contains w)

/-- The ERROR cause that refuses an access of a command, or 0: 0x05 without a job key, 0x0F without a stream that covers the line, and
in T3 the tag of its unit (R244). -/
def accessRefusedFor (s : State) (w : Nat × Nat) (a : Nat) : Nat :=
  if !backed s a then 0
  else match regionOf a with
    | .t3 => if !keyServes s w then 0x05
      else if uioOk s (t3Fab s (a - t3Start)) && uioOk s (t3TagAddr s ((a - t3Start) / 256)) then 0 else 0x0F
    | .host => if hostOk s then 0 else 0x0F
    | _ => 0

/-- The same for an access of no command: a descriptor, a record, a write-back. -/
def accessRefused (s : State) (a : Nat) : Nat := accessRefusedFor s (0xFF, 0xFFFFFFFF) a

/-! ### Held writes (R369) -/

/-- A command may reach every line of `n` bytes from `a` (R245, R512): the first cause that refuses one, or 0. -/
def rangeRefused (s : State) (w : Nat × Nat) (a n : Nat) : Nat :=
  ((linesOf a n).map fun l => accessRefusedFor s w (64 * l % 2 ^ 64)).find? (fun k => k != 0) |>.getD 0

/-- The same for the writes of a command, as they become visible (R369, R512). -/
def writesRefused (s : State) (w : Nat × Nat) (ws : List MemWrite) : Nat :=
  (ws.map fun x => rangeRefused s w x.addr x.bytes.length).find? (fun k => k != 0) |>.getD 0

/-- A held write of the command `w` takes place: its bytes, its lines poisoned, or unspecified bytes (R375), which are free values.
Nothing reaches a place that R245 or R512 refuses the command. -/
def applyWrite (w : Nat × Nat) (s : State) (x : MemWrite) : State :=
  if rangeRefused s w x.addr x.bytes.length != 0 then s
  else match x.kind with
    | .data => wr s x.addr x.bytes
    | .poison => wrPoison s x.addr x.bytes.length
    | .free => wr (freshen s) x.addr ((List.range x.bytes.length).map fun i => Config.freeByte s.fresh (x.addr + i))

def applyWrites (w : Nat × Nat) (s : State) (ws : List MemWrite) : State := ws.foldl (applyWrite w) s

/-- A range of unspecified bytes. -/
def freeOf (r : Nat × Nat) : MemWrite := ⟨r.1, List.replicate r.2 0, .free⟩

/-- Destinations of the command `w` whose content is unspecified (R375). -/
def freeRanges (w : Nat × Nat) (s : State) (rs : List (Nat × Nat)) : State := applyWrites w s (rs.map freeOf)

end Sys2Proof.Machine
end

