-- ==== Sys2Proof/Machine/Trace.lean ====
section
/-! DEFINITION. Counter banks and trace buffers of the cores (R454 to R458, R463 to R469, R471). -/
namespace Sys2Proof.Machine

/-- The command a record concerns: queue, ring index, layer and operator identifier (R358, R397, R465). -/
structure Who where
  q : Nat
  idx : Nat
  layer : Nat
  op : Nat
  deriving DecidableEq, Repr

/-- No command concerned (R376, R397). -/
def Who.none : Who := ⟨0xFF, 0xFFFFFFFF, 0, 0⟩

def le4 (n : Nat) : List Byte := leBytes 4 n
def le8 (n : Nat) : List Byte := leBytes 8 n

def offObsCtl : Nat := 0x090000
def offTctl (c : Nat) : Nat := offCore c + 0x1000
def offTrig (c : Nat) : Nat := offCore c + 0x1008
def offEvsel (c : Nat) : Nat := offCore c + 0x1010
def offSpill (c : Nat) : Nat := offCore c + 0x1018
def offTdrop (c : Nat) : Nat := offCore c + 0x1028

def updCore (s : State) (c : Fin 16) (f : Core → Core) : State := { s with cores := s.cores.set c (f s.cores[c]) }

def updTrace (s : State) (c : Fin 16) (f : Trace → Trace) : State := updCore s c fun k => { k with trace := f k.trace }

/-! ### Writing one record (R464, R465, R467, R469) -/

/-- KIND_EN group of a record kind; none for the kinds that no group gates (R466). -/
def traceGroup (kind : Nat) : Option Nat :=
  if kind ≤ 0x04 then some 0 else if kind ≤ 0x06 then some 1 else if kind == 0x07 then some 2 else if kind == 0x08 then some 3
  else if kind == 0x10 || kind == 0x11 then some 4 else none

/-- Whether core c records this kind (R466). Link kinds need PORT_EN of port c; COUNTER records need BANK_TRACE. -/
def traceOn (s : State) (c : Fin 16) (kind : Nat) : Bool :=
  regBit s (offTctl c) 16 &&
  (match traceGroup kind with
   | some g => regBit s (offTctl c) g && (g != 4 || regBit s offObsCtl c)
   | none => kind != 0x18 || regBit s offObsCtl 16)

/-- The 32 bytes of a record (R465). FINE counts cycles of the stamping domain, which the model leaves open (log entry 3). -/
def traceBytes (s : State) (c : Fin 16) (kind unit index info : Nat) (w : Who) (data : Nat) : List Byte :=
  le4 (kind + unit * 2 ^ 8 + index * 2 ^ 12 + w.q * 2 ^ 16 + (info % 256) * 2 ^ 24) ++ le4 (w.layer % 2 ^ 24) ++
  le4 (w.op + s.cores[c].trace.rseq * 2 ^ 16) ++ le4 w.idx ++
  le8 (s.gauge.count % 2 ^ 48 + (Config.freeNat s.fresh % 2048) * 2 ^ 48 + b2n (s.gauge.src == 2) * 2 ^ 59) ++ le8 data

/-- The spill ring takes what has not drained (R469): SPILL set and SPILL_SIZE not zero. -/
def spillOn (s : State) (c : Fin 16) : Bool := regBit s (offTctl c) 17 && regField s (offSpill c) 0 16 != 0

/-- The counts of a bank after `n` events of a code; OBS_EVSEL gives the codes of counters 1 to 7 (R454, R458). -/
def countsAdd (evsel code n : Nat) (cnts : List Nat) : List Nat :=
  (List.range 8).map fun i =>
    if i ≠ 0 ∧ bits evsel (8 * (i - 1)) 8 = code then min (cnts.getD i 0 + n) (2 ^ 48 - 1) else cnts.getD i 0

/-- The active bank of a core counts `n` events of a code (R454, R458). -/
def countEv (s : State) (c : Fin 16) (code n : Nat) : State :=
  updCore s c fun k => { k with active := { k.active with cnts := countsAdd k.evsel.toNat code n k.active.cnts } }

/-- Room in the staging queue of 64 records, which empties at one record per ACLK (R464): while no more than 63 have entered it is
certain; at 64 the ACLK that have passed are left open (log entry 24). -/
def stageRoom (s : State) (c : Fin 16) : Option Nat :=
  let t := s.cores[c].trace
  if t.staged < 64 then some t.staged
  else match Config.freeNat s.fresh % 65 with
    | 0 => none
    | n + 1 => some (63 - n)

/-- The place of the next record to drain in the spill ring (R469). -/
def spillAddr (s : State) (c : Fin 16) : Nat :=
  (regField s (offSpill c) 20 44 * 2 ^ 20 + 32 * (s.cores[c].trace.spilled % (regField s (offSpill c) 0 16 * 32768))) % 2 ^ 64

/-- Records can drain: the ring is on, and its address takes writes (R245, R406, R469, R512). -/
def spillOpen (s : State) (c : Fin 16) : Bool := spillOn s c && accessRefused s (spillAddr s c) == 0 && s.fatal.isNone

/-- The oldest record of the on-die queue. -/
def oldestRec (t : Trace) : List Byte := getCell (fun _ => List.replicate 32 (0 : Byte)) ((t.wptr + 65536 - t.undrained) % 65536) t.slots

/-- Whether a full on-die queue has let its oldest record go by the time of this one, which the spec leaves to time (R469; log entry 24);
the record is then on its way to the spill ring. -/
def leaveQueue (t : Trace) : Trace := { t with leaving := t.leaving ++ [oldestRec t], undrained := t.undrained - 1 }

/-- A record placed in its slot, whatever its kind, where the staging queue and the on-die queue have room (R464, R469). -/
def placeTrace (s : State) (c : Fin 16) (bytes : List Byte) : State × Bool :=
  let full := spillOn s c && decide (65536 ≤ s.cores[c].trace.undrained)
  let room := !full || (spillOpen s c && Config.freeTicks s.fresh (144 + c.val) % 2 == 1)
  match stageRoom s c with
  | none => (freshen s, false)
  | some n =>
    if !room then (freshen s, false)
    else
      let s := updTrace (freshen s) c fun t =>
        let t := if full then leaveQueue t else t
        { t with slots := putCell (fun _ => List.replicate 32 (0 : Byte)) t.wptr bytes t.slots
                 wptr := (t.wptr + 1) % 65536, rseq := (t.rseq + 1) % 65536, staged := n + 1
                 undrained := if spillOn s c then t.undrained + 1 else 0 }
      (countEv s c 0x38 1, true)

/-- A record dropped and counted (R464, R473). -/
def dropTrace (s : State) (c : Fin 16) : State :=
  let s := cntInc (setFlagOnly s (offTdrop c) 0) (offTdrop c) 32 32
  countEv (updTrace s c fun t => { t with dropped := t.dropped + 1 }) c 0x39 1

/-- The records still to be written after a trigger, and the freeze at the last (R468). -/
def countPost (s : State) (c : Fin 16) : State :=
  updTrace s c fun t => match t.post with
    | some (n + 1) => if n = 0 then { t with post := none, frozen := true } else { t with post := some n }
    | _ => t

/-! ### Triggers (R468, R471) -/

/-- The trigger of core c fires: ARM clears, the TRIGGER record is written, and POST_COUNT records follow. Ignored where ARM is 0 or
the buffer is frozen (R471). A trigger by software is of unit 6 (log entry 24). -/
def fireTrigger (s : State) (c : Fin 16) (info : Nat) : State :=
  if !regBit s (offTrig c) 55 || s.cores[c].trace.frozen then s
  else
    let s := regPutField s (offTrig c) 55 1 0
    let x := if regBit s (offTctl c) 16 then
        placeTrace s c (traceBytes s c 0x1B (if info == 4 then 6 else 0) 0 info Who.none 0) else (s, true)
    let s := if x.2 then countPost x.1 c else dropTrace x.1 c
    let n := regField s (offTctl c) 48 16
    updTrace s c fun t => { t with triggered := true, post := if n = 0 then none else some n, frozen := t.frozen || n == 0 }

/-- The enabled match fields equal the record's; at least one is enabled (log entry 24). -/
def traceMatch (s : State) (c : Fin 16) (kind : Nat) (w : Who) : Bool :=
  let m := fun (b : Nat) => regBit s (offTrig c) b
  (m 49 || m 50 || m 51) && (!m 49 || regField s (offTrig c) 0 24 == w.layer % 2 ^ 24) &&
  (!m 50 || regField s (offTrig c) 24 16 == w.op) && (!m 51 || regField s (offTrig c) 40 8 == kind)

/-- A record that has been produced fires the trigger that it matches; whether one fired (R468). -/
def matchFire (s : State) (c : Fin 16) (kind : Nat) (w : Who) : State × Bool :=
  if traceMatch s c kind w && regBit s (offTrig c) 55 && !s.cores[c].trace.frozen then (fireTrigger s c 1, true) else (s, false)

/-- A record goes to its slot or is dropped. One that fires a trigger and finds no room is counted after the TRIGGER record (R471). -/
def putTrace (s : State) (c : Fin 16) (kind unit index info : Nat) (w : Who) (data : Nat) : State × Bool :=
  let x := placeTrace s c (traceBytes s c kind unit index info w data)
  if x.2 then matchFire (countPost x.1 c) c kind w
  else let y := matchFire x.1 c kind w; (dropTrace y.1 c, y.2)

/-- The DROP record of the records dropped, once space has returned (R464). -/
def putDrops (s : State) (c : Fin 16) : State × Bool :=
  let n := s.cores[c].trace.dropped
  if n == 0 || s.cores[c].trace.frozen || !traceOn s c 0x1A then (s, false)
  else
    let x := placeTrace s c (traceBytes s c 0x1A 0 0 0 Who.none n)
    if x.2 then matchFire (countPost (updTrace x.1 c fun t => { t with dropped := 0 }) c) c 0x1A Who.none else (x.1, false)

/-- A record that core c produces, after the DROP record that is due; a frozen buffer discards both (R468). Where that DROP record finds no
room this one is dropped too, and meets the trigger's match all the same. Whether a trigger fired. -/
def produce (s : State) (c : Fin 16) (kind unit index info : Nat) (w : Who) (data : Nat) : State × Bool :=
  if !traceOn s c kind || s.cores[c].trace.frozen then (s, false)
  else
    let x := putDrops s c
    if x.1.cores[c].trace.frozen then x
    else if x.1.cores[c].trace.dropped != 0 then let y := matchFire x.1 c kind w; (dropTrace y.1 c, x.2 || y.2)
    else let y := putTrace x.1 c kind unit index info w data; (y.1, x.2 || y.2)

/-- A trigger that fired reaches every other core when TRIG_ALL is 1; a core whose own trigger has fired with it keeps its own cause,
which is the lower (R468, R471). -/
def broadcast (x : State × Bool) : State :=
  if x.2 && regBit x.1 offObsCtl 17 then (List.finRange 16).foldl (fun s (d : Fin 16) => fireTrigger s d 5) x.1 else x.1

/-- A cause that every core takes whose OBS_TRIG enable bit is 1: ON_ERR at 52, ON_HALT at 53. -/
def triggerAll (s : State) (bit info : Nat) : State :=
  broadcast ((List.finRange 16).foldl (fun (x : State × Bool) (c : Fin 16) =>
    if regBit x.1 (offTrig c) bit && regBit x.1 (offTrig c) 55 && !x.1.cores[c].trace.frozen then (fireTrigger x.1 c info, true) else x)
    (s, false))

/-- Software fires the trigger of core c. -/
def triggerSw (s : State) (c : Fin 16) : State :=
  broadcast (fireTrigger s c 4, regBit s (offTrig c) 55 && !s.cores[c].trace.frozen)

/-- A record of core c. -/
def traceRec (s : State) (c : Fin 16) (kind unit index info : Nat) (w : Who) (data : Nat) : State :=
  broadcast (produce s c kind unit index info w data)

/-- A record on each core for which `data` gives its DATA. -/
def traceEach (s : State) (kind unit info : Nat) (w : Who) (data : Fin 16 → Option Nat) : State :=
  broadcast ((List.finRange 16).foldl (fun (x : State × Bool) (c : Fin 16) =>
    match data c with
    | some n => let y := produce x.1 c kind unit 0 info w n; (y.1, x.2 || y.2)
    | none => x) (s, false))

/-- The same record on every core. -/
def traceAll (s : State) (kind unit info : Nat) (w : Who) (data : Nat) : State := traceEach s kind unit info w fun _ => some data

/-- The same record on the cores of a mask. -/
def traceCores (s : State) (mask kind unit info : Nat) (w : Who) (data : Nat) : State :=
  traceEach s kind unit info w fun c => if bitAt mask c then some data else none

/-! ### Counter banks (R454 to R457) -/

/-- The events of R458 whose number the model leaves to time: cycles, grants and lines of traffic (log entry 3). The others are counted
where they happen. -/
def evTimed (code : Nat) : Bool :=
  [0x01, 0x05, 0x06, 0x07, 0x08, 0x10, 0x11, 0x12, 0x18].contains code || (decide (0x20 ≤ code) && decide (code ≤ 0x26))

/-- What counter `i` of core `c` has gathered of a timed event from one value of `fresh` to another: it only grows (log entry 3). -/
def ticksFrom (c i since now : Nat) : Nat := (List.range (now - since)).foldl (fun n k => n + Config.freeTicks (since + k) (8 * c + i)) 0

/-- The counts of the active bank of a core now: CNT0 counts cycles (R454, R458). -/
def bankCounts (s : State) (c : Fin 16) : List Nat :=
  let b := s.cores[c].active
  (List.range 8).map fun i =>
    let x := b.cnts.getD i 0
    if i == 0 || evTimed (bits s.cores[c].evsel.toNat (8 * (i - 1)) 8) then min (x + ticksFrom c.val i b.since s.fresh) (2 ^ 48 - 1) else x

/-- A command other than the one that opened the active bank runs on the core (R455). -/
def bankShared (s : State) (c : Fin 16) : Bool :=
  let b := s.cores[c].active
  (List.finRange 32).any fun q => s.queues[q].active.any fun x => bitAt x.cores c && !(b.queue == q.val && b.idx == x.idx.toNat)

/-- Work of a command that shares the core has reached it by now: left open, and once so it stays. -/
def workMet (s : State) (c : Fin 16) : Bool :=
  let b := s.cores[c].active
  (List.range (s.fresh - b.since)).any fun k => Config.freeTicks (b.since + k) (128 + c.val) % 2 == 1

/-- OVERLAP of the active bank (R455). -/
def bankOverlap (s : State) (c : Fin 16) : Bool :=
  let b := s.cores[c].active
  b.opened && (b.overlap || (bankShared s c && workMet s c))

/-- The bank image of 64 bytes (R457). -/
def bankImage (b : Bank) (active : Bool) : List Byte :=
  le4 (b.layer % 2 ^ 24 + b.queue * 2 ^ 24) ++
    le4 (b.op + b.kind * 2 ^ 16 + b2n b.opened * 2 ^ 24 + b2n b.overlap * 2 ^ 25 + b2n active * 2 ^ 26) ++ le4 b.idx ++ le4 b.start ++
    b.cnts.flatMap (leBytes 6)

/-- The active bank of a core as it stands now. -/
def bankNow (s : State) (c : Fin 16) : Bank := { s.cores[c].active with cnts := bankCounts s c, overlap := bankOverlap s c }

/-- The image of the active bank of a core, read now. -/
def activeImage (s : State) (c : Fin 16) : List Byte := bankImage (bankNow s c) true

/-- A swap (R455, R458): the new bank with a pending OBS_EVSEL, which counts from here on, and then the COUNTER records of the bank that has
frozen, which name its command (log entry 24). -/
def swapBank (s : State) (c : Fin 16) (w : Who) (kind : Nat) : State :=
  let b := bankNow s c
  let ev := s.cores[c].evsel.toNat
  let old : Who := if b.opened then ⟨b.queue, b.idx, b.layer, b.op⟩ else Who.none
  let s := updCore (freshen s) c fun k =>
    { k with frozen := b
             active := ⟨true, w.layer, w.q, w.op, kind, w.idx, s.gauge.count % 2 ^ 32, false, List.replicate 8 0, s.fresh + 1⟩
             evsel := if k.evPend then regGet s (offEvsel c) else k.evsel, evPend := false }
  (List.range 8).foldl (fun s i =>
    traceRec s c 0x18 0 0 i old (b.cnts.getD i 0 + (if i == 0 then 0 else bits ev (8 * (i - 1)) 8) * 2 ^ 48)) s

/-- The kinds whose first work swaps the banks (R455): LAYER, MOVE, UPDATE, PROGRAM_LOAD and TABLE_LOAD. -/
def swapKind (kind : Nat) : Bool := [1, 2, 4, 8, 9].contains kind

/-- The cores on which no UPDATE runs: a core runs one at a time (R215). -/
def freeUpdateCores (s : State) : List Nat :=
  (List.range 16).filter fun c => !(s.queues.toList.any fun u => u.active.any fun x => x.kind == 4 && bitAt x.cores c)

/-- The cores that take work of a command, left open but for there being one where its kind swaps banks, just one where one mover runs it
(`one`), and for an UPDATE just one that runs no other. A REDUCE or a SNAP may have work on any or none; the other kinds have none (R21,
R200, R215, R262; log entry 23). -/
def coresOf (s : State) (kind : Nat) (one : Bool) : Nat :=
  let some_ := if one then 0 else Config.freeNat (s.fresh + 1) % 65536
  if kind == 4 then
    let l := freeUpdateCores s
    2 ^ l.getD (Config.freeNat s.fresh % l.length) 0
  else if swapKind kind then some_ ||| 2 ^ (Config.freeNat s.fresh % 16)
  else if kind == 3 || kind == 10 then some_
  else 0

/-- A command's first work on its cores: the swap where its kind swaps, then CMD_START (R455, R466). -/
def coreBegin (s : State) (mask : Nat) (w : Who) (kind : Nat) : State :=
  if mask == 0 then s
  else
    (List.finRange 16).foldl (fun s (c : Fin 16) =>
      if bitAt mask c then
        if swapKind kind then traceRec (swapBank s c w kind) c 0x01 0 0 kind w 1 else traceRec s c 0x01 0 0 kind w 0
      else s) { s with fresh := s.fresh + 2 }

/-- A command that ends on its cores: a bank of another command that it has shared keeps OVERLAP (R455). -/
def shareEnds (s : State) (mask : Nat) (w : Who) : State :=
  { s with cores := Vector.ofFn fun c =>
      let k := s.cores[c]
      if bitAt mask c && k.active.opened && !(k.active.queue == w.q && k.active.idx == w.idx) then
        { k with active := { k.active with overlap := k.active.overlap || workMet s c } }
      else k }

/-- CMD_END on the cores of a command (R466); the ACLK that it held each of them are left open. -/
def coreEnd (s : State) (mask : Nat) (w : Who) (status : Nat) : State :=
  if mask == 0 then s
  else
    let s := shareEnds s mask w
    traceEach { s with fresh := s.fresh + 16 } 0x02 0 status w fun c =>
      if bitAt mask c then some (Config.freeNat (s.fresh + c.val) % 2 ^ 64) else none

/-- `n` events of a command on the cores of a mask (R458), of which each core counts at most `n`: which core has them, which share an ACLK,
and which a stop forestalls are left open (log entry 3). -/
def countShared (s : State) (mask code n : Nat) : State :=
  if n == 0 || mask == 0 then s
  else
    (List.finRange 16).foldl (fun t (c : Fin 16) =>
      if bitAt mask c then countEv t c code (Config.freeTicks s.fresh (160 + c.val) % (n + 1)) else t) (freshen s)

end Sys2Proof.Machine
end

