-- ==== Sys2Proof/Machine/Flags.lean ====
section
/-! DEFINITION. Event records and the flags set with them: the holding buffer (R354), the records of R377, R349, R397
and R398, the ECC flags of R249 to R254, and the check of every line a command reads or writes (R245, R250, R512). -/
namespace Sys2Proof.Machine

/-- A 64-byte event record from its common header (R376) and the bytes after it. -/
def evRecord (s : State) (kind q hi idx : Nat) (body : List Byte) : List Byte :=
  padTo 64 (le4 (kind + q * 2 ^ 8 + hi * 2 ^ 16) ++ le4 idx ++ le8 s.gauge.count ++ body)

/-- A record enters the holding buffer of 512 (R354). Records of no command take at most 256 entries and are otherwise
discarded and counted; a command's record waits for an entry. -/
def evPush (s : State) (q : Nat) (bytes : List Byte) : State :=
  if q == 0xFF then
    if decide (512 ≤ s.events.length) || decide (256 ≤ (s.events.filter fun e => e.queue == 0xFF).length) then
      { s with evLost := min (s.evLost + 1) 0xFFFF }
    else { s with events := s.events ++ [⟨q, bytes⟩] }
  else if decide (512 ≤ s.events.length) || !s.evWait.isEmpty then { s with evWait := s.evWait ++ [⟨q, bytes⟩] }
  else { s with events := s.events ++ [⟨q, bytes⟩] }

/-- The holding buffer takes a command's record at once (R354). -/
def evFree (s : State) : Bool := decide (s.events.length < 512) && s.evWait.isEmpty

/-- Engines in service (R418). -/
def engCount (s : State) : Nat := (s.inService.toList.filter id).length

/-- The word at 0x18 of an ERROR record (R397). -/
def errUnitWord (s : State) (unit index : Nat) : Nat := unit + index * 2 ^ 8 + engCount s * 2 ^ 16

/-- An ERROR record (R397) and the ERR_STAT flag of its class (R417). -/
def errEvent (s : State) (w : Who) (cause cls unit index count addr : Nat) : State :=
  let s := evPush s w.q (evRecord s 0x07 w.q (cause + cls * 2 ^ 8) w.idx
    (le4 w.layer ++ le4 w.op ++ le4 (errUnitWord s unit index) ++ le4 count ++ le8 addr))
  let s := if cls == 0 then setFlag s offErrStat 0 16 else if cls == 2 then setFlagOnly s offErrStat 2 else s
  triggerAll s 52 2

/-- A QUEUE record (R377). -/
def queueEvent (s : State) (cause : Nat) (w : Who) : State :=
  evPush s w.q (evRecord s 0x01 w.q cause w.idx (le4 w.layer ++ le4 w.op))

/-- A GAUGE record (R377) and its trace records (R466). -/
def gaugeEvent (s : State) (cause old new : Nat) : State :=
  let s := traceAll s 0x19 0 cause Who.none (new % 2 ^ 64)
  evPush s 0xFF (evRecord s 0x02 0xFF cause 0xFFFFFFFF
    (le8 old ++ le8 new ++ le4 s.gauge.epoch ++ le4 (s.gauge.src + (if cause == 5 then s.gauge.port * 2 ^ 4 else 0))))

/-- A HALT record (R377). -/
def haltEvent (s : State) (cause mask id origin hops : Nat) : State :=
  evPush s 0xFF (evRecord s 0x03 0xFF cause 0xFFFFFFFF (le4 mask ++ le4 id ++ le4 (origin + hops * 2 ^ 16)))

/-- A CLOCK record (R398). -/
def clockEvent (s : State) (cause old new : Nat) : State :=
  evPush s 0xFF (evRecord s 0x08 0xFF cause 0xFFFFFFFF (le4 (old + new * 2 ^ 2)))

/-! ### ECC findings (R249 to R254) -/

/-- The store codes of LAST_SRC and MEM_UEADDR.SRC (R253, R254). -/
def srcCode (a : Nat) : Nat :=
  match regionOf a with
  | .t1 => 0 | .t2 => 1 | .t3 => 2 | .core => 4 | .host => 6 | .unmapped => 7

/-- The core of a core-scratch address, 0 elsewhere. -/
def srcIndex (a : Nat) : Nat := if regionOf a = .core then (a - coreStart) / 0x800000 else 0

/-- The image of MEM_UEADDR for a line (R254). The offset of a core-scratch line is its byte offset within the
store, whose user region starts at 0x100_0000 (R256). -/
def ueImage (a : Nat) : Nat :=
  match regionOf a with
  | .host => 6 * 2 ^ 61 + bits (a - hostStart) 6 55 * 2 ^ 6
  | .core => 4 * 2 ^ 61 + srcIndex a * 2 ^ 54 + bits (0x1000000 + (a - coreStart) % 0x800000) 6 48 * 2 ^ 6
  | _ => srcCode a * 2 ^ 61 + bits (tierOffset a) 6 48 * 2 ^ 6

def lastSrc (s : State) (c : Nat) : State := regPutField s offEccstat 4 3 c

/-- A corrected error (R249). -/
def eccCorrected (s : State) (a : Nat) : State := lastSrc (setFlag s offEccstat 0 16) (srcCode a)

/-- The line recorded and its ERROR record of cause 0x04 (R250, R396). -/
def eccRecord (s : State) (w : Who) (a : Nat) : State :=
  let s := { s with ueAddr := BitVec.ofNat 64 (ueImage a) }
  let core := regionOf a = .core
  errEvent s w 0x04 1 (if core then 1 else 3) (srcIndex a) 0 (ueImage a)

/-- An uncorrectable error or a failed T3 tag: the line is stored poisoned (R250). -/
def eccUncorrected (s : State) (w : Who) (a : Nat) : State :=
  eccRecord (poisonLine (lastSrc (setFlag s offEccstat 1 32) (srcCode a)) (a / 64)) w a

/-- A corrected error at a line that the module corrects: T3 tags do not correct, and the host keeps its own code (R248, R249). One in
core scratch is an event of its core (R458). -/
def eccFound (s : State) (a : Nat) : State :=
  match regionOf a with
  | .t1 | .t2 => eccCorrected s a
  | .core => countEv (eccCorrected s a) ⟨srcIndex a % 16, Nat.mod_lt _ (by decide)⟩ 0x30 1
  | _ => s

/-- A line that the host returned with CXL poison (R250). -/
def eccHostPoison (s : State) (w : Who) (a : Nat) : State :=
  eccRecord (lastSrc (setFlag s offEccstat 2 48) 6) w a

/-- A command's view of memory checks as it runs: the findings still to come, whether an unbacked address was met
(R233), and what stopped it. -/
inductive Stop where
  /-- an access refused with this ERROR cause (R245, R512) -/
  | refused (cause : Nat)
  /-- a poisoned line read -/
  | poisoned (line : Nat)
  deriving DecidableEq, Repr

structure Chk where
  s : State
  env : List Finding
  unbacked : Bool
  stop : Option Stop
  deriving DecidableEq, Repr

def Chk.init (s : State) (env : List Finding) : Chk := ⟨s, env, false, none⟩

/-- The finding at this read of a line, and the findings left. -/
def takeFinding (l : Nat) : List Finding → Option FindKind × List Finding
  | [] => (none, [])
  | f :: r =>
    if f.line == l then
      if f.nth == 0 then (some f.kind, r)
      else let t := takeFinding l r; (t.1, { f with nth := f.nth - 1 } :: t.2)
    else let t := takeFinding l r; (t.1, f :: t.2)

/-- One line read: its check, its findings, and whether it is poisoned. The host returns a line that it holds poisoned with CXL poison at
every read (R250). -/
def Chk.readLine (w : Who) (c : Chk) (l : Nat) : Chk :=
  let a := 64 * l % 2 ^ 64
  if c.stop.isSome then c
  else if !backed c.s a then { c with unbacked := true }
  else if accessRefusedFor c.s (w.q, w.idx) a != 0 then
    let k := accessRefusedFor c.s (w.q, w.idx) a
    { c with s := errEvent c.s w k 1 3 0 0 0, stop := some (.refused k) }
  else
    let f := takeFinding (a / 64) c.env
    let bad := regionOf a = .t3 && t3Check c.s (tierOffset a / 256) == .fails
    let found := f.1 == some .ue || f.1 == some .hostPoison
    let s := if regionOf a = .host then (if found || linePoisoned c.s (a / 64) then eccHostPoison c.s w a else c.s)
      else if bad then eccUncorrected c.s w a
      else if found then (if linePoisoned c.s (a / 64) then c.s else eccUncorrected c.s w a)
      else if f.1 == some .ce then eccFound c.s a else c.s
    let p := linePoisoned s (a / 64) || found
    { c with s := s, env := f.2, stop := if p then some (.poisoned (a / 64)) else none }

/-- `n` bytes read from `a`. -/
def Chk.read (w : Who) (c : Chk) (a n : Nat) : Chk := (linesOf a n).foldl (Chk.readLine w) c

/-- The controller's own read of line `l` before a write of part of it is merged (R246, R244): a corrected error counts, and an
uncorrectable one or a failed tag leaves the line poisoned (R249, R250). The write itself goes on. -/
def Chk.mergeLine (w : Who) (c : Chk) (l : Nat) : Chk :=
  let a := 64 * l
  if c.stop.isSome || !backed c.s a || regionOf a = .host || accessRefusedFor c.s (w.q, w.idx) a != 0 then c
  else
    let f := takeFinding l c.env
    let bad := regionOf a = .t3 && t3Check c.s (tierOffset a / 256) == .fails
    { c with env := f.2, s := match f.1 with
      | some .ce => if bad then eccUncorrected c.s w a else eccFound c.s a
      | some .ue => if linePoisoned c.s l then c.s else eccUncorrected c.s w a
      | _ => if bad then eccUncorrected c.s w a else c.s }

/-- The lines that are read where a write covers those that hold the byte at `x` in part: the line, and in T3 those of its unit (R244,
R246). -/
def mergedAt (x : Nat) : List Nat := if regionOf x = .t3 then (List.range 4).map fun i => x / 256 * 4 + i else [x / 64]

/-- A write boundary at `x` cuts its line, or its unit in T3. -/
def cuts (x : Nat) : Bool := x % (if regionOf x = .t3 then 256 else 64) != 0

/-- The lines that a write of `n` bytes from `a` covers in part; in T3, those of the units it covers in part. -/
def partLines (a n : Nat) : List Nat :=
  if n = 0 then []
  else ((if cuts a then mergedAt a else []) ++ (if cuts (a + n) then mergedAt (a + n) else [])).eraseDups

/-- One line about to be written: refusals and unbacked addresses. -/
def Chk.writeLine (w : Who) (c : Chk) (l : Nat) : Chk :=
  let a := 64 * l % 2 ^ 64
  if c.stop.isSome then c
  else if !backed c.s a then { c with unbacked := true }
  else if accessRefusedFor c.s (w.q, w.idx) a != 0 then
    let k := accessRefusedFor c.s (w.q, w.idx) a
    { c with s := errEvent c.s w k 1 3 0 0 0, stop := some (.refused k) }
  else c

/-- `n` bytes about to be written from `a`: every line may take them, and the lines covered in part are read first. -/
def Chk.write (w : Who) (c : Chk) (a n : Nat) : Chk :=
  (partLines a n).foldl (Chk.mergeLine w) ((linesOf a n).foldl (Chk.writeLine w) c)

/-- `s` with what the checks that led to `t` have left: flags, marks, records and traces. -/
def leaveNotes (s t : State) : State :=
  { s with
    regs := t.regs, poison := t.poison, t3 := t.t3, ueAddr := t.ueAddr, events := t.events, evWait := t.evWait, evLost := t.evLost
    cores := t.cores, fresh := t.fresh }

/-- Ranges about to be written by a command of which no row brings the findings: the lines covered in part are read first, with
findings left open. -/
def Chk.writeOpen (w : Who) (s : State) (rs : List (Nat × Nat)) : Chk :=
  let c := rs.foldl (fun c r => (linesOf r.1 r.2).foldl (Chk.writeLine w) c) (Chk.init s [])
  let m := rs.foldl (fun c r => (partLines r.1 r.2).foldl (Chk.mergeLine w) c)
    { c with s := freshen c.s, env := Config.freeFindings s.fresh }
  { c with s := leaveNotes c.s m.s }

/-- A write of no command, such as a record: the lines that it covers in part are read first, with findings left open, which leave their
flags, records and marks (R244, R246, R249, R250). -/
def wrNoted (s : State) (a : Nat) (bs : List Byte) : State :=
  if s.fatal.isSome || bs.isEmpty then s
  else
    let c := (partLines a bs.length).foldl (Chk.mergeLine Who.none) (Chk.init (freshen s) (Config.freeFindings s.fresh))
    leaveNotes (wr s a bs) (wr c.s a bs)

/-! ### What time brings to a trace unit (R464, R469) -/

/-- A record that reaches its slot of the spill ring (R469). -/
def spillRec (s : State) (c : Fin 16) (r : List Byte) : State :=
  updTrace (wrNoted s (spillAddr s c) r) c fun t => { t with spilled := t.spilled + 1 }

/-- Records drain into the spill ring, oldest first, while its address takes writes: those on their way, then those of the on-die queue
(R469). -/
def drain : Nat → State → Fin 16 → State
  | 0, s, _ => s
  | n + 1, s, c =>
    let t := s.cores[c].trace
    if !spillOpen s c then s
    else match t.leaving with
      | r :: rest => drain n (updTrace (spillRec s c r) c fun t => { t with leaving := rest }) c
      | [] =>
        if t.undrained == 0 then s
        else drain n (updTrace (spillRec s c (oldestRec t)) c fun t => { t with undrained := t.undrained - 1 }) c

/-- The queue of a core drains, and the DROP record that is due is written. -/
def settleTrace (s : State) (c : Fin 16) : State :=
  broadcast (putDrops (drain (s.cores[c].trace.leaving.length + s.cores[c].trace.undrained) s c) c)

/-- The same for every core. -/
def settleTraces (s : State) : State := (List.finRange 16).foldl settleTrace s

/-- The stop cleared, for a consumer that goes on (R307). -/
def Chk.go (c : Chk) : Chk := { c with stop := none }

end Sys2Proof.Machine
end

