-- ==== Sys2Proof/Machine/Operands.lean ====
section
/-! DEFINITION. The operand forms of descriptors: header (R357), tensor references (R359) with their clamps
(R37, R46, R54, R58, R70, R71, R518), bodies (R362 to R365), and scale records (R55, R56). -/
namespace Sys2Proof.Machine

abbrev Desc := List Byte

/-! ### Header (R357) -/
def dKindRaw (d : Desc) : Nat := fieldAt d 0x00 4 0 8
/-- KIND after its clamp: 0x0B to 0xFF are NOP (R387). -/
def dKind (d : Desc) : Nat := if dKindRaw d ≤ 0x0A then dKindRaw d else 0
def dIrq (d : Desc) : Bool := bitAt (fieldAt d 0x00 4 0 32) 8
def dWaitEn (d : Desc) : Bool := bitAt (fieldAt d 0x00 4 0 32) 9
def dSigEn (d : Desc) : Bool := bitAt (fieldAt d 0x00 4 0 32) 10
def dWaitTok (d : Desc) : Nat := fieldAt d 0x00 4 16 8
def dSigTok (d : Desc) : Nat := fieldAt d 0x00 4 24 8
def dWaitVal (d : Desc) : Nat := fieldAt d 0x04 4 0 32
def dLayer (d : Desc) : Nat := fieldAt d 0x08 4 0 24
def dOp (d : Desc) : Nat := fieldAt d 0x0C 4 0 16
def dStep (d : Desc) : Nat := fieldAt d 0x10 4 0 32
def dNotBefore (d : Desc) : Nat := fieldAt d 0x18 8 0 64
def dDeadline (d : Desc) : Nat := fieldAt d 0x20 8 0 64

/-! ### Tensor references (R359) -/

structure TRef where
  addr : Nat
  fmt : Nat
  residual : Bool
  /-- RND, SCALE_KIND and OVF_MODE of the conversion control byte (R54) -/
  rnd : Nat
  scale : Nat
  nonSat : Bool
  role : Nat
  scaleOff : Int
  deriving DecidableEq, Repr

/-- A reference as it stands at a byte offset of a descriptor. -/
def TRef.parse (d : Desc) (off : Nat) : TRef :=
  { addr := fieldAt d off 8 0 64
    fmt := fieldAt d (off + 8) 1 0 5
    residual := bitAt (fieldAt d (off + 8) 1 0 8) 5
    rnd := fieldAt d (off + 9) 1 0 2
    scale := fieldAt d (off + 9) 1 2 2
    nonSat := bitAt (fieldAt d (off + 9) 1 0 8) 4
    role := fieldAt d (off + 10) 1 0 8
    scaleOff := sext 32 (fieldAt d (off + 12) 4 0 32) }

/-- A value with the number of illegal values replaced in it (R387). -/
abbrev Cl (α : Type) := α × Nat

def Cl.bind {α β : Type} (x : Cl α) (f : α → Cl β) : Cl β := let y := f x.1; (y.1, x.2 + y.2)

/-- `a` replaced by `b` and counted when `c` holds. -/
def clampIf {α : Type} (c : Bool) (b a : α) : Cl α := if c then (b, 1) else (a, 0)

/-- Bits [5:0] of a tensor address are taken as zero (R359). -/
def TRef.clampAddr (r : TRef) : Cl TRef := clampIf (r.addr % 64 != 0) { r with addr := r.addr / 64 * 64 } r

/-- ROLE.KIND 0x7 to 0xF becomes 0x0 (R70). -/
def TRef.clampRole (r : TRef) : Cl TRef := clampIf (decide (7 ≤ r.role % 16)) { r with role := r.role / 16 * 16 } r

/-- KIND is ACT_GRAD or WEIGHT_GRAD (R71). -/
def roleGrad (role : Nat) : Bool := role % 16 == 2 || role % 16 == 3

/-- The formats a gradient tensor may take (R71). -/
def gradFmt (c : Nat) : Bool := [0x00, 0x02, 0x03, 0x04, 0x05, 0x06].contains c

/-- FORMAT after R71 and the acceptance list of the field (R37, R518). -/
def TRef.clampFmt (accept : Nat → Bool) (r : TRef) : Cl TRef :=
  if roleGrad r.role then clampIf (!gradFmt r.fmt) { r with fmt := 0x05 } r
  else clampIf (!accept r.fmt) { r with fmt := 0x00 } r

/-- The conversion control byte after its clamps (R46, R54, R58). -/
def TRef.clampConv (r : TRef) : Cl TRef :=
  Cl.bind (clampIf (decide (2 ≤ r.rnd)) { r with rnd := 0 } r) fun r =>
  Cl.bind (clampIf (r.fmt == 0x08 && r.scale != 0) { r with scale := 0 } r) fun r =>
  clampIf (r.scale == 3 && !([0x04, 0x05, 0x06].contains r.fmt)) { r with scale := 1 } r

/-- A residual stream is FP32 without a scale; another code in either field counts once (R191). -/
def TRef.clampResidual (r : TRef) : Cl TRef :=
  clampIf (r.residual && r.role % 16 == 0 && (r.fmt != 0 || r.scale != 0)) { r with fmt := 0, scale := 0 } r

/-- The whole reference of a converting field. -/
def TRef.clamp (accept : Nat → Bool) (r : TRef) : Cl TRef :=
  Cl.bind r.clampAddr fun r => Cl.bind r.clampRole fun r => Cl.bind (r.clampFmt accept) fun r => r.clampConv

/-- The reference of a field whose FORMAT is ignored and whose elements are bytes or words (R518): the clamps that its other fields
have (R54, R58, R70, R359). -/
def TRef.clampPlain (r : TRef) : Cl TRef :=
  Cl.bind r.clampAddr fun r => Cl.bind r.clampRole fun r =>
  Cl.bind (clampIf (decide (2 ≤ r.rnd)) { r with rnd := 0 } r) fun r => clampIf (r.scale == 3) { r with scale := 1 } r

/-- Where the scale records, block scales or codebooks lie (R359). -/
def TRef.scaleAddr (r : TRef) : Nat := (((r.addr : Int) + 64 * r.scaleOff) % (2 ^ 64 : Nat)).toNat

def fmtOf (c : Nat) : Fmt := (fmtOfCode c).getD .fp32

/-- Acceptance lists of R518. -/
def acceptStream (c : Nat) : Bool := [0x00, 0x02, 0x03, 0x04, 0x05, 0x06, 0x07, 0x09, 0x0A, 0x0B, 0x0D, 0x0E].contains c
def acceptStat (c : Nat) : Bool := acceptStream c || c == 0x08
def acceptOut (c : Nat) : Bool := acceptStat c || c == 0x0C
def acceptMoveConv (c : Nat) : Bool := decide (c ≤ 0x0E)
def acceptMove (c : Nat) : Bool := decide (c ≤ 0x0F)

/-! ### Scale records (R55, R56) -/

/-- SCALE and QSCALE as read; SCALE = QSCALE = 1.0 where a field is no normal number. -/
structure ScaleRec where
  scale : Nat
  qscale : Nat
  deriving DecidableEq, Repr

def ScaleRec.one : ScaleRec := ⟨0x3F800000, 0x3F800000⟩

/-- Zero, subnormal, infinite or NaN. -/
def notNormal32 (x : Nat) : Bool := bits x 23 8 == 0 || bits x 23 8 == 0xFF

/-- Eight bytes as a scale record (R56). -/
def scaleRec (bs : List Byte) : Cl ScaleRec :=
  let a := leNat (bs.take 4)
  let b := leNat ((bs.drop 4).take 4)
  clampIf (notNormal32 a || notNormal32 b) ScaleRec.one ⟨a, b⟩

/-- The records of a per-tensor scale or of `n` rows, from the bytes that hold them. -/
def scaleRecs (bs : List Byte) : Nat → Cl (List ScaleRec)
  | 0 => ([], 0)
  | n + 1 => Cl.bind (scaleRec (bs.take 8)) fun r => let t := scaleRecs (bs.drop 8) n; (r :: t.1, t.2)

/-- A binary32 code as a signed exact factor. -/
def f32Val (x : Nat) : EVal := (splitFp .fp32 ⟨8, 23, 127⟩ x).val

/-- The exact product of two values; infinities and NaN follow IEEE 754. The sign of a zero, of an infinity and so of an overflow
under a negative SCALE or QSCALE is the product's: a DESIGN CHOICE (log entry 47), since the rules speak of the input's sign. -/
def EVal.mulV (a b : EVal) : EVal :=
  match a, b with
  | .nan, _ => .nan
  | _, .nan => .nan
  | .inf n, .inf m => .inf (n != m)
  | .inf n, .fin m x => if x.isZero then .nan else .inf (n != m)
  | .fin n x, .inf m => if x.isZero then .nan else .inf (n != m)
  | .fin n x, .fin m y => .fin (n != m) (x.mul y)

/-- The rounding mode of a target (R69 to R72): stochastic for gradients and RND 0b01, with the element's braid bits. -/
def rndOf (role rnd : Nat) (braid : Nat) : Rnd := if roleGrad role || rnd == 1 then .stoch braid else .rne

end Sys2Proof.Machine
end

