-- ==== Sys2Proof/Machine/Ops.lean ====
section
/-! DEFINITION. The shared operations on queues: submitting, starting and completing a command, stopping a queue
(R350 to R375, R384), and the QUE register images they use. -/
namespace Sys2Proof.Machine

/-! ### One queue -/

def updQ (s : State) (q : Fin 32) (f : Queue → Queue) : State := { s with queues := s.queues.set q (f s.queues[q]) }

/-- Clamps counted in QUE_Qn_STAT.CLAMP_CNT, saturating (R387, R389). -/
def addClamps (s : State) (q : Fin 32) (n : Nat) : State :=
  updQ s q fun u => { u with clamps := min (u.clamps + n) 0xFFFFFF }

def sqSize (s : State) (q : Fin 32) : Nat := 2 ^ regField s (offQsq q) 0 5
def cqSize (s : State) (q : Fin 32) : Nat := 2 ^ regField s (offQcq q) 0 5
def sqBase (s : State) (q : Fin 32) : Nat := regField s (offQsq q) 12 52 * 4096
def cqBase (s : State) (q : Fin 32) : Nat := regField s (offQcq q) 12 52 * 4096

/-- The address of the SQ slot of a ring index (R351). -/
def sqSlot (s : State) (q : Fin 32) (i : BitVec 32) : Nat := (sqBase s q + 128 * (i.toNat % sqSize s q)) % 2 ^ 64

/-- A CQ slot can be reserved (R353): records written and reserved, less the count acknowledged, stay within the CQ. -/
def cqRoom (s : State) (q : Fin 32) : Bool :=
  let u := s.queues[q]
  decide ((BitVec.ofNat 32 (u.cqCount + u.recs.length + u.active.length + 1) - u.cqHead).toNat ≤ cqSize s q)

/-- A record of a command of queue q waits for an entry of the holding buffer (R354). -/
def evBlocked (s : State) (q : Fin 32) : Bool := s.evWait.any fun e => e.queue == q.val

/-- No queue works: the module is not in service, or a device-fatal error stopped it (R406, R494). -/
def inService (s : State) : Bool := s.phase == .run && s.fatal.isNone

/-- Who a command is, for its events. -/
def whoOf (q : Fin 32) (idx : BitVec 32) (d : Desc) : Who := ⟨q, idx.toNat, dLayer d, dOp d⟩

/-- The token wait of R371. -/
def tokenMet (s : State) (d : Desc) : Bool :=
  !dWaitEn d || decide (0 ≤ sext 32 ((s.tokens[dWaitTok d % 256]'(Nat.mod_lt _ (by decide)) - BitVec.ofNat 32 (dWaitVal d)).toNat))

/-- What stands at the head of a queue whose turn it is (R368 conditions 1, 2 and 5; R251; R512). -/
inductive Head where
  /-- nothing can start -/
  | none
  /-- the descriptor was read poisoned -/
  | bad (c : Chk)
  | got (c : Chk) (d : Desc)
  deriving DecidableEq, Repr

/-- Conditions that do not depend on the descriptor. -/
def queueReady (s : State) (q : Fin 32) : Bool :=
  inService s && s.queues[q].state == .running && s.queues[q].head != s.queues[q].tail && cqRoom s q && !evBlocked s q

/-- The fetch of the next descriptor. A fetch that R245 or R512 refuses waits. That an SQ slot is unbacked counts no clamp of the command
fetched there: a DESIGN CHOICE (log entry 47), since R233 counts an access of a command and the fetch comes before there is one. -/
def fetchHead (s : State) (q : Fin 32) (env : List Finding) : Head :=
  let a := sqSlot s q s.queues[q].head
  if !queueReady s q then .none
  else if accessRefused s a != 0 then .none
  else
    let c := Chk.read ⟨q, s.queues[q].head.toNat, 0, 0⟩ (Chk.init s env) a 128
    match c.stop with
    | some _ => .bad c
    | none => .got { c with unbacked := false } (rd c.s a 128)

/-- The remaining conditions of R368 that every kind has. -/
def descReady (s : State) (d : Desc) : Bool := tokenMet s d && decide (dNotBefore d ≤ s.gauge.count)

/-! ### Starting -/

def zeroResult : List Byte := List.replicate 16 0

/-- A fresh running command. -/
def mkCmd (idx : BitVec 32) (d : Desc) (clamped : Bool) : Cmd :=
  { idx := idx, desc := d, kind := dKind d, status := 0, clamped := clamped, cores := 0, result := zeroResult, writes := [], dests := [], work := .plain }

/-- The head moves on and the command runs. -/
def pushCmd (s : State) (q : Fin 32) (c : Cmd) : State :=
  updQ s q fun u => { u with head := u.head + 1, active := u.active ++ [c] }

/-! ### Engines that work on a command (R99, R101) -/

def engFin (e : Nat) : Fin 96 := ⟨e % 96, Nat.mod_lt _ (by decide)⟩

/-- The core of an engine (R22). -/
def engCore (e : Fin 96) : Fin 16 := ⟨e.val / 6, by omega⟩

def updE (s : State) (e : Fin 96) (f : Engine → Engine) : State := { s with engines := s.engines.set e (f s.engines[e]) }

/-- Both buffers invalid and the counter 0 (R96). -/
def Engine.invalidate (g : Engine) : Engine :=
  let inv := fun (b : StatBuf) => { b with valid := false, released := false }
  { g with counter := 0, bufA := inv g.bufA, bufB := inv g.bufB }

/-- The engine drains, which is counted, and both its buffers are invalidated (R99, R101, R458). -/
def abortEngine (s : State) (e : Fin 96) : State := updE (countEv s (engCore e) 0x04 1) e Engine.invalidate

/-- An abort of work that was dealt to the engines `es`: those abort that still work on it, which the spec leaves to time (R101; log
entry 9). -/
def abortSome (s : State) (es : List Nat) : State :=
  (List.range 96).foldl (fun t e => if es.contains e && Config.freeEngine s.fresh e % 2 == 1 then abortEngine t (engFin e) else t) (freshen s)

/-- The engines that have taken tiles of the operator at ring index `idx` of the run in progress. -/
def opEngines (s : State) (q : Fin 32) (idx : BitVec 32) : List Nat :=
  match s.queues[q].run with
  | some r => match findIdx? (fun (c : Cmd) => c.idx == idx) s.queues[q].active 0 with
    | some k => (r.ops[k]?.map OpRec.tiles).getD []
    | none => []
  | none => []

/-! ### Records and completion (R373 to R375) -/

/-- The 32 bytes of a completion record. -/
def compRecord (s : State) (c : Cmd) (status : Nat) : List Byte :=
  let late := dDeadline c.desc != 0 && c.kind != 3 && decide (dDeadline c.desc < s.gauge.count)
  le4 (c.kind + status * 2 ^ 8 + b2n late * 2 ^ 12 + b2n c.clamped * 2 ^ 13) ++ le4 c.idx.toNat ++ le8 s.gauge.count
    ++ padTo 16 c.result

def msixFin (v : Nat) : Fin 34 := ⟨v % 34, Nat.mod_lt _ (by decide)⟩

/-- MSI-X (R355, R510): a masked vector is pending, and one whose message the host link drops is lost (R511). -/
def raise (s : State) (v : Nat) : State :=
  if s.msix[msixFin v].masked then { s with msixPending := s.msixPending.set (msixFin v) true }
  else if ioOk s then { s with outbox := s.outbox ++ [.msix v] } else s

/-- What a register or doorbell write of the host does, where it arrives (R511). -/
def fromHost (s : State) (go : State → State) : State := if ioOk s then go s else s

/-- The slot of the next completion record, and the place of the write-back of the count (R351). -/
def cqSlotOf (s : State) (q : Fin 32) : Nat := (cqBase s q + 32 * (s.queues[q].cqCount % cqSize s q)) % 2 ^ 64
def cqTailOf (s : State) (q : Fin 32) : Nat := (cqBase s q + 32 * cqSize s q) % 2 ^ 64

/-- The next completion record and its write-back can be written (R512). -/
def cqOk (s : State) (q : Fin 32) : Bool := accessRefused s (cqSlotOf s q) == 0 && accessRefused s (cqTailOf s q) == 0

/-- The ring index after the descriptor that a record names (R352, R373). -/
def recNext (r : List Byte) : BitVec 32 := BitVec.ofNat 32 (fieldAt r 4 4 0 32) + 1

/-- One record written to its slot, which frees its SQ slot, then the CQ tail write-back, then the vector (R351, R352,
R355). -/
def writeRec (s : State) (q : Fin 32) (r : List Byte × Bool) : State :=
  let t := wrNoted s (cqSlotOf s q) r.1
  let t := updQ t q fun u => { u with cqCount := u.cqCount + 1, oldest := recNext r.1 }
  let t := wrNoted t (cqTailOf s q) (le8 (s.queues[q].cqCount + 1))
  if r.2 && regBit s (offQctl q) 3 then raise t q else t

/-- The records that wait are written, in order, each once its slot can be reached. -/
def writeRecs (q : Fin 32) : Nat → State → State
  | 0, s => s
  | n + 1, s =>
    match s.queues[q].recs with
    | [] => s
    | r :: rs => if cqOk s q then writeRecs q n (writeRec (updQ s q fun u => { u with recs := rs }) q r) else s

def flushRecs (s : State) (q : Fin 32) : State := writeRecs q s.queues[q].recs.length s

/-- The mover that takes the traffic of a command, as the UNIT of its records (R465): MV1 (4) for a LAYER of which an operand or
the output is a gradient and for a MOVE to one, MV0 (3) for the others and for UPDATE; none for the other kinds (R238, R264). -/
def moverUnit (kind : Nat) (d : Desc) : Option Nat :=
  let grad := fun (off : Nat) => roleGrad (TRef.parse d off).role
  match kind with
  | 1 => some (if grad 0x28 || grad 0x38 || grad 0x48 then 4 else 3)
  | 2 => some (if grad 0x38 then 4 else 3)
  | 4 => some 3
  | _ => none

/-- Bit `k` alone is set. -/
def onlyBit (mask k : Nat) : Bool := mask == 2 ^ k

/-- An atomic MOVE (R362). -/
def isAtomicMove (d : Desc) : Bool := dKind d == 2 && fieldAt d 0x58 4 2 2 == 2

/-- A SWAP or CAS MOVE runs on one mover (R262). -/
def oneMover (d : Desc) : Bool := isAtomicMove d && decide (2 ≤ fieldAt d 0x58 4 4 4) && decide (fieldAt d 0x58 4 4 4 ≤ 5)

/-- The last work of a command leaves its cores: the MOVER end with the bytes that each core's mover moved, and CMD_END (R466). A MOVE on one
core that ends DONE moves what it writes; how several cores share it, what one that stops has moved, and the bytes that staging, an atomic
MOVE and an UPDATE move, are left open (log entry 23). -/
def endWork (s : State) (c : Cmd) (status : Nat) (w : Who) : State :=
  let s := match moverUnit c.kind c.desc with
    | some u =>
      if c.cores == 0 then s
      else
        let bytes := c.writes.foldl (fun n x => n + x.bytes.length) 0
        let part := fun (k : Nat) => if c.kind != 2 || isAtomicMove c.desc then Config.freeNat (s.fresh + k) % 2 ^ 64
          else if onlyBit c.cores k && status == 0 then bytes else Config.freeNat (s.fresh + k) % (bytes + 1)
        traceEach { s with fresh := s.fresh + 16 } 0x07 u 1 w fun k => if bitAt c.cores k then some (part k) else none
    | none => s
  coreEnd s c.cores w status

/-- A completion record is formed, the command's work ends, and the records that wait are written. -/
def putRec (s : State) (q : Fin 32) (c : Cmd) (status : Nat) : State :=
  let r := compRecord s c status
  let s := endWork s c status (whoOf q c.idx c.desc)
  flushRecs (updQ s q fun u => { u with recs := u.recs ++ [(r, dIrq c.desc)] }) q

/-- A token counter changed. -/
def tokenMap (s : State) (t : Nat) (f : BitVec 32 → BitVec 32) : State :=
  { s with tokens := s.tokens.set (t % 256) (f (s.tokens[t % 256]'(Nat.mod_lt _ (by decide)))) (Nat.mod_lt _ (by decide)) }

/-- A queue that leaves RUNNING satisfies every FENCE that waits for it (R372). -/
def dropFences (s : State) (q : Fin 32) : State :=
  { s with queues := s.queues.map fun u => { u with active := u.active.map fun c =>
      match c.work with
      | .fence ws => { c with work := .fence (ws.filter fun w => w.1 != q.val) }
      | _ => c } }

/-- The queue moves to a state other than RUNNING with nothing running (R375, R384, R389). -/
def leaveRunning (s : State) (q : Fin 32) (st : QState) : State :=
  dropFences (updQ s q fun u => { u with state := st, active := [], run := none }) q

/-- A contained error: the record, then STOPPED with its QUEUE event (R375). While an event record of the command waits
for an entry the command waits too, as the oldest running one (R354). -/
def containCmd (s : State) (q : Fin 32) (c : Cmd) : State :=
  if evBlocked s q then updQ s q fun u => { u with active := { c with status := 1 } :: u.active }
  else
  let s := putRec (setFlag s offErrStat 1 32) q c 1
  queueEvent (leaveRunning s q .stopped) 0x01 (whoOf q c.idx c.desc)

/-- The running commands of the queue end as contained errors, in order, with what each has written; the queue stops at the last. -/
def containAll (s : State) (q : Fin 32) : State :=
  let cs := s.queues[q].active
  let put := fun (s : State) (c : Cmd) => applyWrites (q.val, c.idx.toNat) s c.writes
  let s := updQ s q fun u => { u with active := [] }
  match cs.getLast? with
  | none => s
  | some c => containCmd (put (cs.dropLast.foldl (fun s x => putRec (put s x) q x 1) s) c) q c

/-- The completion of a descriptor read poisoned (R251): KIND 0x00, CONTAINED. -/
def containHead (s : State) (q : Fin 32) : State :=
  let i := s.queues[q].head
  let s := updQ s q fun u => { u with head := u.head + 1 }
  containCmd s q { mkCmd i [] false with kind := 0 }

/-- The counter change of a SIGNAL (R367). -/
def signalEffect (s : State) (w : Work) : State :=
  match w with
  | .signal t set v => tokenMap s t fun x => if set then v else x + v
  | _ => s

/-- The effect of a command whose kind has no further effect of its own, with STATUS DONE: its writes, its counters and its record. -/
def finishCmd (s : State) (q : Fin 32) (c : Cmd) : State :=
  let s := signalEffect (applyWrites (q.val, c.idx.toNat) s c.writes) c.work
  let s := if dSigEn c.desc then tokenMap s (dSigTok c.desc) (· + 1) else s
  putRec s q c 0

/-- The completion of such a command. Where its writes may not cross any more, it ends as a contained error (R512). -/
def doneCmd (s : State) (q : Fin 32) (c : Cmd) : State :=
  let w := (q.val, c.idx.toNat)
  let k := writesRefused s w c.writes
  if k == 0 then finishCmd s q c
  else containCmd (errEvent (freeRanges w s c.dests) (whoOf q c.idx c.desc) k 1 3 0 0 0) q { c with writes := [], work := .plain }

/-- The oldest running command removed. -/
def popCmd (s : State) (q : Fin 32) : State := updQ s q fun u => { u with active := u.active.drop 1 }

/-- The oldest running command replaced. -/
def setCmd (s : State) (q : Fin 32) (c : Cmd) : State :=
  updQ s q fun u => { u with active := c :: u.active.drop 1 }

/-- The descriptor indices a FENCE waits for have completed (R372). -/
def fenceMet (s : State) (ws : List (Nat × Nat)) : Bool :=
  ws.all fun w => !((s.queues[w.1 % 32]'(Nat.mod_lt _ (by decide))).active.any fun c => c.idx.toNat == w.2)

/-! ### Starting a descriptor of a kind -/

/-- A row of the table that starts the next descriptor of queue `q` (log entry 5): nothing happens unless the
descriptor may start and is of the row's kind; one read poisoned stops the queue. `body` gives the started command's
effect, from the state after its reads are set up, the descriptor and the clamps of its header. -/
def startRow (s : State) (q : Fin 32) (env : List Finding) (isRow : State → Desc → Bool)
    (body : Chk → Desc → Nat → State) : State :=
  match fetchHead s q env with
  | .none => s
  | .bad c => if s.queues[q].active.isEmpty then containHead c.s q else s
  | .got c d =>
    if isRow s d && descReady c.s d then body c d (b2n (decide (0x0B ≤ dKindRaw d))) else s

/-- The same for the kinds that wait until their predecessor has completed (R368, condition 2). -/
def startAlone (s : State) (q : Fin 32) (env : List Finding) (isRow : State → Desc → Bool)
    (body : Chk → Desc → Nat → State) : State :=
  if s.queues[q].active.isEmpty then startRow s q env isRow body else s

/-- The first work of the command `w` reaches these cores: the swap, CMD_START, and the MOVER start (R455, R466). -/
def startWork (s : State) (w : Who) (d : Desc) (mask : Nat) : State :=
  let s := coreBegin s mask w (dKind d)
  match moverUnit (dKind d) d with
  | some u => traceCores s mask 0x07 u 0 w 0
  | none => s

/-- A command that starts on these cores with these clamps, after its header and its fields. -/
def startCmdOn (mask : Nat) (s : State) (q : Fin 32) (d : Desc) (clamps : Nat) (f : Cmd → Cmd) : State :=
  let i := s.queues[q].head
  pushCmd (addClamps (startWork s (whoOf q i d) d mask) q clamps) q (f { mkCmd i d (decide (0 < clamps)) with cores := mask })

/-- The cores of the running command at a ring index, and all of them when none runs there. -/
def coresAt (s : State) (q : Fin 32) (idx : BitVec 32) : Nat :=
  match s.queues[q].active.find? fun c => c.idx == idx with
  | some c => c.cores
  | none => 0xFFFF

/-- Further cores take work of a running command (R31, R455, R463). -/
def joinCores (s : State) (q : Fin 32) (idx : BitVec 32) (d : Desc) (mask : Nat) : State :=
  let new := mask &&& (coresAt s q idx ^^^ 0xFFFF)
  updQ (startWork s (whoOf q idx d) d new) q fun u =>
    { u with active := u.active.map fun c => if c.idx == idx then { c with cores := c.cores ||| new } else c }

/-- A command that starts on the cores that take its kind. -/
def startCmd (s : State) (q : Fin 32) (d : Desc) (clamps : Nat) (f : Cmd → Cmd) : State :=
  startCmdOn (coresOf s (dKind d) (oneMover d)) s q d clamps f

end Sys2Proof.Machine
end

