-- ==== Sys2Proof/Machine/Links.lean ====
section
/-! DEFINITION. The transmit and receive paths of a Lutiez Link port: flits, credits, retry, packets and routes
(R325 to R338, R341), and the sending of packets by the module. -/
namespace Sys2Proof.Machine

def updP (s : State) (p : Fin 16) (f : Port → Port) : State := { s with ports := s.ports.set p (f s.ports[p]) }

def outMsg (s : State) (m : OutMsg) : State := { s with outbox := s.outbox ++ [m] }

/-- The link address in LNK_ADDR; a port takes it at its next AUTH (R348). -/
def linkAddr (s : State) : Nat := regField s offLnkAddr 0 16

/-- MAL_CNT and the malformed count of the window (R341, R348). -/
def portMalformed (s : State) (p : Fin 16) : State :=
  updP (setFlag s (offPerr p) 3 32) p fun t => { t with malformed := t.malformed + 1 }

/-- DROP_CNT (R320, R331). -/
def portDrop (s : State) (p : Fin 16) : State := setFlag s (offPerr p) 5 48

/-- Nothing but zeros: the payload of a CREDIT flit (R328). -/
def zeros224 : List Byte := List.replicate 224 0

/-! ### Line units (R326, R327) -/

/-- Both codewords decode: at most four byte errors in each. -/
def fecDecodes (l : LineCheck) : Bool := decide (l.e0 ≤ 4) && decide (l.e1 ≤ 4)

/-- Bytes that RS decoding corrects. -/
def fecCorrected (l : LineCheck) : Nat := (if l.e0 ≤ 4 then l.e0 else 0) + (if l.e1 ≤ 4 then l.e1 else 0)

/-- The 272 bytes of a line unit: two codewords, each 128 bytes of content and 8 of parity. -/
def lineUnit (content : List Byte) : List Byte :=
  [content.take 128, (content.drop 128).take 128].flatMap fun c => c ++ leBytes 8 (Config.rsParity c)

/-- Byte i of a line unit travels on lane i mod W of the lane order. -/
def onLanes (t : Port) (unit : List Byte) : List (Nat × List Byte) :=
  (t.order.zip (List.range t.order.length)).map fun l =>
    (l.1, ((unit.zip (List.range unit.length)).filter fun b => b.2 % t.order.length == l.2).map Prod.fst)

/-- The 8-byte header of a flit. -/
def flitHeader (ftype vc : Nat) (phase first last keyEpoch : Bool) (crVc : Nat) (crPhase : Bool) (crCount seq ack : Nat) : List Byte :=
  le4 (ftype + vc * 2 ^ 4 + b2n phase * 2 ^ 8 + b2n first * 2 ^ 9 + b2n last * 2 ^ 10 + b2n keyEpoch * 2 ^ 11 + crVc * 2 ^ 12
    + b2n crPhase * 2 ^ 16 + crCount * 2 ^ 17) ++ le4 (seq + ack * 2 ^ 16)

/-- Content and its CRC-64. -/
def withCrc (b : List Byte) : List Byte := b ++ le8 (crc64 b)

/-- The 256 bytes of a sequenced flit: header, ciphertext and tag under SM4-GCM with IV {1, n}, CRC (R325). -/
def flitImage (x : SentFlit) : List Byte :=
  let h := flitHeader x.flit.ftype x.flit.vc x.flit.phase x.flit.first x.flit.last (x.epoch % 2 == 1) x.crVc x.crPhase x.crCount x.seq x.ack
  withCrc (h ++ leBytes 240 (Config.sm4Gcm x.key (2 ^ 64 + x.iv) h x.flit.payload))

/-- The 256 bytes of an ordered set of KIND GAUGE: its tag is under SM4-GMAC with IV {2, m} (R325, R344). -/
def setImage (x : SentSet) : List Byte :=
  let b := le4 (0xF + 1 * 2 ^ 4 + x.keyEpoch % 2 * 2 ^ 8 + x.depth * 2 ^ 9 + b2n x.lost * 2 ^ 12) ++ le4 x.epoch ++ le8 x.gauge
    ++ le8 (x.phase + x.tTx * 2 ^ 16) ++ le8 x.echo ++ le4 x.turn ++ List.replicate 196 0
  withCrc (b ++ leBytes 16 (Config.sm4Gmac x.key (2 * 2 ^ 64 + x.iv) b))

/-- A sequenced flit on its way, on the lanes of the port. -/
def outFlit (s : State) (p : Fin 16) (x : SentFlit) : State :=
  outMsg s (.flit p x.toLineFlit (onLanes s.ports[p] (lineUnit (flitImage x))))

/-- The SEQ of the last flit accepted from the partner (R327); before the first one 0xFFFF: a DESIGN CHOICE (log entry 46), since R328 gives
no ACK for it. -/
def lastAccepted (t : Port) : Nat := (t.rxSeq + 65535) % 65536

/-- A RETRY_REQ flit: unsequenced, without credits, no tag to check (R328). Its channel, payload and tag bytes are zeros: a DESIGN CHOICE (log
entry 46). -/
def outRetryReq (s : State) (p : Fin 16) : State :=
  let t := s.ports[p]
  outMsg s (.retryReq p t.rxSeq (onLanes t (lineUnit (withCrc
    (flitHeader 3 0 false false false false 0xE false 0 t.rxSeq (lastAccepted t) ++ List.replicate 240 0)))))

/-- The port carries a session: ACTIVE, RETRAIN, or ALIGN after RETRAIN (R318, R320). -/
def hasSession (t : Port) : Bool := t.state == .active || t.state == .retrain || (t.state == .align && t.retraining)

/-- The ports whose sessions hold the address that they took at AUTH. -/
def sessionPorts (s : State) : List (Fin 16) := (List.finRange 16).filter fun p => hasSession s.ports[p]

/-- The module's own link address: each one that a port with a session took at its AUTH, and without a session the register's, which no
AUTH has made stale (R348; log entry 19). -/
def ownAddr (s : State) (a : Nat) : Bool :=
  if (sessionPorts s).isEmpty then a == linkAddr s else (sessionPorts s).any fun p => s.ports[p].myAddr == a

/-- The own link address where one is named: that of the lowest port with a session. -/
def homeAddr (s : State) : Nat :=
  match sessionPorts s with
  | p :: _ => s.ports[p].myAddr
  | [] => linkAddr s

/-! ### Sending (R328, R334, R335, R337) -/

/-- The credit index of channel v and phase h. -/
def crIdx (vc : Nat) (phase : Bool) : Nat := 2 * vc + b2n phase

/-- A DATA flit may be sent: a reserved credit of its channel and phase, or a shared one for VC 0 to 7. That the other flits take no credit is a
DESIGN CHOICE (log entry 46): R334 says `a flit`, and a CREDIT flit could wait for a credit that only a CREDIT flit brings. -/
def hasCredit (t : Port) (f : OutFlit) : Bool :=
  f.ftype != 1 || decide (0 < t.credits.getD (crIdx f.vc f.phase) 0) || (decide (f.vc ≤ 7) && decide (0 < t.shared))

/-- The reserved credit is taken first, by a DATA flit (R334; log entry 46). -/
def takeCredit (t : Port) (f : OutFlit) : Port :=
  if f.ftype != 1 then t
  else if decide (0 < t.credits.getD (crIdx f.vc f.phase) 0) then { t with credits := updAt (· - 1) t.credits (crIdx f.vc f.phase) }
  else { t with shared := t.shared - 1 }

/-! ### Link records (R465 to R467) -/

/-- The command of the running REDUCE of a group, bucket and step, or none. -/
def linkWho (s : State) (group bucket step : Nat) : Who :=
  let hit := fun (c : Cmd) => match c.work with
    | .reduce r => r.group == group && r.bucket == bucket && r.step == step
    | _ => false
  ((List.finRange 32).findSome? fun (q : Fin 32) => (s.queues[q].active.find? hit).map fun c => whoOf q c.idx c.desc).getD Who.none

/-- A LINK_TX (0x10) or LINK_RX (0x11) record of port p in the buffer of core p, from the first flit of a packet. -/
def traceLink (s : State) (p : Fin 16) (kind info vc : Nat) (phase : Bool) (seq : Nat) (payload : List Byte) : State :=
  let cls := fieldAt payload 4 4 24 4
  let ty := fieldAt payload 16 4 0 4
  let grp := if cls == 1 then fieldAt payload 16 4 4 3 else 0
  let w := if cls == 1 then linkWho s grp (fieldAt payload 28 4 0 16) (fieldAt payload 24 4 0 32) else Who.none
  let n := ceilDiv (16 + fieldAt payload 4 4 0 16) 224
  traceRec s p kind 5 p info w (p.val + vc * 2 ^ 4 + b2n phase * 2 ^ 8 + (n % 128) * 2 ^ 9 + seq * 2 ^ 16 +
    s.ports[p].partnerAddr * 2 ^ 32 + ty * 2 ^ 48 + grp * 2 ^ 52 + bits cls 1 1 * 2 ^ 55)

/-! ### Receive buffers and the credits to return (R333, R334) -/

/-- The receive buffer that a flit of channel v and phase h takes: a reserved one, else one of the shared pool. -/
def rxBufFor (t : Port) (p vc : Nat) (phase : Bool) : Option RxBuf :=
  if decide (t.rxUsed.getD (crIdx vc phase) 0 < 8) then some ⟨p, vc, phase⟩
  else if decide (vc ≤ 7) && decide (t.rxShared < 384) then some ⟨p, 0xF, false⟩ else none

def takeBuf (t : Port) (b : RxBuf) : Port :=
  if b.buffer == 0xF then { t with rxShared := t.rxShared + 1 } else { t with rxUsed := updAt (· + 1) t.rxUsed (crIdx b.buffer b.phase) }

/-- One more credit to return, naming the buffer that the flit used. -/
def oweCredit (b : RxBuf) : List Owed → List Owed
  | [] => [⟨b.buffer, b.phase, 1⟩]
  | o :: r => if o.buffer == b.buffer && o.phase == b.phase then { o with count := o.count + 1 } :: r else o :: oweCredit b r

/-- A receive buffer is freed. -/
def freeBuf (s : State) (b : RxBuf) : State :=
  updP s ⟨b.port % 16, Nat.mod_lt _ (by decide)⟩ fun t =>
    let t := if b.buffer == 0xF then { t with rxShared := t.rxShared - 1 } else { t with rxUsed := updAt (· - 1) t.rxUsed (crIdx b.buffer b.phase) }
    { t with owed := oweCredit b t.owed }

def freeBufs (s : State) (bs : List RxBuf) : State := bs.foldl freeBuf s

/-- The credits that one flit can carry back are taken off: 127 of the oldest entry. -/
def payOwed : List Owed → List Owed
  | [] => []
  | o :: r => if decide (o.count ≤ 127) then r else { o with count := o.count - 127 } :: r

/-- A flit as it leaves next: SEQ, ACK, epoch, key and IV are taken, and the oldest credits to return ride on it (R325, R327, R334). -/
def sentFlit (t : Port) (f : OutFlit) : SentFlit :=
  let o := t.owed.headD ⟨0xE, false, 0⟩
  ⟨⟨t.txSeq, lastAccepted t, t.txEpoch, t.txCount, o.buffer, o.phase, min 127 o.count, f⟩, t.txKey⟩

/-- A sequenced flit leaves: the retry buffer keeps it (R325, R337), and the receive buffer it held is free. -/
def emitFlit (s : State) (p : Fin 16) (f : OutFlit) : State :=
  let t := s.ports[p]
  let x := sentFlit t f
  let s := if f.ftype == 1 && f.first then traceLink s p 0x10 0 f.vc f.phase t.txSeq f.payload else s
  let s := outFlit (updP s p fun t => { takeCredit t f with
    txSeq := (t.txSeq + 1) % 65536, txCount := t.txCount + 1, retryBuf := t.retryBuf ++ [x], owed := payOwed t.owed }) p x
  freeBufs s f.buf.toList

/-- The retry buffer has room for one more of its 1,024 flits (R337). -/
def retryRoom (t : Port) : Bool := t.state == .active && decide (t.retryBuf.length < 1024)

/-- The port may send a flit: an epoch's last one, at most 2^36 flits after the one that began it, is a KEY_UPDATE (R324). -/
def canSend (t : Port) : Bool := retryRoom t && decide (t.txCount + 1 < 2 ^ 36)

/-- The next flit to send and the ones left: VC 8 first, then the oldest that holds a credit (R334). -/
def pickFlit (t : Port) : Option (OutFlit × List OutFlit) :=
  let ok := fun (f : OutFlit) => hasCredit t f
  match findIdx? (fun f => f.vc == 8 && ok f) t.waiting 0 with
  | some i => (t.waiting[i]?).map fun f => (f, t.waiting.eraseIdx i)
  | none => match findIdx? ok t.waiting 0 with
    | some i => (t.waiting[i]?).map fun f => (f, t.waiting.eraseIdx i)
    | none => none

/-- Waiting flits are sent while the port can. -/
def flushPort : Nat → State → Fin 16 → State
  | 0, s, _ => s
  | k + 1, s, p =>
    if canSend s.ports[p] then
      match pickFlit s.ports[p] with
      | some (f, r) => flushPort k (emitFlit (updP s p fun t => { t with waiting := r }) p f) p
      | none => s
    else s

/-- CREDIT flits return what no other flit has carried back. Their VC, PHASE, FIRST and LAST are zeros: a DESIGN CHOICE (log entry 46), since R328
gives none. -/
def sendOwed : Nat → State → Fin 16 → State
  | 0, s, _ => s
  | k + 1, s, p =>
    if canSend s.ports[p] && !s.ports[p].owed.isEmpty then sendOwed k (emitFlit s p ⟨2, 0, false, false, false, zeros224, none⟩) p else s

/-- Every port returns its credits. -/
def returnCredits (s : State) : State :=
  (List.finRange 16).foldl (fun s p => sendOwed ((s.ports[p].owed.map Owed.count).foldl (· + ·) 0) s p) s

def flush (s : State) (p : Fin 16) : State := returnCredits (flushPort s.ports[p].waiting.length s p)

def enqueue (s : State) (p : Fin 16) (fs : List OutFlit) : State :=
  flush (updP s p fun t => { t with waiting := t.waiting ++ fs }) p

/-- Payload pieces of 224 bytes, the last padded with zeros (R330). -/
def chunks224 (bs : List Byte) : List (List Byte) :=
  (List.range (ceilDiv bs.length 224)).map fun i => padTo 224 ((bs.drop (224 * i)).take 224)

/-- A packet, route header included, as flits of one channel and phase, which hold these receive buffers. -/
def packetFlits (vc : Nat) (phase : Bool) (bs : List Byte) (bufs : List RxBuf) : List OutFlit :=
  let cs := chunks224 bs
  (cs.zip (List.range cs.length)).map fun c =>
    ⟨1, vc, phase, c.2 == 0, c.2 + 1 == cs.length, c.1, bufs[c.2]?⟩

/-- The 16-byte route header of R330. -/
def routeHeader (dst src len hops dport cls : Nat) : List Byte :=
  le4 (dst + src * 2 ^ 16) ++ le4 (len + hops * 2 ^ 16 + dport * 2 ^ 20 + cls * 2 ^ 24) ++ leBytes 8 0

/-- The route table's port for an address; none where the entry is not VALID or its port carries no session (R331). -/
def routePort (s : State) (dst : Nat) : Option (Fin 16) :=
  match s.routes.find? fun r => r.1 == dst with
  | none => none
  | some r =>
    let p : Fin 16 := ⟨r.2 % 16, Nat.mod_lt _ (by decide)⟩
    if s.ports[p].state == .active || s.ports[p].state == .retrain then some p else none

/-- A packet leaves through port `out`: HOPS counts this transmission, and a dateline port sends in phase 1 (R330, R335). -/
def transmit (s : State) (out : Fin 16) (vc : Nat) (phase : Bool) (bs : List Byte) (bufs : List RxBuf) : State :=
  let hops := fieldAt bs 4 4 16 4
  let bs := bs.take 4 ++ le4 (setBits (leNat ((bs.drop 4).take 4)) 16 4 (hops + 1)) ++ bs.drop 8
  enqueue s out (packetFlits vc (phase || regBit s (offPctl out) 6) bs bufs)

/-- A packet that originates here: one for the module itself goes over the die network; one without a route counts at port 0 (R331).
It carries the address that its port took at AUTH (R348). -/
def sendPacket (s : State) (dst dport cls vc : Nat) (body : List Byte) : State :=
  if ownAddr s dst then { s with looped := s.looped ++ [HeldPkt.mk dst dport body] }
  else match routePort s dst with
    | some p => transmit s p vc false (routeHeader dst s.ports[p].myAddr body.length 0 dport cls ++ body) []
    | none => portDrop s 0

/-! ### Receiving (R329, R331, R337, R341) -/

/-- A RETRY_REQ naming the expected SEQ, unless one is outstanding (R337). -/
def askRetry (s : State) (p : Fin 16) : State :=
  if s.ports[p].discarding then s
  else outRetryReq (updP s p fun t => { t with discarding := true, asked := true }) p

/-- Bytes corrected, and line units that could not be (R348). -/
def fecCount (s : State) (p : Fin 16) (l : LineCheck) : State :=
  updP s p fun t => { t with fecCorr := min (t.fecCorr + fecCorrected l) 0xFFFFFFFF,
                             fecFail := min (t.fecFail + b2n (!fecDecodes l)) 0xFFFFFFFF }

/-- A line unit whose FEC decodes and whose CRC passes (R329). -/
def lineOk (l : LineCheck) : Bool := fecDecodes l && l.crcOk

/-- Flits that an ACK covers leave the retry buffer: the buffer holds consecutive SEQ values, oldest first. -/
def ackFlits (t : Port) (ack : Nat) : Port :=
  match findIdx? (fun (x : SentFlit) => x.seq == ack) t.retryBuf 0 with
  | some i => { t with retryBuf := t.retryBuf.drop (i + 1) }
  | none => t

/-- Credits returned by the partner (R327, R334). -/
def addCredits (t : Port) (vc : Nat) (phase : Bool) (n : Nat) : Port :=
  if vc ≤ 8 then { t with credits := updAt (· + n) t.credits (crIdx vc phase) }
  else if vc == 0xF then { t with shared := t.shared + n }
  else t

/-- The outcome of the checks of a sequenced flit. -/
inductive Rx where
  | drop (s : State)
  | accept (s : State)
  deriving DecidableEq, Repr

/-- A port that takes input at all: not in DISABLED, and not in QUARANTINE (R318). -/
def listens (t : Port) : Bool := t.state != .disabled && t.state != .quarantine

/-- A flit of a reserved FTYPE is malformed (R341). A row whose type is not the flit's has no effect (log entry 5); none: the flit
is of the row's type. -/
def notFlit (s : State) (p : Fin 16) (f : Flit) (n : Nat) : Option State :=
  if f.ftype.toNat == n then none
  else if !([1, 2, 3, 4, 0xF].contains f.ftype.toNat) && listens s.ports[p] then
    let s := fecCount s p f.line
    some (if lineOk f.line then portMalformed s p else s)
  else some s

/-- R329 for a sequenced flit: it is accepted, or discarded with what R337 and R341 ask. One that arrives outside ACTIVE is
malformed. `room`: a receive buffer is free for it (log entry 46). The receiver takes the key that KEY_EPOCH names, and one of
another epoch verifies nothing (R324, R347). -/
def rxSequenced (s : State) (p : Fin 16) (f : Flit) (room : Bool) : Rx :=
  if !listens s.ports[p] then .drop s
  else
    let s := fecCount s p f.line
    if s.ports[p].state != .active then .drop (if lineOk f.line then portMalformed s p else s)
    else if !lineOk f.line then .drop (askRetry s p)
    else if f.seq.toNat != s.ports[p].rxSeq then .drop (askRetry s p)
    else if !(f.tagOk && f.keyEpoch == (s.ports[p].rxEpoch % 2 == 1)) then .drop (askRetry (portMalformed s p) p)
    else if !room then .drop (askRetry s p)
    else
      .accept (flush (updP s p fun t =>
        addCredits (ackFlits { t with rxSeq := (t.rxSeq + 1) % 65536, discarding := false } f.ack.toNat)
          f.crVc.toNat f.crPhase f.crCount.toNat) p)

/-- A packet that has arrived whole and is for this module. -/
structure Delivered where
  src : Nat
  dport : Nat
  cls : Nat
  body : List Byte
  port : Fin 16
  deriving DecidableEq, Repr

/-- Where a packet goes, decided at its first flit (R331): 16 here, 17 discarded. -/
def routeOf (s : State) (p : Fin 16) (dst : Nat) : Nat :=
  if dst == s.ports[p].myAddr then 16 else match routePort s dst with
    | some o => o
    | none => 17

/-- A first flit: the packet in progress, or none where it is malformed (R341). -/
def firstFlit (s : State) (p : Fin 16) (f : Flit) (b : RxBuf) : Option PartPkt :=
  let h := f.payload
  let len := fieldAt h 4 4 0 16
  let cls := fieldAt h 4 4 24 4
  let n := ceilDiv (16 + len) 224
  let out := routeOf s p (fieldAt h 0 4 0 16)
  if len == 0 || decide (4128 < len) || (cls != 1 && cls != 2) || (out != 16 && fieldAt h 4 4 16 4 == 15)
      || f.last != (n == 1) then none
  else some ⟨f.vc.toNat, f.phase, out, h, n, 1, [b]⟩

/-- The packet in progress on a channel and phase is discarded, with its buffers. -/
def dropPart (s : State) (p : Fin 16) (x : PartPkt) : State :=
  freeBufs (updP s p fun t => { t with partial_ := t.partial_.filter fun y => !(y.vc == x.vc && y.phase == x.phase) }) x.bufs

/-- A whole packet: delivered here, sent on with the buffers its flits hold, or discarded and counted at the port of arrival. One
routed to a port in RETRAIN waits there until it is ACTIVE again; where the port's session has ended it is counted there
(R320, R331). -/
def finishPacket (s : State) (p : Fin 16) (x : PartPkt) : State × Option Delivered :=
  let len := fieldAt x.bytes 4 4 0 16
  let bs := x.bytes.take (16 + len)
  if x.out == 16 then
    (freeBufs s x.bufs, some ⟨fieldAt bs 0 4 16 16, fieldAt bs 4 4 20 4, fieldAt bs 4 4 24 4, bs.drop 16, p⟩)
  else if h : x.out < 16 then
    let o : Fin 16 := ⟨x.out, h⟩
    if hasSession s.ports[o] then (transmit s o x.vc x.phase bs x.bufs, none)
    else (portDrop (freeBufs s x.bufs) o, none)
  else (portDrop (freeBufs s x.bufs) p, none)

/-- What stands for the flits still to come of a packet found malformed at a flit that is not its last. -/
def malformedRest (f : Flit) : PartPkt := ⟨f.vc.toNat, f.phase, 18, [], 0, 0, []⟩

def PartPkt.spoilt (x : PartPkt) : Bool := x.flits == 0

/-- A malformed packet counts once: its other flits are discarded up to its last, or to the first one of another packet (R341; log entry 46). -/
def malformedData (s : State) (p : Fin 16) (f : Flit) : State :=
  let s := portMalformed s p
  if f.last then s else updP s p fun t => { t with partial_ := t.partial_ ++ [malformedRest f] }

/-- An accepted DATA flit joins its packet (R330, R331, R341); it holds receive buffer `b`. -/
def takeData (s : State) (p : Fin 16) (f : Flit) (b : RxBuf) : State × Option Delivered :=
  let s := updP s p fun t => takeBuf t b
  let cur := s.ports[p].partial_.find? fun x => x.vc == f.vc.toNat && x.phase == f.phase
  if f.first then
    let s := match cur with
      | some x => dropPart s p x
      | none => s
    if cur.any fun x => !x.spoilt then (malformedData (freeBuf s b) p f, none)
    else match firstFlit s p f b with
      | none => (malformedData (freeBuf s b) p f, none)
      | some x =>
        if f.last then finishPacket s p x
        else (updP s p fun t => { t with partial_ := t.partial_ ++ [x] }, none)
  else match cur with
    | none => (malformedData (freeBuf s b) p f, none)
    | some x =>
      if x.spoilt then (freeBuf (if f.last then dropPart s p x else s) b, none)
      else
      let x := { x with bytes := x.bytes ++ f.payload, got := x.got + 1, bufs := x.bufs ++ [b] }
      if f.last != (x.got == x.flits) then (malformedData (dropPart s p x) p f, none)
      else if f.last then
        finishPacket (updP s p fun t => { t with partial_ := t.partial_.filter fun y => !(y.vc == x.vc && y.phase == x.phase) }) p x
      else (updP s p fun t => { t with partial_ := t.partial_.map fun y =>
        if y.vc == x.vc && y.phase == x.phase then x else y }, none)

/-- A received DATA flit. Reserved channels make it malformed (R341). Every RETRY_REQ of the session has named a flit no later than this one
(R467). -/
def rxData (s : State) (p : Fin 16) (f : Flit) : State × Option Delivered :=
  match notFlit s p f 1 with
  | some s => (s, none)
  | none =>
    let again := s.ports[p].asked
    let b := rxBufFor s.ports[p] p.val f.vc.toNat f.phase
    match rxSequenced s p f (b.isSome || decide (9 ≤ f.vc.toNat)) with
    | .drop s => (s, none)
    | .accept s =>
      match b with
      | some b =>
        if decide (9 ≤ f.vc.toNat) then (portMalformed s p, none)
        else
          let s := if f.first then traceLink s p 0x11 (b2n again) f.vc.toNat f.phase f.seq.toNat f.payload else s
          takeData s p f b
      | none => (portMalformed s p, none)

/-- A CREDIT flit: its credits and ACK take effect when it is accepted (R334). -/
def execCreditFlit (p : Fin 16) (f : Flit) (s : State) : Res :=
  match notFlit s p f 2 with
  | some s => .next s
  | none => match rxSequenced s p f true with
    | .drop s => .next s
    | .accept s => .next (if decide (9 ≤ f.vc.toNat) then portMalformed s p else s)

/-- RETRY_REQ (R337): one retry counted, and every flit from the named SEQ sent again byte for byte. One whose line unit fails FEC or CRC makes
the receiver ask for a retry itself: a DESIGN CHOICE (log entry 46), since a unit that fails does not tell whether it was sequenced. -/
def execRetryReq (p : Fin 16) (f : Flit) (s : State) : Res :=
  match notFlit s p f 3 with
  | some s => .next s
  | none =>
    if s.ports[p].state != .active then .next (if listens s.ports[p] then fecCount s p f.line else s)
    else
      let s := fecCount s p f.line
      if !lineOk f.line then .next (askRetry s p)
      else if decide (9 ≤ f.vc.toNat) then .next (portMalformed s p)
      else
        let s := updP (setFlag s (offPerr p) 0 16) p fun t => { t with retries := t.retries + 1 }
        match findIdx? (fun (x : SentFlit) => x.seq == f.seq.toNat) s.ports[p].retryBuf 0 with
        | none => .next s
        | some i => .next ((s.ports[p].retryBuf.drop i).foldl (fun s x => outFlit s p x) s)

/-- The RETRY_REQ is repeated while the expected SEQ has not arrived (R337). -/
def execRetryReqRepeat (p : Fin 16) (s : State) : Res :=
  .next (if s.ports[p].state == .active && s.ports[p].discarding then outRetryReq s p else s)

/-! ### Key epochs (R324) -/

/-- The traffic key of epoch `e` of a direction: direction 0 is from initiator to responder. -/
def epochKey (secret : Nat) (dir : Bool) (e : Nat) : Nat := Config.sm3 (leBytes 32 secret ++ leBytes 1 (b2n dir) ++ le4 e) % 2 ^ 128

/-- KEY_UPDATE sent: the flit goes out under the old epoch and the next one starts (R324, R325). That it is of VC 8, first and last, with a payload
of zeros is a DESIGN CHOICE (log entry 46), since R324 gives it none of these. -/
def execKeyUpdateSend (p : Fin 16) (s : State) : Res :=
  .next (if retryRoom s.ports[p] then
      updP (emitFlit s p ⟨4, 8, false, true, true, zeros224, none⟩) p fun t =>
        { t with txEpoch := t.txEpoch + 1, txCount := 0, setCount := 0, txKey := epochKey t.secret (!t.initiator) (t.txEpoch + 1) }
    else s)

end Sys2Proof.Machine
end

