-- ==== Sys2Proof/Machine/Ieee.lean ====
section
/-! DEFINITION. The vector engine's IEEE 754-2019 arithmetic on binary32 and binary64 codes (R197 to R199, R208),
each operation rounded once under its rounding attribute, with NaN results under R198. -/
namespace Sys2Proof.Machine

/-- The five sticky IEEE flags of R199. -/
structure VFlags where
  inv : Bool
  dz : Bool
  ovf : Bool
  unf : Bool
  nx : Bool
  deriving DecidableEq, Repr

def VFlags.none : VFlags := ⟨false, false, false, false, false⟩
def VFlags.invalid : VFlags := ⟨true, false, false, false, false⟩
def VFlags.divZero : VFlags := ⟨false, true, false, false, false⟩
def VFlags.or (a b : VFlags) : VFlags := ⟨a.inv || b.inv, a.dz || b.dz, a.ovf || b.ovf, a.unf || b.unf, a.nx || b.nx⟩

/-- The flags that the conversion events of R61 give under R199. -/
def VFlags.ofConv (c : ConvEv) : VFlags := ⟨c.inv, false, c.ovf, c.ufl, c.nx || c.ovf || c.ufl⟩

/-- The format of an instruction's P bit (R206). -/
def vFmt (p : Bool) : Fmt := if p then .fp64 else .fp32
def vPar (p : Bool) : FpParam := if p then ⟨11, 52, 1023⟩ else ⟨8, 23, 127⟩

def vSplit (p : Bool) (x : Nat) : Split := splitFp (vFmt p) (vPar p) x
def vNan (p : Bool) : Nat := fmtNan (vFmt p)
def vInf (p : Bool) (neg : Bool) : Nat := fpInf (vPar p) neg
def vOne (p : Bool) : Nat := (vPar p).bias * 2 ^ (vPar p).m
def vIsNan (p : Bool) (x : Nat) : Bool := (vSplit p x).cl == 1
/-- A signalling NaN: the top fraction bit is 0 (R38). -/
def vIsSNan (p : Bool) (x : Nat) : Bool := vIsNan p x && !(bitAt x ((vPar p).m - 1))
/-- A NaN made quiet by setting its top fraction bit (R198). -/
def vQuiet (p : Bool) (x : Nat) : Nat := x ||| 2 ^ ((vPar p).m - 1)
def vZero (p neg : Bool) : Nat := b2n neg * 2 ^ ((vPar p).w + (vPar p).m)
def vSign (p : Bool) (x : Nat) : Bool := bitAt x ((vPar p).w + (vPar p).m)

/-- The rounding mode of an RM field (R206); R209 has replaced 0b101 to 0b111. -/
def rmOf : Nat → Rnd
  | 1 => .rtz
  | 2 => .rtp
  | 3 => .rtn
  | 4 => .rta
  | _ => .rne

/-- Whether overflow under a mode gives infinity (IEEE 754-2019, 7.4) rather than the largest finite number. -/
def ovfToInf (mode : Rnd) (neg : Bool) : Bool :=
  match mode with
  | .rtz => false
  | .rtp => !neg
  | .rtn => neg
  | _ => true

/-- Round an exact magnitude into a vector format, with overflow, underflow (tininess after rounding) and inexact. -/
def vRound (p : Bool) (mode : Rnd) (neg : Bool) (x : Mag) : Nat × VFlags :=
  if x.isZero then (vZero p neg, VFlags.none)
  else
    let f := vPar p
    let q := fpGrid f x
    let n := x.roundAt neg q mode
    let exact := x.isGrid q n
    if !((Mag.dy n q).le (fmtMax (vFmt p))) then
      (if ovfToInf mode neg then vInf p neg else vInf p neg - 1, ⟨false, false, true, false, true⟩)
    else
      let u := x.ilog2 - f.m
      let tiny := (Mag.dy (x.roundAt neg u mode) u).lt (Mag.dy 1 (1 - (f.bias : Int)))
      (fpEncode f neg n q, ⟨false, false, false, tiny && !exact, !exact⟩)

/-- Round an exact dyadic sum; `zneg` is the sign of a zero sum. -/
def vRoundDy (p : Bool) (mode : Rnd) (i e : Int) (zneg : Bool) : Nat × VFlags :=
  if i == 0 then (vZero p zneg, VFlags.none) else vRound p mode (decide (i < 0)) (Mag.dy i.natAbs e)

/-- The NaN result of R198: the first NaN operand made quiet; invalid when any operand is signalling. -/
def vNanOf (p : Bool) (xs : List Nat) : Option (Nat × VFlags) :=
  match xs.find? (vIsNan p) with
  | some x => some (vQuiet p x, if xs.any (vIsSNan p) then VFlags.invalid else VFlags.none)
  | none => none

/-- An invalid operation without a NaN operand: the canonical NaN. -/
def vInvalid (p : Bool) : Nat × VFlags := (vNan p, VFlags.invalid)

def Split.dyI (s : Split) : Int := if s.sg then -(s.sig : Int) else s.sig

/-- The sign of an exact zero sum of two signed terms: the common sign, else − only toward −∞. -/
def zeroSumSign (mode : Rnd) (a b : Bool) : Bool := if a == b then a else mode == .rtn

def vAdd (p : Bool) (mode : Rnd) (a b : Nat) : Nat × VFlags :=
  match vNanOf p [a, b] with
  | some r => r
  | none =>
    let x := vSplit p a
    let y := vSplit p b
    if x.cl == 2 then (if y.cl == 2 && x.sg != y.sg then vInvalid p else (a, VFlags.none))
    else if y.cl == 2 then (b, VFlags.none)
    else
      let s := dyAdd x.dyI x.e y.dyI y.e
      vRoundDy p mode s.1 s.2 (zeroSumSign mode x.sg y.sg)

/-- `−x` as bits. -/
def vNeg (p : Bool) (x : Nat) : Nat := x ^^^ vZero p true

/-- A − B; the NaN of B keeps its sign (R198), so only a number is negated. -/
def vSub (p : Bool) (mode : Rnd) (a b : Nat) : Nat × VFlags :=
  match vNanOf p [a, b] with
  | some r => r
  | none => vAdd p mode a (vNeg p b)

def vMul (p : Bool) (mode : Rnd) (a b : Nat) : Nat × VFlags :=
  match vNanOf p [a, b] with
  | some r => r
  | none =>
    let x := vSplit p a
    let y := vSplit p b
    let sg := x.sg != y.sg
    if x.cl == 2 || y.cl == 2 then
      if (x.cl == 0 && x.sig == 0) || (y.cl == 0 && y.sig == 0) then vInvalid p else (vInf p sg, VFlags.none)
    else vRound p mode sg (Mag.dy (x.sig * y.sig) (x.e + y.e))

def vDiv (p : Bool) (mode : Rnd) (a b : Nat) : Nat × VFlags :=
  match vNanOf p [a, b] with
  | some r => r
  | none =>
    let x := vSplit p a
    let y := vSplit p b
    let sg := x.sg != y.sg
    if x.cl == 2 then (if y.cl == 2 then vInvalid p else (vInf p sg, VFlags.none))
    else if y.cl == 2 then (vZero p sg, VFlags.none)
    else if y.sig == 0 then (if x.sig == 0 then vInvalid p else (vInf p sg, VFlags.divZero))
    else vRound p mode sg ⟨x.sig, y.sig, x.e - y.e, false⟩

/-- `(−1)^np (A × B) + (−1)^nc C`, fused. Zero times infinity plus a quiet NaN signals nothing: IEEE 754-2019 leaves that to the
implementation and so does R198, a DESIGN CHOICE (log entry 47). -/
def vFma (p : Bool) (mode : Rnd) (np nc : Bool) (a b c : Nat) : Nat × VFlags :=
  match vNanOf p [a, b, c] with
  | some r => r
  | none =>
    let x := vSplit p a
    let y := vSplit p b
    let z := vSplit p c
    let ps := (x.sg != y.sg) != np
    let zs := z.sg != nc
    if x.cl == 2 || y.cl == 2 then
      if (x.cl == 0 && x.sig == 0) || (y.cl == 0 && y.sig == 0) then vInvalid p
      else if z.cl == 2 && zs != ps then vInvalid p else (vInf p ps, VFlags.none)
    else if z.cl == 2 then (vInf p zs, VFlags.none)
    else
      let m : Int := (x.sig * y.sig : Nat)
      let s := dyAdd (if ps then -m else m) (x.e + y.e) (if zs then -(z.sig : Int) else z.sig) z.e
      vRoundDy p mode s.1 s.2 (zeroSumSign mode ps zs)

def vSqrt (p : Bool) (mode : Rnd) (a : Nat) : Nat × VFlags :=
  match vNanOf p [a] with
  | some r => r
  | none =>
    let x := vSplit p a
    if x.cl == 0 && x.sig == 0 then (a, VFlags.none)
    else if x.sg then vInvalid p
    else if x.cl == 2 then (a, VFlags.none)
    else vRound p mode false ⟨x.sig, 1, x.e, true⟩

def vRsqrt (p : Bool) (mode : Rnd) (a : Nat) : Nat × VFlags :=
  match vNanOf p [a] with
  | some r => r
  | none =>
    let x := vSplit p a
    if x.cl == 0 && x.sig == 0 then (vInf p x.sg, VFlags.divZero)
    else if x.sg then vInvalid p
    else if x.cl == 2 then (vZero p false, VFlags.none)
    else vRound p mode false ⟨1, x.sig, -x.e, true⟩

/-- The order of two codes that are no NaN: `a < b` as numbers. -/
def vLt (p : Bool) (a b : Nat) : Bool :=
  let x := vSplit p a
  let y := vSplit p b
  if x.cl == 2 then x.sg && !(y.cl == 2 && y.sg)
  else if y.cl == 2 then !y.sg
  else let d := dyAdd x.dyI x.e (-y.dyI) y.e; decide (d.1 < 0)

/-- IEEE 754-2019 `minimum`: NaN propagates, −0 is below +0. -/
def vMin (p : Bool) (a b : Nat) : Nat × VFlags :=
  match vNanOf p [a, b] with
  | some r => r
  | none => (if vLt p b a || (!(vLt p a b) && vSign p b) then b else a, VFlags.none)

/-- IEEE 754-2019 `maximum`. -/
def vMax (p : Bool) (a b : Nat) : Nat × VFlags :=
  match vNanOf p [a, b] with
  | some r => r
  | none => (if vLt p a b || (!(vLt p b a) && !(vSign p b)) then b else a, VFlags.none)

/-- CLIP: minimum(maximum(A, B), C), a NaN result taken over all three operands in order (R198, R208). -/
def vClip (p : Bool) (a b c : Nat) : Nat × VFlags :=
  match vNanOf p [a, b, c] with
  | some r => r
  | none => vMin p (vMax p a b).1 c

/-- A quiet comparison: 1.0 or +0.0; invalid only for a signalling NaN (R197, R198). -/
def vCompare (p : Bool) (rel : Bool → Bool → Bool) (unord : Bool) (a b : Nat) : Nat × VFlags :=
  let un := vIsNan p a || vIsNan p b
  let r := if un then unord else rel (vLt p a b) (vLt p b a)
  (if r then vOne p else vZero p false, if vIsSNan p a || vIsSNan p b then VFlags.invalid else VFlags.none)

def vCvtWiden (a : Nat) : Nat × VFlags :=
  let x := vSplit false a
  if x.cl == 1 then
    (b2n x.sg * 2 ^ 63 + 0x7FF * 2 ^ 52 + ((bits a 0 23 <<< 29) ||| 2 ^ 51), if vIsSNan false a then VFlags.invalid else VFlags.none)
  else if x.cl == 2 then (vInf true x.sg, VFlags.none)
  else vRound true .rne x.sg (Mag.dy x.sig x.e)

def vCvtNarrow (mode : Rnd) (a : Nat) : Nat × VFlags :=
  let x := vSplit true a
  if x.cl == 1 then
    (b2n x.sg * 2 ^ 31 + 0xFF * 2 ^ 23 + (bits a 29 23 ||| 2 ^ 22), if vIsSNan true a then VFlags.invalid else VFlags.none)
  else if x.cl == 2 then (vInf false x.sg, VFlags.none)
  else vRound false mode x.sg (Mag.dy x.sig x.e)

/-- roundToIntegral under RM: raises no inexact (IEEE 754-2019, 5.9); a zero result keeps the sign of A. -/
def vRint (p : Bool) (mode : Rnd) (a : Nat) : Nat × VFlags :=
  match vNanOf p [a] with
  | some r => r
  | none =>
    let x := vSplit p a
    if x.cl == 2 then (a, VFlags.none)
    else
      let n := (Mag.dy x.sig x.e).roundAt x.sg 0 mode
      ((vRound p .rne x.sg (Mag.dy n 0)).1, VFlags.none)

/-- The integer that B rounds to toward zero, saturated to ±2^31 (R208). -/
def vToInt (p : Bool) (b : Nat) : Int :=
  let x := vSplit p b
  let n := if x.cl == 2 then 2 ^ 31 else min ((Mag.dy x.sig x.e).floorAt 0) (2 ^ 31)
  if x.sg then -(n : Int) else n

/-- SCALB: A × 2^n under RM; a NaN B under R198. -/
def vScalb (p : Bool) (mode : Rnd) (a b : Nat) : Nat × VFlags :=
  if vIsNan p b then (if vIsNan p a then vQuiet p a else vNan p, VFlags.invalid)
  else match vNanOf p [a] with
    | some r => r
    | none =>
      let x := vSplit p a
      if x.cl == 2 || x.sig == 0 then (a, VFlags.none)
      else
        -- beyond ±5000 every finite operand over- or underflows in the same way
        let n := max (-5000) (min 5000 (vToInt p b))
        vRound p mode x.sg (Mag.dy x.sig (x.e + n))

/-! ### Correctly rounded functions of irrational value (R197)
An enclosure at precision `P` gives integers `lo`, `hi` and an exponent with the value strictly between
`lo * 2^e` and `hi * 2^e`. The precision doubles until both ends round alike. Exactly representable
results and ties are handled before, so the value is irrational or has too long a significand to tie. -/

/-- An open interval of non-negative dyadics. -/
structure Encl where
  lo : Nat
  hi : Nat
  e : Int
  deriving DecidableEq, Repr

/-- Precision doubling until the rounding is decided. -/
def zivRound : Nat → Nat → (Nat → Encl) → (Mag → Nat × VFlags) → Nat × VFlags
  | 0, prec, enc, rnd => rnd (Mag.dy (2 * (enc prec).lo + 1) ((enc prec).e - 1))
  | k + 1, prec, enc, rnd =>
    let i := enc prec
    let a := rnd (Mag.dy (2 * i.lo + 1) (i.e - 1))
    let b := rnd (Mag.dy (2 * i.hi - 1) (i.e - 1))
    if a == b then a else zivRound k (2 * prec) enc rnd

/-- Rounds with doubling precision from 192 bits; 2000 doublings pass every separation bound. -/
def vZiv (p : Bool) (mode : Rnd) (neg : Bool) (enc : Nat → Encl) : Nat × VFlags :=
  zivRound 2000 192 enc (vRound p mode neg)

/-- `⌊log2⌋`-normalising right shift of an interval to about `prec` bits, rounding outward. -/
def Encl.trim (i : Encl) (prec : Nat) : Encl :=
  let k := Nat.log2 i.hi + 1 - prec
  if k == 0 then i else ⟨i.lo >>> k, (i.hi >>> k) + 1, i.e + k⟩

def Encl.mul (a b : Encl) (prec : Nat) : Encl := Encl.trim ⟨a.lo * b.lo, a.hi * b.hi, a.e + b.e⟩ prec

/-- One factor per fraction bit of the exponent: c = 2^(2^−i) from c' = 2^(2^−(i−1)) by square roots. -/
def exp2Bits (prec : Nat) : Nat → Nat → Nat → Encl → Encl → Encl
  | 0, _, _, _, acc => acc
  | k + 1, f, len, c, acc =>
    -- f holds `len` fraction bits, the next one at the top
    let c' : Encl := ⟨isqrt (c.lo <<< prec), isqrt (c.hi <<< prec) + 1, -(prec : Int)⟩
    let bit := bits f (len - 1) 1
    exp2Bits prec k f (len - 1) c' (if bit == 1 then acc.mul c' (prec + 2) else acc)

/-- Enclosure of 2^(f / 2^len), 0 ≤ f < 2^len. Bits beyond the precision multiply by less than 1 + 2^−prec each;
all of them together stay below 1 + 2^(1−prec). -/
def exp2Frac (f len prec : Nat) : Encl :=
  let used := min len prec
  let top := f >>> (len - used)
  let r := exp2Bits prec used top used ⟨2 <<< prec, 2 <<< prec, -(prec : Int)⟩ ⟨1 <<< prec, 1 <<< prec, -(prec : Int)⟩
  let r : Encl := ⟨r.lo, r.hi + 1, r.e⟩
  if used < len then r.mul ⟨1 <<< prec, (1 <<< prec) + 2, -(prec : Int)⟩ (prec + 2) else r

/-- 2^(i * 2^k) rounded, for a dyadic exponent. -/
def vExp2Dy (p : Bool) (mode : Rnd) (i k : Int) : Nat × VFlags :=
  let n : Int := if 0 ≤ k then i * (2 ^ k.toNat : Nat) else i / (2 ^ (-k).toNat : Nat)
  let f : Nat := if 0 ≤ k then 0 else (i % (2 ^ (-k).toNat : Nat)).toNat
  -- beyond ±5000 every result over- or underflows in the same way
  if 5000 < n then vRound p mode false (Mag.dy 1 5000)
  else if n < -5000 then vRound p mode false (Mag.dy 3 (-5000))
  else if f == 0 then vRound p mode false (Mag.dy 1 n)
  else vZiv p mode false fun prec => let r := exp2Frac f (-k).toNat prec; { r with e := r.e + n }

def vExp2 (p : Bool) (mode : Rnd) (a : Nat) : Nat × VFlags :=
  match vNanOf p [a] with
  | some r => r
  | none =>
    let x := vSplit p a
    if x.cl == 2 then (if x.sg then vZero p false else a, VFlags.none)
    else if 20 ≤ (Mag.dy x.sig x.e).ilog2 && x.sig != 0 then vExp2Dy p mode (if x.sg then -1 else 1) 20
    else vExp2Dy p mode x.dyI x.e

/-- Fraction bits of log2(u), 1 ≤ u < 2, by repeated squaring of an enclosure; stops where the enclosure
no longer decides a bit. Gives the bits and their number. -/
def log2Bits (prec : Nat) : Nat → Nat → Nat → Nat → Nat → Nat × Nat
  | 0, _, _, d, n => (d, n)
  | k + 1, lo, hi, d, n =>
    let lo2 := (lo * lo) >>> prec
    let hi2 := ((hi * hi) >>> prec) + 1
    let two := 2 <<< prec
    if two ≤ lo2 then log2Bits prec k (lo2 / 2) (hi2 / 2 + 1) (2 * d + 1) (n + 1)
    else if hi2 < two then log2Bits prec k lo2 hi2 (2 * d) (n + 1)
    else (d, n)

/-- Enclosure of log2(sig * 2^e) as integers `t`, `t + 1` on the grid `2^−n`; the value is irrational. -/
def log2Encl (sig : Nat) (e : Int) (prec : Nat) : Int × Nat :=
  let l := Nat.log2 sig
  let u := shiftI sig ((prec : Int) - l)
  let r := log2Bits prec prec u (if l ≤ prec then u else u + 1) 0 0
  (((l : Int) + e) * (2 ^ r.2 : Nat) + r.1, r.2)

/-- A signed open interval `(t, t + 1) * 2^−n` as a sign and an interval of magnitudes. -/
def enclOfInt (t : Int) (n : Nat) : Bool × Encl :=
  if 0 ≤ t then (false, ⟨t.toNat, t.toNat + 1, -(n : Int)⟩) else (true, ⟨(-t - 1).toNat, (-t).toNat, -(n : Int)⟩)

/-- The odd part of a number and the power of two taken out. -/
def oddPart : Nat → Nat → Nat → Nat × Nat
  | 0, n, k => (n, k)
  | f + 1, n, k => if n != 0 && n % 2 == 0 then oddPart f (n / 2) (k + 1) else (n, k)

def vLog2 (p : Bool) (mode : Rnd) (a : Nat) : Nat × VFlags :=
  match vNanOf p [a] with
  | some r => r
  | none =>
    let x := vSplit p a
    if x.cl == 0 && x.sig == 0 then (vInf p true, VFlags.divZero)
    else if x.sg then vInvalid p
    else if x.cl == 2 then (a, VFlags.none)
    else if x.sig == 2 ^ Nat.log2 x.sig then vRoundDy p mode ((Nat.log2 x.sig : Int) + x.e) 0 false
    else
      let neg := decide ((Nat.log2 x.sig : Int) + x.e < 0)
      vZiv p mode neg fun prec => let r := log2Encl x.sig x.e prec; (enclOfInt r.1 r.2).2

/-- Enclosure of the n-th power of an odd integer, by squaring over the bits of n, most significant first. -/
def powEncl (prec : Nat) (o : Encl) : List Nat → Encl → Encl
  | [], acc => acc
  | b :: bs, acc =>
    let s := acc.mul acc (prec + 64)
    powEncl prec o bs (if b == 1 then s.mul o (prec + 64) else s)

/-- The bits of n, most significant first. -/
def bitsMsb (n : Nat) : List Nat := (List.range (Nat.log2 n + 1)).reverse.map fun i => bits n i 1

/-- 1 over an interval. -/
def Encl.inv (i : Encl) (prec : Nat) : Encl :=
  let k := Nat.log2 i.hi + prec
  ⟨(1 <<< k) / i.hi, (1 <<< k) / i.lo + 1, -(k : Int) - i.e⟩

/-- `(sig * 2^e)^n` rounded, for sig > 0 and n ≠ 0. An odd part above 1 whose power has more bits than any
tie is never on one, and neither is the reciprocal of such a power. -/
def vPowInt (p : Bool) (mode : Rnd) (neg : Bool) (sig : Nat) (e n : Int) : Nat × VFlags :=
  let o := oddPart (Nat.log2 sig) sig 0
  let ex := (e + o.2) * n
  if o.1 == 1 then vRound p mode neg (Mag.dy 1 (max (-9000) (min 9000 ex)))
  else if n.natAbs * (Nat.log2 o.1 + 1) ≤ 512 then
    let w := o.1 ^ n.natAbs
    vRound p mode neg (if 0 ≤ n then ⟨w, 1, ex, false⟩ else ⟨1, w, ex, false⟩)
  else
    let est := (Nat.log2 o.1 : Int) * n + ex
    if 9000 < est && 0 < n then vRound p mode neg (Mag.dy 1 9000)
    else if est < -9000 && n < 0 then vRound p mode neg (Mag.dy 3 (-9000))
    else vZiv p mode neg fun prec =>
      let w := powEncl prec ⟨o.1, o.1, 0⟩ (bitsMsb n.natAbs) ⟨1, 1, 0⟩
      let w : Encl := ⟨w.lo, w.hi + 1, w.e⟩
      let w := if 0 ≤ n then w else w.inv (prec + 64)
      -- far outside the range the rounding is that of the nearest magnitude inside ±9000
      let top := (Nat.log2 w.hi : Int) + w.e + ex
      if 9000 < top then ⟨1, 2, 9000⟩ else if top < -9000 then ⟨1, 2, -9000⟩ else { w with e := w.e + ex }

/-- pown(A, n) (R208; IEEE 754-2019, 9.2.1). -/
def vPownI (p : Bool) (mode : Rnd) (a : Nat) (n : Int) : Nat × VFlags :=
  if vIsSNan p a then (vQuiet p a, VFlags.invalid)
  else if n == 0 then (vOne p, VFlags.none)
  else if vIsNan p a then (a, VFlags.none)
  else
    let x := vSplit p a
    let odd := n % 2 != 0
    let neg := x.sg && odd
    if x.cl == 2 then (if 0 < n then vInf p neg else vZero p neg, VFlags.none)
    else if x.sig == 0 then (if 0 < n then (vZero p neg, VFlags.none) else (vInf p neg, VFlags.divZero))
    else vPowInt p mode neg x.sig x.e n

def vPown (p : Bool) (mode : Rnd) (a b : Nat) : Nat × VFlags :=
  if vIsNan p b then (if vIsNan p a then vQuiet p a else vNan p, VFlags.invalid) else vPownI p mode a (vToInt p b)

/-- Take square roots of an exact base while it is a perfect square and the exponent is not yet an integer. -/
def powReduce : Nat → Nat → Int → Int → Int → Nat × Int × Int × Int
  | 0, o, ex, yi, yk => (o, ex, yi, yk)
  | f + 1, o, ex, yi, yk =>
    let r := isqrt o
    if yk < 0 && r * r == o && ex % 2 == 0 then powReduce f r (ex / 2) yi (yk + 1) else (o, ex, yi, yk)

/-- Enclosure of `(o * 2^ex)^(yi * 2^yk)` for odd o > 1, through 2^(y * log2). -/
def powDyEncl (o : Nat) (ex yi yk : Int) (prec : Nat) : Encl :=
  let l := log2Encl o ex (prec + 96)
  -- y * (t, t + 1) on the grid 2^(yk − n)
  let a := yi * l.1
  let b := yi * (l.1 + 1)
  let lo := min a b
  let hi := max a b
  let k := yk - l.2
  let fl := fun (v : Int) => if 0 ≤ k then (v * (2 ^ k.toNat : Nat), 0) else (v / (2 ^ (-k).toNat : Nat), (v % (2 ^ (-k).toNat : Nat)).toNat)
  let len := (-k).toNat
  let le := exp2Frac (fl lo).2 len (prec + 32)
  let he := exp2Frac (fl hi).2 len (prec + 32)
  let n := max (-9000) (min 9000 (fl lo).1)
  let d := ((fl hi).1 - (fl lo).1).toNat
  if 9000 ≤ n || n ≤ -9000 then ⟨1, 2, n⟩ else
  -- both intervals on one exponent
  let e := min le.e he.e
  ⟨le.lo <<< (le.e - e).toNat, (he.hi <<< d) <<< (he.e - e).toNat, e + n⟩

/-- pow(x, y) of the schedule engine for x ≥ 0 and finite y (R197, R220), binary64, roundTiesToEven. -/
def vPow (a b : Nat) : Nat :=
  let x := vSplit true a
  let y := vSplit true b
  if y.sig == 0 then vOne true
  else if x.cl == 0 && x.sig == 0 then (if y.sg then vInf true false else vZero true false)
  else
    let o := oddPart 64 x.sig 0
    let ex := x.e + o.2
    let t := oddPart 64 y.sig 0
    let yi : Int := if y.sg then -(t.1 : Int) else t.1
    let yk := y.e + t.2
    if o.1 == 1 then (vExp2Dy true .rne (yi * ex) yk).1
    else
      let r := powReduce 1200 o.1 ex yi yk
      if 0 ≤ r.2.2.2 then
        -- from 2^80 on every base other than 1 over- or underflows in the same way
        let n := r.2.2.1 * (2 ^ (min r.2.2.2 80).toNat : Nat)
        (vPowInt true .rne false r.1 r.2.1 n).1
      else (vZiv true .rne false (powDyEncl r.1 r.2.1 r.2.2.1 r.2.2.2)).1

/-- `2^prec * atan(1 / m)`, truncated term by term. -/
def atanInv (prec m : Nat) : Int :=
  (List.range (prec / 4 + 2)).foldl (fun s i =>
    let t : Int := ((1 <<< prec) / (m ^ (2 * i + 1)) / (2 * i + 1) : Nat)
    if i % 2 == 0 then s + t else s - t) 0

/-- `2^prec * π` within 2^20 units, by Machin's formula. -/
def piFix (prec : Nat) : Nat := (16 * atanInv prec 5 - 4 * atanInv prec 239).toNat

/-- Taylor sum of cos (first = 1) or sin (first = θ) in fixed point, term by term. -/
def trigSum (prec th2 : Nat) : Nat → Nat → Nat → Bool → Int → Int
  | 0, _, _, _, s => s
  | k + 1, j, t, minus, s =>
    let t' := ((t * th2) >>> prec) / ((j + 1) * (j + 2))
    trigSum prec th2 k (j + 2) t' (!minus) (if minus then s - t' else s + t')

/-- Enclosure of cos(π f / 2^len) for 0 < f / 2^len < 1/2, in fixed point with 64 guard bits. -/
def cosPiEncl (f len prec : Nat) : Encl :=
  let w := prec + 64
  let pi := piFix w
  -- below a quarter the cosine series, above it the sine of the complement
  let small := decide (4 * f < 1 <<< len)
  let g := if small then f else (1 <<< (len - 1)) - f
  let th := (pi * g) >>> len
  let th2 := (th * th) >>> w
  let s := if small then trigSum w th2 w 0 (1 <<< w) true (1 <<< w : Nat) else trigSum w th2 w 1 th true th
  ⟨s.toNat - 2 ^ 32, s.toNat + 2 ^ 32, -(w : Int)⟩

/-- cosPi of a binary64 code (R197, R220), roundTiesToEven; the schedule's x lies in 0 to 1. -/
def vCosPi (a : Nat) : Nat :=
  let x := vSplit true a
  if x.sig == 0 then vOne true
  else
    let len := (-x.e).toNat
    let f := if 0 ≤ x.e then (x.sig <<< x.e.toNat) % 2 else x.sig % 2 ^ (len + 1)
    let one := 2 ^ len
    -- fold into 0 to 1
    let f := if one < f then 2 * one - f else f
    if f == 0 then vOne true
    else if f == one then vNeg true (vOne true)
    else if 2 * f == one then vZero true false
    else if 2 * f < one then (vZiv true .rne false (cosPiEncl f len)).1
    else (vZiv true .rne true (cosPiEncl (one - f) len)).1

/-- An integer as binary64 under RNE (R220's f64). -/
def f64OfNat (n : Nat) : Nat := (vRound true .rne false (Mag.dy n 0)).1

end Sys2Proof.Machine
end

