-- ==== Sys2Proof/Machine/Move.lean ====
section
/-! DEFINITION. The MOVE family (R260 to R269, R362, R363): COPY, CONVERT, TRANSPOSE, FILL and the bank atomics. -/
namespace Sys2Proof.Machine

/-! ### The descriptor body (R362) and its clamps (R387) -/

def mvOp (d : Desc) : Nat := fieldAt d 0x58 4 2 2
def mvAtomic (d : Desc) : Nat := fieldAt d 0x58 4 4 4
def mvConvBit (d : Desc) : Bool := bitAt (fieldAt d 0x58 4 0 32) 0
def mvTrBit (d : Desc) : Bool := bitAt (fieldAt d 0x58 4 0 32) 1
def mvFill (d : Desc) : Nat := fieldAt d 0x68 8 0 64
def mvResult (d : Desc) : Nat := fieldAt d 0x60 8 0 64
def mvBase (d : Desc) : Nat := fieldAt d 0x70 8 0 50

/-- ROWS or COLS, at most 2^24. -/
def dim24 (n : Nat) : Cl Nat := clampIf (decide (2 ^ 24 < n)) (2 ^ 24) n

/-- A stride that is non-zero and below the row's bytes becomes dense (R363). -/
def strideClamp (stride rowBytes : Nat) : Cl Nat := clampIf (stride != 0 && decide (stride < rowBytes)) 0 stride

/-- Bytes of a row of `cols` elements of `w` bits. -/
def rowBytes (cols w : Nat) : Nat := ceilDiv (cols * w) 8

/-- The byte ranges of a matrix of `rows` × `cols` elements of `w` bits (R359, R363). -/
def matRanges (addr stride w rows cols : Nat) : List (Nat × Nat) :=
  if rows = 0 ∨ cols = 0 then []
  else if stride = 0 then [(addr, rowBytes (rows * cols) w)]
  else (List.range rows).map fun i => (addr + i * stride, rowBytes cols w)

/-- Element (i, j) of such a matrix. -/
def matElem (s : State) (addr stride w cols i j : Nat) : Nat :=
  if stride = 0 then unpackAt w (fun b => rdByte s ((addr + b) % 2 ^ 64)) (i * cols + j)
  else unpackAt w (fun b => rdByte s ((addr + i * stride + b) % 2 ^ 64)) j

/-- The writes that place `rows` × `cols` codes. -/
def matWrites (addr stride w rows cols : Nat) (f : Nat → Nat → Nat) : List MemWrite :=
  if rows = 0 ∨ cols = 0 then []
  else if stride = 0 then
    [⟨addr, packElems w ((List.range rows).flatMap fun i => (List.range cols).map (f i)), .data⟩]
  else (List.range rows).map fun i => ⟨addr + i * stride, packElems w ((List.range cols).map (f i)), .data⟩

/-- The address of the byte that holds the first bit of element (i, j). -/
def matAddr (addr stride w cols i j : Nat) : Nat :=
  if stride = 0 then addr + (i * cols + j) * w / 8 else addr + i * stride + j * w / 8

/-! ### Scales of a tensor (R55 to R59) -/

/-- The scale data of one tensor reference as read at command start. -/
structure Scales where
  kind : Nat
  recs : List ScaleRec
  mx : List Nat
  cbs : List (List Nat)
  deriving DecidableEq, Repr

/-- The bytes that hold the scale records, block scales or codebooks of an R × C matrix; `n` records for a per-row scale. -/
def scaleRange (r : TRef) (rows cols n : Nat) : Nat × Nat :=
  if r.fmt == 0x08 then (r.scaleAddr, 16 * ceilDiv cols 256)
  else match r.scale with
    | 1 => (r.scaleAddr, 8)
    | 2 => (r.scaleAddr, 8 * n)
    | 3 => (r.scaleAddr, rows * ceilDiv cols 32)
    | _ => (r.scaleAddr, 0)

/-- Entries of a codebook that are NaN are read as 0x00 and counted (R47, R123). -/
def codebook (bs : List Byte) : Cl (List Nat) :=
  let xs := bs.map fun b => b.toNat
  (xs.map fun x => if x == 0x7F || x == 0xFF then 0 else x, (xs.filter fun x => x == 0x7F || x == 0xFF).length)

def codebooks (bs : List Byte) : Nat → Cl (List (List Nat))
  | 0 => ([], 0)
  | n + 1 => Cl.bind (codebook (bs.take 16)) fun c => let t := codebooks (bs.drop 16) n; (c :: t.1, t.2)

/-- The scale data in the bytes read. -/
def scalesOf (r : TRef) (cols n : Nat) (bs : List Byte) : Cl Scales :=
  if r.fmt == 0x08 then Cl.bind (codebooks bs (ceilDiv cols 256)) fun c => (⟨0, [], [], c⟩, 0)
  else match r.scale with
    | 1 => Cl.bind (scaleRecs bs 1) fun x => (⟨1, x, [], []⟩, 0)
    | 2 => Cl.bind (scaleRecs bs n) fun x => (⟨2, x, [], []⟩, 0)
    | 3 => (⟨3, [], bs.map fun b => b.toNat, []⟩, 0)
    | _ => (⟨0, [], [], []⟩, 0)

/-- The record of index `i` of a per-row scale, or the per-tensor record (R55). -/
def Scales.recOf (x : Scales) (i : Nat) : ScaleRec :=
  if x.kind == 1 then x.recs.getD 0 ScaleRec.one else if x.kind == 2 then x.recs.getD i ScaleRec.one else ScaleRec.one

def Scales.cb (x : Scales) (col : Nat) : List Nat := x.cbs.getD (col / 256) []

/-- The real value of stored code `x` at (i, j), with blocks along stored rows (R55, R58, R59). -/
def elemReal (f : Fmt) (x : Scales) (cols i j code : Nat) : EVal :=
  let v := elemVal f (x.cb j) code
  match x.kind with
  | 3 => match e8m0 (x.mx.getD (i * ceilDiv cols 32 + j / 32) 0) with
    | none => .nan
    | some e => match v with
      | .fin n m => .fin n (m.scale2 e)
      | v => v
  | 0 => v
  | _ => v.mulV (f32Val (x.recOf i).scale)

/-- LNS4 codes of odd L convert to FP32 as constants (R68): the value's nearest FP32, under RNE. The constants are those of the
codes themselves: a conversion that a scale enters rounds in its own mode (R69, R71, R72). -/
def lnsToFp32 (src dst : Fmt) (scaled : Bool) (code : Nat) (mode : Rnd) : Rnd :=
  if src == .lns4 && dst == .fp32 && code % 2 == 1 && !scaled then .rne else mode

/-! ### Copying (R265 to R269) -/

/-- A MOVE as it runs: its references and dimensions after clamps. -/
structure MoveD where
  src : TRef
  dst : TRef
  rows : Nat
  cols : Nat
  sstr : Nat
  dstr : Nat
  conv : Bool
  tr : Bool
  deriving DecidableEq, Repr

/-- The copying MOVE of a descriptor, with its clamps. Both references keep theirs without CONV_EN too, where DST takes SRC's format
(R54, R70, R71, R363, R518). -/
def moveOf (d : Desc) : Cl MoveD :=
  let conv := mvConvBit d
  let tr := mvTrBit d
  Cl.bind ((TRef.parse d 0x28).clamp (if conv then acceptMoveConv else acceptMove)) fun src =>
  Cl.bind (if conv then (TRef.parse d 0x38).clamp acceptMoveConv
    else Cl.bind (TRef.parse d 0x38).clampAddr fun r => Cl.bind r.clampRole fun r => { r with fmt := src.fmt }.clampConv) fun dst =>
  Cl.bind (dim24 (fieldAt d 0x48 4 0 32)) fun rows =>
  Cl.bind (dim24 (fieldAt d 0x4C 4 0 32)) fun cols =>
  Cl.bind (strideClamp (fieldAt d 0x50 4 0 32) (rowBytes cols (fmtWidth (fmtOf src.fmt)))) fun sstr =>
  Cl.bind (strideClamp (fieldAt d 0x54 4 0 32) (rowBytes (if tr then rows else cols) (fmtWidth (fmtOf dst.fmt)))) fun dstr =>
  (⟨src, dst, rows, cols, sstr, dstr, conv, tr⟩, b2n (mvOp d == 3))

/-- Rows and columns of the destination (R362). -/
def MoveD.drows (m : MoveD) : Nat := if m.tr then m.cols else m.rows
def MoveD.dcols (m : MoveD) : Nat := if m.tr then m.rows else m.cols

/-- The source position of destination element (i, j) (R266). -/
def MoveD.srcPos (m : MoveD) (i j : Nat) : Nat × Nat := if m.tr then (j, i) else (i, j)

/-- The braid bits of destination element (i, j) (R267, R363). -/
def moveBraid (s : State) (d : Desc) (role cols i j : Nat) : Nat :=
  braid16 (regGet s offJobseed).toNat (dStep d) (dLayer d) (dOp d) role ((mvBase d + i * cols + j) % 2 ^ 50)

/-- The real value of destination element (i, j)'s source. -/
def MoveD.real (m : MoveD) (s : State) (ss : Scales) (i j : Nat) : EVal :=
  let p := m.srcPos i j
  let f := fmtOf m.src.fmt
  elemReal f ss m.cols p.1 p.2 (matElem s m.src.addr m.sstr (fmtWidth f) m.cols p.1 p.2)

/-- Destination element (i, j) of a converting MOVE with one value per element, with its events (R60). -/
def MoveD.convPair (m : MoveD) (s : State) (d : Desc) (ss ds : Scales) (i j : Nat) : Nat × ConvEv :=
  let p := m.srcPos i j
  let f := fmtOf m.src.fmt
  let g := fmtOf m.dst.fmt
  let code := matElem s m.src.addr m.sstr (fmtWidth f) m.cols p.1 p.2
  let mode := lnsToFp32 f g (m.src.scale != 0 || m.dst.scale != 0) code (rndOf m.dst.role m.dst.rnd (moveBraid s d m.dst.role m.dcols i j))
  let v := m.real s ss i j
  let v := if m.dst.scale == 0 then v else v.mulV (f32Val (ds.recOf i).qscale)
  convertTo g (ds.cb j) mode m.dst.nonSat v

/-- Its code. -/
def MoveD.convElem (m : MoveD) (s : State) (d : Desc) (ss ds : Scales) (i j : Nat) : Nat := (m.convPair s d ss ds i j).1

/-- The block that holds column `j` of destination row `i`: its values (R58). -/
def MoveD.block (m : MoveD) (s : State) (ss : Scales) (i b : Nat) : List EVal :=
  (List.range (min 32 (m.dcols - 32 * b))).map fun k => m.real s ss i (32 * b + k)

/-- An element of an MX destination, with its events (R59). -/
def MoveD.mxPair (m : MoveD) (s : State) (d : Desc) (ss : Scales) (i j : Nat) : Nat × ConvEv :=
  let g := fmtOf m.dst.fmt
  match (mxBlock g (m.block s ss i (j / 32))).2 with
  | none => (fmtNan g, ConvEv.invOnly)
  | some e =>
    let v := match m.real s ss i j with
      | .fin n x => .fin n (x.scale2 (-e))
      | v => v
    convertTo g [] (rndOf m.dst.role m.dst.rnd (moveBraid s d m.dst.role m.dcols i j)) m.dst.nonSat v

/-- Its code. -/
def MoveD.mxElem (m : MoveD) (s : State) (d : Desc) (ss : Scales) (i j : Nat) : Nat := (m.mxPair s d ss i j).1

/-- The conversion OVF events of a MOVE (R61, R458). -/
def MoveD.ovfs (m : MoveD) (s : State) (d : Desc) (ss ds : Scales) : Nat :=
  if !m.conv then 0
  else ((List.range m.drows).flatMap fun i => (List.range m.dcols).filter fun j =>
    (if m.dst.scale == 3 then m.mxPair s d ss i j else m.convPair s d ss ds i j).2.ovf).length

/-- The writes of a copying MOVE whose inputs are readable. -/
def MoveD.writes (m : MoveD) (s : State) (d : Desc) (ss ds : Scales) : List MemWrite :=
  let w := fmtWidth (fmtOf m.dst.fmt)
  if !m.conv then
    matWrites m.dst.addr m.dstr w m.drows m.dcols fun i j =>
      let p := m.srcPos i j
      matElem s m.src.addr m.sstr w m.cols p.1 p.2
  else if m.dst.scale == 3 then
    matWrites m.dst.addr m.dstr w m.drows m.dcols (m.mxElem s d ss) ++
    [⟨m.dst.scaleAddr, (List.range m.drows).flatMap fun i => (List.range (ceilDiv m.dcols 32)).map fun b =>
      BitVec.ofNat 8 (mxBlock (fmtOf m.dst.fmt) (m.block s ss i b)).1, .data⟩]
  else matWrites m.dst.addr m.dstr w m.drows m.dcols (m.convElem s d ss ds)

/-- The destination ranges of a copying MOVE. -/
def MoveD.dests (m : MoveD) : List (Nat × Nat) :=
  matRanges m.dst.addr m.dstr (fmtWidth (fmtOf m.dst.fmt)) m.drows m.dcols ++
  (if m.conv && m.dst.scale == 3 then [(m.dst.scaleAddr, m.drows * ceilDiv m.dcols 32)] else [])

/-- The first source element, in row-major order, that lies in line `l`, and so the destination line that would take it. Where one source
line feeds several destination lines it is this one that becomes poisoned, and the `later` lines of R251 are those at higher addresses of the
destination, in a transposing MOVE too: a DESIGN CHOICE (log entry 47). -/
def MoveD.poisonedDst (m : MoveD) (l : Nat) : Option Nat :=
  let w := fmtWidth (fmtOf m.src.fmt)
  let hit := fun (p : Nat × Nat) =>
    let a := matAddr m.src.addr m.sstr w m.cols p.1 p.2
    decide (a < 64 * l + 64) && decide (64 * l < a + ceilDiv w 8)
  let ps := (List.range m.rows).flatMap fun i => (List.range m.cols).map fun j => (i, j)
  (ps.find? hit).map fun p =>
    let q := if m.tr then (p.2, p.1) else p
    matAddr m.dst.addr m.dstr (fmtWidth (fmtOf m.dst.fmt)) m.dcols q.1 q.2 / 64

/-- The part of each range that lies below address `a`. -/
def cutRanges (a : Nat) (rs : List (Nat × Nat)) : List (Nat × Nat) :=
  rs.filterMap fun r => if r.1 < a then some (r.1, min r.2 (a - r.1)) else none

def poisonOf (l : Nat) : MemWrite := ⟨64 * l, List.replicate 64 0, .poison⟩

/-- One of these writes meets an unbacked place (R233). -/
def offMap (s : State) (ws : List MemWrite) : Bool :=
  ws.any fun x => (linesOf x.addr x.bytes.length).any fun l => !backed s (64 * l % 2 ^ 64)

/-- RESULT with POISON set (R374). -/
def poisonResult : List Byte := 1 :: List.replicate 15 0

/-- A command that stopped at an access while it ran: contained, with POISON where it read poison (R245, R251, R512). -/
def stopCmd (st : Stop) (ws : List MemWrite) (c : Cmd) : Cmd :=
  match st with
  | .poisoned _ => { c with status := 1, result := poisonResult, writes := ws }
  | .refused _ => { c with status := 1, writes := ws }

/-- A copying MOVE starts: scales and codebooks, then the source, then the destination. -/
def copyBody (q : Fin 32) (c : Chk) (d : Desc) (n : Nat) : State :=
  let mv := moveOf d
  let m := mv.1
  let w := whoOf q c.s.queues[q].head d
  let sr := scaleRange m.src m.rows m.cols m.rows
  let dr := scaleRange m.dst m.drows m.dcols m.drows
  let c := if m.conv then Chk.read w c sr.1 sr.2 else c
  let c := if m.conv && m.dst.scale != 3 then Chk.read w c dr.1 dr.2 else c
  let ss := if m.conv then scalesOf m.src m.cols m.rows (rd c.s sr.1 sr.2) else (⟨0, [], [], []⟩, 0)
  let ds := if m.conv && m.dst.scale != 3 then scalesOf m.dst m.dcols m.drows (rd c.s dr.1 dr.2) else (⟨0, [], [], []⟩, 0)
  let n := n + mv.2 + ss.2 + ds.2
  match c.stop with
  | some st => startCmd c.s q d (n + b2n c.unbacked) fun x => stopCmd st [] x
  | none =>
    let c := (matRanges m.src.addr m.sstr (fmtWidth (fmtOf m.src.fmt)) m.rows m.cols).foldl (fun c r => Chk.read w c r.1 r.2) c
    let dst := m.dests
    match c.stop with
    | some (.poisoned l) =>
      let ws := match m.poisonedDst l with
        | some k => (cutRanges (64 * k) dst).map freeOf ++ [poisonOf k]
        | none => dst.map freeOf
      startCmd c.s q d (n + b2n (c.unbacked || offMap c.s ws)) fun x => { stopCmd (.poisoned l) ws x with dests := dst }
    | some st => startCmd c.s q d (n + b2n c.unbacked) fun x => { stopCmd st (dst.map freeOf) x with dests := dst }
    | none =>
      let c := dst.foldl (fun c r => Chk.write w c r.1 r.2) c
      match c.stop with
      | some st => startCmd c.s q d (n + b2n c.unbacked) fun x => { stopCmd st (dst.map freeOf) x with dests := dst }
      | none =>
        let ws := m.writes c.s d ss.1 ds.1
        let t := startCmd c.s q d (n + b2n c.unbacked) fun x => { x with writes := ws, dests := dst }
        countShared t (coresAt t q c.s.queues[q].head) 0x0B (m.ovfs c.s d ss.1 ds.1)

/-- An ATOMIC code of 7 to 15: the MOVE writes nothing (R362, R387). -/
def isBadAtomic (d : Desc) : Bool := mvOp d == 2 && decide (7 ≤ mvAtomic d)

/-- OP is COPY, after its clamp. -/
def isCopyOp (d : Desc) : Bool := mvOp d == 0 || mvOp d == 3

/-- The clamps of a MOVE with such a code, its own among them; no operation gives it a word size, and so a row's bytes (R363,
R387). -/
def badAtomicClamps (d : Desc) : Nat :=
  1 + b2n (mvConvBit d) + b2n (mvTrBit d) + ((TRef.parse d 0x28).clampPlain).2 + ((TRef.parse d 0x38).clampPlain).2 +
    (dim24 (fieldAt d 0x48 4 0 32)).2 + (dim24 (fieldAt d 0x4C 4 0 32)).2

/-- COPY without conversion or transposition (R363); a MOVE of no operation also starts here and writes nothing. -/
def execCopy (q : Fin 32) (env : List Finding) (s : State) : Res :=
  .next (startAlone s q env
    (fun _ d => dKind d == 2 && (isBadAtomic d || (isCopyOp d && !mvConvBit d && !mvTrBit d)))
    fun c d n =>
      if isBadAtomic d then startCmd c.s q d (n + badAtomicClamps d) id else copyBody q c d n)

/-- CONVERT (R265): COPY with CONV_EN, with or without TRANSPOSE. -/
def execConvert (q : Fin 32) (env : List Finding) (s : State) : Res :=
  .next (startAlone s q env (fun _ d => dKind d == 2 && isCopyOp d && mvConvBit d) (copyBody q))

/-- TRANSPOSE (R266): COPY with TRANSPOSE, with or without CONV_EN. -/
def execTranspose (q : Fin 32) (env : List Finding) (s : State) : Res :=
  .next (startAlone s q env (fun _ d => dKind d == 2 && isCopyOp d && mvTrBit d) (copyBody q))

/-! ### FILL (R363) -/

def fillBody (q : Fin 32) (c : Chk) (d : Desc) (n : Nat) : State :=
  let dst := (TRef.parse d 0x38).clampPlain
  let rows := dim24 (fieldAt d 0x48 4 0 32)
  let cols := dim24 (fieldAt d 0x4C 4 0 32)
  let str := strideClamp (fieldAt d 0x54 4 0 32) cols.1
  let n := n + dst.2 + rows.2 + cols.2 + str.2 + b2n (mvConvBit d) + b2n (mvTrBit d)
  let w := whoOf q c.s.queues[q].head d
  let rs := matRanges dst.1.addr str.1 8 rows.1 cols.1
  let c := rs.foldl (fun c r => Chk.write w c r.1 r.2) c
  match c.stop with
  | some st => startCmd c.s q d (n + b2n c.unbacked) fun x => { stopCmd st (rs.map freeOf) x with dests := rs }
  | none =>
    let ws := matWrites dst.1.addr str.1 8 rows.1 cols.1 fun _ j => bits (mvFill d) (8 * (j % 8)) 8
    startCmd c.s q d (n + b2n c.unbacked) fun x => { x with writes := ws, dests := rs }

/-- FILL: byte j of each row is byte j mod 8 of the pattern (R363). -/
def execFill (q : Fin 32) (env : List Finding) (s : State) : Res :=
  .next (startAlone s q env (fun _ d => dKind d == 2 && mvOp d == 1) (fillBody q))

/-! ### Bank atomics (R260 to R262) -/

/-- One bank atomic: word size in bytes, operand bytes per element, and the new word from the old word and the operand. -/
structure Atomic where
  size : Nat
  pair : Bool
  old : Bool
  deriving DecidableEq, Repr

def atomicOf (code : Nat) : Atomic :=
  match code with
  | 0 => ⟨4, false, false⟩
  | 1 => ⟨8, false, false⟩
  | 2 => ⟨4, false, true⟩
  | 3 => ⟨8, false, true⟩
  | 4 => ⟨4, true, true⟩
  | 5 => ⟨8, true, true⟩
  | _ => ⟨4, false, false⟩

/-- The word after the atomic (R260). `x` is the operand; for CAS, `x` is the expected value and `y` the new one. -/
def atomicWord (code old x y : Nat) : Nat :=
  match code with
  | 0 => (old + x) % 2 ^ 32
  | 1 => (old + x) % 2 ^ 64
  | 2 | 3 => x
  | 4 | 5 => if old == x then y else old
  | _ => let r := (vAdd false .rne old x).1; if vIsNan false r then 0x7FC00000 else r

/-- The words of the destination in source element order, aligned down (R260). -/
def atomicTargets (a : Atomic) (addr stride rows cols : Nat) : List Nat :=
  (List.range rows).flatMap fun i => (List.range cols).map fun j =>
    matAddr addr stride (8 * a.size) cols i j / a.size * a.size

/-- The operand's place of each source element. -/
def atomicSources (a : Atomic) (addr stride rows cols : Nat) : List Nat :=
  let w := if a.pair then 16 * a.size else 8 * a.size
  (List.range rows).flatMap fun i => (List.range cols).map fun j => matAddr addr stride w cols i j

/-- One element: read the operand, read the word, write the word (R261). -/
def atomicStep (w : Who) (code : Nat) (a : Atomic) (x : Chk × List Nat) (p : Nat × Nat) : Chk × List Nat :=
  if x.1.stop.isSome then x
  else
    let c := Chk.read w x.1 p.1 (if a.pair then 2 * a.size else a.size)
    let c := if c.stop.isSome then c else Chk.read w c p.2 a.size
    if c.stop.isSome then (c, x.2)
    else
      let old := rdNat c.s p.2 a.size
      let v := atomicWord code old (rdNat c.s p.1 a.size) (rdNat c.s (p.1 + a.size) a.size)
      ({ c with s := wr c.s p.2 (leBytes a.size v) }, x.2 ++ [old])

/-- Operands and words in the order in which they reach the bank: source element order, but left open for FADD (R262). -/
def arrival (code fresh : Nat) (ps : List (Nat × Nat)) : List (Nat × Nat) := if code == 6 then freeOrder fresh ps else ps

def atomicBody (code : Nat) (q : Fin 32) (c : Chk) (d : Desc) (n : Nat) : State :=
  let a := atomicOf code
  let src := (TRef.parse d 0x28).clampPlain
  let dst := (TRef.parse d 0x38).clampPlain
  let rows := dim24 (fieldAt d 0x48 4 0 32)
  let cols := dim24 (fieldAt d 0x4C 4 0 32)
  let sstr := strideClamp (fieldAt d 0x50 4 0 32) (cols.1 * (if a.pair then 2 * a.size else a.size))
  let dstr := strideClamp (fieldAt d 0x54 4 0 32) (cols.1 * a.size)
  let n := n + src.2 + dst.2 + rows.2 + cols.2 + sstr.2 + dstr.2 + b2n (mvConvBit d) + b2n (mvTrBit d)
  let w := whoOf q c.s.queues[q].head d
  let ts := atomicTargets a dst.1.addr dstr.1 rows.1 cols.1
  let n := n + b2n (cols.1 != 0 && (List.range rows.1).any fun i => i * dstr.1 % a.size != 0)
  if ts.any fun t => regionOf t != .core then startCmd c.s q d (n + 1) id
  else
    let ps := (atomicSources a src.1.addr sstr.1 rows.1 cols.1).zip ts
    let r := (arrival code c.s.fresh ps).foldl (atomicStep w code a) ({ c with s := { c.s with fresh := c.s.fresh + ps.length } }, [])
    let rs := ts.map fun t => (t, a.size)
    let res := (mvResult d, rows.1 * cols.1 * a.size)
    let c := if a.old then Chk.write w r.1 res.1 res.2 else r.1
    match c.stop with
    | some st => startCmd c.s q d (n + b2n c.unbacked) fun x => stopCmd st (if a.old then [freeOf res] else []) x
    | none =>
      startCmd c.s q d (n + b2n c.unbacked) fun x =>
        { x with writes := if a.old then [⟨mvResult d, r.2.flatMap (leBytes a.size), .data⟩] else [],
                 dests := if a.old then rs ++ [res] else rs }

/-- A row that starts an atomic MOVE of this code. -/
def startAtomic (code : Nat) (q : Fin 32) (env : List Finding) (s : State) : State :=
  startAlone s q env (fun _ d => dKind d == 2 && mvOp d == 2 && mvAtomic d == code) (atomicBody code q)

def execIadd32 (q : Fin 32) (env : List Finding) (s : State) : Res := .next (startAtomic 0 q env s)
def execIadd64 (q : Fin 32) (env : List Finding) (s : State) : Res := .next (startAtomic 1 q env s)
def execSwap32 (q : Fin 32) (env : List Finding) (s : State) : Res := .next (startAtomic 2 q env s)
def execSwap64 (q : Fin 32) (env : List Finding) (s : State) : Res := .next (startAtomic 3 q env s)
def execCas32 (q : Fin 32) (env : List Finding) (s : State) : Res := .next (startAtomic 4 q env s)
def execCas64 (q : Fin 32) (env : List Finding) (s : State) : Res := .next (startAtomic 5 q env s)
def execFadd32 (q : Fin 32) (env : List Finding) (s : State) : Res := .next (startAtomic 6 q env s)

end Sys2Proof.Machine
end

