-- ==== Sys2Proof/Machine/Sounding.lean ====
section
/-! DEFINITION. Sounding records: layout (R178) and the merge of R179. -/
namespace Sys2Proof.Machine

/-- A sounding record as fields (R178). -/
structure Sound where
  layer : Nat
  role : Nat
  op : Nat
  fmt : Nat
  rung : Nat
  /-- bits [30:24] of the word at 0x04 -/
  flags : Nat
  valid : Bool
  step : Nat
  scaleExp : Int
  replays : Nat
  stride : Nat
  elements : Nat
  zeros : Nat
  amax : Nat
  sat : Nat
  nans : Nat
  ufl : Nat
  sumsq : Nat
  hist : List Nat
  deriving DecidableEq, Repr

/-- Flag bits within `flags`: SUMSQ_SAT 0, HIST_SAT 1, CNT_SAT 2, ACC_OVF 3, ACC_INV 4, CURRENT 5, STANDS 6. -/
def Sound.parse (b : List Byte) : Sound :=
  { layer := fieldAt b 0x00 4 0 24, role := fieldAt b 0x00 4 24 8, op := fieldAt b 0x04 4 0 16, fmt := fieldAt b 0x04 4 16 5
    rung := fieldAt b 0x04 4 21 3, flags := fieldAt b 0x04 4 24 7, valid := fieldAt b 0x04 4 31 1 == 1
    step := fieldAt b 0x08 4 0 32, scaleExp := sext 8 (fieldAt b 0x0C 4 0 8), replays := fieldAt b 0x0C 4 8 3
    stride := fieldAt b 0x0C 4 11 2, elements := fieldAt b 0x10 8 0 64, zeros := fieldAt b 0x18 8 0 64
    amax := fieldAt b 0x20 4 0 32, sat := fieldAt b 0x24 4 0 32, nans := fieldAt b 0x28 4 0 32, ufl := fieldAt b 0x2C 4 0 32
    sumsq := fieldAt b 0x30 16 0 128, hist := (List.range 64).map fun i => fieldAt b (0x40 + 3 * i) 3 0 24 }

/-- The 256 bytes of a record (R178, R13). -/
def Sound.bytes (r : Sound) : List Byte :=
  le4 (r.layer + r.role * 2 ^ 24) ++
  le4 (r.op + r.fmt * 2 ^ 16 + r.rung * 2 ^ 21 + r.flags * 2 ^ 24 + b2n r.valid * 2 ^ 31) ++
  le4 r.step ++ le4 (twos 8 r.scaleExp + r.replays * 2 ^ 8 + r.stride * 2 ^ 11) ++
  le8 r.elements ++ le8 r.zeros ++ le4 r.amax ++ le4 r.sat ++ le4 r.nans ++ le4 r.ufl ++ leBytes 16 r.sumsq ++
  r.hist.flatMap (leBytes 3)

def maxNats (xs : List Nat) : Nat := xs.foldl max 0
def sumNats (xs : List Nat) : Nat := xs.foldl (· + ·) 0
def allSame (xs : List Nat) : Bool := xs.all fun x => x == xs.headD 0

/-- The merge of a non-empty set of records, every sum formed exactly before it saturates (R179, R289). -/
def Sound.merge (rs : List Sound) : Sound :=
  let f := fun (g : Sound → Nat) => rs.map g
  let same := allSame (f Sound.layer) && allSame (f Sound.role) && allSame (f Sound.op) && allSame (f Sound.fmt)
    && allSame (f Sound.step) && allSame (f Sound.stride)
  let sat := sumNats (f Sound.sat)
  let nans := sumNats (f Sound.nans)
  let ufl := sumNats (f Sound.ufl)
  let ss := sumNats (f Sound.sumsq)
  let hs := (List.range 64).map fun i => sumNats (rs.map fun r => r.hist.getD i 0)
  let c32 := 0xFFFFFFFF
  let fl := (f Sound.flags).foldl (· ||| ·) 0
  let fl := fl ||| b2n (decide (2 ^ 128 ≤ ss)) ||| (b2n (hs.any fun h => decide (0xFFFFFF < h)) * 2)
    ||| (b2n (decide (c32 < sat) || decide (c32 < nans) || decide (c32 < ufl)) * 4)
  { layer := maxNats (f Sound.layer), role := maxNats (f Sound.role), op := maxNats (f Sound.op), fmt := maxNats (f Sound.fmt)
    rung := maxNats (f Sound.rung), flags := fl, valid := same && rs.all Sound.valid
    step := maxNats (f Sound.step), scaleExp := (rs.map Sound.scaleExp).foldl max (-128), replays := maxNats (f Sound.replays)
    stride := maxNats (f Sound.stride), elements := sumNats (f Sound.elements) % 2 ^ 64, zeros := sumNats (f Sound.zeros) % 2 ^ 64
    amax := maxNats (f Sound.amax), sat := min sat c32, nans := min nans c32, ufl := min ufl c32
    sumsq := min ss (2 ^ 128 - 1), hist := hs.map fun h => min h 0xFFFFFF }

/-- The merge of 256-byte records. -/
def mergeRecords (bs : List (List Byte)) : List Byte := (Sound.merge (bs.map Sound.parse)).bytes

end Sys2Proof.Machine
end

