-- ==== Sys2Proof/Machine/Confluence.lean ====
section
/-! DEFINITION. Confluence (R275 to R311): exact accumulators, windows, reduction packets, and the endings of a REDUCE. -/
namespace Sys2Proof.Machine

/-! ### Groups and shards (R275, R276, R282) -/

def memberAt (g : Group) (rank : Nat) (backup : Bool) : Option Member :=
  g.members.find? fun m => !m.ignored && m.rank == rank && m.backup == backup

def selfMember (g : Group) : Member := g.members.getD g.self ⟨0, 0, true, true⟩

/-- Every other member (R282). -/
def otherMembers (g : Group) : List Member :=
  ((g.members.zip (List.range g.members.length)).filter fun x => !x.1.ignored && x.2 != g.self).map Prod.fst

/-- A group number within range. -/
def grpFin (n : Nat) : Fin 8 := ⟨n % 8, Nat.mod_lt _ (by decide)⟩

def grpOf (s : State) (n : Nat) : Group := s.groups[grpFin n]

def updG (s : State) (n : Nat) (f : Group → Group) : State := { s with groups := s.groups.set (grpFin n) (f (grpOf s n)) }

/-- First element of shard k of a bucket. -/
def shardLo (count ranks k : Nat) : Nat := k * count / ranks

/-- The route to a primary is lost (R320, R407): its entry names a port that carries no session. -/
def routeGone (s : State) (addr : Nat) : Bool :=
  s.routes.any fun r => r.1 == addr && !hasSession (s.ports[r.2 % 16]'(Nat.mod_lt _ (by decide)))

/-- Window length in elements (R283). -/
def winLen (elem : Nat) : Nat := if elem == 4 then 16 else if elem == 2 then 512 else 1024

def shardWindows (r : Reduce) (ranks k : Nat) : Nat :=
  ceilDiv (shardLo r.count ranks (k + 1) - shardLo r.count ranks k) (winLen r.elem)

/-- First bucket element and length of window w of shard k. -/
def winRange (r : Reduce) (ranks k w : Nat) : Nat × Nat :=
  let lo := shardLo r.count ranks k + w * winLen r.elem
  (lo, min (winLen r.elem) (shardLo r.count ranks (k + 1) - lo))

/-- Bytes of a contribution element in a format or element kind. -/
def contribBytes (elem fmt : Nat) : Nat :=
  match elem with
  | 0 => fmtWidth (fmtOf fmt) / 8
  | 2 => 8
  | 4 => 256
  | _ => 4

/-- Places of `n` elements from bucket element `i` (R283). -/
def partRanges (base stride elem fmt i n : Nat) : List (Nat × Nat) :=
  if elem == 4 then (List.range n).map fun j => (base + (i + j) * stride, 256)
  else [(base + i * contribBytes elem fmt, n * contribBytes elem fmt)]

/-! ### The running REDUCE of a queue -/

/-- GROUP of a REDUCE descriptor (R281, R364). -/
def rdGroup (d : Desc) : Nat := fieldAt d 0x50 4 0 3

def reduceOf (s : State) (q : Fin 32) : Option Reduce :=
  match s.queues[q].active with
  | c :: _ => match c.work with
    | .reduce r => some r
    | _ => none
  | [] => none

def setReduce (s : State) (q : Fin 32) (r : Reduce) : State :=
  updQ s q fun u => { u with active := match u.active with
    | c :: cs => { c with work := .reduce r } :: cs
    | [] => [] }

/-- The queue of the running REDUCE of a group, bucket and step. -/
def findReduce (s : State) (group bucket step : Nat) : Option (Fin 32) :=
  (List.finRange 32).find? fun q => match reduceOf s q with
    | some r => r.group == group && r.bucket == bucket && r.step == step
    | none => false

/-- A REDUCE of the group has started and not completed (R278). -/
def groupBusy (s : State) (n : Nat) : Bool :=
  (List.finRange 32).any fun q => s.queues[q].active.any fun c => c.kind == 3 && rdGroup c.desc == n

def cmdWho (s : State) (q : Fin 32) : Who :=
  match s.queues[q].active with
  | c :: _ => whoOf q c.idx c.desc
  | [] => Who.none

/-! ### Packets (R294) -/

structure Pkt where
  type : Nat
  group : Nat
  backup : Bool
  rank : Nat
  elem : Nat
  poison : Bool
  degraded : Bool
  crc : Nat
  step : Nat
  bucket : Nat
  w : Nat
  fmt : Nat
  scaleExp : Int
  payCrc : Nat
  aux0 : Nat
  aux1 : Nat
  payload : List Byte
  deriving DecidableEq, Repr

/-- Header and payload as bytes. AUX1 carries the upper half of the window index, or for DONE the NANRANK. -/
def Pkt.bytes (p : Pkt) : List Byte :=
  le4 (p.type + p.group * 2 ^ 4 + b2n p.backup * 2 ^ 7 + p.rank * 2 ^ 8 + p.elem * 2 ^ 20 + b2n p.poison * 2 ^ 24 + b2n p.degraded * 2 ^ 25)
  ++ le4 p.crc ++ le4 p.step ++ le4 (p.bucket + p.w % 2 ^ 16 * 2 ^ 16)
  ++ le4 (p.payload.length + p.fmt * 2 ^ 16 + twos 8 p.scaleExp * 2 ^ 21) ++ le4 p.payCrc ++ le4 p.aux0
  ++ le4 (if p.type == 5 then p.aux1 else p.w / 2 ^ 16) ++ p.payload

def Pkt.parse (b : List Byte) : Pkt :=
  let t := fieldAt b 0 4 0 4
  { type := t, group := fieldAt b 0 4 4 3, backup := bitAt (fieldAt b 0 4 0 32) 7, rank := fieldAt b 0 4 8 12
    elem := fieldAt b 0 4 20 4, poison := bitAt (fieldAt b 0 4 0 32) 24, degraded := bitAt (fieldAt b 0 4 0 32) 25
    crc := fieldAt b 4 4 0 32, step := fieldAt b 8 4 0 32, bucket := fieldAt b 12 4 0 16
    w := fieldAt b 12 4 16 16 + (if t == 5 || t == 6 then 0 else fieldAt b 0x1C 4 0 16 * 2 ^ 16)
    fmt := fieldAt b 0x10 4 16 5, scaleExp := sext 8 (fieldAt b 0x10 4 21 8), payCrc := fieldAt b 0x14 4 0 32
    aux0 := fieldAt b 0x18 4 0 32, aux1 := fieldAt b 0x1C 4 0 13
    payload := (b.drop 32).take (fieldAt b 0x10 4 0 16) }

/-- A packet of a REDUCE with the fields every type shares. -/
def mkPkt (g : Group) (r : Reduce) (type rank : Nat) : Pkt :=
  { type := type, group := r.group, backup := false, rank := rank, elem := r.elem, poison := false, degraded := r.bf16
    crc := g.crc, step := r.step, bucket := r.bucket, w := 0, fmt := 0, scaleExp := 0, payCrc := 0, aux0 := 0
    aux1 := 0x1000, payload := [] }

/-- A packet to one member: the group's channel, or the control channel for ABORT (R275, R294). After a job-fatal error
no reduction packet is sent (R405). -/
def sendPkt (s : State) (addr dport : Nat) (p : Pkt) : State :=
  if s.jobFatal then s else sendPacket s addr dport 1 (if p.type == 6 then 8 else p.group) p.bytes

def sendAll (s : State) (ms : List Member) (p : Pkt) : State := ms.foldl (fun s m => sendPkt s m.addr 0 p) s

/-! ### Events (R309, R313, R314) -/

/-- The least of a list. -/
def leastOf : List Nat → Option Nat
  | [] => none
  | a :: r => some (r.foldl min a)

/-- The bits [hi:0] of a field of an event record that the cause gives no meaning: a free value (log entry 32). -/
def freeField (s : State) (k width : Nat) : Nat := Config.freeNat (8 * s.fresh + k) % 2 ^ width

/-- A CONFLUENCE record. RANK, WINDOW and LINK_ADDR are none where the cause concerns no rank, window or member. -/
def cflEvent (s : State) (q : Fin 32) (r : Reduce) (cause : Nat) (rank? : Option Nat) (count : Nat) (window? addr? : Option Nat) : State :=
  let w := cmdWho s q
  let rank := rank?.getD (freeField s 1 13)
  let window := window?.getD (freeField s 2 32)
  let addr := addr?.getD (freeField s 3 16)
  evPush (freshen s) w.q (evRecord s 0x05 w.q cause w.idx
    (le4 (w.layer + r.group * 2 ^ 24) ++ le4 (w.op + r.bucket * 2 ^ 16) ++ le4 r.step ++ le4 rank ++ le4 count ++ le4 window
      ++ leBytes 2 addr))

/-- A packet discarded under R295. -/
def cflStale (s : State) : State := setFlagOnly (cntInc s offCflEvcnt 48 16) offCflEvstat 6

/-! ### The exact accumulator (R285 to R289) -/

def AccEl.empty : AccEl := ⟨0, false, false, false, true, 0x1000⟩

/-- One FSUM element of one rank (R286). -/
def AccEl.addF (x : AccEl) (rank : Nat) (v : Split) : AccEl :=
  let x := if v.cl != 0 || !v.sg || v.sig != 0 then { x with allneg0 := false } else x
  if v.cl == 1 then { x with fnan := true, nanrank := min x.nanrank rank }
  else if v.cl == 2 then (if v.sg then { x with fninf := true } else { x with fpinf := true })
  else
    let m := BitVec.ofNat 320 (shiftI v.sig (v.e + 160))
    { x with acc := if v.sg then x.acc - m else x.acc + m }

/-- One element of an integer kind (R283). -/
def AccEl.addI (x : AccEl) (elem code : Nat) : AccEl :=
  match elem with
  | 1 => { x with acc := x.acc + BitVec.ofInt 320 (sext 32 code) }
  | 2 => { x with acc := x.acc + BitVec.ofNat 320 code }
  | _ => { x with acc := BitVec.ofNat 320 (max x.acc.toNat code) }

/-- The elements of a payload entered once each (R286). -/
def enterEls (elem rank fmt : Nat) (e : Int) (payload : List Byte) (els : List AccEl) : List AccEl :=
  let k := contribBytes elem fmt
  (els.zip (List.range els.length)).map fun x =>
    let code := leNat ((payload.drop (k * x.2)).take k)
    if elem == 0 then
      let v := splitElem (fmtOf fmt) [] code
      x.1.addF rank { v with e := v.e + e }
    else x.1.addI elem code

/-- The result of one element: its code, and whether it is a NaN result or an OVF event (R287, R289). -/
def elemResult (s : State) (d : Desc) (r : Reduce) (i : Nat) (x : AccEl) : Nat × Bool × Bool :=
  match r.elem with
  | 0 =>
    let f := fmtOf r.dstFmt
    if x.fnan || (x.fpinf && x.fninf) then (fmtNan f, true, false)
    else if x.fpinf then ((convertTo f [] .rne r.dstNonSat (.inf false)).1, false, false)
    else if x.fninf then ((convertTo f [] .rne r.dstNonSat (.inf true)).1, false, false)
    else if x.acc == 0 then (b2n x.allneg0 * 2 ^ (fmtWidth f - 1), false, false)
    else
      let b := braid16 (regGet s offJobseed).toNat r.step (dLayer d) (dOp d) r.dstRole ((r.indexBase + i) % 2 ^ 50)
      let v := (EVal.ofDy x.acc.toInt (-160) false).mulV (f32Val r.dstQ)
      let c := convertTo f [] (rndOf r.dstRole r.dstRnd b) r.dstNonSat v
      (c.1, false, c.2.ovf)
  | 1 =>
    let v := x.acc.toInt
    let y := max (-(2 ^ 31)) (min (2 ^ 31 - 1) v)
    (twos 32 y, false, y != v)
  | 2 => (min x.acc.toNat (2 ^ 64 - 1), false, decide (2 ^ 64 ≤ x.acc.toNat))
  | _ => (x.acc.toNat, false, false)

/-- Bytes of a result element. -/
def resultBytes (r : Reduce) : Nat := if r.elem == 0 then fmtWidth (fmtOf r.dstFmt) / 8 else contribBytes r.elem 0

/-- The result payload of a window, its NaN results, OVF events and lowest NaN rank. -/
def windowResult (s : State) (d : Desc) (r : Reduce) (lo : Nat) (x : Window) : List Byte × Nat × Nat × Nat :=
  if r.elem == 4 then
    let n := x.els.length
    ((List.range n).flatMap fun j => mergeRecords (x.recs.map fun p => (p.drop (256 * j)).take 256), 0, 0, 0x1000)
  else
    let rs := (x.els.zip (List.range x.els.length)).map fun e => elemResult s d r (lo + e.2) e.1
    (rs.flatMap (fun y => leBytes (resultBytes r) y.1), (rs.filter fun y => y.2.1).length,
      (rs.filter fun y => y.2.2).length, x.els.foldl (fun m e => min m e.nanrank) 0x1000)

/-- Where the results of `n` elements from bucket element `i` are written (R283, R296). -/
def dstRanges (r : Reduce) (i n : Nat) : List (Nat × Nat) :=
  if r.elem == 4 then partRanges r.src r.rstride 4 0 i n
  else [(r.dst + i * resultBytes r, n * resultBytes r)]

/-- A write of the running REDUCE, which becomes visible when it completes (R296). -/
def holdWrites (s : State) (q : Fin 32) (ws : List MemWrite) : State :=
  updQ s q fun u => { u with active := match u.active with
    | c :: cs => { c with writes := c.writes ++ ws } :: cs
    | [] => [] }

/-- Result bytes to be written, or lines to be written poisoned; a place that R245 or R512 refuses takes nothing and is
recorded (R519). -/
def writeResult (s : State) (q : Fin 32) (r : Reduce) (i n : Nat) (payload : List Byte) (poison : Bool) : State :=
  let rs := dstRanges r i n
  let c := Chk.writeOpen (cmdWho s q) s rs
  if c.stop.isSome then setReduce c.s q { r with refused := true }
  else
    holdWrites (setReduce c.s q r) q ((rs.zip (List.range rs.length)).map fun x =>
      ⟨x.1.1, padTo x.1.2 (payload.drop (x.2 * x.1.2)), if poison then .poison else .data⟩)

/-! ### Endings (R304 to R308, R519) -/

/-- The RESULT bytes of a REDUCE (R374). -/
def reduceResult (r : Reduce) (outcome rank nan ovf : Nat) : List Byte :=
  le4 (outcome + b2n r.bf16 * 2 ^ 3 + rank * 2 ^ 4) ++ le4 nan ++ le4 ovf ++ leBytes 4 0

/-- The write of the guard word, or that its place refuses it (R304, R519). -/
def guardWrite (s : State) (q : Fin 32) (r : Reduce) (v : Nat) : State × List MemWrite × Bool :=
  if r.guardPtr == 0 then (s, [], false)
  else
    let c := Chk.writeOpen (cmdWho s q) s [(r.guardPtr, 4)]
    if c.stop.isSome then (c.s, [], true) else (c.s, [⟨r.guardPtr, le4 v, .data⟩], false)

/-- The guard word written with the other writes of the REDUCE, unless its place refuses it. -/
def writeGuard (s : State) (q : Fin 32) (r : Reduce) (v : Nat) : State × Bool :=
  let x := guardWrite s q r v
  (holdWrites x.1 q x.2.1, x.2.2)

/-- The bucket is no longer held: the step and the outcome of its last REDUCE (R292, R306). -/
def markEnded (s : State) (r : Reduce) (outcome : Nat) : State :=
  let s := updG s r.group fun g =>
    { g with lastStep := (r.bucket, r.step, outcome) :: g.lastStep.filter fun x => x.1 != r.bucket }
  if r.bf16 then setFlagOnly s offErrStat 4 else s

/-- The completion record of a REDUCE that has ended, with its writes: contained outcomes stop the queue, HALTED by an ABORT
leaves it RUNNING (R296, R305, R375). -/
def completeReduce (s : State) (q : Fin 32) (c : Cmd) (status : Nat) : State :=
  let c := { c with work := .plain }
  if status == 0 then doneCmd (popCmd s q) q c
  else
    let s := applyWrites (q.val, c.idx.toNat) (popCmd s q) c.writes
    if status == 1 then containCmd s q { c with status := 1 } else putRec s q c status

/-- The REDUCE ends with its outcome, and its completion record follows once its event records are held (R354, R374). -/
def finishReduce (s : State) (q : Fin 32) (r : Reduce) (outcome rank nan ovf : Nat) : State :=
  match s.queues[q].active with
  | [] => s
  | c :: _ =>
    let c := { c with result := reduceResult r outcome rank nan ovf }
    let status := if outcome == 0 || outcome == 1 then 0 else if outcome == 4 then 2 else 1
    let s := markEnded s r outcome
    if evBlocked s q then setCmd s q { c with work := .ended r status } else completeReduce s q c status

/-- The first window concerned by an ending that names no other: the lowest one freed (R306, R308, R309). -/
def firstFreed (r : Reduce) : Option Nat := leastOf (r.windows.map Window.w)

/-- An ending other than NORMAL once its guard word is done: event and flag, record (R305, R306, R313). `win` is the first
window concerned. -/
def endGuarded (s : State) (q : Fin 32) (r : Reduce) (outcome rank : Nat) (win : Option Nat) : State :=
  let g := grpOf s r.group
  let addr := (memberAt g rank false).map fun m => m.addr
  let rk := if outcome == 2 then rank else 0x1000
  let s := match outcome with
    | 1 => setFlag (cflEvent s q r 0x04 none 0 win none) offCflEvstat 3 32
    | 2 => cntInc (setFlagOnly (cflEvent s q r 0x05 (some rank) 0 win addr) offCflEvstat 4) offCflEvcnt 16 16
    | 3 => cntInc (setFlagOnly (cflEvent s q r 0x06 none 0 win none) offCflEvstat 5) offCflEvcnt 0 16
    | 4 => cflEvent s q r 0x07 none 0 win none
    | _ => s
  finishReduce s q r outcome rk 0 0

/-- An ending other than NORMAL, with its guard word 0xFFFF_FFFF (R305). -/
def endReduce (s : State) (q : Fin 32) (r : Reduce) (outcome rank : Nat) (win : Option Nat) : State :=
  endGuarded (writeGuard s q r 0xFFFFFFFF).1 q r outcome rank win

/-- POISON has reached the member: a poisoned window here, open or written, a poisoned RESULT or DONE, a write that was refused, or a
poisoned scale record (R306, R307, R519; log entry 45). -/
def Reduce.poisoned (r : Reduce) : Bool :=
  r.dones.any DoneMsg.poison || r.homePoison || r.badWindow.isSome || r.windows.any Window.poison || r.refused || r.dstPoison || r.srcPoison

/-- The lowest poisoned window known. -/
def Reduce.badOf (r : Reduce) : Option Nat := leastOf ((r.windows.filter Window.poison).map Window.w ++ r.badWindow.toList)

/-- A home ends the bucket: ABORT to every member, then its own ending (R306). POISON comes before any other reason. -/
def homeEnds (s : State) (q : Fin 32) (r : Reduce) (why rank : Nat) (win : Option Nat) : State :=
  let outcome := if r.poisoned then 3 else why
  let win := (if r.poisoned then r.badOf else none) <|> win <|> firstFreed r
  let g := grpOf s r.group
  let home := (selfMember g).rank
  let reason := if outcome == 4 then 3 else if outcome == 3 then 4 else outcome
  let p := { mkPkt g r 6 (if outcome == 2 then rank else home) with aux0 := reason }
  let s := if (selfMember g).backup then s else sendAll s (otherMembers g) p
  endReduce s q { r with windows := [] } outcome rank win

/-- The windows of shard k whose RESULTs come to this member (R282). -/
def resultWindows (g : Group) (r : Reduce) (k : Nat) : Nat :=
  let m := selfMember g
  if k == m.rank && !m.backup then 0
  else if r.scatter && k != m.rank then 0
  else shardWindows r g.ranks k

/-- Whether the member has written every window it must write (R282, R304). -/
def resultsDone (g : Group) (r : Reduce) : Bool :=
  (List.range g.ranks).all fun k => decide (resultWindows g r k ≤ (r.results.filter fun x => x.1 == k).length)

/-- The cause that refuses a write of the REDUCE of queue q as it becomes visible, or 0 (R512, R519). -/
def lateRefused (s : State) (q : Fin 32) : Nat :=
  match s.queues[q].active with
  | c :: _ => writesRefused s (q.val, c.idx.toNat) c.writes
  | [] => 0

/-- The REDUCE completes once its windows are written and every home's DONE has arrived (R304, R307, R519). LINK_ADDR of the
NAN record is that of the primary of the lowest NaN rank, 0 where no rank sent a NaN (log entry 32). -/
def tryFinish (s : State) (q : Fin 32) : State :=
  match reduceOf s q with
  | none => s
  | some r =>
    let g := grpOf s r.group
    if evBlocked s q || !resultsDone g r || !((List.range g.ranks).all fun k => r.dones.any fun d => d.rank == k) then s
    else
      let nan := min (sumNats (r.dones.map DoneMsg.nan)) 0xFFFFFFFF
      let ovf := min (sumNats (r.dones.map DoneMsg.ovf)) 0xFFFFFFFF
      let rank := r.dones.foldl (fun m d => min m d.nanrank) 0x1000
      let late := lateRefused s q
      if r.dones.any DoneMsg.poison || r.refused || r.dstPoison || late != 0 then
        endReduce (if late == 0 then s else errEvent s (cmdWho s q) late 1 3 0 0 0) q r 3 0x1000 r.badWindow
      else
        let w := writeGuard s q r nan
        if w.2 then endGuarded w.1 q r 3 0x1000 r.badWindow
        else
          let addr := ((memberAt g rank false).map fun m => m.addr).getD 0
          let s := if nan != 0 then setFlag (cflEvent w.1 q r 0x03 (some rank) nan (some 0xFFFFFFFF) (some addr)) offCflEvstat 2 48
            else w.1
          finishReduce s q r 0 rank nan ovf

/-- The member homes no window: a backup, or a primary with an empty shard (R519). -/
def homesNone (g : Group) (r : Reduce) : Bool :=
  (selfMember g).backup || shardWindows r g.ranks (selfMember g).rank == 0

/-! ### Homes: windows (R287, R292 to R302) -/

/-- After the last window of its shard a home sends DONE to every member, its own included (R294, R304). A primary whose DST
scale record is poisoned ends the bucket POISON on every member, with an empty shard too (R519). -/
def homeDone (s : State) (q : Fin 32) : State :=
  match reduceOf s q with
  | none => s
  | some r =>
    let g := grpOf s r.group
    let me := selfMember g
    if me.backup || r.homeDone || !r.windows.isEmpty || r.nextW != shardWindows r g.ranks me.rank then s
    else
      let poison := r.homePoison || r.dstPoison
      let p := { mkPkt g r 5 me.rank with poison := poison, payCrc := r.homeOvf, aux0 := r.homeNan, aux1 := r.homeNanrank }
      let s := sendAll s (otherMembers g) p
      tryFinish (setReduce s q { r with homeDone := true, dones := r.dones ++ [DoneMsg.mk me.rank r.homeNan r.homeOvf r.homeNanrank poison] }) q

/-- A window whose every rank has entered: results formed, written and sent, the window freed (R282, R287, R296, R307). -/
def completeWindow (s : State) (q : Fin 32) (r : Reduce) (x : Window) : State :=
  let g := grpOf s r.group
  let me := selfMember g
  let rg := winRange r g.ranks me.rank x.w
  let desc := match s.queues[q].active with
    | c :: _ => c.desc
    | [] => []
  let poison := x.poison || r.dstPoison
  let res := windowResult s desc r rg.1 x
  let payload := if poison then List.replicate (rg.2 * resultBytes r) 0 else res.1
  let r := { r with windows := r.windows.filter (fun y => y.w != x.w)
                    homeNan := if poison then r.homeNan else min (r.homeNan + res.2.1) 0xFFFFFFFF
                    homeOvf := if poison then r.homeOvf else min (r.homeOvf + res.2.2.1) 0xFFFFFFFF
                    homeNanrank := if poison then r.homeNanrank else min r.homeNanrank res.2.2.2
                    homePoison := r.homePoison || poison
                    badWindow := if poison then leastOf (x.w :: r.badWindow.toList) else r.badWindow }
  let s := writeResult s q r rg.1 rg.2 payload poison
  let p := { mkPkt g r 4 me.rank with w := x.w, poison := poison, fmt := r.dstFmt, payCrc := crc32c payload, payload := payload }
  let dests := if r.scatter then (memberAt g me.rank true).toList else otherMembers g
  homeDone (sendAll s dests p) q

/-- Whether every rank's copy has been taken. -/
def windowFull (g : Group) (x : Window) : Bool :=
  (List.range g.ranks).all fun k => x.taken.any fun t => t.rank == k

/-- A window put back, or completed when it is full. -/
def putWindow (s : State) (q : Fin 32) (r : Reduce) (x : Window) : State :=
  if windowFull (grpOf s r.group) x then completeWindow s q r x
  else setReduce s q { r with windows := r.windows.map fun y => if y.w == x.w then x else y }

/-- Two copies of a rank's contribution to one window compared in warm-in (R302). -/
def compareCopies (s : State) (q : Fin 32) (r : Reduce) (c : CopyCrc) : State × Reduce :=
  let other := r.crcs.find? fun y => y.w == c.w && y.rank == c.rank && y.backup != c.backup
  let r' := { r with crcs := r.crcs ++ [c] }
  match other with
  | some y =>
    if y.crc == c.crc then (s, r')
    else
      let addr := (memberAt (grpOf s r.group) c.rank true).map fun m => m.addr
      let s := cflEvent s q r 0x02 (some c.rank) 0 (some c.w) addr
      let s := updG s r.group fun g => { g with mismatched := insNat c.rank g.mismatched }
      (if r.mismatch then s else cntInc (setFlagOnly s offCflEvstat 1) offCflEvcnt 32 16, { r' with mismatch := true })
  | none => (s, r')

/-- The granted part of SRC read: the payload to send or take, its format, or none where it is poisoned or refused
(R291, R307, R519). -/
def readPart (s : State) (q : Fin 32) (env : List Finding) (r : Reduce) (i n : Nat) : State × Nat × Option (List Byte) :=
  let rs := partRanges r.src r.rstride r.elem r.srcFmt i n
  let fmt := if r.bf16 && r.elem == 0 && r.srcFmt == 0 then 0x02 else r.srcFmt
  if r.srcPoison then (s, fmt, none)
  else
    let c := rs.foldl (fun c x => Chk.read (cmdWho s q) c x.1 x.2) (Chk.init s env)
    if c.stop.isSome then (c.s, fmt, none)
    else
      let bs := rs.flatMap fun x => rd c.s x.1 x.2
      if fmt == r.srcFmt then (c.s, fmt, some bs)
      else (c.s, fmt, some ((List.range n).flatMap fun j =>
        leBytes 2 (convertTo .bf16 [] .rne false (elemVal .fp32 [] (leNat ((bs.drop (4 * j)).take 4)))).1))

/-- One copy of a rank's contribution taken by a window (R286, R307). -/
def takeCopy (r : Reduce) (x : Window) (rank : Nat) (backup : Bool) (fmt : Nat) (e : Int) (payload : Option (List Byte)) : Window :=
  let x := { x with taken := x.taken ++ [Taken.mk rank backup] }
  match payload with
  | none => { x with poison := true }
  | some b =>
    if r.elem == 4 then { x with recs := x.recs ++ [b] }
    else { x with els := enterEls r.elem rank fmt e b x.els }

/-- The unit that holds a window (R292), and the windows it holds of any group. -/
def unitWindows (s : State) (u : Nat) : List (Nat × Bool) :=
  (List.finRange 32).flatMap fun q => match reduceOf s q with
    | some r => (r.windows.filter fun x => x.w % 16 == u).map fun x => (r.group, x.shared)
    | none => []

/-- A free place for a window of the group: reserved, then shared (R293). -/
def freePlace (s : State) (group u : Nat) : Option Bool :=
  let ws := unitWindows s u
  if !(ws.any fun x => x.1 == group && !x.2) then some false
  else if decide ((ws.filter fun x => x.2).length < 8) then some true else none

/-- The backup that may be granted for a late rank in normal service (R300). -/
def usableBackup (g : Group) (rank : Nat) : Option Member :=
  if g.mismatched.contains rank then none else memberAt g rank true

/-- GRANTs for a window to these members (R292). -/
def sendGrants (s : State) (g : Group) (r : Reduce) (w : Nat) (ms : List Member) : State :=
  ms.foldl (fun s m => sendPkt s m.addr 0 { mkPkt g r 1 (selfMember g).rank with backup := m.backup, w := w }) s

/-- One SUBST event for each rank of the bucket, with the first grants to its backup (R300, R313). -/
def substEvents (s : State) (q : Fin 32) (ranks : List Nat) : State :=
  ranks.foldl (fun s k =>
    match reduceOf s q with
    | none => s
    | some r =>
      match usableBackup (grpOf s r.group) k with
      | none => s
      | some m =>
        if r.subst.contains k then s
        else
          let ws := r.windows.filter fun x => x.late.any fun l => l.rank == k
          let s := cflEvent s q r 0x01 (some k) ws.length (leastOf (ws.map Window.w)) (some m.addr)
          let s := if r.subst.isEmpty then setFlag s offCflEvstat 0 16 else s
          setReduce s q { r with subst := r.subst ++ [k] }) s

/-- WINDOW_OPEN (R292): a home opens its next window when an accumulator is free, enters its own contribution and
sends GRANTs: to every other primary, in warm-in to every backup too, otherwise to the backups of the ranks late so far.
`accBad`: the accumulator shows an uncorrectable error, which poisons the window (R307). -/
def execWindowOpen (q : Fin 32) (env : List Finding) (accBad : Bool) (s : State) : Res :=
  match reduceOf s q with
  | none => .next s
  | some r =>
    let g := grpOf s r.group
    let me := selfMember g
    if me.backup || decide (shardWindows r g.ranks me.rank ≤ r.nextW) then .next s
    else
      match freePlace s r.group (r.nextW % 16) with
      | none => .next s
      | some shared =>
        let rg := winRange r g.ranks me.rank r.nextW
        let x : Window := ⟨r.nextW, shared, List.replicate rg.2 AccEl.empty, [], [], r.late, accBad⟩
        let rp := readPart s q env r rg.1 rg.2
        let x := takeCopy r x me.rank false rp.2.1 r.scaleExp rp.2.2
        let r := { r with nextW := r.nextW + 1, windows := r.windows ++ [x] }
        let own : CopyCrc := ⟨x.w, me.rank, false, crc32c (rp.2.2.getD (List.replicate (rg.2 * contribBytes r.elem rp.2.1) 0))⟩
        let r := { r with crcs := if r.warm then r.crcs ++ [own] else r.crcs }
        let prim := (otherMembers g).filter fun m => !m.backup && m.rank != me.rank
        let back := if r.warm then (otherMembers g).filter fun m => m.backup
          else r.late.filterMap fun l => if l.granted then usableBackup g l.rank else none
        let s := sendGrants (setReduce rp.1 q r) g r x.w (prim ++ back)
        let s := if r.warm then s else substEvents s q (r.late.map LateRank.rank)
        .next (match reduceOf s q with
          | some r => putWindow s q r x
          | none => s)

/-- Ranks that become late at open windows, and those of `ahead`, late at the windows still to be opened (R299): in
warm-in the home ends the bucket REPEAT; otherwise their backups are granted for the open windows (R300, R302). A rank late
only at windows still to be opened has its SUBST event with the first of their GRANTs. -/
def ranksLate (s : State) (q : Fin 32) (ahead : List Nat) (hit : Window → Nat → Bool) : State :=
  match reduceOf s q with
  | none => s
  | some r =>
    let g := grpOf s r.group
    let fresh := fun (x : Window) => (List.range g.ranks).filter fun k =>
      hit x k && !(x.taken.any fun t => t.rank == k) && !(x.late.any fun l => l.rank == k)
    let more := ahead.filter fun k => !(r.late.any fun l => l.rank == k)
    let all := (r.windows.flatMap fresh ++ more).foldl (fun a k => insNat k a) []
    if all.isEmpty then s
    else if r.warm then homeEnds s q r 1 0 (leastOf ((r.windows.filter fun x => !(fresh x).isEmpty).map Window.w))
    else
      let mk := fun k => LateRank.mk k s.gauge.count (usableBackup g k).isSome
      let r' := { r with
        late := r.late ++ (all.filter fun k => !(r.late.any fun l => l.rank == k)).map mk
        windows := r.windows.map fun x => { x with late := x.late ++ (fresh x).map mk } }
      let s := setReduce s q r'
      let s := r.windows.foldl (fun s x => sendGrants s g r x.w ((fresh x).filterMap (usableBackup g))) s
      substEvents s q (all.filter fun k => r.windows.any fun x => (fresh x).contains k)

/-- DEADLINE_DUE (R298, R299) at unit u: the windows it holds lose the ranks still missing. It may act again on windows opened after the
deadline has become due at the unit: a DESIGN CHOICE (log entry 47), since the spec says nothing of such a window. -/
def execDeadlineDue (q : Fin 32) (u : Fin 16) (s : State) : Res :=
  match reduceOf s q with
  | none => .next s
  | some r =>
    if r.deadline == 0 || decide (s.gauge.count < r.deadline) then .next s
    else .next (ranksLate s q [] fun x _ => x.w % 16 == u.val)

/-- ABANDON ticks: 0 selects 4,096 (R278). -/
def abandonTicks (g : Group) : Nat := if g.abandon == 0 then 4096 else g.abandon

/-- ABANDON (R301): a late rank whose copy has not arrived ABANDON ticks after it became late ends the bucket MISSING. -/
def execAbandon (q : Fin 32) (s : State) : Res :=
  match reduceOf s q with
  | none => .next s
  | some r =>
    let g := grpOf s r.group
    let due := r.windows.flatMap fun x => x.late.filterMap fun l =>
      if !(x.taken.any fun t => t.rank == l.rank) && decide (l.since + abandonTicks g ≤ s.gauge.count) then some l.rank else none
    match due with
    | [] => .next s
    | k :: ks =>
      let m := ks.foldl min k
      .next (homeEnds s q r 2 m (leastOf ((r.windows.filter fun x => !(x.taken.any fun t => t.rank == m)).map Window.w)))

/-- ROUTE_LOSS_ABANDON (R407). -/
def execRouteLossAbandon (q : Fin 32) (s : State) : Res :=
  match reduceOf s q with
  | none => .next s
  | some r =>
    let g := grpOf s r.group
    let due := r.lost.filter fun l => !(r.dones.any fun d => d.rank == l.1) && decide (l.2 + abandonTicks g ≤ s.gauge.count)
    match due with
    | [] => .next s
    | l :: ls => .next (homeEnds s q r 2 ((ls.map Prod.fst).foldl min l.1) none)

/-- The routes for which `gone` holds are lost to the REDUCE of queue q (R299, R320, R407): ranks whose primary they lead to
become late at every window open or still to be opened, and homes without a DONE start their ABANDON time. -/
def routesGone (s : State) (q : Fin 32) (gone : Nat → Bool) : State :=
    match reduceOf s q with
    | none => s
    | some r =>
      let g := grpOf s r.group
      let gone := fun (k : Nat) => match memberAt g k false with
        | some m => gone m.addr
        | none => false
      let lost := (List.range g.ranks).filter fun k =>
        gone k && !(r.dones.any fun d => d.rank == k) && !(r.lost.any fun l => l.1 == k) && (k != (selfMember g).rank || (selfMember g).backup)
      let s := setReduce s q { r with lost := r.lost ++ lost.map fun k => (k, s.gauge.count) }
      let ahead := if (selfMember g).backup || decide (shardWindows r g.ranks (selfMember g).rank ≤ r.nextW) then []
        else (List.range g.ranks).filter fun k => gone k && k != (selfMember g).rank
      ranksLate s q ahead fun _ k => gone k

/-- Routes through port p are lost (R320). -/
def routesLost (s : State) (p : Fin 16) : State :=
  let addrs := (s.routes.filter fun r => r.2 == p.val).map Prod.fst
  (List.finRange 32).foldl (fun s q => routesGone s q addrs.contains) s

/-! ### Received packets (R295) -/

/-- The sender is the member that the packet claims (R295). A MISSING ABORT may come from any primary (R294). -/
def senderOk (g : Group) (src : Nat) (p : Pkt) : Bool :=
  if p.type == 6 && p.aux0 == 2 then g.members.any fun m => !m.ignored && !m.backup && m.addr == src
  else match memberAt g p.rank (p.type == 2 && p.backup) with
    | some m => m.addr == src
    | none => false

/-- A packet of an armed group with the right table CRC and sender. -/
def pktOk (s : State) (src : Nat) (p : Pkt) : Bool :=
  let g := grpOf s p.group
  g.armed && p.crc == g.crc && senderOk g src p

/-- A packet whose REDUCE has not started is held for it (R292; log entry 21), unless its bucket has ended at that step: then
only a GRANT is held, and none of a bucket that was halted (R292, R306, R308). -/
def holdOrStale (s : State) (src port : Nat) (p : Pkt) (bytes : List Byte) : State :=
  let last := (grpOf s p.group).lastStep.find? fun x => x.1 == p.bucket
  let hold := match last with
    | none => true
    | some (_, st, outcome) => decide (st < p.step) || (p.step == st && p.type == 1 && outcome != 4)
  if hold then { s with early := s.early ++ [HeldPkt.mk src port bytes] } else cflStale s

/-- GRANT (R292): the granted part is read and sent as one CONTRIB to the home's port of the window. -/
def answerGrant (s : State) (q : Fin 32) (src : Nat) (p : Pkt) (env : List Finding) : State :=
  match reduceOf s q with
  | none => s
  | some r =>
    let g := grpOf s r.group
    let me := selfMember g
    if decide (g.ranks ≤ p.rank) || decide (shardWindows r g.ranks p.rank ≤ p.w) then cflStale s
    else
    let rg := winRange r g.ranks p.rank p.w
    let rp := readPart s q env r rg.1 rg.2
    let payload := rp.2.2.getD (List.replicate (rg.2 * contribBytes r.elem rp.2.1) 0)
    sendPkt rp.1 src (p.w % 16) { mkPkt g r 2 me.rank with
      backup := me.backup, w := p.w, poison := rp.2.2.isNone, fmt := rp.2.1, scaleExp := r.scaleExp,
      payCrc := crc32c payload, payload := payload }

/-- CONTRIB (R286, R299 to R302, R307). `accBad`: its entry meets an uncorrectable error in the window's accumulator. Two DESIGN CHOICES (log
entry 45): in warm-in a backup's copy that comes after its window has completed is compared and not counted in STALE_CNT, since R302
compares it when it arrives and R295 discards it; in normal service a backup's copy for a rank that is not late with its backup granted is
discarded and counted, a case that R295 does not list. -/
def takeContrib (s : State) (q : Fin 32) (p : Pkt) (accBad : Bool) : State :=
  match reduceOf s q with
  | none => s
  | some r =>
    let payload := if p.poison || accBad then none else some p.payload
    match r.windows.find? fun x => x.w == p.w with
    | none =>
      if r.warm && p.backup && decide (p.w < r.nextW) then
        let c := compareCopies s q r ⟨p.w, p.rank, true, p.payCrc⟩
        setReduce c.1 q c.2
      else cflStale s
    | some x =>
      if r.warm then
        let c := compareCopies s q r ⟨p.w, p.rank, p.backup, p.payCrc⟩
        if p.backup then setReduce c.1 q c.2
        else if x.taken.any fun t => t.rank == p.rank then cflStale s
        else putWindow c.1 q c.2 (takeCopy r x p.rank false p.fmt p.scaleExp payload)
      else if x.taken.any (fun t => t.rank == p.rank) then cflStale s
      else if p.backup && !(x.late.any fun l => l.rank == p.rank && l.granted) then cflStale s
      else putWindow s q r (takeCopy r x p.rank p.backup p.fmt p.scaleExp payload)

/-- RESULT (R296, R307, R519): its window is written once; one that this member takes from no home is discarded (R282, R295). -/
def takeResult (s : State) (q : Fin 32) (p : Pkt) : State :=
  match reduceOf s q with
  | none => s
  | some r =>
    let g := grpOf s r.group
    if r.results.contains (p.rank, p.w) || decide (g.ranks ≤ p.rank) || decide (resultWindows g r p.rank ≤ p.w) then cflStale s
    else
      let rg := winRange r g.ranks p.rank p.w
      let bad := p.poison || (r.dstPoison && homesNone g r)
      tryFinish (writeResult s q { r with results := r.results ++ [(p.rank, p.w)]
                                          badWindow := if bad then leastOf (p.w :: r.badWindow.toList) else r.badWindow }
        rg.1 rg.2 p.payload bad) q

/-- DONE (R304). -/
def takeDone (s : State) (q : Fin 32) (p : Pkt) : State :=
  match reduceOf s q with
  | none => s
  | some r =>
    if r.dones.any fun d => d.rank == p.rank then cflStale s
    else tryFinish (setReduce s q { r with dones := r.dones ++ [DoneMsg.mk p.rank p.aux0 p.payCrc p.aux1 p.poison] }) q

/-- ABORT (R306): the member ends with the reason; a window already poisoned makes it POISON, the reason of highest
precedence. -/
def takeAbort (s : State) (q : Fin 32) (p : Pkt) : State :=
  match reduceOf s q with
  | none => s
  | some r =>
    let outcome := if r.poisoned || p.aux0 == 4 then 3 else match p.aux0 with
      | 2 => 2
      | 3 => 4
      | _ => 1
    endReduce s q { r with windows := [] } outcome p.rank (r.badOf <|> firstFreed r)

/-- A reduction packet delivered from link address `src` (R295); after a job-fatal error every one is discarded (R405). A unit takes a CONTRIB
only for a window it holds, which is one of its own number modulo 16 (R292, R293). -/
def deliverPkt (s : State) (src port : Nat) (bytes : List Byte) (env : List Finding) (accBad : Bool) : State :=
  let p := Pkt.parse bytes
  if !inService s then s
  else if s.jobFatal || !pktOk s src p then cflStale s
  else match findReduce s p.group p.bucket p.step with
    | none => if p.type == 2 then cflStale s else holdOrStale s src port p bytes
    | some q =>
      match p.type with
      | 1 => answerGrant s q src p env
      | 2 => if port == p.w % 16 then takeContrib s q p accBad else cflStale s
      | 4 => takeResult s q p
      | 5 => takeDone s q p
      | 6 => takeAbort s q p
      | _ => cflStale s

/-- A reserved TYPE, or a link address that is not the claimed rank's, is malformed at the port of entry (R295, R341). -/
def deliverReduction (s : State) (p : Fin 16) (src port : Nat) (bytes : List Byte) (env : List Finding) (accBad : Bool) : State :=
  let k := Pkt.parse bytes
  let bad := !([1, 2, 4, 5, 6].contains k.type)
  let g := grpOf s k.group
  if !inService s then s
  else if bad || (g.armed && k.crc == g.crc && !senderOk g src k) then cflStale (portMalformed s p)
  else deliverPkt s src port bytes env accBad

/-- A packet whose TYPE is the row's. One that R295 discards for its sender counts at the port of arrival (R341), which a CONTRIB row, with the
unit of its DST_PORT, does not name. -/
def deliverAs (type : Nat) (src : BitVec 16) (port : Fin 16) (pkt : List Byte) (env : List Finding) (accBad : Bool) (s : State) : State :=
  if fieldAt pkt 0 4 0 4 != type then s
  else if type == 2 then deliverPkt s src.toNat port.val pkt env accBad
  else deliverReduction s port src.toNat port.val pkt env accBad

def execGrant (src : BitVec 16) (port : Fin 16) (pkt : List Byte) (env : List Finding) (s : State) : Res :=
  .next (deliverAs 1 src port pkt env false s)
def execContrib (src : BitVec 16) (port : Fin 16) (pkt : List Byte) (accBad : Bool) (s : State) : Res :=
  .next (deliverAs 2 src port pkt [] accBad s)
def execResult (src : BitVec 16) (port : Fin 16) (pkt : List Byte) (s : State) : Res := .next (deliverAs 4 src port pkt [] false s)
def execDone (src : BitVec 16) (port : Fin 16) (pkt : List Byte) (s : State) : Res := .next (deliverAs 5 src port pkt [] false s)
def execAbort (src : BitVec 16) (port : Fin 16) (pkt : List Byte) (s : State) : Res := .next (deliverAs 6 src port pkt [] false s)

end Sys2Proof.Machine
end

