-- ==== Sys2Proof/Machine/Groups.lean ====
section
/-! DEFINITION. The REDUCE descriptors (R281 to R284, R305, R519), and arming, disarming and held writes of a group
(R277, R278). -/
namespace Sys2Proof.Machine

/-! ### The REDUCE descriptor (R281, R364) -/

def rdElemRaw (d : Desc) : Nat := fieldAt d 0x50 4 4 4
def rdElem (d : Desc) : Nat := if rdElemRaw d ≤ 4 then rdElemRaw d else 0
/-- COLL after its clamp: REDUCE_SCATTER of STAT becomes ALLREDUCE. -/
def rdScatter (d : Desc) : Bool := bitAt (fieldAt d 0x50 4 0 32) 3 && rdElem d != 4

/-- A normal FP32 power of two: its exponent (R284). -/
def pow2Exp (x : Nat) : Option Int :=
  if notNormal32 x || bits x 0 23 != 0 || bitAt x 31 then none else some ((bits x 23 8 : Int) - 127)

/-- The fields of a REDUCE that do not depend on memory, with their clamps (R281). -/
structure RedD where
  src : TRef
  dst : TRef
  rstride : Nat
  deriving DecidableEq, Repr

/-- SRC and DST with their clamps. A gradient DST whose format neither R71 nor R281 accepts takes the E5M2 of R71, which is applied first: a
DESIGN CHOICE (log entry 47). -/
def redRefs (d : Desc) : Cl RedD :=
  let elem := rdElem d
  let fsum := elem == 0
  let ok := fun (c : Nat) => c == 0x00 || c == 0x02 || c == 0x05
  let grad := fun (r : TRef) => clampIf (roleGrad r.role && !gradFmt r.fmt) { r with fmt := 0x05 } r
  let rnd := fun (r : TRef) => clampIf (decide (2 ≤ r.rnd)) { r with rnd := 0 } r
  Cl.bind ((TRef.parse d 0x28).clampAddr) fun src =>
  Cl.bind (if fsum then
      Cl.bind src.clampRole fun r => Cl.bind (grad r) fun r => Cl.bind (clampIf (!ok r.fmt) { r with fmt := 0x05 } r) fun r =>
      Cl.bind (rnd r) fun r => clampIf (r.scale != 0 && !(r.scale == 1 && r.fmt == 0x05)) { r with scale := 0 } r
    else (src, 0)) fun src =>
  Cl.bind (if elem == 4 then (TRef.parse d 0x38, 0) else (TRef.parse d 0x38).clampAddr) fun dst =>
  Cl.bind (if fsum then
      Cl.bind dst.clampRole fun r => Cl.bind (grad r) fun r => Cl.bind (clampIf (!ok r.fmt) { r with fmt := 0x00 } r) fun r =>
      Cl.bind (rnd r) fun r => clampIf (decide (2 ≤ r.scale)) { r with scale := 0 } r
    else (dst, 0)) fun dst =>
  let rs := fieldAt d 0x4C 4 0 32
  let rs' := max 256 (rs / 256 * 256)
  Cl.bind (if elem == 4 then clampIf (rs != rs') rs' rs else (rs, 0)) fun rs =>
  (⟨src, dst, rs⟩, b2n (decide (5 ≤ rdElemRaw d)) + b2n (bitAt (fieldAt d 0x50 4 0 32) 3 && elem == 4)
    + b2n (fieldAt d 0x58 8 50 14 != 0))

/-- The precedence of the reason of an ABORT (R306): POISON, MISSING, HALTED, REPEAT. -/
def reasonRank (p : Pkt) : Nat := match p.aux0 with
  | 4 => 0 | 2 => 1 | 3 => 2 | _ => 3

/-- Held packets in the order in which they are handled: as they came, but where several reasons have reached the member, the
one that R306 puts first decides at the place of the first ABORT, after any RESULT or DONE that is poisoned. -/
def earlyOrder (s : State) (hs : List HeldPkt) : List HeldPkt :=
  let abort := fun (h : HeldPkt) => (Pkt.parse h.pkt).type == 6 && pktOk s h.src (Pkt.parse h.pkt)
  let bad := fun (h : HeldPkt) => let p := Pkt.parse h.pkt; (p.type == 4 || p.type == 5) && p.poison && pktOk s h.src p
  let pre := hs.takeWhile fun h => !abort h
  let post := hs.drop pre.length
  let best := (post.filter abort).mergeSort fun a b => decide (reasonRank (Pkt.parse a.pkt) ≤ reasonRank (Pkt.parse b.pkt))
  pre ++ (if post.isEmpty then [] else post.filter bad) ++ best ++ post.filter fun h => !abort h && !bad h

/-- The packets held for a REDUCE that starts are handled (R292). A line found bad once is poisoned and brings no second
finding. -/
def takeEarly (s : State) (env : List Finding) (group bucket step : Nat) : State :=
  let mine := fun (h : HeldPkt) => let p := Pkt.parse h.pkt; p.group == group && p.bucket == bucket && p.step == step
  (earlyOrder s (s.early.filter mine)).foldl
    (fun s h => deliverPkt s h.src h.port h.pkt (env.filter fun f => !linePoisoned s f.line) false)
    { s with early := s.early.filter fun h => !mine h }

/-- A REDUCE of a group that is not armed ends at once, and writes nothing but the guard word (R305). -/
def unarmedBody (q : Fin 32) (c : Chk) (d : Desc) (n guard : Nat) : State :=
  let w := whoOf q c.s.queues[q].head d
  let c := if guard == 0 then c else Chk.write w c guard 4
  let n := n + b2n c.unbacked
  let i := c.s.queues[q].head
  let s := addClamps (updQ c.s q fun u => { u with head := u.head + 1 }) q n
  let s := if guard == 0 || c.stop.isSome then s else wr s guard (le4 0xFFFFFFFF)
  containCmd s q { mkCmd i d (decide (0 < n)) with result := le4 (5 + 0x1000 * 2 ^ 4) ++ List.replicate 12 0 }

/-- A REDUCE starts. -/
def reduceBody (q : Fin 32) (c : Chk) (d : Desc) (n : Nat) : State :=
  let f := redRefs d
  let n := n + f.2
  let src := f.1.src
  let dst := f.1.dst
  let g := grpOf c.s (rdGroup d)
  let guard := fieldAt d 0x60 8 0 64
  let w := whoOf q c.s.queues[q].head d
  if !g.armed then unarmedBody q c d n guard
  else
    -- scale records, read once (R57, R284); CONV counts for FSUM only (R283); of SRC's the SCALE field alone (R284)
    let useSrc := src.scale == 1 && rdElem d == 0
    let c1 := if useSrc then Chk.read w c src.scaleAddr 8 else c
    let srcBad := c1.stop.isSome
    let sx := if useSrc && !srcBad then pow2Exp (rdNat c1.s src.scaleAddr 4) else none
    let c2 := if dst.scale == 1 && rdElem d == 0 then Chk.read w c1.go dst.scaleAddr 8 else c1.go
    let dstBad := c2.stop.isSome
    let dr := scaleRec (rd c2.s dst.scaleAddr 8)
    let useDst := dst.scale == 1 && rdElem d == 0 && !dstBad
    let n := n + b2n (useSrc && !srcBad && sx.isNone) + (if useDst then dr.2 else 0)
    let step := dStep d
    let warm := g.test || decide ((step + 2 ^ 32 - g.start) % 2 ^ 32 < g.warmin)
    let r : Reduce :=
      { group := rdGroup d, scatter := rdScatter d, elem := rdElem d, bucket := fieldAt d 0x50 4 16 16
        count := fieldAt d 0x48 4 0 32, step := step, src := src.addr, srcFmt := src.fmt
        scaleExp := sx.getD 0
        dst := dst.addr, dstFmt := dst.fmt, dstRnd := dst.rnd, dstNonSat := dst.nonSat, dstRole := dst.role
        dstQ := if useDst then dr.1.qscale else 0x3F800000
        rstride := f.1.rstride, indexBase := fieldAt d 0x58 8 0 50, guardPtr := guard, deadline := dDeadline d
        warm := warm, bf16 := g.bf16, srcPoison := srcBad, dstPoison := dstBad, refused := false
        nextW := 0, windows := [], crcs := [], homeNan := 0, homeOvf := 0, homeNanrank := 0x1000, homePoison := false, badWindow := none
        homeDone := false, subst := [], late := [], mismatch := false, results := [], dones := [], lost := [] }
    -- unbacked places count once (R233)
    let u := ((partRanges r.src r.rstride r.elem r.srcFmt 0 r.count) ++ (dstRanges r 0 r.count) ++
        (if guard == 0 then [] else [(guard, 4)])).any fun x =>
      (linesOf x.1 x.2).any fun l => !backed c2.s (64 * l)
    let s := startCmd c2.s q d (n + b2n (u || c2.unbacked)) fun x => { x with work := .reduce r }
    homeDone (takeEarly (routesGone s q (routeGone s)) c2.env r.group r.bucket step) q

/-- A group whose held write waits starts no REDUCE (R278, R368 condition 6). -/
def groupOpen (s : State) (d : Desc) : Bool := (grpOf s (rdGroup d)).held.isEmpty

/-- ALLREDUCE (R282). -/
def execAllreduce (q : Fin 32) (env : List Finding) (s : State) : Res :=
  .next (startAlone s q env (fun s d => dKind d == 3 && !rdScatter d && groupOpen s d) (reduceBody q))

/-- REDUCE_SCATTER (R282). -/
def execReduceScatter (q : Fin 32) (env : List Finding) (s : State) : Res :=
  .next (startAlone s q env (fun s d => dKind d == 3 && rdScatter d && groupOpen s d) (reduceBody q))

/-! ### Arming (R277) -/

/-- The table entries, with those of step 2 marked as ignored. -/
def markMembers (ranks : Nat) : List (List Byte) → List Member → List Member
  | [], acc => acc
  | b :: bs, acc =>
    let rank := fieldAt b 0 4 16 12
    let backup := bitAt (fieldAt b 0 4 0 32) 28
    let ign := decide (ranks ≤ rank) || acc.any fun m => !m.ignored && m.rank == rank && m.backup == backup
    markMembers ranks bs (acc ++ [⟨fieldAt b 0 4 0 16, rank, backup, ign⟩])

/-- The first fault of R277 that holds after the table is read, with its index; 0 for none. -/
def armFault (s : State) (ms : List Member) (ranks self : Nat) : Nat × Nat :=
  match (List.range ranks).find? fun k => !(ms.any fun m => !m.ignored && !m.backup && m.rank == k) with
  | some k => (2, k)
  | none =>
    match ms[self]? with
    | none => (3, self)
    | some m => if m.ignored then (4, self) else if !ownAddr s m.addr then (5, self) else (0, 0)

/-- Entries `j` and on, read in ascending order until one cannot be read; each line is read with its first entry. -/
def readEntries (addr : Nat) : Nat → Nat → Chk → Chk × Option Nat
  | 0, _, c => (c, none)
  | k + 1, j, c =>
    let a := (addr + 8 * j) % 2 ^ 64
    if accessRefused c.s a != 0 then (c, some j)
    else
      let c := if j == 0 || a % 64 == 0 then Chk.readLine Who.none c (a / 64) else c
      if c.stop.isSome then (c, some j) else readEntries addr k (j + 1) c

/-- The table read, and the first entry that cannot be read: refused or poisoned (R277). -/
def readTable (s : State) (env : List Finding) (addr n : Nat) : State × Option Nat :=
  let x := readEntries addr n 0 (Chk.init s env)
  (x.1.s, x.2)

/-- A group that is not armed, with a fault. -/
def disarmed (g : Group) (fault idx : Nat) : Group :=
  { g with armed := false, crc := 0, fault := fault, faultIdx := idx, members := [], mismatched := [] }

/-- Arming from the registers and the table (R277). -/
def armGroup (s : State) (n : Fin 8) (env : List Finding) : State :=
  let ctl := offGrpCtl n
  let ranks := regField s ctl 4 12 + 1
  let members := regField s ctl 16 13 + 1
  let addr := regField s (offGrpTbl n) 3 61 * 8
  let self := regField s (offGrpStart n) 32 13
  let start := regField s (offGrpStart n) 0 32
  let t := readTable s env addr members
  match t.2 with
  | some j => updG t.1 n fun g => disarmed g 1 j
  | none =>
    let s := t.1
    let bytes := rd s addr (8 * members)
    let ms := markMembers ranks ((List.range members).map fun j => (bytes.drop (8 * j)).take 8) []
    let f := armFault s ms ranks self
    if f.1 != 0 then updG s n fun g => disarmed g f.1 f.2
    else
      let tail := le4 start ++ leBytes 1 (regField s ctl 32 7) ++ leBytes 2 (ranks - 1) ++ leBytes 1 (regField s ctl 1 2)
      updG s n fun g =>
        { g with armed := true, crc := crc32c (bytes ++ tail), fault := 0, faultIdx := 0, members := ms, ranks := ranks
                 self := self, warmin := regField s ctl 32 7, start := start, abandon := regField s ctl 48 16
                 test := regBit s ctl 1, bf16 := regBit s ctl 2, mismatched := [] }

/-- Clamps of CFL_GRPn_CTL (R278). -/
def grpCtlClamp (v : Nat) : Nat × Bool :=
  let warm := min (bits v 32 7) 64
  let rk := bits v 4 12
  let mem := max rk (min (2 * rk + 1) (bits v 16 13))
  let w := bits v 48 16 * 2 ^ 48 + warm * 2 ^ 32 + mem * 2 ^ 16 + rk * 2 ^ 4 + bits v 0 3
  (w, warm != bits v 32 7 || mem != bits v 16 13)

/-- A write of a group's CTL that takes effect: ARM 1 arms from the current values, ARM 0 disarms (R278). After a device-fatal error no
group acts, and no memory is read to mark it (R406). -/
def grpCtlEffect (s : State) (n : Fin 8) (v : Nat) (env : List Finding) : State :=
  if s.fatal.isSome then s
  else if bitAt v 0 then armGroup s n env else updG s n fun g => disarmed g 0 0

/-- CFL_STAT.BUSY (R278, R312). -/
def cflBusy (s : State) : Bool := s.groups.toList.any fun g => !g.held.isEmpty

/-- A write to CTL, TBL or START of a group (R278): discarded and counted while the block is BUSY (R477), otherwise
accepted at once, and held while a REDUCE of the group runs. -/
def grpWrite (s : State) (n : Fin 8) (off v : Nat) (clamped : Bool) (env : List Finding) : State :=
  if cflBusy s then rclampInc s
  else
    let s := regPut (if clamped then rclampInc s else s) off (BitVec.ofNat 64 v)
    if groupBusy s n then updG s n fun g => { g with held := [(off, BitVec.ofNat 64 v)] }
    else if off == offGrpCtl n then grpCtlEffect s n v env else s

def grpCtlWrite (s : State) (n : Fin 8) (v : Nat) (env : List Finding) : State :=
  if s.phase == .run then
    let c := grpCtlClamp v
    grpWrite s n (offGrpCtl n) c.1 c.2 env
  else s

/-- ARM: a write of CFL_GRPn_CTL with bit 0 as 1 (R277). -/
def execArm (n : Fin 8) (v : BitVec 64) (env : List Finding) (s : State) : Res :=
  .next (fromHost s fun s => grpCtlWrite s n (setBits v.toNat 0 1 1) env)

/-- DISARM: a write of CFL_GRPn_CTL with bit 0 as 0 (R278). -/
def execDisarm (n : Fin 8) (v : BitVec 64) (s : State) : Res :=
  .next (fromHost s fun s => grpCtlWrite s n (setBits v.toNat 0 1 0) [])

/-- HELD_WRITE_TAKES_EFFECT (R278): once no REDUCE of the group runs. -/
def execHeldWriteTakesEffect (n : Fin 8) (env : List Finding) (s : State) : Res :=
  if groupBusy s n then .next s
  else
    let hs := s.groups[n].held
    .next (hs.foldl (fun s h => if h.1 == offGrpCtl n then grpCtlEffect s n h.2.toNat env else s)
      (updG s n fun g => { g with held := [] }))

end Sys2Proof.Machine
end

