-- ==== Sys2Proof/Machine/Halt.lean ====
section
/-! DEFINITION. Stopping running commands (R227, R308, R384, R389), HALT (R383 to R386), enabling and disabling queues
(R388, R389), and the job-fatal sequence (R405). -/
namespace Sys2Proof.Machine

/-! ### One running command stops -/

/-- RESULT of a LAYER record (R374). -/
def layerResult (conv : Bool) (rung replays : Nat) (stands poison lowceil : Bool) : List Byte :=
  padTo 16 (le4 (b2n conv + rung * 2 ^ 1 + replays * 2 ^ 4 + b2n stands * 2 ^ 7 + b2n poison * 2 ^ 8 + b2n lowceil * 2 ^ 9))

/-- Whether the operator of the descriptor at ring index `idx` has converted an INT32 value (R155). -/
def Run.convAt (r : Run) (active : List Cmd) (idx : BitVec 32) : Bool :=
  match findIdx? (fun (c : Cmd) => c.idx == idx) active 0 with
  | some k => (r.ops[k]?.map OpRec.conv).getD false
  | none => false

/-- RESULT of the command at ring index `idx` of the run in progress on a queue. -/
def runResult (s : State) (q : Fin 32) (idx : BitVec 32) (poison : Bool) : List Byte :=
  match s.queues[q].run with
  | some r => layerResult (r.convAt s.queues[q].active idx) r.rung r.replays false poison r.ceil.isSome
  | none => zeroResult

/-- RESULT of an UPDATE (R374): FROZEN, GUARDED, KEEP, PARTIAL, POISON, flags, PHASE, and the three counts. -/
def updResult (bits5 flags phase guarded kept first : Nat) : List Byte :=
  le4 (bits5 + flags * 2 ^ 5 + phase * 2 ^ 10) ++ le4 guarded ++ le4 kept ++ le4 first

/-- The flags of a list of chunks, each at most five bits. -/
def orFlags (xs : List Nat) : Nat := xs.foldl (· ||| ·) 0

/-- UPD_STAT.PART (R229). -/
def updPart (s : State) : State := setFlag s offUpdStat 2 48

/-- UPD_PHASE records of an UPDATE that has entered these phases (R211, R466). -/
def tracePhases (s : State) (c : Cmd) (w : Who) (ps : List Nat) : State :=
  ps.foldl (fun s p => traceCores s c.cores 0x08 2 p w 0) s

/-- An UPDATE of whose blocks and chunks some may not cross any more (`bad`, R512) ends where a refused access would have ended it (R227): the
phase, the blocks and chunks that are written, and the first that is not. -/
def cutRefused (bad : List MemWrite → Bool) (blocks : List (List MemWrite × Bool)) (chunks : List (List MemWrite × Nat)) :
    Option (Nat × List (List MemWrite × Bool) × List (List MemWrite × Nat) × Nat) :=
  match findIdx? (fun (b : List MemWrite × Bool) => bad b.1) blocks 0 with
  | some k => some (2, blocks.take k, [], k)
  | none => match findIdx? (fun (x : List MemWrite × Nat) => bad x.1) chunks 0 with
    | some j => some (3, blocks, (chunks.take (4 * (j / 4 + 1))).map fun x => if bad x.1 then ([], x.2) else x, j)
    | none => none

def keptOf (bs : List (List MemWrite × Bool)) : Nat := (bs.filter fun b => b.2).length

/-- What the blocks and chunks of an UPDATE write. -/
def updWrites (blocks : List (List MemWrite × Bool)) (chunks : List (List MemWrite × Nat)) : List MemWrite :=
  blocks.flatMap (fun b => b.1) ++ chunks.flatMap fun c => c.1

/-- An UPDATE stopped early (R227): where it was caught is a free value; what was done until then is written, as far as it may cross (R512).
In pass 2 the first chunk not written is the one that met a poisoned or refused access (the command's own RESULT names it) where the group
in progress holds it. One that runs no pass (frozen, an empty slot, COUNT 0) and is caught before it completes is told as one caught in pass
1, PARTIAL with PHASE 1: a DESIGN CHOICE (log entry 47). The chunks that it has completed until then are left open (R458; log entry 3). -/
def stopUpdate (s : State) (w : Who) (cmd : Cmd) (blocks : List (List MemWrite × Bool)) (chunks : List (List MemWrite × Nat))
    (guarded : Nat) (tripped : Bool) : State × List Byte :=
  let ng := ceilDiv chunks.length 4
  let k := Config.freeNat s.fresh % (1 + blocks.length + ng)
  let seen := Config.freeNat (s.fresh + 1) % (guarded + 1)
  let s := updPart { s with fresh := s.fresh + 3 }
  let s := countShared s cmd.cores 0x19 (Config.freeNat (s.fresh - 1))
  if tripped || k == 0 then (s, updResult 8 0 1 seen 0 0)
  else
    let n := min (4 * (k - blocks.length)) chunks.length
    let word := leNat (cmd.result.take 4)
    let ph := if k ≤ blocks.length then 2 else 3
    let j := if ph == 3 && bitAt word 3 then leNat (cmd.result.drop 12) else n
    let bs := blocks.take k
    let cs := chunks.take n
    let x := (cutRefused (fun ws => writesRefused s (w.q, w.idx) ws != 0) bs cs).getD (ph, bs, cs, if ph == 2 then k else min n j)
    let code := writesRefused s (w.q, w.idx) (updWrites bs cs)
    let s := if code == 0 then s else errEvent s w code 1 3 0 0 0
    let kept := keptOf x.2.1
    let s := applyWrites (w.q, w.idx) s (updWrites x.2.1 x.2.2.1)
    let s := if decide (0 < kept) then setFlag s offUpdStat 1 32 else s
    let poison := x.1 == 3 && decide (j < x.2.2.1.length) && bitAt word 4
    (tracePhases s cmd w (if x.1 == 2 then [2, 3] else if blocks.isEmpty then [2, 4] else [2, 3, 4]),
      updResult (8 + 4 * b2n (decide (0 < kept)) + 16 * b2n poison) (orFlags (x.2.2.1.map fun c => c.2)) x.1 guarded kept
        (if x.1 == 3 then min x.2.2.2 j else x.2.2.2))

/-- A REDUCE stopped by HALT or disable (R308): ABORT HALTED for a bucket it homes, the windows `held` as written before the end
(R306), guard word, HALTED event. `quiet` when the job-fatal sequence has sent its own ABORTs (R405), or the bucket has ended. -/
def stopReduce (s : State) (q : Fin 32) (r : Reduce) (held : List MemWrite) (quiet : Bool) : State × List Byte :=
  let g := grpOf s r.group
  let me := selfMember g
  let s := if quiet || me.backup then s
    else sendAll s (otherMembers g) { mkPkt g r 6 me.rank with aux0 := 3 }
  let x := guardWrite s q r 0xFFFFFFFF
  let s := applyWrites ((cmdWho s q).q, (cmdWho s q).idx) x.1 (held ++ x.2.1)
  let s := cflEvent s q r 0x07 none 0 (firstFreed r) none
  (markEnded s r 4, reduceResult r 4 0x1000 0 0)

/-- One running command stops under the rule of its kind and writes its record (R384). -/
def stopOne (s : State) (q : Fin 32) (c : Cmd) (status : Nat) (quiet : Bool) : State :=
  match c.work with
  | .update _ _ bl ch g tr => let x := stopUpdate s (whoOf q c.idx c.desc) c bl ch g tr; putRec x.1 q { c with result := x.2 } status
  | .reduce r => let x := stopReduce s q r c.writes quiet; putRec x.1 q { c with result := x.2 } status
  | .ended r _ => let x := stopReduce s q r c.writes true; putRec x.1 q { c with result := x.2 } status
  | .layer =>
    putRec (abortSome (freeRanges (q.val, c.idx.toNat) s c.dests) (opEngines s q c.idx)) q { c with result := runResult s q c.idx false } status
  | _ => putRec (freeRanges (q.val, c.idx.toNat) s c.dests) q c status

/-- The command that a QUEUE event names: the oldest running one, else HEAD with nothing (R384). -/
def haltWho (s : State) (q : Fin 32) : Who :=
  match s.queues[q].active with
  | c :: _ => whoOf q c.idx c.desc
  | [] => ⟨q, s.queues[q].head.toNat, 0, 0⟩

/-- The running commands stop in ring order, and the queue leaves its state with a QUEUE event. -/
def stopQueue (s : State) (q : Fin 32) (st : QState) (status cause : Nat) (quiet : Bool) : State :=
  let w := haltWho s q
  let s := s.queues[q].active.foldl (fun s c => stopOne s q c status quiet) s
  queueEvent (leaveRunning s q st) cause w

/-- A HALT takes effect for the queues of a mask; queues in STOPPED or DISABLED stay as they are (R384). -/
def haltMask (s : State) (mask : Nat) (quiet : Bool) : State :=
  let s := (List.finRange 32).foldl (fun s q =>
    if bitAt mask q.val && s.queues[q].state == .running then stopQueue s q .halted 2 0x02 quiet else s) s
  triggerAll s 53 3

/-! ### HALT (R383 to R386) -/

/-- A HALT control message (R385). -/
def haltMsg (hops mask id origin : Nat) : List Byte := le4 (1 + hops * 2 ^ 8) ++ le4 mask ++ le4 id ++ le4 origin

/-- The message goes to the partner of every ACTIVE port but `except`, on the control channel; one that originates here names the address
that the port took at its AUTH (R348). -/
def sendHalt (s : State) (except : Option (Fin 16)) (msg : Nat → List Byte) : State :=
  (List.finRange 16).foldl (fun s p =>
    if s.ports[p].state == .active && except != some p then
      transmit s p 8 false (routeHeader s.ports[p].partnerAddr s.ports[p].myAddr 16 0 0 2 ++ msg s.ports[p].myAddr) []
    else s) s

/-- A HALT request, and its messages when HOPS is not zero (R383, R385). -/
def haltRequest (s : State) (v : Nat) : State :=
  let mask := bits v 0 32
  let hops := bits v 32 4
  let id := s.haltCount + 1
  let s := { s with haltCount := id, halts := s.halts ++ [HaltReq.mk (BitVec.ofNat 32 mask) hops id] }
  if hops != 0 then sendHalt s none (haltMsg (hops - 1) mask id.toNat) else s

/-- HALT_DB (R383, R406). -/
def execHaltDb (v : BitVec 64) (s : State) : Res :=
  .next (if inService s then fromHost s fun s => haltRequest s v.toNat else s)

/-- HALT_TAKES_EFFECT: the union of the requested masks halts; one LOCAL event for each request; vector 33 (R355, R377, R384). -/
def execHaltTakesEffect (s : State) : Res :=
  if s.halts.isEmpty || !inService s then .next s
  else
    let mask := s.halts.foldl (fun m h => m ||| h.mask.toNat) 0
    let hs := s.halts
    let s := haltMask { s with halts := [] } mask false
    .next (raise (hs.foldl (fun s h => haltEvent s 0x01 h.mask.toNat h.id.toNat (homeAddr s) h.hops) s) 33)

/-- A HALT message delivered at port p (R385): ignored when it is the module's own or a repetition. -/
def applyHaltMsg (s : State) (p : Fin 16) (msg : List Byte) : State :=
  let hops := fieldAt msg 0 4 8 4
  let mask := fieldAt msg 4 4 0 32
  let id := fieldAt msg 8 4 0 32
  let origin := fieldAt msg 12 4 0 16
  if !inService s || fieldAt msg 0 4 0 8 != 1 || ownAddr s origin || s.haltSeen.contains (origin, id) then s
  else
    let s := { s with haltSeen := ((origin, id) :: s.haltSeen).take 64 }
    let s := haltMask s mask false
    let s := raise (haltEvent s 0x02 mask id origin hops) 33
    if hops != 0 then sendHalt s (some p) fun _ => haltMsg (hops - 1) mask id origin else s

def execHaltMessage (p : Fin 16) (msg : List Byte) (s : State) : Res := .next (applyHaltMsg s p msg)

/-! ### Enabling and disabling (R388, R389) -/

/-- QUE_Qn_CTL with EN = 1: from DISABLED the queue runs from START (R351, R389); ignored while JF is 1 (R405). -/
def queueEnable (s : State) (q : Fin 32) (v : Nat) : State :=
  if s.jobFatal then s
  else
    let was := s.queues[q].state
    let s := regPut s (offQctl q) (BitVec.ofNat 64 (setBits (setBits (setBits v 1 2 0) 6 26 0) 0 1 1))
    if was == .disabled then
      let st := BitVec.ofNat 32 (bits v 32 32)
      let s := { s with jobClear := s.jobClear.map fun l => l.filter fun w => w.1 != q.val }
      updQ s q fun u => { u with state := .running, head := st, tail := st, oldest := st, cqCount := 0, cqHead := 0
                                 active := [], recs := [], run := none }
    else s

/-- QUE_Qn_CTL with EN = 0: running commands end DISABLED, and every move to DISABLED writes its event (R389). -/
def queueDisable (s : State) (q : Fin 32) (v : Nat) : State :=
  let s := regPut s (offQctl q) (BitVec.ofNat 64 (setBits (setBits (setBits v 1 2 0) 6 26 0) 0 1 0))
  if s.queues[q].state == .disabled then s else stopQueue s q .disabled 3 0x03 false

/-- A write of QUE_Qn_CTL: not taken before READY (R494); after a device-fatal error the register takes the value and no queue moves (R406,
R476); in RETURNED, EN as 1 is ignored (R443). -/
def queueCtlWrite (s : State) (q : Fin 32) (v : Nat) : State :=
  if s.phase != .run then s
  else if s.fatal.isSome then regPut s (offQctl q) (BitVec.ofNat 64 (setBits (setBits v 1 2 0) 6 26 0))
  else if bitAt v 0 && lcState s == 3 then queueDisable s q v
  else if bitAt v 0 then queueEnable s q v else queueDisable s q v

def execQueueEnable (q : Fin 32) (v : BitVec 64) (s : State) : Res := .next (fromHost s fun s => queueCtlWrite s q (setBits v.toNat 0 1 1))
def execQueueDisable (q : Fin 32) (v : BitVec 64) (s : State) : Res := .next (fromHost s fun s => queueCtlWrite s q (setBits v.toNat 0 1 0))

/-! ### Job-fatal (R405) -/

/-- A bucket of a group in which the module takes part. -/
structure LiveBucket where
  bucket : Nat
  step : Nat
  elem : Nat
  deriving DecidableEq, Repr

/-- ABORT MISSING for one bucket of a group whose rank this module serves as primary. -/
def abortMissing (s : State) (n : Nat) (b : LiveBucket) : State :=
  let g := grpOf s n
  let me := selfMember g
  let p : Pkt := { type := 6, group := n, backup := false, rank := me.rank, elem := b.elem, poison := false, degraded := g.bf16
                   crc := g.crc, step := b.step, bucket := b.bucket, w := 0, fmt := 0, scaleExp := 0, payCrc := 0, aux0 := 2
                   aux1 := 0, payload := [] }
  sendAll s (otherMembers g) p

/-- The buckets of a group whose REDUCE runs here, or for which a GRANT is held. -/
def liveBuckets (s : State) (n : Nat) : List LiveBucket :=
  let run := (List.finRange 32).filterMap fun q => match reduceOf s q with
    | some r => if r.group == n then some (⟨r.bucket, r.step, r.elem⟩ : LiveBucket) else none
    | none => none
  let held := s.early.filterMap fun h =>
    let p := Pkt.parse h.pkt
    if p.group == n && p.type == 1 then some (⟨p.bucket, p.step, p.elem⟩ : LiveBucket) else none
  (run ++ held).eraseDups

/-- The steps of R405 after the ERROR record has been written. -/
def jobFatalSteps (s : State) : State :=
  let s := { s with jobFatal := true }
  let live := (List.range 8).map fun n => (n, liveBuckets s n)
  let s := haltMask s 0xFFFFFFFF true
  let s := live.foldl (fun s nb =>
    let g := grpOf s nb.1
    if g.armed && !(selfMember g).backup then
      { nb.2.foldl (fun s b => abortMissing s nb.1 b) { s with jobFatal := false } with jobFatal := true }
    else s) s
  let s := (List.range 8).foldl (fun s n =>
    updG (regPutField s (offGrpCtl n) 0 1 0) n fun g => { disarmed g 0 0 with held := [] }) s
  s.early.foldl (fun s _ => cflStale s) { s with early := [] }

/-- A job-fatal error (R405): its record, then the sequence. A second one while JF is held changes nothing more. -/
def jobFatalError (s : State) (w : Who) (cause unit index count : Nat) : State :=
  let s := errEvent s w cause 2 unit index count 0
  if s.jobFatal then s else jobFatalSteps s

end Sys2Proof.Machine
end

