-- ==== Sys2Proof/Machine/Accum.lean ====
section
/-! DEFINITION. Exact products, groups and their entry into an accumulator slot (R80, R141 to R159, R181), and the
group sums of the log path (R115 to R118). -/
namespace Sys2Proof.Machine

/-- An element as the array takes it: its split (R79) and the exponent of its MX block scale, if it carries one (R80). -/
structure AEl where
  sp : Split
  xb : Option Int
  deriving DecidableEq, Repr

/-- The padding element of R92. -/
def AEl.zero : AEl := ⟨Split.zero, none⟩

/-- A group before it enters a slot (R150). -/
structure GSum where
  live : Bool
  nan : Bool
  inv : Bool
  pinf : Bool
  ninf : Bool
  allnz : Bool
  /-- the finite part `i * 2^e`, exact -/
  fin : Int × Int
  /-- products flushed, and block-scale overflows (R181) -/
  flush : Nat
  bso : Nat
  deriving DecidableEq, Repr

def GSum.empty : GSum := ⟨false, false, false, false, false, true, (0, 0), 0, 0⟩

/-- One non-padded product added to a float group (R150, R181). -/
def GSum.add (g : GSum) (a b : AEl) : GSum :=
  let g := { g with live := true }
  let ps := a.sp.sg != b.sp.sg
  if a.sp.cl == 1 || b.sp.cl == 1 then { g with nan := true, inv := true }
  else if a.sp.cl == 2 || b.sp.cl == 2 then
    if (a.sp.cl == 0 && a.sp.sig == 0) || (b.sp.cl == 0 && b.sp.sig == 0) then { g with nan := true, inv := true }
    else if ps then { g with ninf := true } else { g with pinf := true }
  else
    let scaled := a.xb.isSome || b.xb.isSome
    let xb := a.xb.getD 0 + b.xb.getD 0
    let fl := scaled && decide (xb < -149)
    let m : Nat := if fl then 0 else a.sp.sig * b.sp.sig
    { g with
      fin := dyAdd g.fin.1 g.fin.2 (if ps then -(m : Int) else m) (a.sp.e + b.sp.e + xb)
      allnz := g.allnz && m == 0 && ps
      flush := g.flush + b2n fl
      bso := g.bso + b2n (scaled && decide (127 < xb)) }

/-- The end of a group: infinities of opposite sign make it NaN (R150). -/
def GSum.close (g : GSum) : GSum := if g.pinf && g.ninf then { g with nan := true, inv := true } else g

/-- A float group over pairs of elements; none is padding. -/
def floatGroup (ps : List (AEl × AEl)) : GSum := (ps.foldl (fun g p => g.add p.1 p.2) GSum.empty).close

/-- The exact sum of an integer group (R151). -/
def intGroup (ps : List (AEl × AEl)) : Int :=
  ps.foldl (fun t p =>
    let m : Int := (p.1.sp.sig * p.2.sp.sig : Nat)
    if p.1.sp.sg != p.2.sp.sg then t - m else t + m) 0

/-- An integer sum taken as a float group (R151). -/
def GSum.ofInt (live : Bool) (i : Int) : GSum := { GSum.empty with live := live, allnz := false, fin := (i, 0) }

/-- An FP32 code as an infinity or finite dyadic. -/
def f32Split (x : Nat) : Split := splitFp .fp32 ⟨8, 23, 127⟩ x

/-- `round_f32` of R150 on an exact dyadic; the sign of a zero is not used. -/
def roundF32 (i e : Int) : Nat × ConvEv := convFp .fp32 ⟨8, 23, 127⟩ .rne false (decide (i < 0)) (Mag.dy i.natAbs e)

/-- The accumulation events of one entry (R152). -/
structure AccEv where
  ovf : Bool
  inv : Bool
  ufl : Bool
  deriving DecidableEq, Repr

/-- Entry of a live float group into a slot element (R150). `x` is none for an EMPTY slot, else its FP32 code;
`sg` is σ as a non-zero dyadic. -/
def enterFloat (x : Option Nat) (g : GSum) (sg : Int × Int) : Nat × AccEv :=
  let xs := f32Split (x.getD 0)
  let isF := x.isSome
  let xf : Int × Int := if isF && xs.cl == 0 then ((if xs.sg then -(xs.sig : Int) else xs.sig), xs.e) else (0, 0)
  let v := dyAdd xf.1 xf.2 (g.fin.1 * sg.1) (g.fin.2 + sg.2)
  let r := roundF32 v.1 v.2
  let ssg := decide (sg.1 < 0)
  let gz := g.allnz != ssg
  let gi := g.pinf != ssg
  let ginf := g.pinf || g.ninf
  let ufl := v.1 != 0 && bits r.1 0 31 == 0
  let opp := isF && ginf && !g.nan && xs.cl == 2 && xs.sg == gi
  let y :=
    if g.nan || (isF && xs.cl == 1) then 0x7FC00000
    else if opp then 0x7FC00000
    else if isF && xs.cl == 2 then x.getD 0
    else if ginf then (if gi then 0x7F800000 else 0xFF800000)
    else if v.1 == 0 then
      match x with
      | none => if gz then 0x80000000 else 0
      | some x => if x == 0x80000000 && gz then 0x80000000 else 0
    else r.1
  (y, ⟨r.2.ovf, g.inv || (opp && !(isF && xs.cl == 1)), ufl⟩)

/-- Saturation to INT32 (R151): the 32-bit code and OVF. -/
def satI32 (y : Int) : Nat × Bool :=
  if 0x7FFFFFFF < y then (0x7FFFFFFF, true) else if y < -0x80000000 then (0x80000000, true) else (twos 32 y, false)

/-- The conversion of an INT32 slot element through its sidecar scales, given as an exact factor (R154). -/
def convSlot (w : Nat) (sg : Int × Int) : Nat × AccEv :=
  let i := sext 32 w * sg.1
  if i == 0 then (0, ⟨false, false, false⟩)
  else let r := roundF32 i sg.2; (r.1, ⟨r.2.ovf, false, bits r.1 0 31 == 0⟩)

/-- The slot format tags of R141. -/
inductive STag where
  | empty | int32 | fp32 | poison
  deriving DecidableEq, Repr

/-- A slot element in its running form: tag, data, and the events counted over its entries. -/
structure Acc where
  tag : STag
  x : Nat
  ovfF : Nat
  ovfI : Nat
  inv : Nat
  ufl : Nat
  flush : Nat
  bso : Nat
  conv : Bool
  deriving DecidableEq, Repr

def Acc.new : Acc := ⟨.empty, 0, 0, 0, 0, 0, 0, 0, false⟩

def Acc.count (a : Acc) (e : AccEv) (x : Nat) (t : STag) : Acc :=
  { a with tag := t, x := x, ovfF := a.ovfF + b2n e.ovf, inv := a.inv + b2n e.inv, ufl := a.ufl + b2n e.ufl }

/-- The element as FP32 before a float group enters: an INT32 element is converted (R144, R154). -/
def Acc.toFloat (a : Acc) (side : Int × Int) : Acc :=
  match a.tag with
  | .int32 => let r := convSlot a.x side; { a.count r.2 r.1 .fp32 with conv := true }
  | _ => a

/-- A float group reaches the element (R144). -/
def Acc.floatIn (a : Acc) (side : Int × Int) (g : GSum) (sg : Int × Int) : Acc :=
  if a.tag == .poison || !g.live then a
  else
    let a := a.toFloat side
    let r := enterFloat (if a.tag == .fp32 then some a.x else none) g sg
    { a.count r.2 r.1 .fp32 with flush := a.flush + g.flush, bso := a.bso + g.bso }

/-- An integer group reaches the element (R144, R151). -/
def Acc.intIn (a : Acc) (live : Bool) (i : Int) (sg : Int × Int) : Acc :=
  if a.tag == .poison || !live then a
  else match a.tag with
    | .fp32 => a.floatIn (1, 0) (GSum.ofInt live i) sg
    | .int32 => let r := satI32 (sext 32 a.x + i); { a with x := r.1, ovfI := a.ovfI + b2n r.2 }
    | _ => let r := satI32 i; { a with tag := .int32, x := r.1, ovfI := a.ovfI + b2n r.2 }

/-- A finite, infinite or NaN FP32 value as a one-term group: the entry of a k-split or a residual element (R157, R192). -/
def GSum.ofF32 (x : Nat) (nanInv : Bool) : GSum :=
  let s := f32Split x
  match s.cl with
  | 0 => { GSum.empty with live := true, allnz := s.sg && s.sig == 0, fin := ((if s.sg then -(s.sig : Int) else s.sig), s.e) }
  | 1 => { GSum.empty with live := true, nan := true, inv := nanInv, allnz := true }
  | _ => { GSum.empty with live := true, pinf := !s.sg, ninf := s.sg, allnz := true }

/-- The combination of one further k-split (R157); both sides were converted through scales of the same command. -/
def Acc.combine (side : Int × Int) (a b : Acc) : Acc :=
  let ev := fun (c : Acc) => { c with ovfF := c.ovfF + b.ovfF, ovfI := c.ovfI + b.ovfI, inv := c.inv + b.inv
                                      ufl := c.ufl + b.ufl, flush := c.flush + b.flush, bso := c.bso + b.bso }
  if b.tag == .poison || a.tag == .poison then ev { a with tag := .poison }
  else if b.tag == .empty then ev a
  else if a.tag == .empty then ev { a with tag := b.tag, x := b.x }
  else if a.tag == .int32 && b.tag == .int32 then
    let r := satI32 (sext 32 a.x + sext 32 b.x)
    ev { a with x := r.1, ovfI := a.ovfI + b2n r.2 }
  else
    let b' := { Acc.new with tag := b.tag, x := b.x }.toFloat side
    let a := a.toFloat side
    let a := { a with ovfF := a.ovfF + b'.ovfF, ufl := a.ufl + b'.ufl }
    ev (a.floatIn side (GSum.ofF32 b'.x false) (1, 0))

/-- The element of the residual stream added to the combined value, after the conversion of an INT32 one (R154, R155, R192). -/
def Acc.residual (side : Int × Int) (a : Acc) (x : Nat) : Acc :=
  a.floatIn side (GSum.ofF32 x true) (1, 0)

/-- The exact combined value (R158). -/
def Acc.val (side : Int × Int) (a : Acc) : EVal :=
  match a.tag with
  | .int32 => let i := sext 32 a.x * side.1; EVal.ofDy i side.2 false
  | .fp32 => (f32Split a.x).val
  | _ => .fin false Mag.zero

/-! ### The log path (R115 to R118) -/

/-- The antilog table of R118, RNE(2^(10 + f / 64)). -/
def antilog : List Nat :=
  [0x400, 0x40b, 0x416, 0x422, 0x42d, 0x439, 0x445, 0x451, 0x45d, 0x469, 0x475, 0x482, 0x48e, 0x49b, 0x4a8, 0x4b5] ++
  [0x4c2, 0x4cf, 0x4dc, 0x4ea, 0x4f8, 0x506, 0x514, 0x522, 0x530, 0x53e, 0x54d, 0x55c, 0x56b, 0x57a, 0x589, 0x599] ++
  [0x5a8, 0x5b8, 0x5c8, 0x5d8, 0x5e8, 0x5f9, 0x609, 0x61a, 0x62b, 0x63c, 0x64e, 0x65f, 0x671, 0x683, 0x695, 0x6a8] ++
  [0x6ba, 0x6cd, 0x6e0, 0x6f3, 0x706, 0x71a, 0x72e, 0x742, 0x756, 0x76a, 0x77f, 0x794, 0x7a9, 0x7bf, 0x7d4, 0x7ea]

/-- Log-addition (R117); `none` is the identity. -/
def ladd (eddy : List Byte) (x y : Option Int) : Option Int :=
  match x, y with
  | none, y => y
  | x, none => x
  | some x, some y =>
    let hi := max x y
    let i := (hi - min x y).toNat / 16
    if 32 ≤ i then some hi else some (hi + ((eddy.getD i 0).toNat % 64 : Nat))

/-- One level of a tree: adjacent pairs combined. -/
def laddLevel (eddy : List Byte) : List (Option Int) → List (Option Int)
  | a :: b :: r => ladd eddy a b :: laddLevel eddy r
  | l => l

/-- A tree of at most sixteen leaves. -/
def laddTree (eddy : List Byte) (xs : List (Option Int)) : Option Int :=
  (laddLevel eddy (laddLevel eddy (laddLevel eddy (laddLevel eddy xs)))).headD none

/-- The log value of the product of two LNS4 codes, with its sign; none for a product with a zero operand (R115). -/
def lnsProd (a b : Nat) : Option (Bool × Int) :=
  if a % 8 == 0 || b % 8 == 0 then none
  else some (bitAt a 3 != bitAt b 3, 32 * ((a % 8 : Nat) + (b % 8 : Nat) - 8))

/-- A partial sum in linear form (R118): mantissa and exponent. -/
def antilogOf (s : Int) : Int × Int := ((antilog.getD (s % 64).toNat 0 : Nat), s / 64 - 10)

/-- A group of LNS4 code pairs, padded with zero codes to the group size (R117, R118); `live` when any pair is no padding. -/
def logGroup (eddy : List Byte) (g : Nat) (ps : List (Nat × Nat)) : GSum :=
  let ps' := ps ++ List.replicate (g - ps.length) (0, 0)
  let side := fun (sg : Bool) => laddTree eddy (ps'.map fun p => match lnsProd p.1 p.2 with
    | some (n, s) => if n == sg then some s else none
    | none => none)
  let lin := fun (o : Option Int) => match o with
    | none => ((0 : Int), (0 : Int))
    | some s => antilogOf s
  let p := lin (side false)
  let n := lin (side true)
  { GSum.empty with live := !ps.isEmpty, allnz := false, fin := dyAdd p.1 p.2 (-n.1) n.2 }

end Sys2Proof.Machine
end

