-- ==== Sys2Proof/Machine/Precision.lean ====
section
/-! DEFINITION. Precision blocks (R166 to R168), working formats (R169, R170), scale exponents (R172, R173), the
statistics of a tensor (R177, R178) and the splice governor (R189, R190). -/
namespace Sys2Proof.Machine

/-! ### Layout of a precision block (R166) -/

/-- Bytes of a block. -/
def precLen : Nat := 0x6080
/-- The sounding record of a role (0 S, 1 W, 2 O) of operator slot `o`, and its maxima history. -/
def recOff (o role : Nat) : Nat := 0x80 + o * 0x600 + role * 0x100
def histOff (o role : Nat) : Nat := recOff o role + 0x300

/-! ### Policy (R167) -/

structure Policy where
  floor : Nat
  ceil : Nat
  start : Nat
  govern : Bool
  gradCurrent : Bool
  allCurrent : Bool
  block : Bool
  gradE4m3 : Bool
  outManaged : Bool
  stride : Nat
  window : Nat
  margin : Nat
  replWin : Nat
  replTh : Nat
  uflTh : Nat
  calmSteps : Nat
  baseHold : Nat
  deriving DecidableEq, Repr

/-- A zero that selects a default (R167). -/
def orDefault (d n : Nat) : Nat := if n == 0 then d else n

/-- The policy of 64 bytes, with its clamps. -/
def policyOf (b : List Byte) : Cl Policy :=
  let f := fun (o lo w : Nat) => fieldAt b o 1 lo w
  let w16 := fun (o : Nat) => fieldAt b o 2 0 16
  let fl := fun (i : Nat) => f 3 i 1 == 1
  Cl.bind (clampIf (decide (4 < f 0 0 3)) 4 (f 0 0 3)) fun floor =>
  Cl.bind (if 4 < f 1 0 3 then (4, 1) else clampIf (decide (f 1 0 3 < floor)) floor (f 1 0 3)) fun ceil =>
  Cl.bind (let v := f 2 0 3; if v < floor then (floor, 1) else clampIf (decide (ceil < v)) ceil v) fun start =>
  Cl.bind (let v := orDefault 16 (f 4 0 7); clampIf (decide (64 < v)) 64 v) fun window =>
  Cl.bind (let v := orDefault 16 (f 6 0 7); clampIf (decide (64 < v)) 64 v) fun replWin =>
  Cl.bind (let v := f 7 0 7; if v == 0 then (min 2 replWin, 0) else clampIf (decide (replWin < v)) replWin v) fun replTh =>
  (⟨floor, ceil, start, fl 0, fl 1, fl 2, fl 3, fl 4, fl 5, f 3 6 2, window, f 5 0 3, replWin, replTh,
    orDefault 0x1000 (w16 8), w16 0xA, w16 0xC⟩, 0)

/-! ### State of a block (R168) -/

structure PrecSt where
  rung : Nat
  base : Nat
  valid : Bool
  lowceil : Bool
  hidx : Nat
  step : Nat
  rbits : Nat
  calm : Nat
  quiet : Nat
  govRuns : Nat
  deriving DecidableEq, Repr

def PrecSt.parse (b : List Byte) : PrecSt :=
  { rung := fieldAt b 0 1 0 3, base := fieldAt b 1 1 0 3, valid := fieldAt b 2 1 0 1 == 1, lowceil := fieldAt b 2 1 1 1 == 1
    hidx := fieldAt b 3 1 0 6, step := fieldAt b 4 4 0 32, rbits := fieldAt b 8 8 0 64, calm := fieldAt b 0x10 2 0 16
    quiet := fieldAt b 0x12 2 0 16, govRuns := fieldAt b 0x14 4 0 32 }

/-- The 64 bytes of the state; reserved bytes are written as zero (R13). -/
def PrecSt.bytes (p : PrecSt) : List Byte :=
  padTo 64 (leBytes 1 p.rung ++ leBytes 1 p.base ++ leBytes 1 (b2n p.valid + 2 * b2n p.lowceil) ++ leBytes 1 p.hidx ++
    le4 p.step ++ le8 p.rbits ++ leBytes 2 p.calm ++ leBytes 2 p.quiet ++ le4 p.govRuns)

/-! ### Working formats (R169, R170) -/

/-- The working format of an operand at a rung. -/
def workFmt (gradE4m3 : Bool) (f : Fmt) (role r : Nat) : Fmt :=
  if fmtIsInt f then
    match r with
    | 0 => .int4 | 1 => .int4 | 2 => .int8 | 3 => .int16 | _ => .fp32
  else match r with
    | 0 => .e2m1
    | 1 => if roleGrad role && !gradE4m3 then .e5m2 else .e4m3
    | 2 => .bf16
    | 3 => .fp16
    | _ => .fp32

/-- Whether R170 converts an operand at rung `r`. -/
def needConv (f : Fmt) (mx : Bool) (r : Nat) (replay : Bool) : Bool :=
  if r ≤ 3 then decide (r < (fmtArrayRung f).getD 9) || (f == .lns4 && decide (1 ≤ r)) || (replay && mx)
  else fmtIsInt f || f == .lns4 || (replay && mx)

/-- The rung at which a pair is computed (R86). -/
def opRung (r : Nat) (a b : Fmt) : Nat := max r (max ((fmtArrayRung a).getD 4) ((fmtArrayRung b).getD 4))

/-! ### Scale exponents (R172, R173) -/

/-- The scale exponent E for a maximum, a working format and a headroom. -/
def scaleExp (amax : Mag) (w : Fmt) (h : Nat) : Int :=
  if w == .bf16 || w == .fp32 || amax.isZero then 0
  else
    let lim := (fmtMax w).scale2 (-(h : Int))
    let g := amax.ilog2 - lim.ilog2
    let e := if (amax.scale2 (-g)).le lim then g else g + 1
    max (-126) (min 127 e)

/-- The entries of a maxima history. -/
def histEntries (b : List Byte) : List Nat := (List.range 64).map fun i => fieldAt b (4 * i) 4 0 32

/-- The largest non-empty entry among the last `window` ones ending at position `hidx − 1` (R173). -/
def histMax (h : List Nat) (hidx window : Nat) : Option Nat :=
  ((List.range window).map fun i => h.getD ((hidx + 128 - 1 - i) % 64) 0xFFFFFFFF).foldl (fun m x =>
    if x == 0xFFFFFFFF then m else match m with
      | none => some x
      | some y => some (max x y)) none

/-- An FP32 code as a magnitude; an infinity or NaN stands above every finite one. -/
def amaxMag (x : Nat) : Mag :=
  match (splitFp .fp32 ⟨8, 23, 127⟩ x).cl with
  | 0 => let s := splitFp .fp32 ⟨8, 23, 127⟩ x; Mag.dy s.sig s.e
  | _ => Mag.dy 1 1024

/-- 2^E as an FP32 code, for E from −149 to 127. -/
def f32Pow2 (e : Int) : Nat := (convFp .fp32 ⟨8, 23, 127⟩ .rne false false (Mag.dy 1 e)).1

/-! ### Sounding (R177, R178) -/

/-- The step of the histogram (R167). -/
def strideStep (code : Nat) : Nat := 4 ^ code

/-- Statistics of the elements of a role, from their logical indices and exact values. -/
structure Stat where
  n : Nat
  zeros : Nat
  amax : Mag
  infs : Nat
  nans : Nat
  sumsq : Nat
  hist : List Nat
  deriving DecidableEq, Repr

def Stat.empty : Stat := ⟨0, 0, Mag.zero, 0, 0, 0, List.replicate 64 0⟩

def Stat.add (step : Nat) (t : Stat) (ix : Nat × EVal) : Stat :=
  let t := { t with n := t.n + 1 }
  match ix.2 with
  | .nan => { t with nans := t.nans + 1 }
  | .inf _ => { t with infs := t.infs + 1 }
  | .fin _ x =>
    if x.isZero then { t with zeros := t.zeros + 1 }
    else
      let bin := (max 0 (min 63 (x.ilog2 + 48))).toNat
      { t with amax := t.amax.maxOf x, sumsq := t.sumsq + x.square.floorAt (-40)
               hist := if ix.1 % step == 0 then updAt (· + 1) t.hist bin else t.hist }

def statOf (stride : Nat) (xs : List (Nat × EVal)) : Stat := xs.foldl (Stat.add (strideStep stride)) Stat.empty

/-- AMAX: the largest finite magnitude rounded toward +∞ to FP32. -/
def Stat.amaxCode (t : Stat) : Nat := (vRound false .rtp false t.amax).1

/-- A sounding record from statistics; SAT_CNT, UFL_CNT, flags, RUNG and the scale are given. -/
def Stat.record (t : Stat) (layer role op fmt rung stride step : Nat) (flags : Nat) (exp : Int) (sat ufl : Nat) : Sound :=
  let c32 := 0xFFFFFFFF
  { layer := layer, role := role, op := op, fmt := fmt, rung := rung
    flags := flags ||| b2n (decide (2 ^ 128 ≤ t.sumsq)) ||| (b2n (t.hist.any fun h => decide (0xFFFFFF < h)) * 2)
      ||| (b2n (decide (c32 < sat) || decide (c32 < t.nans) || decide (c32 < ufl)) * 4)
    valid := true, step := step, scaleExp := exp, replays := 0, stride := stride, elements := t.n, zeros := t.zeros
    amax := t.amaxCode, sat := min sat c32, nans := min t.nans c32, ufl := min ufl c32
    sumsq := min t.sumsq (2 ^ 128 - 1), hist := t.hist.map fun h => min h 0xFFFFFF }

/-! ### The splice governor (R190) -/

/-- `span` of R190; none for FP32. -/
def spanOf : Fmt → Option Nat
  | .e2m1 => some 3 | .e4m3 => some 17 | .e5m2 => some 31 | .fp16 => some 39 | .bf16 => some 260
  | .int4 => some 2 | .int8 => some 6 | .int16 => some 14 | _ => none

/-- `ufl_over` of R190. -/
def uflOver (p : Policy) (rec : Sound) (r : Nat) : Bool :=
  let f := fmtOf rec.fmt
  if !needConv f false r false || rec.amax == 0 then false
  else match spanOf (workFmt p.gradE4m3 f rec.role r) with
    | none => false
    | some span =>
      let t : Int := (bits rec.amax 23 8 : Nat) - 127 - (span : Nat) + (p.margin : Nat)
      let total := sumNats rec.hist
      let below := sumNats ((List.range 64).map fun (i : Nat) => if (i : Int) - 48 < t then rec.hist.getD (i : Nat) 0 else 0)
      total != 0 && decide (p.uflTh * total < below <<< 20)

/-- Ones among the low `n` bits. -/
def popLow (x n : Nat) : Nat := sumNats ((List.range n).map fun i => bits x i 1)

/-- The governor's decision from the live records of the state's step, in order (R190): `recs` holds the role and the
record of each. -/
def governState (p : Policy) (ceil newStep : Nat) (lowceil : Bool) (recs : List (Nat × Sound)) (st : PrecSt) : PrecSt :=
  let r := st.rung
  let rep := recs.any fun x => x.2.replays != 0
  let top := maxNats (recs.map fun x => x.2.rung)
  let rise := recs.any fun x => x.1 != 2 && uflOver p x.2 r
  let fallOk := !(recs.any fun x => x.1 != 2 && (r == 0 || uflOver p x.2 (r - 1) || x.2.sat != 0))
  let st := { st with hidx := (st.hidx + 1) % 64, govRuns := min (st.govRuns + 1) 0xFFFFFFFF, lowceil := lowceil }
  let st :=
    if recs.isEmpty then st
    else
      let st := { st with rbits := (st.rbits * 2 + b2n rep) % 2 ^ 64, quiet := if rep then 0 else min (st.quiet + 1) 0xFFFF }
      let st :=
        if decide (p.replTh ≤ popLow st.rbits p.replWin) && decide (st.base < top) then { st with base := min top ceil }
        else if p.baseHold != 0 && decide (p.baseHold ≤ st.quiet) && decide (p.floor < st.base) then
          { st with base := st.base - 1, quiet := 0 }
        else st
      let n := if rise && decide (r < ceil) then r + 1
        else if !rise && !rep && p.calmSteps != 0 && decide (p.calmSteps ≤ st.calm) && fallOk then (r + 7) % 8 else r
      let n := min (max n (max st.base p.floor)) ceil
      let st := { st with calm := if rise || rep || n != r then 0 else min (st.calm + 1) 0xFFFF }
      if p.govern then { st with rung := n } else st
  let st := if p.govern then st else { st with rung := p.start, base := p.floor }
  { st with step := newStep }

/-- STEP exceeds the state's STEP (R189). -/
def stepExceeds (new old : Nat) : Bool := decide (0 < sext 32 (new + 2 ^ 32 - old % 2 ^ 32))

/-- The sounding record of an operator slot and role in the bytes of a block. -/
def blockRec (b : List Byte) (o role : Nat) : Sound := Sound.parse ((b.drop (recOff o role)).take 256)

/-- Operator slots and roles in the order of R190. -/
def slotRoles : List (Nat × Nat) := (List.range 16).flatMap fun o => [(o, 0), (o, 1), (o, 2)]

/-- A governor run over the bytes of a block: the history entries written, then the state. -/
def governBlock (p : Policy) (ceil newStep : Nat) (lowceil : Bool) (addr : Nat) (b : List Byte) : List MemWrite :=
  let st := PrecSt.parse (b.drop 0x40)
  let live := fun (x : Nat × Nat) => let r := blockRec b x.1 x.2; r.valid && r.step == st.step
  let recs := (slotRoles.filter live).map fun x => (x.2, blockRec b x.1 x.2)
  slotRoles.map (fun x => ⟨addr + histOff x.1 x.2 + 4 * st.hidx,
    le4 (if live x then (blockRec b x.1 x.2).amax else 0xFFFFFFFF), .data⟩) ++
  [⟨addr + 0x40, (governState p ceil newStep lowceil recs st).bytes, .data⟩]

/-- The initialisation of a block found with VALID = 0 (R168). -/
def initBlock (p : Policy) (newStep : Nat) (addr : Nat) (b : List Byte) : List MemWrite :=
  slotRoles.flatMap (fun x => [⟨addr + recOff x.1 x.2 + 4, le4 (fieldAt b (recOff x.1 x.2 + 4) 4 0 31), .data⟩,
    ⟨addr + histOff x.1 x.2, List.replicate 256 0xFF, .data⟩]) ++
  [⟨addr + 0x40, ({ rung := p.start, base := p.floor, valid := true, lowceil := false, hidx := 0, step := newStep, rbits := 0
                    calm := 0, quiet := 0, govRuns := 0 : PrecSt }).bytes, .data⟩]

end Sys2Proof.Machine
end

