-- ==== Sys2Proof/Machine/Stage.lean ====
section
/-! DEFINITION. One operator of a LAYER: its fields and clamps (R360, R387), the staging of its operands (R58, R145,
R169 to R175), its sums (R147 to R158, R361), its output (R158, R176, R192), and its sounding records (R177, R178). -/
namespace Sys2Proof.Machine

/-! ### The LAYER body (R360) -/

/-- A LAYER descriptor after its clamps. -/
structure LayerD where
  a : TRef
  b : TRef
  c : TRef
  m : Nat
  n : Nat
  k : Nat
  g : Nat
  strand : Bool
  eddySel : Nat
  ewise : Bool
  resid : Option Nat
  slot : Nat
  splits : Nat
  deriving DecidableEq, Repr

def lyWord (d : Desc) : Nat := fieldAt d 0x6C 4 0 32
def lyLast (d : Desc) : Bool := bitAt (lyWord d) 5
def lyPrec (d : Desc) : Nat := fieldAt d 0x58 8 0 64

/-- An input reference up to its format (R71, R518). -/
def lyIn (accept : Nat → Bool) (r : TRef) : Cl TRef :=
  Cl.bind r.clampAddr fun r => Cl.bind r.clampRole fun r => r.clampFmt accept

/-- The pairings of R114: the clamp counts once. -/
def lyPair (ewise : Bool) (a b : TRef) : Cl (TRef × TRef) :=
  let bad := fun (r : TRef) => if ewise then r.fmt == 0x07 || r.fmt == 0x08 else r.fmt == 0x07
  let go := fun (r : TRef) => if bad r then { r with fmt := 0x06 } else r
  if ewise then clampIf (bad a || bad b) (go a, go b) (a, b) else clampIf (bad a != bad b) (go a, go b) (a, b)

/-- The output reference (R191, R518). -/
def lyOut (r : TRef) : Cl TRef :=
  Cl.bind r.clampAddr fun r => Cl.bind r.clampRole fun r =>
    if r.residual && r.role % 16 == 0 then Cl.bind r.clampResidual fun r => r.clampConv
    else Cl.bind (r.clampFmt acceptOut) fun r => r.clampConv

/-- The operator a LAYER descriptor names, with its clamps. -/
def layerOf (d : Desc) : Cl LayerD :=
  let w := lyWord d
  let ew := bitAt w 6
  let acc := fun (b : Bool) (c : Nat) => acceptStream c || ((ew || b) && c == 0x08)
  Cl.bind (lyIn (acc false) (TRef.parse d 0x28)) fun a =>
  Cl.bind (lyIn (acc true) (TRef.parse d 0x38)) fun b =>
  Cl.bind (lyPair ew a b) fun ab =>
  Cl.bind ab.1.clampConv fun a => Cl.bind ab.2.clampConv fun b =>
  Cl.bind (lyOut (TRef.parse d 0x48)) fun c =>
  Cl.bind (dim24 (fieldAt d 0x60 4 0 32)) fun m =>
  Cl.bind (dim24 (fieldAt d 0x64 4 0 32)) fun n =>
  Cl.bind (if ew then (n, 0) else dim24 (fieldAt d 0x68 4 0 32)) fun k =>
  Cl.bind (if ew then (0, 0) else clampIf (bits w 0 2 == 3) 2 (bits w 0 2)) fun g =>
  (⟨a, b, c, m, n, k, 4 * 2 ^ g, bitAt w 2, bits w 3 2, ew,
    if bitAt w 7 then some (fieldAt d 0x70 8 0 64 / 64 * 64) else none, bits w 8 4, if ew then 1 else bits w 12 8 + 1⟩, 0)

/-! ### Operands -/

/-- One operand: its reference, its stored dimensions, whether it is the stationary one (its scales and MX blocks follow
the columns), and whether it is taken column by column. -/
structure OpIn where
  ref : TRef
  rows : Nat
  cols : Nat
  isB : Bool
  byCols : Bool
  deriving DecidableEq, Repr

def LayerD.opA (l : LayerD) : OpIn := ⟨l.a, l.m, l.k, false, false⟩
def LayerD.opB (l : LayerD) : OpIn := if l.ewise then ⟨l.b, l.m, l.n, true, false⟩ else ⟨l.b, l.k, l.n, true, true⟩

def OpIn.fmt (o : OpIn) : Fmt := fmtOf o.ref.fmt
def OpIn.bytes (o : OpIn) : Nat := rowBytes (o.rows * o.cols) (fmtWidth o.fmt)

/-- Where the operand's scale records, block scales or codebooks lie (R55, R58, R145). -/
def OpIn.scaleRange (o : OpIn) : Nat × Nat :=
  if o.ref.fmt == 0x08 then (o.ref.scaleAddr, 16 * ceilDiv o.cols 256)
  else match o.ref.scale with
    | 1 => (o.ref.scaleAddr, 8)
    | 2 => (o.ref.scaleAddr, 8 * (if o.isB then o.cols else o.rows))
    | 3 => (o.ref.scaleAddr, if o.isB then ceilDiv o.rows 32 * o.cols else o.rows * ceilDiv o.cols 32)
    | _ => (o.ref.scaleAddr, 0)

def OpIn.scalesOf (o : OpIn) (bs : List Byte) : Cl Scales :=
  Sys2Proof.Machine.scalesOf o.ref o.cols (if o.isB then o.cols else o.rows) bs

/-- The index of the block scale of stored element (i, j) (R58). -/
def OpIn.mxIx (o : OpIn) (i j : Nat) : Nat := if o.isB then i / 32 * o.cols + j else i * ceilDiv o.cols 32 + j / 32

def OpIn.code (o : OpIn) (s : State) (i j : Nat) : Nat := matElem s o.ref.addr 0 (fmtWidth o.fmt) o.cols i j

/-- The exact real value of stored element (i, j). -/
def OpIn.real (o : OpIn) (s : State) (x : Scales) (i j : Nat) : EVal :=
  let v := elemVal o.fmt (x.cb j) (o.code s i j)
  match x.kind with
  | 3 => match e8m0 (x.mx.getD (o.mxIx i j) 0) with
    | none => .nan
    | some e => match v with
      | .fin n m => .fin n (m.scale2 e)
      | v => v
  | 0 => v
  | _ => v.mulV (f32Val (x.recOf (if o.isB then j else i)).scale)

/-- The stored element as the array takes it (R79, R80). -/
def OpIn.stored (o : OpIn) (s : State) (x : Scales) (i j : Nat) : AEl :=
  let sp := splitElem o.fmt (x.cb j) (o.code s i j)
  match x.kind with
  | 3 => match e8m0 (x.mx.getD (o.mxIx i j) 0) with
    | none => ⟨⟨1, false, 0, 0⟩, none⟩
    | some e => ⟨sp, some e⟩
  | _ => ⟨sp, none⟩

/-- The positions of the operand in lines along k, or along its rows for an element-wise operand. -/
def OpIn.lines (o : OpIn) : List (List (Nat × Nat)) :=
  if o.byCols then (List.range o.cols).map fun j => (List.range o.rows).map fun i => (i, j)
  else (List.range o.rows).map fun i => (List.range o.cols).map fun j => (i, j)

/-- The members of the MX block of a position. -/
def OpIn.block (o : OpIn) (i j : Nat) : List (Nat × Nat) :=
  if o.isB then (List.range (min 32 (o.rows - i / 32 * 32))).map fun t => (i / 32 * 32 + t, j)
  else (List.range (min 32 (o.cols - j / 32 * 32))).map fun t => (i, j / 32 * 32 + t)

/-- An operand as staged. -/
structure Staged where
  fmt : Fmt
  lines : List (List AEl)
  /-- stored codes, for the log path -/
  codes : List (List Nat)
  /-- S of R145 by row of A or column of B -/
  scales : List (Int × Int)
  ovf : Nat
  ufl : Nat
  exp : Int
  current : Bool
  stat : Stat
  deriving DecidableEq, Repr

/-- The rounding of a conversion into a working format (R171). -/
def stageRnd (s : State) (d : Desc) (o : OpIn) (i j : Nat) : Rnd :=
  rndOf o.ref.role o.ref.rnd
    (braid16 (regGet s offJobseed).toNat (dStep d) (dLayer d) (dOp d) o.ref.role ((i * o.cols + j) % 2 ^ 50))

/-- One element converted with scale 2^−E (R171). -/
def stageElem (s : State) (d : Desc) (o : OpIn) (x : Scales) (w : Fmt) (e : Int) (i j : Nat) : AEl × ConvEv :=
  let v := match o.real s x i j with
    | .fin n m => .fin n (m.scale2 (-e))
    | v => v
  let c := convertTo w [] (lnsToFp32 o.fmt w (x.kind != 0) (o.code s i j) (stageRnd s d o i j)) false v
  (⟨splitElem w [] c.1, none⟩, c.2)

/-- One element converted into an MX working format (R175). -/
def stageBlock (s : State) (d : Desc) (o : OpIn) (x : Scales) (w : Fmt) (i j : Nat) : AEl × ConvEv :=
  match (mxBlock w ((o.block i j).map fun p => o.real s x p.1 p.2)).2 with
  | none => (⟨⟨1, false, 0, 0⟩, none⟩, ConvEv.invOnly)
  | some e => let c := stageElem s d o x w e i j; (⟨c.1.sp, some e⟩, c.2)

/-- The S_a or S_b of R145 as an exact dyadic. -/
def scaleDy (c : Nat) : Int × Int := (f32Val c).toDy

/-- The operand staged for a run at rung `r` (R169 to R175). `h` is the operand role's maxima history. -/
def stageOp (s : State) (d : Desc) (o : OpIn) (x : Scales) (p : Policy) (h : List Nat) (hidx r : Nat) (replay : Bool) : Staged :=
  let pos := o.lines
  let reals := pos.map fun l => l.map fun q => (q.1 * o.cols + q.2, o.real s x q.1 q.2)
  let stat := statOf p.stride reals.flatten
  let n := if o.isB then o.cols else o.rows
  if needConv o.fmt (x.kind == 3) r replay then
    let w := workFmt p.gradE4m3 o.fmt o.ref.role r
    if p.block && fmtIsMx w then
      let els := pos.map fun l => l.map fun q => stageBlock s d o x w q.1 q.2
      ⟨w, els.map (·.map (·.1)), [], List.replicate n (1, 0), sumNats (els.map fun l => sumNats (l.map fun e => b2n e.2.ovf)),
        sumNats (els.map fun l => sumNats (l.map fun e => b2n e.2.ufl)), 0, false, stat⟩
    else
      let hm := histMax h hidx p.window
      let cur := replay || p.allCurrent || (p.gradCurrent && roleGrad o.ref.role) || hm.isNone
      let e := if cur then scaleExp stat.amax w 0 else scaleExp (amaxMag (hm.getD 0)) w p.margin
      let els := pos.map fun l => l.map fun q => stageElem s d o x w e q.1 q.2
      ⟨w, els.map (·.map (·.1)), [], List.replicate n (1, e), sumNats (els.map fun l => sumNats (l.map fun e => b2n e.2.ovf)),
        sumNats (els.map fun l => sumNats (l.map fun e => b2n e.2.ufl)), e, cur, stat⟩
  else
    ⟨o.fmt, pos.map (·.map fun q => o.stored s x q.1 q.2), pos.map (·.map fun q => o.code s q.1 q.2),
      (List.range n).map fun i => if x.kind == 1 || x.kind == 2 then scaleDy (x.recOf i).scale else (1, 0), 0, 0, 0, false, stat⟩

/-! ### Sums -/

/-- Chunks of `n` elements; the last may be shorter. -/
def chunks {α : Type} (n : Nat) : Nat → List α → List (List α)
  | 0, _ => []
  | k + 1, xs => if xs.isEmpty then [] else xs.take n :: chunks n k (xs.drop n)

def groupsOf {α : Type} (g : Nat) (xs : List α) : List (List α) := chunks g (xs.length + 1) xs

def mulDy (a b : Int × Int) : Int × Int := (a.1 * b.1, a.2 + b.2)

/-- How an operator's groups are summed. -/
inductive Path where
  | float | int | log
  deriving DecidableEq, Repr

/-- The mode of a pair of staged formats (R80, R111). -/
def pathOf (r : Nat) (a b : Fmt) : Path :=
  if a == .lns4 && b == .lns4 && r == 0 then .log else if fmtIsInt a && fmtIsInt b then .int else .float

/-- The slot element of one k-split: its groups enter in ascending k (R147, R156). -/
def splitAcc (path : Path) (eddy : List Byte) (g : Nat) (sg : Int × Int) (ps : List (AEl × AEl)) (cs : List (Nat × Nat)) : Acc :=
  match path with
  | .float => (groupsOf g ps).foldl (fun a c => a.floatIn sg (floatGroup c) sg) Acc.new
  | .int => (groupsOf g ps).foldl (fun a c => a.intIn true (intGroup c) sg) Acc.new
  | .log => (groupsOf g cs).foldl (fun a c => a.floatIn sg (logGroup eddy g c) sg) Acc.new

/-- The k range of split `t` of `n` (R361). -/
def splitRange (k n t : Nat) : Nat × Nat := (t * k / n, (t + 1) * k / n - t * k / n)

/-- The logical tile of an output element and split (R27). -/
def tileOf (n splits r c t : Nat) : Nat := (r / 32 * ceilDiv n 64 + c / 64) * splits + t

/-- One output element: its combined value and the tiles with OVF, with INV and with a conversion of R155. -/
structure OutEl where
  acc : Acc
  ovfTiles : List Nat
  invTiles : List Nat
  convTiles : List Nat
  deriving DecidableEq, Repr

def lineAt {α : Type} (l : List (List α)) (i : Nat) : List α := l.getD i []

def slice {α : Type} (l : List α) (r : Nat × Nat) : List α := (l.drop r.1).take r.2

def outEl (s : State) (l : LayerD) (a b : Staged) (path : Path) (eddy : List Byte) (r c : Nat) : OutEl :=
  let sg := mulDy (a.scales.getD r (1, 0)) (b.scales.getD c (1, 0))
  let accs :=
    if l.ewise then
      [splitAcc path eddy 1 sg [((lineAt a.lines r).getD c AEl.zero, (lineAt b.lines r).getD c AEl.zero)] []]
    else
      let ps := (lineAt a.lines r).zip (lineAt b.lines c)
      let cs := (lineAt a.codes r).zip (lineAt b.codes c)
      (List.range l.splits).map fun t =>
        let rg := splitRange l.k l.splits t
        splitAcc path eddy l.g sg (slice ps rg) (slice cs rg)
  let sum := accs.foldl (Acc.combine sg) Acc.new
  let sum := match l.resid with
    | some x => sum.residual sg (rdNat s ((x + 4 * (r * l.n + c)) % 2 ^ 64) 4)
    | none => sum
  let tiles := fun (f : Acc → Nat) =>
    ((List.range accs.length).filter fun t => f (accs.getD t Acc.new) != 0).map (tileOf l.n l.splits r c) ++
    (if sumNats (accs.map f) < f sum then [tileOf l.n l.splits r c 0] else [])
  ⟨sum, tiles (fun x => x.ovfF + x.ovfI), tiles Acc.inv, if sum.conv then [tileOf l.n l.splits r c 0] else []⟩

/-! ### Poisoned operands (R160, R161) -/

/-- Stored element (i, j), or scale data that it uses, lies at a place for which `bad` holds. -/
def OpIn.touches (o : OpIn) (bad : Nat → Nat → Bool) (i j : Nat) : Bool :=
  let w := fmtWidth o.fmt
  let x := (i * o.cols + j) * w
  let sa := o.ref.scaleAddr
  bad (o.ref.addr + x / 8) (ceilDiv (x % 8 + w) 8) ||
  (if o.ref.fmt == 0x08 then bad (sa + 16 * (j / 256)) 16
   else match o.ref.scale with
    | 1 => bad sa 8
    | 2 => bad (sa + 8 * (if o.isB then j else i)) 8
    | 3 => bad (sa + o.mxIx i j) 1
    | _ => false)

/-- The logical tiles that poisoned lines make POISON: a residual element reaches the combined value of an output element. -/
def poisonTiles (l : LayerD) (bad : Nat → Nat → Bool) : List Nat :=
  ((List.range l.m).flatMap fun r => (List.range l.n).flatMap fun c => (List.range l.splits).filter (fun t =>
      let rg := splitRange l.k l.splits t
      let ops := if l.ewise then l.opA.touches bad r c || l.opB.touches bad r c
        else (List.range rg.2).any fun k => l.opA.touches bad r (rg.1 + k) || l.opB.touches bad (rg.1 + k) c
      let res := match l.resid with
        | some x => t == 0 && bad (x + 4 * (r * l.n + c)) 4
        | none => false
      ops || res) |>.map (tileOf l.n l.splits r c)).eraseDups

/-! ### Output (R158, R176) -/

/-- Formats for which R172 gives a maximum or an E. -/
def hasMaxW (f : Fmt) : Bool := [.e2m1, .e4m3, .e5m2, .fp16, .int4, .int8, .int16, .bf16, .fp32].contains f

/-- The E of a managed output (R176); a free value where R172 gives the format no maximum. -/
def managedExp (f : Fmt) (hm : Option Nat) (margin : Nat) : Int :=
  match hm with
  | none => 0
  | some x =>
    if hasMaxW f then scaleExp (amaxMag x) f margin
    else (Config.freeExp (fmtCode f) x margin % 254 : Nat) - 126

/-- OVF_MODE as the conversion of an output takes it: it reaches an infinite value (R63). For a finite one that overflows, R176 names the
result of R62 and calls it the saturated value, while R62 follows the mode: which of the two holds is left open (log entry 47). -/
def outNonSat (mode : Bool) : EVal → Bool
  | .inf _ => mode
  | _ => mode && Config.outOvfMode

/-- One output code with its events, for a target without MX blocks (R158, R176). -/
def outCode (s : State) (d : Desc) (l : LayerD) (x : Scales) (man : Option Int) (v : EVal) (r c : Nat) : Nat × ConvEv :=
  let q := match man with
    | some e => match v with
      | .fin n m => .fin n (m.scale2 (-e))
      | v => v
    | none => if x.kind == 0 then v else v.mulV (f32Val (x.recOf c).qscale)
  convertTo (fmtOf l.c.fmt) (x.cb c)
    (rndOf l.c.role l.c.rnd (braid16 (regGet s offJobseed).toNat (dStep d) (dLayer d) (dOp d) l.c.role ((r * l.n + c) % 2 ^ 50)))
    (outNonSat l.c.nonSat q) q

/-- Codes, events and block scales of one row of an MX output (R58, R59). -/
def outMxRow (s : State) (d : Desc) (l : LayerD) (vs : List EVal) (r : Nat) : List (Nat × ConvEv) × List Byte :=
  let f := fmtOf l.c.fmt
  let bl := (groupsOf 32 vs).map (mxBlock f)
  ((List.range vs.length).map fun c =>
    match (bl.getD (c / 32) (0, none)).2 with
    | none => (fmtNan f, ConvEv.invOnly)
    | some e => outCode s d l ⟨0, [], [], []⟩ (some e) (vs.getD c .nan) r c,
   bl.map fun b => BitVec.ofNat 8 b.1)

/-- What one operator of an attempt yields. -/
structure OpOut where
  writes : List MemWrite
  recs : List Sound
  managed : Option Int
  convS : Nat
  convW : Nat
  accF : Nat
  accI : Nat
  bso : Nat
  ovfTiles : List Nat
  invTiles : List Nat
  convTiles : List Nat
  amaxS : Nat
  amaxW : Nat
  expS : Int
  expW : Int
  rung : Nat
  deriving DecidableEq, Repr

/-- A marking event was raised (R182). -/
def OpOut.marked (o : OpOut) : Bool := o.convS != 0 || o.convW != 0 || o.accF != 0 || o.accI != 0 || o.bso != 0

/-- Lowest of a list, or 0xFFFF_FFFF. -/
def lowOf (l : List Nat) : Nat := l.foldl min 0xFFFFFFFF

/-- The captured inputs of an operator (R57, R134): its scale data and its eddy table. -/
structure OpCap where
  sa : Scales
  sb : Scales
  sc : Scales
  eddy : List Byte
  deriving DecidableEq, Repr

/-- The operator computed once at rung `r`. The infinite results of O's SAT_CNT (R178) are infinite combined values, before the
output conversion: a DESIGN CHOICE (log entry 47). `hist` gives the maxima histories of S, W and O. -/
def computeOp (s : State) (d : Desc) (l : LayerD) (cap : OpCap) (p : Policy) (hist : List (List Nat)) (hidx step r : Nat)
    (replay : Bool) : OpOut :=
  let a := stageOp s d l.opA cap.sa p (hist.getD 0 []) hidx r replay
  let b := stageOp s d l.opB cap.sb p (hist.getD 1 []) hidx r replay
  let path := pathOf r a.fmt b.fmt
  let els := (List.range l.m).map fun i => (List.range l.n).map fun j => outEl s l a b path cap.eddy i j
  let side := fun (i j : Nat) => mulDy (a.scales.getD i (1, 0)) (b.scales.getD j (1, 0))
  let vals := (List.range l.m).map fun i => (List.range l.n).map fun j =>
    (((lineAt els i).getD j ⟨Acc.new, [], [], []⟩).acc).val (side i j)
  let man := if p.outManaged && l.c.scale == 1 && !(l.c.residual && l.c.role % 16 == 0) then
      some (managedExp (fmtOf l.c.fmt) (histMax (hist.getD 2 []) hidx p.window) p.margin) else none
  let w := fmtWidth (fmtOf l.c.fmt)
  let rows := (List.range l.m).map fun i =>
    if l.c.scale == 3 then outMxRow s d l (lineAt vals i) i
    else ((List.range l.n).map fun j => outCode s d l cap.sc man ((lineAt vals i).getD j .nan) i j, [])
  let evs := rows.flatMap fun x => x.1.map (·.2)
  let cnt := fun (f : Acc → Nat) => sumNats (els.map fun row => sumNats (row.map fun e => f e.acc))
  let ostat := statOf p.stride ((List.range l.m).flatMap fun i => (List.range l.n).map fun j =>
    (i * l.n + j, (lineAt vals i).getD j .nan))
  let rung := opRung r a.fmt b.fmt
  let layer := dLayer d
  let cur := fun (x : Staged) => if x.current then 32 else 0
  let accOvf := cnt Acc.ovfF + cnt Acc.ovfI
  let oinf := (evs.filter fun e => e.ovf).length + ostat.infs
  { writes := if l.m = 0 ∨ l.n = 0 then [] else
      [⟨l.c.addr, packElems w (rows.flatMap fun x => x.1.map (·.1)), .data⟩] ++
      (if l.c.scale == 3 then [⟨l.c.scaleAddr, rows.flatMap (·.2), .data⟩] else [])
    recs := [
      a.stat.record layer l.a.role (dOp d) l.a.fmt rung p.stride step (cur a) a.exp (a.ovf + a.stat.infs) a.ufl,
      b.stat.record layer l.b.role (dOp d) l.b.fmt rung p.stride step (cur b) b.exp (b.ovf + b.stat.infs) b.ufl,
      ostat.record layer l.c.role (dOp d) l.c.fmt rung p.stride step
        (b2n (accOvf != 0) * 8 + b2n (cnt Acc.inv != 0) * 16) (man.getD 0) oinf
        ((evs.filter fun e => e.ufl).length + cnt Acc.ufl + cnt Acc.flush)]
    managed := man
    convS := a.ovf, convW := b.ovf, accF := cnt Acc.ovfF, accI := cnt Acc.ovfI, bso := cnt Acc.bso
    ovfTiles := (els.flatten.flatMap OutEl.ovfTiles).eraseDups
    invTiles := (els.flatten.flatMap OutEl.invTiles).eraseDups
    convTiles := (els.flatten.flatMap OutEl.convTiles).eraseDups
    amaxS := a.stat.amaxCode, amaxW := b.stat.amaxCode, expS := a.exp, expW := b.exp, rung := rung }

end Sys2Proof.Machine
end

