-- ==== Sys2Proof/Machine/Layer.lean ====
section
/-! DEFINITION. Runs of LAYER descriptors (R165, R182 to R190): starting a descriptor, replays, commit, the engine faults
met on the way (R137, R399 to R401), and the contained end of a run (R161, R251, R375). -/
namespace Sys2Proof.Machine

/-! ### The rung bound (R183, R411) -/

/-- The format of an operand at rung `r`, and so the rung at which its operator computes (R86, R170). -/
def fmtAt (p : Policy) (r : TRef) (rung : Nat) (replay : Bool) : Fmt :=
  if needConv (fmtOf r.fmt) (r.scale == 3) rung replay then workFmt p.gradE4m3 (fmtOf r.fmt) r.role rung else fmtOf r.fmt

def OpRec.rungAt (o : OpRec) (p : Policy) (rung : Nat) (replay : Bool) : Nat :=
  let l := (layerOf o.desc).1
  opRung rung (fmtAt p l.a rung replay) (fmtAt p l.b rung replay)

/-- A run that works at this rung does so in a replay (R170, R183). -/
def Run.replayAt (r : Run) (rung : Nat) : Bool := r.replays != 0 || decide (r.rung < rung)

/-- The top rung: 4, or under a lowered ceiling L the higher of L and the rung R86 gives the run's operators there. -/
def Run.top (r : Run) : Nat :=
  match r.ceil with
  | none => 4
  | some l => maxNats (l :: r.ops.map fun o => o.rungAt (policyOf r.pol).1 l (r.replayAt l))

def OpEv.marked (e : OpEv) : Bool := e.convS != 0 || e.convW != 0 || e.accF != 0 || e.accI != 0 || e.bso != 0

def OpEv.none : OpEv := ⟨0, 0, 0, 0, 0, 0xFFFFFFFF, 0, 0, 0, 0, 0⟩

/-- The marking operator: the lowest that raised a marking event, below the top rung (R183). -/
def Run.marking (r : Run) : Option Nat :=
  if r.rung < r.top then findIdx? (fun (o : OpRec) => o.ev.marked) r.ops 0 else none

/-! ### Engine faults (R137, R399 to R401) -/

/-- Engines in service, ascending. -/
def serviceList (s : State) : List Nat := (List.range 96).filter fun e => s.inService.toList.getD e false

/-- The engine that a logical tile is dealt to, among those in service (R28; log entry 9). -/
def tileEngine (s : State) (fresh t : Nat) : Nat :=
  let l := serviceList s
  l.getD (Config.freeEngine fresh t % l.length) 0

/-- An engine retires (R401): in service no longer, and job-fatal beyond MAX_RETIRED or when it was the last. -/
def retireEngine (s : State) (w : Who) (e : Fin 96) : State :=
  let s := setFlag { s with inService := s.inService.set e false } offErrStat 3 48
  let n := 96 - engCount s
  if regField s offErrCtl 0 7 < n ∨ engCount s = 0 then jobFatalError s w 0x03 0 e n
  else errEvent s w 0x03 0 0 e n 0

def errCount (errs : List EngErr) (e : Nat) (mm : Bool) : Nat :=
  match errs.find? fun x => x.e == e && x.mismatch == mm with
  | some x => x.count
  | none => 0

/-- An uncorrectable error in engine scratch: flag, MEM_UEADDR, the record, and the line marked; a line that is poisoned already is no new
error (R250, R254, R396). -/
def engUncorrected (s : State) (w : Who) (e : Fin 96) (l : Nat) : State :=
  if s.engines[e].poison.contains l then s
  else
    let a := 3 * 2 ^ 61 + e * 2 ^ 54 + 64 * l
    let s := { lastSrc (setFlag s offEccstat 1 32) 3 with ueAddr := BitVec.ofNat 64 a }
    updE (errEvent s w 0x04 1 0 e 0 a) e fun g => { g with poison := insNat l g.poison }

/-- The same in the staging part of a core's scratch (R248, R250, R254, R256). -/
def stageUncorrected (s : State) (w : Who) (c : Fin 16) (l : Nat) : State :=
  if s.cores[c].stage.poison.contains l then s
  else
    let a := 4 * 2 ^ 61 + c * 2 ^ 54 + 64 * l
    let s := { lastSrc (setFlag s offEccstat 1 32) 4 with ueAddr := BitVec.ofNat 64 a }
    updCore (errEvent s w 0x04 1 1 c 0 a) c fun k => { k with stage := { k.stage with poison := insNat l k.stage.poison } }

/-- An ECC outcome met in the work of a LAYER in engine scratch or in staging (R248 to R250). -/
def layerEcc (w : Who) (s : State) (f : EngFault) : State :=
  match f.kind with
  | .scratch l true => engUncorrected s w f.e (l % 98304)
  | .scratch _ false => countEv (lastSrc (setFlag s offEccstat 0 16) 3) (engCore f.e) 0x30 1
  | .stage l true => stageUncorrected s w (engCore f.e) (l % 262144)
  | .stage _ false => countEv (lastSrc (setFlag s offEccstat 0 16) 4) (engCore f.e) 0x30 1
  | _ => s

/-- The engine reads poison by this outcome: its slot becomes POISON (R160, R251). -/
def faultPoisons : EngFaultKind → Bool
  | .scratch _ ue => ue
  | .stage _ ue => ue
  | _ => false

/-- A check whose failures R137 and R400 count for the engine. -/
def faultCounted : EngFaultKind → Bool
  | .scratch _ _ => false
  | .stage _ _ => false
  | _ => true

/-- The eddy table that a configuration binds, as it stands (R134). -/
def boundEddy (s : State) (c : SpliceCfg) : List Byte := s.eddies[c.eddy % 4]'(Nat.mod_lt _ (by decide))

/-- The engine stands in this configuration: on the log path, with the image of the table that is bound now (R99, R134). -/
def sameCfg (s : State) (e : Fin 96) (c : SpliceCfg) : Bool :=
  s.engines[e].cfg == c && (c.path != .log || s.engines[e].eddy == boundEddy s c)

/-- The code of a path in the trace. -/
def pathCode : ArrayPath → Nat
  | .splice => 0 | .ewise => 1 | .log => 2 | .table => 3 | .strand => 4

/-- A configuration that changes makes the engine drain (R99), which copies the bound eddy table into its k-columns on the log path
(R134); the drain is counted and traced (R458, R466). -/
def reconfig (s : State) (w : Who) (e : Fin 96) (c : SpliceCfg) : State :=
  if sameCfg s e c then s
  else
    let s := updE s e fun g => { g.invalidate with cfg := c, eddy := if c.path == .log then boundEddy s c else g.eddy }
    traceRec (countEv s (engCore e) 0x04 1) (engCore e) 0x05 1 (e % 6) 0 w
      (Config.arrayConfig (pathCode c.path) c.rung c.fa c.fb c.group % 65536)

/-- The k-block length of a pass (R83, R110). -/
def kBlock (c : SpliceCfg) : Nat := if c.path == .log || (c.path == .splice && c.rung == 0) then 64 else 16

/-- PASS (R466): the tag, the logical tile of the first step and COUNT; its steps are counted (R458). -/
def tracePass (s : State) (w : Who) (e : Fin 96) (tag tile steps : Nat) : State :=
  traceRec (countEv s (engCore e) 0x02 steps) (engCore e) 0x06 1 (e % 6) tag w (tile % 2 ^ 32 + (steps - 1) % 256 * 2 ^ 32)

/-- The strand path takes the pair at this rung (R110, R111). -/
def strandPair (a b : Fmt) (r : Nat) : Bool :=
  (a == .int4 || a == .int8) && (b == .int4 || b == .int8 || b == .int16) && (r == 2 || r == 3)

/-- The splice configuration of an operator at the run's rung (R86, R99, R107, R111, R134). A K4 stationary operand at rung 1 takes the
table path whatever the streaming format: a DESIGN CHOICE for TERNARY and BINARY (log entry 10), since R111 gives that operand to the table
path and R110 does not list the pair, for which `pathTakes` refuses an array instruction. -/
def opCfg (p : Policy) (l : LayerD) (rung : Nat) (replay : Bool) : SpliceCfg :=
  let a := fmtAt p l.a rung replay
  let b := fmtAt p l.b rung replay
  let r := opRung rung a b
  let path := if l.ewise then .ewise else if pathOf r a b == .log then .log else if r == 1 && b == .k4 then .table
    else if l.strand && strandPair a b r then .strand else .splice
  ⟨path, r, fmtCode a, fmtCode b, if l.ewise then 0 else l.g / 8, if path == .log then l.eddySel else 0⟩

/-! ### Dealing (R27, R28, R88, R120) -/

def tileCount (l : LayerD) : Nat := ceilDiv l.m 32 * ceilDiv l.n 64 * l.splits

/-- The tile with which a tile is dealt: itself, or on the table path the first of its bight's quarter set (R120). -/
def dealtWith (l : LayerD) (cfg : SpliceCfg) (t : Nat) : Nat :=
  let nt := ceilDiv l.n 64
  if cfg.path == .table then (t / l.splits / nt * nt + t / l.splits % nt / 4 * 4) * l.splits + t % l.splits else t

/-- The engines of an operator's tiles, left open (R28; log entry 9). -/
def assignTiles (s : State) (l : LayerD) (cfg : SpliceCfg) : List Nat :=
  (List.range (tileCount l)).map fun t => tileEngine s s.fresh (dealtWith l cfg t)

/-- The cores of the engines of these tiles, as a mask (R22). -/
def tileCores (tiles : List Nat) : Nat := tiles.foldl (fun m e => m ||| 2 ^ (e / 6 % 16)) 0

/-- The steps of tiles gathered into passes of at most `cap`, in order; where a pass ends is left open (R88; log entry 24). -/
def gatherPasses (fresh cap : Nat) : List Nat → List (List Nat)
  | [] => []
  | t :: r => match gatherPasses fresh cap r with
    | [] => [[t]]
    | p :: ps => if p.length < cap && Config.freeEngine fresh t % 2 == 1 then (t :: p) :: ps else [t] :: p :: ps

/-- Steps that `n` tiles, or quarter sets, take (R108, R120). -/
def passSteps (c : SpliceCfg) (n : Nat) : Nat := if c.path == .ewise && c.rung == 0 then ceilDiv n 4 else n

/-- A codebook as the engine reads it: entries that are NaN read as 0x00 (R47, R123). -/
def cleanBook (bs : List Byte) : List Byte := (codebook bs).1.map (BitVec.ofNat 8)

/-- A load brings a codebook with it. -/
def needsBook (c : SpliceCfg) : Bool := c.fb == 0x08

/-- Buffer A holds the older tag. -/
def olderA (g : Engine) : Bool := decide ((g.counter + 4 - g.bufB.tag) % 4 < (g.counter + 4 - g.bufA.tag) % 4)

/-- The buffer a load writes: the invalid one, else the one of the older tag once it is released (R96, R97). -/
def loadsA (g : Engine) : Option Bool :=
  if !g.bufA.valid then some true
  else if !g.bufB.valid then some false
  else if (if olderA g then g.bufA else g.bufB).released then some (olderA g) else none

/-- Bits of a stationary entry (R94, R121). -/
def entryBits (c : SpliceCfg) : Nat :=
  if c.path == .table then 16 else if kBlock c == 64 then 4 * fmtWidth (fmtOf c.fb) else if needsBook c then 8 else fmtWidth (fmtOf c.fb)

/-- The block of a pass of a LAYER under its tag, released by the last step of the pass (R94, R97). Which block it is follows from the
dealing, so what it holds is left open, and that it is of poisoned lines only where the operator has read some (log entry 9). -/
def layerBlock (fresh : Nat) (e : Fin 96) (cfg : SpliceCfg) (tag : Nat) (psn : Bool) : StatBuf :=
  let byte := fun (k : Nat) => Config.freeScratch fresh e (0x600000 + k)
  let psn := psn && Config.freeTicks fresh 176 % 2 == 1
  { tag := tag, valid := true, released := true
    entries := (List.range 1024).map fun i =>
      BitVec.ofNat 32 (leNat ((List.range 4).map fun k => byte (4 * i + k)) % 2 ^ entryBits cfg)
    mx := if Config.freeTicks fresh 177 % 2 == 1 then (List.range (64 * kBlock cfg)).map fun i => byte (0x1000 + i) else []
    codebook := if needsBook cfg then cleanBook ((List.range 16).map fun i => byte (0x2000 + i)) else []
    poison := psn
    bad := if psn then (List.range (256 * kBlock cfg)).filter fun i => Config.freeTicks fresh (1000 + i) % 2 == 1 else [] }

/-- A pass of a LAYER, which takes the counter's value as its tag: its load begins and fills a buffer, and its steps release it (R96, R97,
R458). A pass that finds two blocks of LOADs unreleased takes the one of the older tag: a DESIGN CHOICE (log entry 10), since the whole
LAYER is one command and waits for no STEPS. Element-wise work has no pass (R107). -/
def layerPass (w : Who) (e : Fin 96) (cfg : SpliceCfg) (psn : Bool) (ts : List Nat) (s : State) : State :=
  let tag := s.engines[e].counter
  let s :=
    if cfg.path == .ewise then s
    else
      let b := layerBlock s.fresh e cfg tag psn
      countEv (updE (freshen s) e fun g =>
        let a := (loadsA g).getD (olderA g)
        { g with counter := (tag + 1) % 4, bufA := if a then b else g.bufA, bufB := if a then g.bufB else b }) (engCore e) 0x03 1
  tracePass s w e tag (ts.headD 0) (passSteps cfg ts.length)

/-- The tiles for which `mine` holds on the engines that `tiles` names: an engine of another configuration drains first (R99); the
tiles of an engine that share n-tile and k-split are gathered into passes, one for each k-block of the split (R83, R88, R120). `psn` when
the operator has read poison. -/
def dealTiles (s : State) (w : Who) (l : LayerD) (cfg : SpliceCfg) (psn : Bool) (tiles : List Nat) (mine : Nat → Bool) : State :=
  let nt := ceilDiv l.n 64
  let q := if cfg.path == .table then 4 else 1
  (List.range (96 * (ceilDiv nt q * l.splits))).foldl (fun s x =>
    let e := x / (ceilDiv nt q * l.splits)
    let j := x % (ceilDiv nt q * l.splits) / l.splits * q
    let ts := ((List.range (ceilDiv l.m 32)).map fun i => (i * nt + j) * l.splits + x % l.splits).filter fun t =>
      tiles.getD t 96 == e && mine t
    if ts.isEmpty then s
    else
      let kb := if l.ewise then 1 else ceilDiv (splitRange l.k l.splits (x % l.splits)).2 (kBlock cfg)
      (gatherPasses s.fresh (256 / q) ts).foldl (fun s p =>
        (List.range kb).foldl (fun s _ => layerPass w (engFin e) cfg psn p s) s) (reconfig (freshen s) w (engFin e) cfg)) s

/-- One failed check in the work of a LAYER: its flag and record, and the retirement at the second of its kind. -/
def engFault (w : Who) (x : State × List EngErr) (f : EngFault) : State × List EngErr :=
  let s := x.1
  if !s.inService[f.e] then x
  else
    let mm := f.kind == .mismatch
    let n := errCount x.2 f.e mm + 1
    let errs := ⟨f.e, mm, n⟩ :: x.2.filter fun y => !(y.e == f.e.val && y.mismatch == mm)
    let off := offTblerr (f.e.val / 6)
    let s := match f.kind with
      | .eddyParity => regPutField (setFlag s off 0 16) off 8 3 (f.e.val % 6)
      | .codebookParity => regPutField (setFlag s off 1 32) off 8 3 (f.e.val % 6)
      | _ => s
    let s := errEvent s w (if mm then 0x02 else 0x01) 0 0 f.e n 0
    (if n == 2 then retireEngine s w f.e else s, errs)

/-- The checks that the work of an operator has (R399): eddy tables on the log path, which runs at rung 0, codebooks on the
table path, which runs at rung 1 (R111). `r` is the operator's rung (R86). -/
def faultFits (r : Nat) (l : LayerD) (f : EngFault) : Bool :=
  match f.kind with
  | .mismatch => true
  | .scratch _ _ => true
  | .stage _ _ => true
  | .eddyParity => r == 0 && l.a.fmt == 0x07 && l.b.fmt == 0x07
  | .codebookParity => r == 1 && l.b.fmt == 0x08

/-- ARR_ACCSTAT flags of one command: each at most once for an engine (R163). -/
def accFlag (x : State × List (Nat × Nat)) (e : Nat) (bit : Nat) : State × List (Nat × Nat) :=
  if x.2.contains (e, bit) then x
  else
    let off := offAccstat (e / 6)
    let s := if bit == 3 then cntInc (setFlagOnly x.1 off 3) (offAccpsn (e / 6)) 0 16 else setFlag x.1 off bit (16 + 16 * bit)
    (regPutField s off 8 3 (e % 6), (e, bit) :: x.2)

/-- The tiles of an operator in which an event of R163 was raised. -/
structure TileEv where
  ovf : List Nat
  inv : List Nat
  conv : List Nat
  psn : List Nat
  deriving DecidableEq, Repr

/-- Accumulation OVF and conversions as events of the cores (R458): a tile with an OVF counts once or more, since those of one ACLK count
together (log entry 3). -/
def countTiles (s : State) (tiles : List Nat) (ev : TileEv) : State :=
  let core := fun (t : Nat) => engCore (engFin (tiles.getD t 0))
  let s := ev.ovf.foldl (fun s t => countEv (freshen s) (core t) 0x0A (1 + Config.freeNat s.fresh)) s
  ev.conv.foldl (fun s t => countEv s (core t) 0x09 1) s

/-- OVF, INV, CONV and POISON of the engines that the tiles are dealt to (R155, R161, R163, R164), in this order, each over its tiles, so
that LAST_ENG names the engine of the last: a DESIGN CHOICE (log entry 47), since the spec gives no order among the events of one
command. -/
def accFlags (s : State) (tiles : List Nat) (flagged : List (Nat × Nat)) (ev : TileEv) : State × List (Nat × Nat) :=
  let set := fun (bit : Nat) (x : State × List (Nat × Nat)) (t : Nat) => accFlag x (tiles.getD t 0) bit
  ev.psn.foldl (set 3) (ev.conv.foldl (set 2) (ev.inv.foldl (set 1) (ev.ovf.foldl (set 0) (countTiles s tiles ev, flagged))))

/-! ### Reading what an operator needs -/

/-- The bytes of the scale data an operator reads at its start (R55, R57, R58, R158). A managed output reads none (R176). -/
def outScaleRange (l : LayerD) (managed : Bool) : Nat × Nat :=
  if managed || l.c.scale == 3 then (l.c.scaleAddr, 0) else scaleRange l.c l.m l.n l.n

def isManaged (p : Policy) (l : LayerD) : Bool :=
  p.outManaged && l.c.scale == 1 && !(l.c.residual && l.c.role % 16 == 0)

/-- The captured inputs of an operator and the clamps of its scale data. -/
def capOf (l : LayerD) (sa sb sc eddy : List Byte) (managed : Bool) : Cl OpCap :=
  Cl.bind (l.opA.scalesOf sa) fun a => Cl.bind (l.opB.scalesOf sb) fun b =>
  Cl.bind (if managed || l.c.scale == 3 then (⟨0, [], [], []⟩, 0) else scalesOf l.c l.n l.n sc) fun c => (⟨a, b, c, eddy⟩, 0)

/-- Whether staging takes the operand's maximum first, in a read of its own (R174). -/
def readsTwice (p : Policy) (o : OpIn) (mx : Bool) (h : List Nat) (hidx r : Nat) (replay : Bool) : Bool :=
  needConv o.fmt mx r replay && !(p.block && fmtIsMx (workFmt p.gradE4m3 o.fmt o.ref.role r)) &&
  (replay || p.allCurrent || (p.gradCurrent && roleGrad o.ref.role) || (histMax h hidx p.window).isNone)

/-- The maxima histories of the roles of an operator slot, and HIDX, in the bytes of a block. -/
def histsOf (b : List Byte) (slot : Nat) : List (List Nat) :=
  (List.range 3).map fun r => histEntries ((b.drop (histOff slot r)).take 256)

/-- The destination ranges of an operator. -/
def layerDests (l : LayerD) : List (Nat × Nat) :=
  (l.c.addr, rowBytes (l.m * l.n) (fmtWidth (fmtOf l.c.fmt))) ::
    (if l.c.scale == 3 then [(l.c.scaleAddr, l.m * ceilDiv l.n 32)] else [])

/-- The reads of a LAYER: a refused access stops them, a poisoned line is noted and they go on (R161). -/
structure Over where
  c : Chk
  bad : List Nat
  deriving DecidableEq, Repr

def Over.line (w : Who) (x : Over) (l : Nat) : Over :=
  let c := Chk.readLine w x.c l
  match c.stop with
  | some (.poisoned p) => ⟨c.go, insNat p x.bad⟩
  | _ => ⟨c, x.bad⟩

def Over.read (w : Who) (x : Over) (r : Nat × Nat) : Over := (linesOf r.1 r.2).foldl (Over.line w) x

/-- A place lies in a line that was read poisoned. -/
def Over.hits (x : Over) (a n : Nat) : Bool := (linesOf a n).any x.bad.contains

/-- The reads and write checks of an operator's tensors, in order; a managed scale record is among what it writes (R176, R233). -/
def readTensors (w : Who) (x : Over) (l : LayerD) (p : Policy) (hs : List (List Nat)) (hidx r : Nat) (replay : Bool) : Over :=
  let a := (l.a.addr, l.opA.bytes)
  let b := (l.b.addr, l.opB.bytes)
  let x := Over.read w x a
  let x := if readsTwice p l.opA (l.a.scale == 3) (hs.getD 0 []) hidx r replay then Over.read w x a else x
  let x := Over.read w x b
  let x := if readsTwice p l.opB (l.b.scale == 3) (hs.getD 1 []) hidx r replay then Over.read w x b else x
  let x := match l.resid with
    | some y => Over.read w x (y, 4 * l.m * l.n)
    | none => x
  let c := Chk.write w x.c l.c.addr (rowBytes (l.m * l.n) (fmtWidth (fmtOf l.c.fmt)))
  let c := if isManaged p l then Chk.write w c l.c.scaleAddr 8 else c
  { x with c := if l.c.scale == 3 then Chk.write w c l.c.scaleAddr (l.m * ceilDiv l.n 32) else c }

/-! ### The contained end of a run (R375) -/

/-- The engines that have taken tiles of a run. -/
def Run.engines (r : Run) : List Nat := r.ops.flatMap OpRec.tiles

/-- The run ends at the command `c`, which is not among the active ones before it: their records and its own are CONTAINED, those before it
with POISON where the block that all share is at fault (`all`, R251), and the queue stops, its engines aborting their work (R101). HEAD
names the descriptor after `c`. While an event record of the run waits for an entry, so does all of this (R354). -/
def containRun (s : State) (q : Fin 32) (before : List Cmd) (c : Cmd) (all : Bool) (res : List Byte) : State :=
  let held := fun (x : Cmd) (r : List Byte) => { x with status := 1, result := r, work := .plain, writes := x.dests.map freeOf }
  let cs := before.map (fun x => held x (runResult s q x.idx all)) ++ [held c res]
  let s := updQ (abortSome s ((s.queues[q].run.map Run.engines).getD [])) q fun u => { u with head := c.idx + 1, active := cs, run := none }
  if evBlocked s q then s else containAll s q

/-- The stop of a command of a run in progress: POISON where it read poison, and in every record of the run where that was in the precision
block (`all`). -/
def stopRun (s : State) (q : Fin 32) (before : List Cmd) (c : Cmd) (poison all : Bool) : State :=
  containRun s q before c (poison && all) (runResult s q c.idx poison)

/-- ERR_STAT.DEG_PREC of a command that reports LOWCEIL (R412). -/
def degraded (s : State) (ceil : Option Nat) : State := if ceil.isSome then setFlagOnly s offErrStat 4 else s

/-! ### What engines and staging hold after work of a LAYER (R89, R141, R255, R256; log entry 9) -/

/-- The slot tags of an engine: which slots the work used, and what it left there, is left open. A slot is POISON only where it was, or where
the work met poison (`psn`). -/
def slotsAfter (fresh e : Nat) (psn : Bool) (slots : List (Nat × Nat)) : List (Nat × Nat) :=
  (List.range 256).filterMap fun q =>
    let t := Config.freeTicks fresh (20000 + 256 * e + q) % 4
    if t == 0 || (t == 3 && !psn && getCell (fun _ => (0 : Nat)) q slots != 3) then none else some (q, t)

/-- The lines that stay poisoned: any that no write has replaced as a whole (R250), which is left open. -/
def poisonAfter (fresh base : Nat) (lines : List Nat) : List Nat := lines.filter fun l => Config.freeTicks fresh (base + l) % 2 == 1

/-- The engines that took these tiles, and the staging of their cores: slots and scratch hold what the work left. No other changes. -/
def usedEngines (s : State) (psn : Bool) (tiles : List Nat) : State :=
  { s with
    fresh := s.fresh + 1
    cores := Vector.ofFn fun c =>
      if tiles.any fun e => e / 6 == c.val then
        { s.cores[c] with stage := ⟨[], s.fresh + 1, poisonAfter s.fresh (0x1000000 + 0x100000 * c.val) s.cores[c].stage.poison⟩ }
      else s.cores[c]
    engines := Vector.ofFn fun e =>
      let g := s.engines[e]
      if tiles.contains e.val then
        { g with slots := slotsAfter s.fresh e psn g.slots, scratch := [], gen := s.fresh + 1
                 poison := poisonAfter s.fresh (0x4000000 + 0x100000 * e.val) g.poison }
      else g }

/-- An engine whose scratch or staging showed an uncorrectable error: a slot that its work used is POISON (R160). -/
def poisonSlots (s : State) (e : Fin 96) : State := updE (freshen s) e fun g => { g with slots := slotsAfter s.fresh e true g.slots }

/-! ### Computing one operator -/

/-- Memory as an operator that has read poison takes it: the lines `bad` give it zeros, and its flags alone count (R161, R162; log
entry 9). -/
def withoutBad (s : State) (bad : List Nat) : State := bad.foldl (fun s l => wrBytes s (64 * l) (List.replicate 64 0)) s

/-- An operator computed at the run's rung: outputs written, its tiles dealt as `o.tiles` says, flags set, and its record made, with the
events of its tiles and the conversion OVF of the movers that staged them. One that has read the poisoned lines of `x` writes nothing: its tiles that use them are POISON, and an OVF, an INV or
a conversion beside it is recorded (R162). -/
def runOp (s : State) (w : Who) (r : Run) (o : OpRec) (block : List Byte) (bad : Over) : State × OpRec × TileEv :=
  let p := (policyOf r.pol).1
  let l := (layerOf o.desc).1
  let cap := (capOf l o.sa o.sb o.sc o.eddy (isManaged p l)).1
  let hidx := (PrecSt.parse (block.drop 0x40)).hidx
  let x := computeOp (withoutBad s bad.bad) o.desc l cap p (histsOf block l.slot) hidx r.step r.rung (r.replays != 0)
  let ev : TileEv := ⟨x.ovfTiles, x.invTiles, x.convTiles, if bad.bad.isEmpty then [] else poisonTiles l bad.hits⟩
  let s := if bad.bad.isEmpty then applyWrites (w.q, w.idx) s x.writes else s
  let psn := !bad.bad.isEmpty
  let s := countShared s (tileCores o.tiles) 0x0B ((x.convS + x.convW) * max 1 o.tiles.length)
  let s := usedEngines (dealTiles s w l (opCfg p l r.rung (r.replays != 0)) psn o.tiles fun _ => true) psn o.tiles
  let f := accFlags s o.tiles o.flagged ev
  (f.1, { o with
    ev := ⟨x.convS, x.convW, x.accF, x.accI, x.bso, lowOf x.ovfTiles, x.amaxS, x.amaxW, x.expS, x.expW, x.rung⟩
    recs := x.recs.map Sound.bytes, managed := x.managed, flagged := f.2, conv := o.conv || !x.convTiles.isEmpty }, ev)

/-- The faults that the work of operator number `k` meets. -/
def opFaults (k : Nat) (o : OpRec) (faults : List EngFault) : List EngFault :=
  faults.filter fun f => f.op == k && faultFits o.ev.rung (layerOf o.desc).1 f

/-- The engine aborts its work on the command, and its tiles that are not finished are dealt again from their first pass, to engines in
service, with the cores, passes and flags that this brings (R31, R101, R137, R400). Which tiles are not finished is left open, as the
dealing is (log entry 9). -/
def dealAgain (q : Fin 32) (idx : BitVec 32) (r : Run) (ev : TileEv) (e : Fin 96) (x : State × OpRec) : State × OpRec :=
  let s := abortEngine x.1 e
  let o := x.2
  let l := (layerOf o.desc).1
  let cfg := opCfg (policyOf r.pol).1 l r.rung (r.replays != 0)
  let again := fun (t : Nat) => o.tiles.getD t 96 == e.val && Config.freeEngine s.fresh (dealtWith l cfg t) % 2 == 1
  let n := ((List.range o.tiles.length).filter again).length
  if n == 0 || s.jobFatal then (s, o)
  else
    let tiles := (List.range o.tiles.length).map fun t =>
      if again t then tileEngine s (s.fresh + 1) (dealtWith l cfg t) else o.tiles.getD t 0
    let s := countEv (joinCores { s with fresh := s.fresh + 2 } q idx o.desc (tileCores tiles)) (engCore e) 0x0C n
    let psn := !ev.psn.isEmpty
    let s := usedEngines (dealTiles s (whoOf q idx o.desc) l cfg psn tiles again) psn
      (((List.range tiles.length).filter again).map fun t => tiles.getD t 0)
    let f := accFlags s tiles o.flagged
      ⟨ev.ovf.filter again, ev.inv.filter again, ev.conv.filter again, ev.psn.filter again⟩
    (f.1, { o with tiles := tiles, flagged := f.2 })

/-- One failed check in the work of an operator: it is counted, and the engine's open tiles are dealt again. -/
def opFault (q : Fin 32) (idx : BitVec 32) (r : Run) (ev : TileEv) (x : State × OpRec) (f : EngFault) : State × OpRec :=
  if !x.1.inService[f.e] then x
  else
    let y := engFault (whoOf q idx x.2.desc) (x.1, x.2.errs) f
    dealAgain q idx r ev f.e (y.1, { x.2 with errs := y.2 })

/-- The ECC outcomes and then the failed checks of an operator's work, each kind in order. An engine whose scratch or staging
showed an uncorrectable error has a POISON slot (R160). -/
def runFaults (s : State) (q : Fin 32) (idx : BitVec 32) (k : Nat) (r : Run) (o : OpRec) (ev : TileEv) (faults : List EngFault) :
    State × OpRec :=
  let w := whoOf q idx o.desc
  let fs := (opFaults k o faults).filter fun f => s.inService[f.e]
  let s := fs.foldl (layerEcc w) s
  let y := (fs.filter fun f => faultPoisons f.kind).foldl (fun x f => accFlag (poisonSlots x.1 f.e, x.2) f.e 3) (s, o.flagged)
  (fs.filter fun f => faultCounted f.kind).foldl (opFault q idx r ev) (y.1, { o with flagged := y.2 })

/-- The operator has met poison: in a line it read, or in engine scratch or staging (R160, R161). -/
def metPoison (s : State) (k : Nat) (o : OpRec) (faults : List EngFault) (bad : Over) : Bool :=
  !bad.bad.isEmpty || (opFaults k o faults).any fun f => faultPoisons f.kind && s.inService[f.e]

/-! ### LAYER -/

/-- A running EDDY load that writes table `t` (R135). -/
def eddyLoading (s : State) (t : Nat) : Bool :=
  s.queues.toList.any fun u => u.active.any fun c => match c.work with
    | .eddy et _ => et == t
    | _ => false

/-- ERR_DEGRADE as a run reads it at its start (R411, R420). -/
def lowCeil (s : State) : Option Nat := if regBit s offDegrade 0 then some (regField s offDegrade 1 2) else none

/-- The precision block at the start of a run: its initialisation or governor run (R168, R189). -/
def beginBlock (w : Nat × Nat) (s : State) (p : Policy) (ceil : Option Nat) (addr step : Nat) (b : List Byte) : State :=
  let st := PrecSt.parse (b.drop 0x40)
  if !st.valid then applyWrites w s (initBlock p step addr b)
  else if stepExceeds step st.step then
    applyWrites w s (governBlock p (match ceil with | none => p.ceil | some l => min p.ceil l) step ceil.isSome addr b)
  else s

/-- The run of the first descriptor of a layer, from its block. Its STEP serves the governor, the sounding records and the REPLAY records of
the whole run, whatever STEP a later descriptor of it names, while a braid key takes its own descriptor's STEP: a DESIGN CHOICE (log entry
47), since R178 and R187 speak of the step number alone. -/
def beginRun (w : Nat × Nat) (s : State) (d : Desc) (b : List Byte) : State × Run × Nat :=
  let pol := padTo 64 b
  let p := policyOf pol
  let ceil := lowCeil s
  let s := beginBlock w s p.1 ceil (lyPrec d) (dStep d) b
  let st := PrecSt.parse (rd s (lyPrec d + 0x40) 64)
  let r := min st.rung 4
  (s, ⟨dLayer d, lyPrec d, dStep d, pol, (match ceil with | none => r | some l => min r l), 0, ceil, [], false⟩, p.2)

/-- The running command of a LAYER descriptor. -/
def layerCmd (d : Desc) (y : Cmd) : Cmd := { y with work := .layer, dests := layerDests (layerOf d).1 }

/-- A LAYER that a read or a refused access stops once its cores have taken its work (R455, R463). -/
def stopLayer (s : State) (q : Fin 32) (d : Desc) (n mask : Nat) (all : Bool) (res : List Byte) : State :=
  let t := startCmdOn mask s q d n (layerCmd d)
  match t.queues[q].active.getLast? with
  | some c => containRun t q s.queues[q].active c all res
  | none => t

/-- A descriptor of a run that has started its reads: scale data, tensors, the computation, the faults. One that met poison ends
the run (R161). Scale data in a line that was read poisoned counts as zero, as a tensor does (log entry 9). -/
def layerBody (q : Fin 32) (faults : List EngFault) (c : Chk) (d : Desc) (n : Nat) (r : Run) : State :=
  let idx := c.s.queues[q].head
  let w := whoOf q idx d
  let ly := layerOf d
  let l := ly.1
  let p := (policyOf r.pol).1
  let man := isManaged p l
  let block := rd c.s r.prec precLen
  let hidx := (PrecSt.parse (block.drop 0x40)).hidx
  let rs := (l.opA.scaleRange, l.opB.scaleRange, outScaleRange l man)
  let x := Over.read w (Over.read w (Over.read w ⟨c, []⟩ rs.1) rs.2.1) rs.2.2
  let seen := withoutBad x.c.s x.bad
  let sa := rd seen rs.1.1 rs.1.2
  let sb := rd seen rs.2.1.1 rs.2.1.2
  let sc := rd seen rs.2.2.1 rs.2.2.2
  let eddy := (x.c.s.eddies.toList.getD l.eddySel [])
  let n := n + ly.2 + (if x.bad.isEmpty then (capOf l sa sb sc eddy man).2 else 0)
  let x := if x.c.stop.isSome then x else readTensors w x l p (histsOf block l.slot) hidx r.rung (r.replays != 0)
  let n := n + b2n x.c.unbacked
  let s := degraded (updQ x.c.s q fun u => { u with run := some r }) r.ceil
  let tiles := assignTiles s l (opCfg p l r.rung (r.replays != 0))
  let mask := coresOf s 1 false ||| tileCores tiles
  let s := freshen s
  if x.c.stop.isSome then stopLayer s q d n mask false (runResult s q idx false)
  else
    let before := s.queues[q].active
    let k := r.ops.length
    let z := runOp (startCmdOn mask s q d n (layerCmd d)) w r ⟨d, sa, sb, sc, eddy, OpEv.none, [], none, [], [], false, false, tiles⟩ block x
    let s := updQ z.1 q fun u => { u with run := some { r with ops := r.ops ++ [z.2.1], ended := lyLast d } }
    let bad := metPoison s k z.2.1 faults x
    let y := runFaults s q idx k r z.2.1 z.2.2 faults
    let s := updQ y.1 q fun u => { u with run := u.run.map fun z => { z with ops := updAt (fun _ => y.2) z.ops k } }
    match s.queues[q].active.getLast? with
    | some c => if bad && s.queues[q].state == .running then stopRun s q before c true false else s
    | none => s

/-- The read met poison. -/
def Stop.isPoison : Stop → Bool
  | .poisoned _ => true
  | .refused _ => false

/-- A LAYER whose precision block cannot be used: by `st`. Poison there is in every record of the run (R251). -/
def stoppedAtBlock (q : Fin 32) (c : Chk) (d : Desc) (n : Nat) (ceil : Option Nat) (st : Stop) (res : List Byte) : State :=
  let s := degraded c.s ceil
  stopLayer (freshen s) q d (n + b2n c.unbacked) (coresOf s 1 false) st.isPoison res

/-- The first descriptor of a run: the precision block, the governor, then the operator. -/
def firstLayer (q : Fin 32) (faults : List EngFault) (c : Chk) (d : Desc) (n : Nat) : State :=
  let w := whoOf q c.s.queues[q].head d
  let c := Chk.read w c (lyPrec d) precLen
  match c.stop with
  | some st =>
    let ce := lowCeil c.s
    stoppedAtBlock q c d n ce st (layerResult false 0 0 false st.isPoison ce.isSome)
  | none =>
    let x := beginRun (w.q, w.idx) c.s d (rd c.s (lyPrec d) precLen)
    layerBody q faults { c with s := x.1 } d (n + x.2.2) x.2.1

/-- A further descriptor of a run. The block of the run's first descriptor serves every operator of the run, whatever PREC_PTR a later
descriptor names: a DESIGN CHOICE (log entry 47), since R166 asks software to name one block. -/
def nextLayer (q : Fin 32) (faults : List EngFault) (c : Chk) (d : Desc) (n : Nat) (r : Run) : State :=
  let w := whoOf q c.s.queues[q].head d
  let c := Chk.read w c r.prec precLen
  match c.stop with
  | some st => stoppedAtBlock q c d n r.ceil st (runResult c.s q c.s.queues[q].head st.isPoison)
  | none => layerBody q faults c d n r

/-- No EDDY load writes the table that the descriptor binds; an element-wise operator binds none (R135, R361). -/
def eddyFree (s : State) (d : Desc) : Bool := (layerOf d).1.ewise || !eddyLoading s (layerOf d).1.eddySel

/-- LAYER (R360, R165): the first descriptor of a run starts alone; a further one once its predecessor has started and while
no operator marks. -/
def execLayer (q : Fin 32) (env : List Finding) (faults : List EngFault) (s : State) : Res :=
  .next (match s.queues[q].run with
    | none =>
      startAlone s q env (fun s d => dKind d == 1 && eddyFree s d) (firstLayer q faults)
    | some r =>
      if r.ended || r.marking.isSome then s
      else startRow s q env
        (fun s d => dKind d == 1 && dLayer d == r.layer && eddyFree s d)
        fun c d n => nextLayer q faults c d n r)

/-! ### REPLAY (R183, R187) -/

def sat32 (n : Nat) : Nat := min n 0xFFFFFFFF

/-- A REPLAY record of operator `o` at ring index `idx`. -/
def replayEvent (s : State) (q : Fin 32) (idx : BitVec 32) (r : Run) (o : OpRec) (stands : Bool) : State :=
  let e := o.ev
  let flags := b2n (e.convS != 0) + 2 * b2n (e.convW != 0) + 4 * b2n (e.accF != 0) + 8 * b2n (e.accI != 0) + 16 * b2n (e.bso != 0)
    + 32 * b2n stands
  evPush s q (padTo 64 (le4 (0x04 + q.val * 2 ^ 8) ++ le4 idx.toNat ++ le8 s.gauge.count ++
    le4 (r.layer + (if stands then 0 else r.replays + 1) * 2 ^ 24) ++
    le4 (dOp o.desc + r.rung * 2 ^ 16 + (if stands then r.rung else r.rung + 1) * 2 ^ 19 + flags * 2 ^ 24) ++
    le4 r.step ++ le4 e.lowTile ++ le4 (sat32 e.convS) ++ le4 (sat32 e.convW) ++ le4 (sat32 (e.accF + e.accI)) ++ le4 (sat32 e.bso) ++
    le4 e.amaxS ++ le4 e.amaxW ++ leBytes 1 (twos 8 e.expS) ++ leBytes 1 (twos 8 e.expW)))

/-- What has been rerun so far: the check state, the operators done, and the operator that stopped it. -/
structure Rerun where
  c : Chk
  ops : List OpRec
  marked : Bool
  /-- the operator that stopped it, whether by poison, and whether in the precision block -/
  stopped : Option (Nat × Bool × Bool)
  deriving DecidableEq, Repr

/-- One operator of the rerun, dealt anew, whose loads fetch the codebooks again (R123, R125). After a marking one the rest are aborted. -/
def rerunOp (q : Fin 32) (r : Run) (faults : List EngFault) (idx : Nat → BitVec 32) (x : Rerun) (o : OpRec) : Rerun :=
  if x.stopped.isSome || x.c.s.jobFatal then x
  else if x.marked then { x with ops := x.ops ++ [{ o with ev := OpEv.none, recs := [] }] }
  else
    let k := x.ops.length
    let w := whoOf q (idx k) o.desc
    let l := (layerOf o.desc).1
    let p := (policyOf r.pol).1
    let pc := Chk.read w x.c r.prec precLen
    let block := rd pc.s r.prec precLen
    let hidx := (PrecSt.parse (block.drop 0x40)).hidx
    let book := fun (o : OpIn) (y : Over) (b : List Byte) =>
      if o.ref.fmt == 0x08 then let y := Over.read w y o.scaleRange; (y, rd y.c.s o.scaleRange.1 o.scaleRange.2) else (y, b)
    let a := book l.opA ⟨pc.go, []⟩ o.sa
    let b := book l.opB a.1 o.sb
    let o := { o with sa := a.2, sb := b.2 }
    let v := readTensors w b.1 l p (histsOf block l.slot) hidx r.rung true
    if pc.stop.isSome then { x with c := pc, stopped := some (k, pc.stop.any Stop.isPoison, true) }
    else if v.c.stop.isSome then { x with c := v.c, stopped := some (k, false, false) }
    else
      let tiles := assignTiles v.c.s l (opCfg p l r.rung true)
      let y := runOp (joinCores (freshen v.c.s) q (idx k) o.desc (tileCores tiles)) w r { o with tiles := tiles } block v
      let bad := metPoison y.1 k y.2.1 faults v
      let z := runFaults y.1 q (idx k) k r y.2.1 y.2.2 faults
      { x with c := { v.c with s := z.1 }, ops := x.ops ++ [z.2], marked := z.2.ev.marked && decide (r.rung < r.top)
               stopped := if bad then some (k, true, false) else none }

/-- The ring index of operator `k` among the running commands. -/
def opIdx (cmds : List Cmd) (k : Nat) : BitVec 32 :=
  match cmds[k]? with
  | some c => c.idx
  | none => 0

/-- The run stops at its operator `k`. The destinations of the descriptors after it are unspecified too (R402). -/
def stopAt (s : State) (q : Fin 32) (cmds : List Cmd) (k : Nat) (poison all : Bool) : State :=
  match cmds[k]? with
  | some c => stopRun ((cmds.drop (k + 1)).foldl (fun s x => freeRanges (q.val, x.idx.toNat) s x.dests) s) q (cmds.take k) c poison all
  | none => s

/-- The run at its next rung, with its marking operator `m` counted. -/
def Run.wider (r : Run) (m : Nat) : Run :=
  { r with rung := r.rung + 1, replays := r.replays + 1, ops := updAt (fun o => { o with replayed := true }) r.ops m }

/-- The rerun starts: its record, its flag and its trace, and the operators after the marking one aborted (R101, R183, R187, R188). -/
def startReplay (q : Fin 32) (s : State) (r : Run) (m : Nat) (o : OpRec) : State :=
  let cmds := s.queues[q].active
  let s := replayEvent s q (opIdx cmds m) r o false
  let s := if o.replayed then s else setFlag s offRplstat 0 32
  let s := traceCores s (cmds.foldl (fun n c => n ||| c.cores) 0) 0x04 0 (r.rung + 1) (whoOf q (opIdx cmds m) o.desc) r.rung
  abortSome (updQ s q fun u => { u with run := some (r.wider m) }) ((r.ops.drop (m + 1)).flatMap OpRec.tiles)

/-- The rerun of a marked run, one rung wider. -/
def replayRun (q : Fin 32) (env : List Finding) (faults : List EngFault) (s : State) (r : Run) (m : Nat) : State :=
  let cmds := s.queues[q].active
  match r.ops[m]? with
  | none => s
  | some o =>
    let x := (r.wider m).ops.foldl (rerunOp q (r.wider m) faults (opIdx cmds)) ⟨Chk.init (startReplay q s r m o) env, [], false, none⟩
    if x.c.s.jobFatal then x.c.s
    else
      let s := updQ x.c.s q fun u => { u with run := u.run.map fun _ => { r.wider m with ops := x.ops } }
      match x.stopped with
      | some (k, poison, all) => stopAt s q s.queues[q].active k poison all
      | none => s

/-- REPLAY: the run of queue q has a marking operator, and every operator up to it has finished (R183). The rerun starts once its record
finds an entry (R187, R195, R354). -/
def execReplay (q : Fin 32) (env : List Finding) (faults : List EngFault) (s : State) : Res :=
  .next (match s.queues[q].run with
    | none => s
    | some r =>
      match r.marking with
      | none => s
      | some m => if s.queues[q].state == .running && inService s && evFree s then replayRun q env faults s r m else s)

/-! ### COMMIT (R184, R186) -/

/-- The next descriptor has been submitted and does not continue the run (R165). -/
def runCut (s : State) (q : Fin 32) (r : Run) : Bool :=
  let u := s.queues[q]
  let a := sqSlot s q u.head
  u.head != u.tail && accessRefused s a == 0 &&
    ((linesOf a 128).any (linePoisoned s) || !(dKind (rd s a 128) == 1 && dLayer (rd s a 128) == r.layer))

/-- The sounding records and the managed scale record of an operator at commit (R176, R184, R186). -/
def opCommitWrites (r : Run) (o : OpRec) : List MemWrite :=
  let l := (layerOf o.desc).1
  let st := r.top ≤ r.rung
  let stand := [o.ev.convS != 0, o.ev.convW != 0, o.ev.accF != 0 || o.ev.accI != 0 || o.ev.bso != 0]
  (List.range 3).map (fun role =>
    let x := Sound.parse (o.recs.getD role [])
    let x := { x with replays := r.replays, flags := x.flags ||| (if st && stand.getD role false then 64 else 0) }
    (⟨r.prec + recOff l.slot role, x.bytes, .data⟩ : MemWrite)) ++
  (match o.managed with
   | some e => [⟨l.c.scaleAddr, le4 (f32Pow2 e) ++ le4 (f32Pow2 (-e)), .data⟩]
   | none => [])

/-- Whether an overflow stood at the top rung. -/
def Run.stands (r : Run) : Bool := decide (r.top ≤ r.rung) && r.ops.any fun o => o.ev.marked

/-- The writes of the run's operators at commit, each under the command it belongs to. -/
def commitWrites (q : Fin 32) (r : Run) (cmds : List Cmd) : List ((Nat × Nat) × List MemWrite) :=
  (List.range r.ops.length).filterMap fun k => r.ops[k]?.map fun o => ((q.val, (opIdx cmds k).toNat), opCommitWrites r o)

/-- The record of an overflow that stands at the top rung (R184, R187). -/
def standsRecord (s : State) (q : Fin 32) (r : Run) (cmds : List Cmd) : State :=
  let m := (findIdx? (fun (o : OpRec) => o.ev.marked) r.ops 0).getD 0
  match r.ops[m]? with
  | some o => if r.stands then replayEvent (setFlag s offRplstat 1 48) q (opIdx cmds m) r o true else s
  | none => s

/-- The commit of a run that is complete. A sounding record or a managed scale record that may not cross any more ends it at its operator
(R512). -/
def commitRun (s : State) (q : Fin 32) (r : Run) : State :=
  let cmds := s.queues[q].active
  let ws := commitWrites q r cmds
  match findIdx? (fun x => writesRefused s x.1 x.2 != 0) ws 0 with
  | some k =>
    let x := ws.getD k ((0, 0), [])
    let w := match r.ops[k]? with
      | some o => whoOf q (opIdx cmds k) o.desc
      | none => Who.none
    stopAt (errEvent s w (writesRefused s x.1 x.2) 1 3 0 0 0) q cmds k false false
  | none =>
    let s := standsRecord s q r cmds
    let s := ws.foldl (fun s x => applyWrites x.1 s x.2) s
    let s := match cmds with
      | c :: _ => traceCores s (cmds.foldl (fun n c => n ||| c.cores) 0) 0x03 0 r.rung (whoOf q c.idx c.desc) r.replays
      | [] => s
    let res := fun (c : Cmd) => layerResult (r.convAt cmds c.idx) r.rung r.replays r.stands false r.ceil.isSome
    let s := updQ s q fun u => { u with active := [], run := none }
    let s := cmds.foldl (fun s c => putRec s q { c with result := res c } 0) s
    match cmds.getLast? with
    | some c => if dSigEn c.desc then tokenMap s (dSigTok c.desc) (· + 1) else s
    | none => s

/-- COMMIT: every operator of the run has finished, none marks, and the run has ended, at LAST = 1 or because the next
descriptor is not of the run, which clamps LAST (R165, R387). A STANDS record needs an entry first (R354). -/
def execCommit (q : Fin 32) (s : State) : Res :=
  .next (match s.queues[q].run with
    | none => s
    | some r =>
      if s.queues[q].state != .running || !inService s || r.marking.isSome || evBlocked s q || (r.stands && !evFree s) || r.ops.isEmpty then s
      else if r.ended then commitRun s q r
      else if runCut s q r then
        let s := updQ (addClamps s q 1) q fun u =>
          { u with active := updAt (fun c => { c with clamped := true }) u.active (u.active.length - 1) }
        commitRun s q r
      else s)

end Sys2Proof.Machine
end

