-- ==== Sys2Proof/Machine/Array.lean ====
section
/-! DEFINITION. Array instructions of one engine (R92): LOAD, STEPS, ELEMENTWISE, RECONFIGURE and ABORT, over its splice
configuration, stationary buffers, slots, sidecars and scratch (R76 to R101, R107 to R130, R141 to R160, R255). The places of
staged operands are log entry 10. -/
namespace Sys2Proof.Machine

/-! ### Engine scratch (R255) -/

/-- What an unlisted byte of engine scratch reads as: zero at reset (log entry 2), left open once firmware has staged data. -/
def scrDefault (gen e : Nat) : Nat → Byte := fun off => if gen = 0 then 0 else Config.freeScratch gen e off

def scrSize : Nat := 0x600000

def scrByte (s : State) (e : Fin 96) (off : Nat) : Byte :=
  getCell (scrDefault s.engines[e].gen e) (off % scrSize) s.engines[e].scratch

def scrWrite (s : State) (e : Fin 96) (off : Nat) (bs : List Byte) : State :=
  updE s e fun g =>
    { g with
      scratch := (bs.zip (List.range bs.length)).foldl (fun m b => putCell (scrDefault g.gen e) ((off + b.2) % scrSize) b.1 m) g.scratch
      poison := g.poison.filter fun l => !(decide (off ≤ 64 * l) && decide (64 * l + 64 ≤ off + bs.length)) }

/-- The checks of an engine's reads: the findings still to come, and whether a poisoned line was read. -/
structure EChk where
  s : State
  env : List Finding
  poisoned : Bool
  deriving DecidableEq, Repr

def EChk.readLine (e : Fin 96) (c : EChk) (l : Nat) : EChk :=
  let l := l % (scrSize / 64)
  let f := takeFinding l c.env
  let s := match f.1 with
    | some .ce => countEv (lastSrc (setFlag c.s offEccstat 0 16) 3) (engCore e) 0x30 1
    | some (.flitUe _) | none => c.s
    | some _ => engUncorrected c.s Who.none e l
  ⟨s, f.2, c.poisoned || s.engines[e].poison.contains l⟩

def EChk.read (e : Fin 96) (c : EChk) (off n : Nat) : EChk := (linesOf off n).foldl (EChk.readLine e) c

/-- Bytes of engine scratch that lie in a poisoned line. -/
def scrBad (s : State) (e : Fin 96) (off n : Nat) : Bool :=
  (linesOf off n).any fun l => s.engines[e].poison.contains (l % (scrSize / 64))

/-- Staged element `i` of `w` bits from `base` lies in a poisoned line. -/
def elBad (s : State) (e : Fin 96) (base w i : Nat) : Bool := scrBad s e (base + i * w / 8) (ceilDiv (i * w % 8 + w) 8)

/-! ### Configuration (R99, R101) -/

/-- The unit accepts this pair at this rung (R81, R110, R111): the splice takes K4 as its stationary operand, expanded (R112). -/
def pathTakes (path : ArrayPath) (r fa fb : Nat) : Bool :=
  match path with
  | .log => fa == 0x07 && fb == 0x07 && r == 0
  | .table => [0x04, 0x05, 0x06, 0x09].contains fa && fb == 0x08 && r == 1
  | .strand => strandPair (fmtOf fa) (fmtOf fb) r
  | .splice => fa != 0x07 && fa != 0x08 && fb != 0x07
  | .ewise => fa != 0x07 && fa != 0x08 && fb != 0x07 && fb != 0x08

/-- Both operand formats are array operands (R36, R86), and a pair of the path's. -/
def insnAccepted (i : ArrayInsn) (path : ArrayPath) : Bool :=
  (fmtArrayRung (fmtOf i.fa.toNat)).isSome && (fmtArrayRung (fmtOf i.fb.toNat)).isSome &&
  pathTakes path (opRung i.rung (fmtOf i.fa.toNat) (fmtOf i.fb.toNat)) i.fa.toNat i.fb.toNat

/-- The splice configuration of an instruction, its rung raised to the lowest that accepts both formats (R86, R107). -/
def insnCfg (i : ArrayInsn) (path : ArrayPath) : SpliceCfg :=
  ⟨path, opRung i.rung (fmtOf i.fa.toNat) (fmtOf i.fb.toNat), i.fa.toNat, i.fb.toNat, if path == .ewise then 0 else i.group.toNat, if path == .log then i.eddy else 0⟩

/-! ### LOAD (R93 to R97, R112, R121, R123) -/

/-- Staged stationary element (k, c): row-major, 64 columns, or the 256 of a bight. -/
def stagedB (s : State) (e : Fin 96) (src w cols k c : Nat) : Nat :=
  unpackAt w (fun b => scrByte s e (src + b)) (k * cols + c)

/-- One stationary entry (R94, R112, R121). -/
def statEntry (s : State) (e : Fin 96) (cfg : SpliceCfg) (src : Nat) (book : List Byte) (kk c : Nat) : Nat :=
  let w := fmtWidth (fmtOf cfg.fb)
  let sum := fun (k : Nat) (f : Nat → Nat) => (List.range k).foldl (fun n q => n + f q) 0
  if cfg.path == .table then sum 4 fun h => stagedB s e src 4 256 kk (64 * h + c) * 2 ^ (4 * h)
  else if kBlock cfg == 64 then sum 4 fun q => stagedB s e src w 64 (4 * kk + q) c * 2 ^ (w * q)
  else if needsBook cfg then (book.getD (stagedB s e src 4 64 kk c) 0).toNat
  else stagedB s e src w 64 kk c

/-- Bytes of a staged stationary block. -/
def blockBytes (cfg : SpliceCfg) : Nat := ceilDiv (kBlock cfg * (if cfg.path == .table then 256 else 64) * fmtWidth (fmtOf cfg.fb)) 8

/-- An engine takes work: the module runs and the engine is in service. -/
def engReady (s : State) (e : Fin 96) : Bool := inService s && s.inService[e]

/-- Columns of a staged block: 64, or the 256 of the four quarters of a bight. -/
def blockCols (cfg : SpliceCfg) : Nat := if cfg.path == .table then 256 else 64

/-- The elements of a staged block that lie in a poisoned line, or all where the codebook does. -/
def badElsOf (s : State) (e : Fin 96) (cfg : SpliceCfg) (src : Nat) : List Nat :=
  let all := needsBook cfg && scrBad s e (src + blockBytes cfg) 16
  (List.range (kBlock cfg * blockCols cfg)).filter fun i => all || elBad s e src (fmtWidth (fmtOf cfg.fb)) i

/-- The load port writes the block of a pass into a buffer, under the pass counter's value, which advances (R96). -/
def loadEffect (e : Fin 96) (i : ArrayInsn) (a : Bool) (s : State) : State :=
    let cfg := insnCfg i i.path
    let tag := s.engines[e].counter
    let src := i.src.toNat
    let n := blockBytes cfg
    let c := EChk.read e ⟨s, i.env, false⟩ src n
    let c := if needsBook cfg then EChk.read e c (src + n) 16 else c
    let book := if needsBook cfg then cleanBook ((List.range 16).map fun b => scrByte c.s e (src + n + b)) else []
    let b : StatBuf :=
      { tag := tag, valid := true, released := false
        entries := (List.range 16).flatMap fun kk => (List.range 64).map fun x => BitVec.ofNat 32 (statEntry c.s e cfg src book kk x)
        mx := i.mxb, codebook := book, poison := c.poisoned, bad := if c.poisoned then badElsOf c.s e cfg src else [] }
    updE (countEv c.s (engCore e) 0x03 1) e fun g => { g with counter := (tag + 1) % 4, bufA := if a then b else g.bufA, bufB := if a then g.bufB else b }

/-! ### Slots (R89, R141 to R146) -/

def slotTag (g : Engine) (q : Nat) : STag :=
  match g.slots.find? fun x => x.1 == q with
  | some (_, 1) => .int32
  | some (_, 2) => .fp32
  | some (_, 3) => .poison
  | _ => .empty

def tagCode : STag → Nat
  | .empty => 0 | .int32 => 1 | .fp32 => 2 | .poison => 3

def putSlot (g : Engine) (q : Nat) (t : STag) : Engine := { g with slots := putCell (fun _ => (0 : Nat)) q (tagCode t) g.slots }

def scr32 (s : State) (e : Fin 96) (off : Nat) : Nat := leNat ((List.range 4).map fun i => scrByte s e (off + i))

def sideAddr (q : Nat) : Nat := 0x200000 + q * 0x180

/-- ROW_SCALE[r] × COL_SCALE[c] of a slot's sidecar. -/
def sideScale (s : State) (e : Fin 96) (q r c : Nat) : Int × Int :=
  mulDy (scaleDy (scr32 s e (sideAddr q + 4 * r))) (scaleDy (scr32 s e (sideAddr q + 0x80 + 4 * c)))

/-- An ARR_ACCSTAT flag of an engine (R163). -/
def engFlag (s : State) (e : Fin 96) (bit : Nat) : State :=
  let off := offAccstat (e / 6)
  regPutField (setFlag s off bit (16 + 16 * bit)) off 8 3 (e % 6)

/-- A slot became POISON (R160, R163, R164). -/
def engPoison (s : State) (e : Fin 96) : State :=
  let off := offAccstat (e / 6)
  cntInc (regPutField (setFlagOnly s off 3) off 8 3 (e % 6)) (offAccpsn (e / 6)) 0 16

/-- What the steps of an instruction have raised: OVF, INV, CONV, POISON. -/
structure StepEv where
  c : EChk
  ovf : Bool
  inv : Bool
  conv : Bool
  psn : Bool
  deriving DecidableEq, Repr

/-- One step into slot q (R142 to R146): `psn` when an operand of it was read poisoned; `float` the mode of its groups; `rs`, `cs` its row
and column scales; `f` adds the groups of element (r, k) that are free of poison. A slot that becomes POISON keeps no sum of the step, and
the events of those groups are recorded (R160, R162; log entry 10). -/
def slotStep (e : Fin 96) (q : Nat) (first psn float : Bool) (rs cs : Nat → Nat)
    (f : Nat → Nat → Int × Int → Acc → Acc) (x : StepEv) : StepEv :=
  let found := if first then STag.empty else slotTag x.c.s.engines[e] q
  let c := { x.c with poisoned := false }
  let c := if found == .int32 || found == .fp32 then EChk.read e c (q * 0x2000) 0x2000 else c
  let c := if found == .int32 && float then EChk.read e c (sideAddr q) 0x180 else c
  let sideBad := fun (r k : Nat) => found == .int32 && float &&
    (elBad c.s e (sideAddr q) 32 r || elBad c.s e (sideAddr q + 0x80) 32 k)
  let acc := fun (r k : Nat) =>
    f r k (sideScale c.s e q r k) { Acc.new with tag := found, x := if found == .empty then 0 else scr32 c.s e (q * 0x2000 + 4 * (64 * r + k)) }
  let flags := fun (c : EChk) (as : List Acc) (psn : Bool) =>
    let conv := as.any fun a => a.conv
    (⟨{ c with s := if conv then countEv c.s (engCore e) 0x09 1 else c.s }, x.ovf || as.any (fun a => a.ovfF + a.ovfI != 0),
      x.inv || as.any (fun a => a.inv != 0), x.conv || conv, x.psn || psn⟩ : StepEv)
  let all := (List.range 32).flatMap fun r => (List.range 64).map fun k => (r, k)
  if found == .poison then { x with c := { c with poisoned := false } }
  else if psn || c.poisoned then
    let ok := fun (p : Nat × Nat) => !(sideBad p.1 p.2 || (found != .empty && elBad c.s e (q * 0x2000) 32 (64 * p.1 + p.2)))
    flags { c with s := updE c.s e fun g => putSlot g q .poison, poisoned := false } ((all.filter ok).map fun p => acc p.1 p.2) true
  else
    let as := all.map fun p => acc p.1 p.2
    let t := (as.headD Acc.new).tag
    let s := updE c.s e fun g => putSlot g q t
    let s := if t == .empty then s else scrWrite s e (q * 0x2000) (as.flatMap fun a => le4 a.x)
    let s := if found == .empty && t == .int32 then
        scrWrite s e (sideAddr q) ((List.range 32).flatMap (fun r => le4 (rs r)) ++ (List.range 64).flatMap fun k => le4 (cs k)) else s
    flags { c with s := s } as false

/-- The flags of an instruction, each at most once for the engine (R163), and its OVF as events of the core: one or more, since those of one
ACLK count together (R458; log entry 3). -/
def StepEv.flags (e : Fin 96) (x : StepEv) : State :=
  let s := x.c.s
  let s := if x.ovf then countEv (freshen (engFlag s e 0)) (engCore e) 0x0A (1 + Config.freeNat s.fresh) else s
  let s := if x.inv then engFlag s e 1 else s
  let s := if x.conv then engFlag s e 2 else s
  if x.psn then engPoison s e else s

def one32 : BitVec 32 := 0x3F800000

/-! ### Groups of a step (R117, R120, R147 to R151) -/

/-- The integer class of R79. -/
def isIntFmt (c : Nat) : Bool := [0x09, 0x0A, 0x0B, 0x0D, 0x0E].contains c

/-- The groups of a step are integer groups (R80, R144). -/
def intMode (c : SpliceCfg) : Bool := c.path != .log && c.path != .table && isIntFmt c.fa && isIntFmt c.fb

/-- An element with its block-scale code: a code of 0xFF makes it NaN (R80). -/
def mxEl (sp : Split) (codes : List Byte) (i : Nat) : AEl :=
  match codes[i]? with
  | none => ⟨sp, none⟩
  | some b => match e8m0 b.toNat with
    | none => ⟨⟨1, false, 0, 0⟩, none⟩
    | some x => ⟨sp, some x⟩

/-- The stationary code of element (k, c), or the index of quarter h on the table path. -/
def statCode (cfg : SpliceCfg) (b : StatBuf) (h k c : Nat) : Nat :=
  let at_ := fun kk => (b.entries.getD (64 * kk + c) 0).toNat
  let w := fmtWidth (fmtOf cfg.fb)
  if cfg.path == .table then bits (at_ k) (4 * h) 4
  else if kBlock cfg == 64 then bits (at_ (k / 4)) (w * (k % 4)) w
  else at_ k

/-- The stationary element: through the codebook on the table path; expanded K4 entries are E4M3 (R112, R122). -/
def statEl (cfg : SpliceCfg) (b : StatBuf) (h k c : Nat) : AEl :=
  let x := statCode cfg b h k c
  if cfg.path == .table then ⟨splitElem .e4m3 [] ((b.codebook.getD x 0).toNat), none⟩
  else if needsBook cfg then ⟨splitElem .e4m3 [] x, none⟩
  else mxEl (splitElem (fmtOf cfg.fb) [] x) b.mx (64 * k + c)

/-- The groups of output element c of a row, entered in ascending k, but for those that hold a k for which `bad` holds. -/
def cleanGroups (bad : Nat → Bool) (cfg : SpliceCfg) (eddy : List Byte) (b : StatBuf) (kvalid h c : Nat) (row : Nat → Nat × AEl)
    (sg : Int × Int) (side : Int × Int) (a : Acc) : Acc :=
  let g := 4 * 2 ^ (min cfg.group 2)
  (List.range (kBlock cfg / g)).foldl (fun a j =>
    let ks := ((List.range g).map fun i => j * g + i).filter fun k => decide (k < kvalid)
    if ks.any bad then a
    else if cfg.path == .log then a.floatIn side (logGroup eddy g (ks.map fun k => ((row k).1, statCode cfg b 0 k c))) sg
    else
      let ps := ks.map fun k => ((row k).2, statEl cfg b h k c)
      if intMode cfg then a.intIn (!ks.isEmpty) (intGroup ps) sg else a.floatIn side (floatGroup ps) sg) a

/-- All the groups of output element c of a row. -/
def rowGroups (cfg : SpliceCfg) (eddy : List Byte) (b : StatBuf) (kvalid h c : Nat) (row : Nat → Nat × AEl) (sg : Int × Int)
    (side : Int × Int) (a : Acc) : Acc := cleanGroups (fun _ => false) cfg eddy b kvalid h c row sg side a

/-- The buffer that holds a tag, valid. -/
def bufOf (g : Engine) (t : Nat) : Option (Bool × StatBuf) :=
  if g.bufA.valid && g.bufA.tag == t then some (true, g.bufA)
  else if g.bufB.valid && g.bufB.tag == t then some (false, g.bufB) else none

/-- Step t of a STEPS instruction, into one slot, or into four on the table path (R88, R120). A slot index past 255 goes on from
slot 0: a DESIGN CHOICE (log entry 10), since the spec gives no such step. -/
def oneStep (e : Fin 96) (i : ArrayInsn) (cfg : SpliceCfg) (b : StatBuf) (x : StepEv) (t : Nat) : StepEv :=
  let w := fmtWidth (fmtOf cfg.fa)
  let kb := kBlock cfg
  let rowB := ceilDiv (kb * w) 8
  let src := i.src.toNat + t * i.stride.toNat
  let c := EChk.read e { x.c with poisoned := false } src (32 * rowB)
  let bad := fun (r col k : Nat) => (c.poisoned && elBad c.s e (src + r * rowB) w k) || b.bad.contains (k * blockCols cfg + col)
  let eddy := c.s.engines[e].eddy
  let row := fun r k =>
    let code := unpackAt w (fun y => scrByte c.s e (src + r * rowB + y)) k
    (code, mxEl (splitElem (fmtOf cfg.fa) [] code) i.mxa ((32 * t + r) * kb + k))
  let rs := fun r => (i.rowScale.getD (32 * t + r) one32).toNat
  let n := if cfg.path == .table then 4 else 1
  (List.range n).foldl (fun x h =>
    let cs := fun k => (i.colScale.getD (64 * h + k) one32).toNat
    slotStep e ((i.slot.toNat + n * t + h) % 256) i.first (b.poison || c.poisoned) (!intMode cfg) rs cs
      (fun r k side a => cleanGroups (bad r (64 * h + k)) cfg eddy b i.kvalid h k (row r) (mulDy (scaleDy (rs r)) (scaleDy (cs k))) side a) x)
    { x with c := c }

/-- The steps of a pass over its buffer, which the last of them releases: one STEPS is the whole pass, a DESIGN CHOICE (log entry
10), since a STEPS carries no mark of the pass's end. -/
def stepsEffect (e : Fin 96) (i : ArrayInsn) (a : Bool) (b : StatBuf) (s : State) : State :=
    let cfg := insnCfg i i.path
    let s := tracePass s Who.none e i.tag.toNat (Config.freeNat s.fresh) (i.count.toNat + 1)
    let s := ((List.range (i.count.toNat + 1)).foldl (oneStep e i cfg b) ⟨⟨s, i.env, false⟩, false, false, false, false⟩).flags e
    updE s e fun g => if a then { g with bufA := { g.bufA with released := true } } else { g with bufB := { g.bufB with released := true } }

/-! ### Element-wise (R107, R108) -/

/-- Slots of one element-wise step. -/
def ewiseSlots (rung : Nat) : Nat := if rung == 0 then 4 else 1

/-- One element-wise block: slot `j` of the instruction takes X × Y, each product a group of one. At rung 0 step t takes slots
SLOT + 4t to SLOT + 4t + 3, and its four pairs of blocks lie in scratch as X0 Y0 X1 Y1 X2 Y2 X3 Y3: DESIGN CHOICES (log entry
10), since R108 gives one step's slots and no place for its blocks. -/
def ewiseBlock (e : Fin 96) (i : ArrayInsn) (x : StepEv) (j : Nat) : StepEv :=
  let n := ewiseSlots (insnCfg i .ewise).rung
  let wx := fmtWidth (fmtOf i.fa.toNat)
  let wy := fmtWidth (fmtOf i.fb.toNat)
  let src := i.src.toNat + j / n * i.stride.toNat + j % n * (256 * wx + 256 * wy)
  let c := EChk.read e { x.c with poisoned := false } src (256 * wx + 256 * wy)
  let el := fun (f w base : Nat) (mx : List Byte) (r k : Nat) =>
    mxEl (splitElem (fmtOf f) [] (unpackAt w (fun y => scrByte c.s e (base + y)) (64 * r + k))) mx ((32 * j + r) * 64 + k)
  let int := isIntFmt i.fa.toNat && isIntFmt i.fb.toNat
  let rs := fun r => (i.rowScale.getD (32 * j + r) one32).toNat
  let cs := fun k => (i.colScale.getD k one32).toNat
  let bad := fun r k => c.poisoned && (elBad c.s e src wx (64 * r + k) || elBad c.s e (src + 256 * wx) wy (64 * r + k))
  slotStep e ((i.slot.toNat + j) % 256) i.first c.poisoned (!int) rs cs
    (fun r k side a =>
      if bad r k then a
      else
      let p := [(el i.fa.toNat wx src i.mxa r k, el i.fb.toNat wy (src + 256 * wx) i.mxb r k)]
      let sg := mulDy (scaleDy (rs r)) (scaleDy (cs k))
      if int then a.intIn true (intGroup p) sg else a.floatIn side (floatGroup p) sg)
    { x with c := c }

def ewiseEffect (e : Fin 96) (i : ArrayInsn) (s : State) : State :=
  let s := reconfig s Who.none e (insnCfg i .ewise)
  let s := tracePass s Who.none e i.tag.toNat (Config.freeNat s.fresh) (i.count.toNat + 1)
  ((List.range ((i.count.toNat + 1) * ewiseSlots (insnCfg i .ewise).rung)).foldl (ewiseBlock e i) ⟨⟨s, i.env, false⟩, false, false, false, false⟩).flags e

/-! ### The load port and the injection port (R95, R97) -/

/-- The configuration of an instruction of the injection port. -/
def ArrayOp.cfg : ArrayOp → SpliceCfg
  | .steps i => insnCfg i i.path
  | .elementwise i => insnCfg i .ewise
  | .reconfigure i => insnCfg i i.path

/-- The block whose turn it is at the load port, where a buffer is free for it. A LOAD of another configuration changes the configuration
itself, as RECONFIGURE does: it drains the engine and drops the blocks loaded for steps that have not come yet, once the instructions of
the engine's own configuration that wait have been injected, while a STEPS of another configuration only waits: a DESIGN CHOICE (log entry
10), since R99 does not say which instruction changes it. -/
def tryLoad (e : Fin 96) (s : State) : Option State :=
  match s.engines[e].waitLoads with
  | [] => none
  | i :: r =>
    let cfg := insnCfg i i.path
    if !sameCfg s e cfg && s.engines[e].waitSteps.any (fun o => o.cfg == s.engines[e].cfg) then none
    else
      let s := reconfig s Who.none e cfg
      (loadsA s.engines[e]).map fun a => loadEffect e i a (updE s e fun g => { g with waitLoads := r })

/-- The instruction whose turn it is at the injection port: STEPS need the buffer of their tag, loaded under
their configuration (R97, R99). -/
def tryStep (e : Fin 96) (s : State) : Option State :=
  match s.engines[e].waitSteps with
  | [] => none
  | .steps i :: r =>
    if s.engines[e].cfg != insnCfg i i.path then none
    else (bufOf s.engines[e] i.tag.toNat).map fun b => stepsEffect e i b.1 b.2 (updE s e fun g => { g with waitSteps := r })
  | .elementwise i :: r => some (ewiseEffect e i (updE s e fun g => { g with waitSteps := r }))
  | .reconfigure i :: r => some (reconfig (updE s e fun g => { g with waitSteps := r }) Who.none e (insnCfg i i.path))

/-- Both ports go on as far as they can. -/
def engAdvance (e : Fin 96) : Nat → State → State
  | 0, s => s
  | n + 1, s =>
    match tryStep e s with
    | some t => engAdvance e n t
    | none => match tryLoad e s with
      | some t => engAdvance e n t
      | none => s

/-- The ports of an engine after an instruction has joined them. -/
def engRun (e : Fin 96) (s : State) : State := engAdvance e (s.engines[e].waitLoads.length + s.engines[e].waitSteps.length) s

/-- An instruction joins the injection port of an engine that takes work, unless its path accepts no such operands (R86, R110). -/
def inject (e : Fin 96) (i : ArrayInsn) (o : ArrayOp) (s : State) : State :=
  if engReady s e && insnAccepted i o.cfg.path then engRun e (updE s e fun g => { g with waitSteps := g.waitSteps ++ [o] }) else s

/-- LOAD: a stationary block enters a buffer; until one is free the load port waits (R97). One whose CONFIG names the element-wise mode
loads a buffer too, and a STEPS of that mode sums over it in groups as on the splice: a DESIGN CHOICE (log entry 10), since R107 uses no
stationary buffer in that mode and says nothing of such an instruction. -/
def execLoad (e : Fin 96) (insn : ArrayInsn) (s : State) : Res :=
  .next (if engReady s e && insnAccepted insn insn.path then engRun e (updE s e fun g => { g with waitLoads := g.waitLoads ++ [insn] }) else s)

/-- STEPS: each step adds its groups to its slot; until a buffer holds the tag it is not injected (R97). -/
def execSteps (e : Fin 96) (insn : ArrayInsn) (s : State) : Res := .next (inject e insn (.steps insn) s)

/-- ELEMENTWISE: the element-wise products of X and Y blocks enter their slots (R107). -/
def execElementwise (e : Fin 96) (insn : ArrayInsn) (s : State) : Res := .next (inject e insn (.elementwise insn) s)

/-- RECONFIGURE: the splice configuration of the instruction (R99). -/
def execReconfigure (e : Fin 96) (insn : ArrayInsn) (s : State) : Res := .next (inject e insn (.reconfigure insn) s)

/-- ABORT: nothing that waits is injected or loaded; injected steps have finished; the engine drains and invalidates both
buffers (R101). -/
def execArrayAbort (e : Fin 96) (s : State) : Res :=
  .next (if engReady s e then updE (abortEngine s e) e fun g => { g with waitLoads := [], waitSteps := [] } else s)

end Sys2Proof.Machine
end

