-- ==== Sys2Proof/Machine/Gauge.lean ====
section
/-! DEFINITION. The gauge counter: ticks, frames, lock, loss, holds and jumps, and the choice of a port to follow
(R344 to R346, R378 to R382, R390). -/
namespace Sys2Proof.Machine

def updGauge (s : State) (f : Gauge → Gauge) : State := { s with gauge := f s.gauge }

/-- Some domain runs: the module has left the reset (R493). -/
def alive (s : State) : Bool := s.phase == .romHeld || s.phase == .zeroing || s.phase == .run

/-- GAU_CTL.CAB_EN (R390). -/
def cabEn (s : State) : Bool := regBit s offGauCtl 0

/-! ### The count (R381) -/

/-- A tick of a snapshot that a jump from `old` to `new` passed. -/
def passed (old new t : Nat) : Bool := decide (old < t) && decide (t ≤ new)

/-- A jump: the count moves, and every snapshot whose tick it passed is marked (R381, R460, R461). -/
def jumpTo (s : State) (new : Nat) : State :=
  let old := s.gauge.count
  let s := updGauge s fun g => { g with count := new % 2 ^ 64, holding := none }
  { s with
    queues := s.queues.map fun u => { u with active := u.active.map fun c =>
      match c.work with
      | .snap d sel t j => { c with work := .snap d sel t (j || passed old new t) }
      | _ => c }
    snap := { s.snap with armed := s.snap.armed.map fun a => (a.1, a.2.1, a.2.2 || passed old new a.1) } }

/-- A count adopted from a source: one below the local count makes it hold, one above makes it jump. -/
def adopt (s : State) (new : Nat) : State :=
  if new < s.gauge.count then updGauge s fun g => { g with holding := some new }
  else if new = s.gauge.count then updGauge s fun g => { g with holding := none }
  else jumpTo s new

/-- The source followed advances by one tick: the count follows, or holds until the source has reached it. -/
def tick (s : State) : State :=
  updGauge s fun g =>
    match g.holding with
    | some c => { g with holding := if c + 1 < g.count then some (c + 1) else none }
    | none => { g with count := (g.count + 1) % 2 ^ 64 }

/-- What the source's own count is: the held one below, or the local count. -/
def sourceCount (g : Gauge) : Nat := g.holding.getD g.count

/-! ### Following a port (R345, R346) -/

/-- A port whose gauge may be followed: ACTIVE, SRC_LOST 0, below DEPTH 6. -/
def gaugeSourceOk (t : Port) : Bool := t.state == .active && t.gValid && !t.gLost && decide (t.gDepth < 6)

/-- The port to follow: lowest DEPTH, then lowest number. -/
def gaugeChoice (s : State) : Option (Fin 16) :=
  if !regBit s offGctl 1 then none
  else (List.finRange 16).foldl (fun best (p : Fin 16) =>
    if !gaugeSourceOk s.ports[p] then best
    else match best with
      | none => some p
      | some b => if s.ports[p].gDepth < s.ports[b].gDepth then some p else best) none

/-- The module free-runs and advertises no source (R380 step 3, R345). -/
def freeRun (s : State) : State :=
  updGauge s fun g => { g with src := if g.src == 3 then 3 else 2, holding := none, depth := 7 }

/-- A count or an epoch of the source followed that disagrees with the local one is adopted, with JUMP or EPOCH (R379, R390). -/
def adoptSource (s : State) (count sub epoch : Nat) : State :=
  let old := s.gauge.count
  let newEpoch := epoch != s.gauge.epoch
  let newCount := sourceCount s.gauge != count
  let s := adopt s count
  let s := updGauge s fun g => { g with subtick := sub, epoch := epoch, disagree := none, bad := 0 }
  let s := if newCount then setFlag s offGauFlags 2 48 else s
  let s := if newEpoch then setFlagOnly s offGauFlags 3 else s
  gaugeEvent s (if newEpoch then 0x04 else 0x03) old count

/-- The gauge of a port now, and its sub-tick: as its set gives it where that has just come (`now`), else advanced by the ticks since, whose
number and edges are time, left open (R346; log entry 27). -/
def portGauge (s : State) (now : Option (Fin 16)) (p : Fin 16) : Nat × Nat :=
  let t := s.ports[p]
  if now == some p then (t.gCount, t.gSub) else ((t.gCount + Config.freeNat s.fresh) % 2 ^ 64, Config.freeNat (s.fresh + 1) % 25)

/-- The choice made again while the cabled input is not locked. A port newly followed gives its count and a LINK event; a count that a set
of the port already followed has just brought (`now`) is adopted when it differs by more than a tick, and so is a new epoch (log entry 27). -/
def relink (s : State) (now : Option (Fin 16)) : State :=
  if s.gauge.locked then updGauge s fun g => { g with depth := 0 }
  else match gaugeChoice s with
    | none => if s.gauge.src == 1 then freeRun s else updGauge s fun g => { g with depth := 7 }
    | some p =>
      let t := s.ports[p]
      if s.gauge.src == 1 && s.gauge.port == p.val then
        let s := updGauge s fun g => { g with depth := t.gDepth + 1 }
        if now != some p then s
        else
        let near := decide (t.gCount ≤ sourceCount s.gauge + 1) && decide (sourceCount s.gauge ≤ t.gCount + 1)
        if near && t.gEpoch == s.gauge.epoch then s
        else adoptSource s (if near then sourceCount s.gauge else t.gCount) t.gSub t.gEpoch
      else
        let old := s.gauge.count
        let x := portGauge s now p
        let s := adopt (if now == some p then s else { s with fresh := s.fresh + 2 }) x.1
        let s := updGauge s fun g => { g with src := 1, port := p.val, depth := t.gDepth + 1, epoch := t.gEpoch, subtick := x.2 }
        gaugeEvent s 0x05 old x.1

/-- A port leaves ACTIVE: if the gauge followed it, the module free-runs until the next GAUGE set of another port (R347). -/
def gaugePortLeft (s : State) (p : Fin 16) : State :=
  if s.gauge.src == 1 && s.gauge.port == p.val then freeRun s else s

/-! ### The cabled input (R378 to R380) -/

/-- The cabled input is lost (R380). -/
def gaugeLost (s : State) : State :=
  if !s.gauge.locked then s
  else
    let n := s.gauge.count
    let s := updGauge s fun g =>
      { g with locked := false, prev := none, disagree := none, bad := 0, src := 2, holding := none, depth := 7 }
    relink (gaugeEvent (setFlag s offGauFlags 1 32) 0x02 n n) none

/-- A frame whose sync word and CRC are right. -/
def frameOk (f : GaugeFrame) : Bool := f.sync == 0xF628 && f.crc.toNat == gaugeCrc f.count.toNat f.epoch.toNat

/-- The second frame of a lock: count T + 5 and sub-tick 3 are loaded (R379). -/
def gaugeLock (s : State) (t epoch : Nat) : State :=
  let old := s.gauge.count
  let s := adopt s ((t + 5) % 2 ^ 64)
  let s := updGauge s fun g =>
    { g with locked := true, src := 0, subtick := 3, epoch := epoch, prev := none, disagree := none, bad := 0, depth := 0 }
  gaugeEvent (setFlagOnly s offGauFlags 0) 0x01 old ((t + 5) % 2 ^ 64)

/-- A count or an epoch that two frames agree on is adopted (R379). -/
def gaugeAdopt (s : State) (t epoch : Nat) : State := adoptSource s ((t + 5) % 2 ^ 64) 3 epoch

/-- The frame that comes `n` frames after frame `x`, with the same epoch: its count is 1,024 n greater, and it arrives 1,024 n
ticks later (R379). -/
def frameFollows (x : Option SeenFrame) (n t epoch now : Nat) : Bool :=
  match x with
  | some f => f.count + 1024 * n == t && f.epoch == epoch && f.arrived + 1024 * n == now
  | none => false

/-- GAUGE_FRAME (R379): a frame received whole, which ends at sub-tick 3. With CAB_EN 0 the input is treated as absent. -/
def execGaugeFrame (f : GaugeFrame) (s : State) : Res :=
  if !alive s || !cabEn s then .next s
  else
    let t := f.count.toNat
    let e := f.epoch.toNat
    let now := s.gauge.refTicks
    let s := updGauge s fun g => { g with refOk := true }
    if !frameOk f then
      if s.gauge.locked then
        let s := updGauge s fun g => { g with bad := g.bad + 1 }
        .next (if decide (3 ≤ s.gauge.bad) then gaugeLost s else s)
      else .next (updGauge s fun g => { g with prev := none })
    else if !s.gauge.locked then
      .next (if frameFollows s.gauge.prev 1 t e now then gaugeLock s t e else updGauge s fun g => { g with prev := some ⟨t, e, now⟩ })
    else if sourceCount s.gauge == (t + 5) % 2 ^ 64 && s.gauge.epoch == e then
      .next (updGauge s fun g => { g with bad := 0, disagree := none, subtick := 3 })
    else if frameFollows s.gauge.disagree (s.gauge.bad + 1) t e now then .next (gaugeAdopt s t e)
    else .next (updGauge s fun g => { g with bad := 0, disagree := some ⟨t, e, now⟩ })

/-- GAUGE_TICK (R378): the sub-tick wraps. The count advances while the cabled input is locked. -/
def execGaugeTick (s : State) : Res :=
  if !alive s then .next s
  else
    let s := updGauge s fun g => { g with refOk := true, subtick := 0, refTicks := g.refTicks + 1 }
    .next (if s.gauge.locked then tick s else s)

/-- FREE_RUN_TICK (R380 step 3). -/
def execFreeRunTick (s : State) : Res :=
  .next (if alive s && !s.gauge.locked && s.gauge.src != 1 then tick s else s)

/-- LINK_FOLLOWED_TICK (R380 step 2). -/
def execLinkFollowedTick (s : State) : Res :=
  .next (if alive s && !s.gauge.locked && s.gauge.src == 1 then tick s else s)

/-- LOST (R380): an input that is not locked cannot be lost. GAUGE_REF stays present where only frames are missing. -/
def execLost (ref : Bool) (s : State) : Res :=
  .next (if !alive s then s else gaugeLost (updGauge s fun g => { g with refOk := g.refOk && ref, prev := none }))

/-! ### GAUGE ordered sets (R344, R345) -/

/-- The GAUGE set that a port sends. The LCLK count, the fraction of a tick and the IDLE sets that went before it are local time,
which is left open (log entry 3); the GMAC count m goes over every ordered set of the epoch (R325). -/
def gaugeSetOf (s : State) (t : Port) : SentSet :=
  let tTx := Config.freeNat s.fresh % 2 ^ 48
  { keyEpoch := t.txEpoch, depth := s.gauge.depth, lost := decide (2 ≤ s.gauge.src), epoch := s.gauge.epoch, gauge := s.gauge.count
    phase := Config.freeNat (s.fresh + 1) % 2 ^ 16, tTx := tTx, echo := if t.gValid then t.gTx else 0
    turn := if t.gValid then (tTx + 2 ^ 48 - t.gRx) % 2 ^ 48 % 2 ^ 32 else 0
    key := t.txKey, iv := t.setCount + Config.freeNat (s.fresh + 2) % 2 ^ 64 }

/-- GAUGE_SET_TRANSMIT (R344): every ACTIVE port sends one while TX_EN is 1; SRC_LOST tells that the gauge free-runs. -/
def execGaugeSetTransmit (s : State) : Res :=
  .next (if !regBit s offGctl 0 then s
    else (List.finRange 16).foldl (fun s (p : Fin 16) =>
      if s.ports[p].state == .active then
        let x := gaugeSetOf s s.ports[p]
        outMsg (updP { s with fresh := s.fresh + 3 } p fun t => { t with setCount := x.iv + 1 })
          (.gaugeSet p x.toLineSet (onLanes s.ports[p] (lineUnit (setImage x))))
      else s) s)

/-- The one-way delay in LCLK: half of the round trip less TURN. Before the partner has echoed a set the last estimate stands
(log entry 27). -/
def oneWay (t : Port) (m : GaugeSet) : Nat :=
  if m.tEcho == 0 then t.gDelay else ((m.tRx.toNat + 2 ^ 48 - m.tEcho.toNat) % 2 ^ 48 - m.turn.toNat) / 2

/-- The source's gauge when the set arrives, in units of 2^−16 tick: LCLK runs at 1,400 MHz, 1,400 to the tick (R345). -/
def setTime (m : GaugeSet) (delay : Nat) : Nat := m.gauge.toNat * 2 ^ 16 + m.phase.toNat + delay * 2 ^ 16 / 1400

/-- GAUGE_SET (R345): a set whose CRC or tag fails is malformed; every accepted set makes the choice again. -/
def execGaugeSet (p : Fin 16) (m : GaugeSet) (s : State) : Res :=
  if s.ports[p].state != .active then .next (if listens s.ports[p] then fecCount s p m.line else s)
  else
    let s := fecCount s p m.line
    if !fecDecodes m.line then .next s
    else if !m.line.crcOk || !(m.tagOk && m.keyEpoch == (s.ports[p].rxEpoch % 2 == 1)) then .next (portMalformed s p)
    else .next (relink (updP s p fun t =>
      let delay := oneWay t m
      let time := setTime m delay
      { t with gValid := true, gDepth := m.depth.toNat, gLost := m.srcLost, gCount := time / 2 ^ 16 % 2 ^ 64
               gSub := time % 2 ^ 16 * 25 / 2 ^ 16, gEpoch := m.epoch.toNat, gTx := m.tTx.toNat, gRx := m.tRx.toNat, gDelay := delay }) (some p))

end Sys2Proof.Machine
end

