-- ==== Sys2Proof/Machine/LinkEvents.lean ====
section
/-! DEFINITION. The life of a Lutiez Link port: its states, training, authentication, sessions, narrowing and quarantine
(R317 to R325, R339 to R342, R347 to R349), the route table (R332), and received DATA flits. -/
namespace Sys2Proof.Machine

/-! ### Widths and lanes (R317, R319) -/

/-- Lanes of a WIDTH code: ×4, ×2, ×1. -/
def widthLanes (c : Nat) : Nat := if c == 0 then 4 else if c == 1 then 2 else if c == 2 then 1 else 0

/-- The allowed width, coded as WIDTH: a higher code is a narrower width. -/
def allowedWidth (s : State) (p : Fin 16) : Nat := max (regField s (offPctl p) 4 2) s.ports[p].narrow

/-- The lanes of a mask, ascending. -/
def lanesOf (m : Nat) : List Nat := (List.range 4).filter fun i => bitAt m i

def maskOf (ls : List Nat) : BitVec 4 := BitVec.ofNat 4 (ls.foldl (fun n i => n ||| 2 ^ i) 0)

/-- The widest width code from `c` on that `n` lanes can form; 3 where none can. -/
def widthFor (c n : Nat) : Nat :=
  if c == 0 && decide (4 ≤ n) then 0 else if decide (c ≤ 1) && decide (2 ≤ n) then 1 else if decide (1 ≤ n) then 2 else 3

/-! ### LINK events (R321, R349) -/

/-- RETRIES and MALFORMED count a window of local time, which the model leaves open up to what the port has counted, in earlier sessions too
(log entry 3). -/
def linkEvent (s : State) (p : Fin 16) (cause old : Nat) : State :=
  let t := s.ports[p]
  let r := Config.freeNat s.fresh % (t.retries + 1)
  let m := Config.freeNat (s.fresh + 1) % (t.malformed + 1)
  let s := { s with fresh := s.fresh + 2 }
  evPush s 0xFF (evRecord s 0x06 0xFF cause 0xFFFFFFFF
    (le4 (p.val + old % 4 * 2 ^ 4 + t.width % 4 * 2 ^ 6 + t.qreason * 2 ^ 8 + t.lanes.toNat * 2 ^ 12 + t.partnerAddr * 2 ^ 16)
      ++ le4 r ++ le4 m))

/-! ### The end of a session (R320, R495) -/

/-- The link logic of the port as a reset leaves it. -/
def portCleared (t : Port) : Port :=
  { t with width := 3, lanes := 0, retraining := false, oldWidth := 3, order := [], authStep := 0, transcript := [], initiator := false, txSeq := 0
           rxSeq := 0, discarding := false, asked := false, retryBuf := [], waiting := [], credits := List.replicate 18 0, shared := 0
           rxUsed := List.replicate 18 0, rxShared := 0, owed := [], partial_ := [], txEpoch := 0, rxEpoch := 0, txCount := 0
           setCount := 0, secret := 0, txKey := 0, rxKey := 0, helloAddr := 0, helloPort := 0, gValid := false, gTx := 0, gRx := 0
           gDelay := 0 }

/-- Packets that wait to leave: the last flit of each is among the waiting ones. -/
def waitingPackets (t : Port) : Nat := (t.waiting.filter fun f => f.ftype == 1 && f.last).length

def portDrops : Nat → State → Fin 16 → State
  | 0, s, _ => s
  | n + 1, s, p => portDrops n (portDrop s p) p

/-- The receive buffers of port p are gone with its session: flits on their way through other ports hold them no more. -/
def forgetBufs (s : State) (p : Fin 16) : State :=
  { s with ports := s.ports.map fun t => { t with waiting := t.waiting.map fun f =>
      { f with buf := f.buf.filter fun b => b.port != p.val } } }

/-- The port leaves for DISABLED, DETECT or QUARANTINE: its link logic is reset; a session ends, with its waiting packets
counted, the buffers they hold elsewhere freed, and its routes lost. -/
def portLeave (s : State) (p : Fin 16) (st : PState) : State :=
  let t := s.ports[p]
  let s := if hasSession t then freeBufs (portDrops (waitingPackets t) s p) (t.waiting.filterMap OutFlit.buf) else s
  let s := updP s p fun t => { portCleared t with state := st }
  if hasSession t then returnCredits (routesLost (gaugePortLeft (forgetBufs s p) p) p) else s

/-- To DETECT, with DOWN where a session ended (R321). -/
def portDown (s : State) (p : Fin 16) : State :=
  let t := s.ports[p]
  let s := portLeave s p .detect
  if hasSession t then linkEvent s p 0x02 t.width else s

/-- To QUARANTINE with a reason (R318, R342). -/
def portQuarantine (s : State) (p : Fin 16) (reason : Nat) : State :=
  let old := s.ports[p].width
  let s := portLeave s p .quarantine
  let s := updP s p fun t => { t with qreason := reason }
  linkEvent (setFlagOnly s (offPerr p) 4) p 0x04 old

/-! ### LNK_Pp_CTL (R318, R342, R347, R348) -/

/-- The clamps of the register, and whether one was needed. -/
def portCtlClamp (v : Nat) : Nat × Bool :=
  let w := if bits v 4 2 == 3 then 0 else bits v 4 2
  let c := if decide (1 ≤ bits v 48 16) && decide (bits v 48 16 ≤ 19) then 20 else bits v 48 16
  (setBits (setBits (setBits (setBits (setBits v 1 3 0) 7 25 0) 4 2 w) 48 16 c) 7 1 0, w != bits v 4 2 || c != bits v 48 16)

/-- A write of LNK_Pp_CTL: EN, RELEASE and the allowed width. A device-fatal error keeps every port DISABLED (R406), and the register takes
the value all the same (R476). A port that enters DETECT has not detected its partner's signal yet (R339). -/
def portCtlWrite (s : State) (p : Fin 16) (v : Nat) : State :=
  if s.phase != .run then s
  else
    let was := regBit s (offPctl p) 0
    let en := bitAt v 0
    let rel := bitAt v 7
    let c := portCtlClamp v
    let s := regPut (if c.2 then rclampInc s else s) (offPctl p) (BitVec.ofNat 64 c.1)
    if s.fatal.isSome then s
    else
    let s := if en && !was then updP s p fun t => { t with narrow := 0 } else s
    if s.ports[p].state == .quarantine then
      if rel then updP s p fun t => { t with state := if en then .detect else .disabled, present := false, narrow := 0, qreason := 0 }
      else s
    else if en && s.ports[p].state == .disabled then updP s p fun t => { t with state := .detect, present := false }
    else if !en && s.ports[p].state != .disabled then portLeave s p .disabled
    else s

def execPortEnable (p : Fin 16) (v : BitVec 64) (s : State) : Res := .next (fromHost s fun s => portCtlWrite s p (setBits v.toNat 0 1 1))
def execPortDisable (p : Fin 16) (v : BitVec 64) (s : State) : Res := .next (fromHost s fun s => portCtlWrite s p (setBits v.toNat 0 1 0))
def execRelease (p : Fin 16) (v : BitVec 64) (s : State) : Res := .next (fromHost s fun s => portCtlWrite s p (setBits v.toNat 7 1 1))

/-! ### LNK_RT (R332, R251) -/

/-- The VALID entries of a table image, by address. -/
def routeEntries (bs : List Byte) : List (Nat × Nat) :=
  ((List.range bs.length).zip bs).filterMap fun e => if bitAt e.2.toNat 7 then some (e.1, bits e.2.toNat 0 4) else none

/-- A load replaces the whole table; one that is read poisoned, or that R245 or R512 refuses, leaves the table in force. A poisoned
one has its ERROR record of cause 0x04, also where the line was poisoned before (R251). -/
def routeLoad (s : State) (addr : Nat) (env : List Finding) : State :=
  if accessRefused s addr != 0 then s
  else
    let c := Chk.read Who.none (Chk.init s env) addr 65536
    match c.stop with
    | none => { c.s with routes := routeEntries (rd c.s addr 65536) }
    | some (.poisoned l) =>
      if linePoisoned s l then
        errEvent c.s Who.none 0x04 1 (if regionOf (64 * l) = .core then 1 else 3) (srcIndex (64 * l)) 0 (ueImage (64 * l))
      else c.s
    | some (.refused _) => c.s

/-- A write of LNK_RT. After a device-fatal error the register takes the value and nothing is loaded (R406, R476). -/
def routeWrite (s : State) (v : Nat) (env : List Finding) : State :=
  if s.phase != .run then s
  else
    let s := regPut s offLnkRt (BitVec.ofNat 64 (bits v 16 48 * 2 ^ 16))
    if bitAt v 0 && s.fatal.isNone then routeLoad s (bits v 16 48 * 2 ^ 16) env else s

def execLnkRtLoad (v : BitVec 64) (env : List Finding) (s : State) : Res :=
  .next (fromHost s fun s => routeWrite s (setBits v.toNat 0 1 1) env)

/-! ### Training (R318, R319) -/

def execSignalDetect (p : Fin 16) (lanes : BitVec 4) (s : State) : Res :=
  .next (if s.ports[p].state == .detect && lanes != 0 then updP s p fun t => { t with present := true, state := .train } else s)

/-- TRAIN ends at the widest width allowed that the locked lanes can form; which of them are used is left open (log entry 19). -/
def execTrainComplete (p : Fin 16) (locked : BitVec 4) (s : State) : Res :=
  if s.ports[p].state != .train then .next s
  else
    let ls := lanesOf locked.toNat
    let w := widthFor (allowedWidth s p) ls.length
    if w == 3 then .next (portDown s p)
    else
      let use := (freeOrder s.fresh ls).take (widthLanes w)
      .next (updP { s with fresh := s.fresh + 4 } p fun t =>
      { t with state := .align, retraining := false, width := w, lanes := maskOf use, lined := true })

/-- The module can prove itself to a partner: its identity key is usable (R425, R448). -/
def canAuth (s : State) : Bool := s.idKey.isSome && !s.unlocked

/-- The firmware digest of a HELLO: SM3 over the digests of measurement indices 3 to 7 (R437). -/
def firmwareDigest (s : State) : Nat := Config.sm3 (s.boot.meas.flatMap (leBytes 32))

/-- The content of a device certificate: serial number, stepping and public key (R435); how X.509 encodes it is left to that standard (log
entry 18). -/
def certBytes (c : DevCert) : List Byte := le8 c.serial.toNat ++ [c.stepping] ++ leBytes 64 c.pub

/-- The chain that SPDM slot 0 and link authentication present: the intermediate's certificate, then the device's (R435). -/
def chainBytes (f : List Byte) (c : DevCert) : List Byte := f ++ certBytes c

/-- The bytes of a HELLO, in the order in which R322 names its fields (log entry 17). -/
def helloBytes (nonce : Nat) (chain : List Byte) (addr port lifecycle bl digest : Nat) : List Byte :=
  leBytes 32 nonce ++ chain ++ leBytes 2 addr ++ leBytes 1 port ++ leBytes 1 lifecycle ++ leBytes 1 bl ++ leBytes 32 digest

def SentHello.bytes (h : SentHello) : List Byte :=
  helloBytes h.nonce (chainBytes h.inter h.cert) h.addr h.port h.lifecycle h.bl h.digest

def helloMsgBytes (m : HelloMsg) : List Byte :=
  helloBytes m.nonce.toNat m.chain m.addr.toNat m.port.toNat m.lifecycle.toNat m.bl.toNat m.digest.toNat

/-- The HELLO of port p (R322), with a fresh nonce. -/
def helloOf (s : State) (p : Fin 16) : SentHello :=
  { nonce := Config.freeNat s.fresh % 2 ^ 256, inter := s.flash.inter, cert := s.flash.cert, addr := s.ports[p].myAddr, port := p.val, lifecycle := lcState s
    bl := s.bl, digest := firmwareDigest s }

/-- A message of AUTH, sent or received, joins the transcript of port p (R322). -/
def joinTranscript (s : State) (p : Fin 16) (bytes : List Byte) : State := updP s p fun t => { t with transcript := t.transcript ++ bytes }

/-- AUTH begins: the link address is taken (R348), no partner is authenticated (R349), and HELLO is sent (R322). -/
def enterAuth (s : State) (p : Fin 16) : State :=
  let s := updP s p fun t =>
    { t with state := .auth, authStep := 0, transcript := [], myAddr := linkAddr s, partnerAddr := 0, partnerPort := 0 }
  if canAuth s then joinTranscript (outMsg (freshen s) (.hello p (helloOf s p))) p (helloOf s p).bytes else s

/-- A port returns from RETRAIN: NARROW where it is narrower than before (R321), with the retries before the count restarts (R340, R349),
and waiting flits go on. -/
def backActive (s : State) (p : Fin 16) : State :=
  let t := s.ports[p]
  let s := updP s p fun t => { t with state := .active, retraining := false, oldWidth := 3 }
  let s := if decide (t.oldWidth < t.width) then linkEvent (setFlagOnly s (offPerr p) 1) p 0x03 t.oldWidth else s
  flush (updP s p fun t => { t with retries := 0 }) p

/-- Lanes in use that the partners agree on, in the order agreed. -/
def agreedLanes (t : Port) (ls : List (Fin 4)) : List Nat := (ls.map Fin.val).eraseDups.filter fun i => bitAt t.lanes.toNat i

/-- ALIGN_COMPLETE (R317, R318, R343): the port goes on at the widest width that the lanes agreed can form, no wider than its own.
Within a session a narrower width lowers the allowed width (R319; log entry 19). -/
def execAlignComplete (p : Fin 16) (ok : Bool) (lanes : List (Fin 4)) (s : State) : Res :=
  let t := s.ports[p]
  let ls := agreedLanes t lanes
  let w := widthFor t.width ls.length
  if t.state != .align then .next s
  else if !ok || w == 3 then .next (portDown s p)
  else
    let use := ls.take (widthLanes w)
    let s := updP s p fun t =>
      { t with width := w, lanes := maskOf use, order := use
               narrow := if t.retraining && decide (t.width < w) then max t.narrow w else t.narrow }
    .next (if t.retraining then backActive s p else enterAuth s p)

def execRetrainComplete (p : Fin 16) (ok : Bool) (s : State) : Res :=
  if s.ports[p].state != .retrain then .next s
  else if !ok then .next (portDown s p)
  else .next (updP s p fun t => { t with state := .align, retraining := true })

/-! ### AUTH (R322, R323) -/

/-- A message of AUTH sent, where the module can prove itself. -/
def sendAuth (s : State) (p : Fin 16) (name : String) (body : List Byte) : State :=
  if canAuth s then joinTranscript (outMsg (freshen s) (.linkMsg p name body)) p body else s

/-- The key-exchange message: a fresh ephemeral public key, and the optional confirmation value (R322). -/
def exchangeBody (s : State) (p : Fin 16) : List Byte :=
  let eph := Config.freeNat s.fresh
  leBytes 64 (Config.sm2Public eph) ++ leBytes 32 (Config.sm2Confirm (s.idKey.getD 0) eph s.ports[p].transcript)

/-- The signature under the identity key over the SM3 hash of every message so far (R322). -/
def signatureBody (s : State) (p : Fin 16) : List Byte :=
  leBytes 64 (Config.sm2Sign (s.idKey.getD 0) (Config.sm3 s.ports[p].transcript) s.fresh)

/-- The partner is rejected on its HELLO (R323): its chain has to end in the root of the boot ROM (R322, R435). -/
def helloRejected (s : State) (p : Fin 16) (m : HelloMsg) : Bool :=
  !m.wellFormed || m.root != some s.romRoot || m.serial == s.flash.cert.serial || m.lifecycle.toNat != lcState s
    || !(lcState s == 0 || lcState s == 2) || (regBit s offLnkAddr 16 && m.bl.toNat != s.bl)
    || m.addr.toNat == s.ports[p].myAddr || s.ports[p].authStep != 0

/-- A LINKMGT flit of AUTH: its line unit is counted, and one that does not decode or whose CRC fails has not arrived (R328, R348). -/
def authLine (s : State) (p : Fin 16) (l : LineCheck) (go : State → State) : State :=
  if s.ports[p].state != .auth then (if listens s.ports[p] then fecCount s p l else s) else if lineOk l then go (fecCount s p l) else fecCount s p l

/-- A HELLO that is accepted: the side with the lower serial number initiates. -/
def takeHello (s : State) (p : Fin 16) (m : HelloMsg) : State :=
  let s := updP s p fun t =>
    { t with authStep := 1, transcript := t.transcript ++ helloMsgBytes m
             initiator := decide (s.flash.cert.serial.toNat < m.serial.toNat), helloAddr := m.addr.toNat, helloPort := m.port.toNat }
  sendAuth s p "KEY_EXCHANGE" (exchangeBody s p)

/-- HELLO. A test-unlocked module has no identity to go on with (R448). -/
def execHello (p : Fin 16) (m : HelloMsg) (s : State) : Res :=
  .next (authLine s p m.line fun s => if helloRejected s p m then portQuarantine s p 1 else takeHello s p m)

/-- A later message at the step that expects it; any other one is out of order. -/
def authMsg (s : State) (p : Fin 16) (m : LinkMsg) (step : Nat) (go : State → State) : State :=
  authLine s p m.line fun s =>
    if !m.wellFormed || !m.ok || s.ports[p].authStep != step then portQuarantine s p 1
    else go (updP s p fun t => { t with authStep := step + 1, transcript := t.transcript ++ m.body })

def execLinkKeyExchange (p : Fin 16) (m : LinkMsg) (s : State) : Res :=
  .next (authMsg s p m 1 fun s => sendAuth s p "TRANSCRIPT_SIGNATURE" (signatureBody s p))

def execTranscriptSignature (p : Fin 16) (m : LinkMsg) (s : State) : Res :=
  .next (authMsg s p m 2 fun s => sendAuth s p "DONE" [])

/-- ACTIVE from AUTH: the partner's full allotment of credits, the keys of the 64 bytes of shared key material, first epochs, the
partner as authenticated, and an UP event (R321, R324, R334); then the count of retries restarts (R340). The first SEQ is 0: a DESIGN CHOICE
(log entry 46), since R328 gives none. -/
def goActive (s : State) (p : Fin 16) : State :=
  let k := Config.freeNat s.fresh
  let key := fun (i : Nat) => bits k (128 * i) 128
  let s := updP (freshen s) p fun t =>
    { t with state := .active, transcript := [], txSeq := 0, rxSeq := 0, discarding := false, asked := false, retryBuf := [], waiting := [], partial_ := []
             credits := List.replicate 18 8, shared := 384, rxUsed := List.replicate 18 0, rxShared := 0, owed := []
             txEpoch := 0, rxEpoch := 0, txCount := 0, setCount := 0, secret := bits k 256 256
             txKey := key (b2n (!t.initiator)), rxKey := key (b2n t.initiator), partnerAddr := t.helloAddr, partnerPort := t.helloPort
             oldWidth := 3 }
  updP (linkEvent s p 0x01 3) p fun t => { t with retries := 0 }

/-- LINKMGT DONE: the exchange is complete where this side has proved itself too. -/
def execLinkmgtDone (p : Fin 16) (m : LinkMsg) (s : State) : Res :=
  .next (authMsg s p m 3 fun s => if canAuth s then goActive s p else s)

/-- KEY_UPDATE received: a new epoch of the partner's direction (R324). In AUTH it is a LINKMGT flit out of order (R323). -/
def execKeyUpdate (p : Fin 16) (f : Flit) (s : State) : Res :=
  match notFlit s p f 4 with
  | some s => .next s
  | none =>
    if s.ports[p].state == .auth then .next (authLine s p f.line fun s => portQuarantine s p 1)
    else match rxSequenced s p f true with
      | .drop s => .next s
      | .accept s => .next (if decide (9 ≤ f.vc.toNat) then portMalformed s p else updP s p fun t =>
          { t with rxEpoch := t.rxEpoch + 1, rxKey := epochKey t.secret t.initiator (t.rxEpoch + 1) })

def execAuthTimeout (p : Fin 16) (s : State) : Res :=
  .next (if s.ports[p].state == .auth then portDown s p else s)

/-! ### Loss, storms, starvation and malformed flits (R319, R340, R341, R347) -/

/-- RETRAIN at these lanes: a narrowing lowers the allowed width (R319). -/
def retrainAt (s : State) (p : Fin 16) (w : Nat) (ls : List Nat) : State :=
  let s := updP s p fun t => { t with state := .retrain, oldWidth := t.width, width := w, lanes := maskOf ls
                                      narrow := if t.width < w then max t.narrow w else t.narrow }
  gaugePortLeft s p

/-- The port goes to DETECT, where it has its partner's signal on one of these lanes or on none (R339). -/
def laneDown (s : State) (p : Fin 16) (ok : List Nat) : State :=
  updP (portDown s p) p fun t => { t with present := t.present && !ok.isEmpty }

/-- LANE_LOSS (R319): at ×4 or ×2 the next narrower width without the lane, on lanes in use where they suffice (log entry 19);
at ×1 the lowest other lane with signal; a port that cannot form the width goes through RETRAIN to DETECT. In AUTH the port goes to DETECT. -/
def execLaneLoss (p : Fin 16) (lane : Fin 4) (signal : BitVec 4) (s : State) : Res :=
  let t := s.ports[p]
  let ok := (lanesOf signal.toNat).filter fun i => i != lane.val
  if !bitAt t.lanes.toNat lane.val then .next s
  else if t.state == .auth then .next (laneDown s p ok)
  else if t.state != .active then .next s
  else
    let w := if t.width == 2 then 2 else t.width + 1
    let ls := if t.width == 2 then ok
      else freeOrder s.fresh (ok.filter fun i => bitAt t.lanes.toNat i) ++
        freeOrder (s.fresh + 4) (ok.filter fun i => !bitAt t.lanes.toNat i)
    let s := { s with fresh := s.fresh + 8 }
    if decide (ls.length < widthLanes w) then .next (laneDown (retrainAt s p w ls) p ok)
    else .next (retrainAt s p w (ls.take (widthLanes w)))

/-- SIGNAL_LOSS (R318, R320): a port that has signal from its partner goes to DETECT. -/
def execSignalLoss (p : Fin 16) (s : State) : Res :=
  let st := s.ports[p].state
  if st == .disabled || st == .quarantine then .next s
  else
    let s := updP s p fun t => { t with present := false }
    .next (if st == .detect then s else portDown s p)

/-- Lanes by errors, then number. -/
def byErrors (errs : List Nat) (ls : List Nat) : List Nat :=
  ls.mergeSort fun a b => decide (errs.getD a 0 < errs.getD b 0) || (errs.getD a 0 == errs.getD b 0 && decide (a ≤ b))

/-- STORM_TH and MAL_TH (R348). -/
def stormTh (s : State) (p : Fin 16) : Nat := let n := regField s (offPctl p) 40 8; if n == 0 then 32 else n
def malTh (s : State) (p : Fin 16) : Nat := let n := regField s (offPctl p) 32 8; if n == 0 then 16 else n

/-- The malformed flits of the window in which a storm is detected: of those that the session has counted, the model leaves open how many
fell into it (log entry 3). -/
def windowMalformed (s : State) (p : Fin 16) : Nat := Config.freeNat s.fresh % (s.ports[p].malformed + 1)

/-- RETRY_STORM (R319, R340, R347): only a port in ACTIVE that has counted more retries than STORM_TH; at ×1 it is
quarantined, else it retrains on the lanes with the fewest errors. With the malformed limit reached in the same window it is
quarantined as MALFORMED. -/
def execRetryStorm (p : Fin 16) (errors : List Nat) (s : State) : Res :=
  let t := s.ports[p]
  if t.state != .active || decide (t.retries ≤ stormTh s p) then .next s
  else if decide (malTh s p < windowMalformed s p) then .next (portQuarantine (freshen s) p 2)
  else if t.width == 2 then .next (portQuarantine s p 3)
  else .next (retrainAt s p (t.width + 1) ((byErrors errors (lanesOf t.lanes.toNat)).take (widthLanes (t.width + 1))))

/-- CREDIT_STARVATION (R340): a flit of the channel waits and holds no credit it may use. -/
def execCreditStarvation (p : Fin 16) (vc : Fin 9) (s : State) : Res :=
  let t := s.ports[p]
  if t.state == .active && t.waiting.any fun f => f.ftype == 1 && f.vc == vc.val && !hasCredit t f then
    .next (portQuarantine (setFlagOnly s (offPerr p) 2) p (if vc.val == 8 then 5 else 4))
  else .next s

/-- MALFORMED_LIMIT (R341): a port in ACTIVE or AUTH that has counted more malformed flits than MAL_TH. -/
def execMalformedLimit (p : Fin 16) (s : State) : Res :=
  let t := s.ports[p]
  .next (if (t.state == .active || t.state == .auth) && decide (malTh s p < t.malformed) then portQuarantine s p 2 else s)

/-! ### DATA flits (R329 to R331, R294, R385) -/

/-- A packet delivered here: a reduction packet goes to its confluence unit, a HALT message to the queue controller. -/
def deliver (s : State) (d : Delivered) (env : List Finding) (accBad : Bool) : State :=
  if d.cls == 1 then
    deliverReduction s d.port d.src (if fieldAt d.body 0 4 0 4 == 2 then d.dport else d.port.val) d.body env accBad
  else if d.cls == 2 then applyHaltMsg s d.port d.body
  else s

/-- DATA_FLIT: the checks of R329, then the packet it completes, then the credits of the buffers that it has freed. -/
def execDataFlit (p : Fin 16) (f : Flit) (env : List Finding) (accBad : Bool) (s : State) : Res :=
  let x := rxData s p f
  match x.2 with
  | some d => .next (returnCredits (deliver x.1 d env accBad))
  | none => .next (returnCredits x.1)

/-- The oldest packet that the module has sent to itself is delivered (R331; log entry 48). -/
def deliverLooped (s : State) : State :=
  match s.looped with
  | [] => s
  | x :: r => deliverPkt { s with looped := r } x.src x.port x.pkt [] false

/-- What a step does while no command waits (log entries 4 and 24): the oldest packet to the module itself arrives, and without one the
trace queues drain and their DROP records are written. -/
def idle (s : State) : State := if s.looped.isEmpty then settleTraces s else deliverLooped s

end Sys2Proof.Machine
end

