-- ==== Sys2Proof/Machine/Images.lean ====
section
/-! DEFINITION. The 64-bit images of the BAR0 registers (R474, R478, R496, R497), and which offsets a register occupies. -/
namespace Sys2Proof.Machine

/-- A Bool list as a mask, element 0 at bit 0. -/
def maskBits (bs : List Bool) : Nat := bs.foldr (fun b n => b2n b + 2 * n) 0

/-! ### Images of the MR registers -/

/-- GLB_STAT (R496). -/
def glbStat (s : State) : Nat := s.resetCause * 2 ^ 4 + b2n (s.phase == .run) * 2

/-- The six engines of core c in service, and their spares in use (R33, R102). -/
def engInsv (s : State) (c : Nat) : Nat := maskBits ((List.range 6).map fun k => s.inService.toList.getD (6 * c + k) false)
def engSpare (s : State) (c : Nat) : Nat := maskBits ((List.range 6).map fun k => s.fuses.toList.getD (6 * c + k) 16 != 16)

/-- GLB_ENGSTn (R33). -/
def glbEngst (s : State) (n : Nat) : Nat :=
  ((List.range 4).map fun q => (engInsv s (4 * n + q) + engSpare s (4 * n + q) * 2 ^ 6) * 2 ^ (16 * q)).foldl (· + ·) 0

def qCode : QState → Nat
  | .disabled => 0 | .running => 1 | .stopped => 2 | .halted => 3

/-- QUE_Qn_STAT (R389). -/
def qStat (s : State) (q : Fin 32) : Nat :=
  let u := s.queues[q]
  qCode u.state + b2n (!u.active.isEmpty) * 2 ^ 3 + u.clamps * 2 ^ 8 + u.head.toNat * 2 ^ 32

/-- QUE_EVSTAT (R389). -/
def evStat (s : State) : Nat := (s.events.length % 1024) * 2 ^ 6 + s.evLost * 2 ^ 16 + (s.evTail % 2 ^ 32) * 2 ^ 32

/-- QUE_TOKm: counters 2m and 2m + 1. -/
def tokImage (s : State) (m : Nat) : Nat :=
  (s.tokens.toList.getD (2 * m) 0).toNat + (s.tokens.toList.getD (2 * m + 1) 0).toNat * 2 ^ 32

/-- SUBTICK: the edges of GAUGE_REF since the sub-tick was last known have no command of their own; how many have passed before the next
wrap of a locked input is left open, as is the sub-tick without one, whose wraps no command of a link or of free running tells, once a
source has been followed or an edge has come (R378; log entry 3). -/
def subtickNow (s : State) : Nat :=
  let g := s.gauge
  let lo := if g.src == 0 && g.refOk then g.subtick else 0
  if g.src == 3 && !g.refOk && g.refTicks == 0 then g.subtick else lo + Config.freeNat s.fresh % (25 - lo)

/-- GAU_STAT (R390). -/
def gauStat (s : State) : Nat :=
  let g := s.gauge
  b2n g.locked * 2 + b2n (g.refOk && cabEn s) * 2 ^ 2 + b2n g.holding.isSome * 2 ^ 3 + g.src * 2 ^ 4 + subtickNow s * 2 ^ 8 + g.epoch * 2 ^ 32

/-- MEM_STAT (R271). -/
def memStat (s : State) : Nat := b2n s.t3key.isSome * 2 + b2n s.t1Init * 2 ^ 2 + b2n s.t2Init * 2 ^ 3

def pCode : PState → Nat
  | .disabled => 0 | .detect => 1 | .train => 2 | .align => 3 | .auth => 4 | .active => 5 | .retrain => 6 | .quarantine => 7

/-- LNK_Pp_STAT (R348). -/
def portStat (s : State) (p : Fin 16) : Nat :=
  let t := s.ports[p]
  pCode t.state + allowedWidth s p * 2 ^ 23 + b2n t.present * 2 ^ 25 + t.width * 2 ^ 26 + t.qreason * 2 ^ 28 + t.lanes.toNat * 2 ^ 32
    + t.partnerPort * 2 ^ 44 + t.partnerAddr * 2 ^ 48

/-- LNK_Pp_CNT (R348): what the flits and sets of the commands have counted, and the IDLE sets between them, which have no command and are
left open (R344; log entry 46). -/
def portCnt (s : State) (p : Fin 16) : Nat :=
  let t := s.ports[p]
  let n := fun (x k : Nat) => if t.lined then min (x + ticksFrom p.val k 0 s.fresh) 0xFFFFFFFF else x
  n t.fecFail 200 + n t.fecCorr 340 * 2 ^ 32

/-- LNK_MSTAT (R348). -/
def lnkMstat (s : State) : Nat := b2n (s.gauge.src == 1) * 2 ^ 4 + s.gauge.depth * 2 ^ 5 + s.gauge.port * 2 ^ 8

/-- CFL_GRPn_STAT (R279). -/
def grpStat (s : State) (n : Fin 8) : Nat :=
  let g := s.groups[n]
  b2n g.armed + g.fault * 2 ^ 16 + g.faultIdx * 2 ^ 19 + g.crc * 2 ^ 32

/-- CFL_STAT (R312). -/
def cflStat (s : State) : Nat := maskBits (s.groups.toList.map Group.armed) + b2n (cflBusy s) * 2 ^ 8

/-- PRC_EDDY_STAT (R138). -/
def eddyStat (s : State) : Nat := maskBits s.eddyLoaded.toList

/-- UPD_PSTAT (R230). -/
def updPstat (s : State) : Nat := maskBits (s.programs.toList.map fun p => !p.isEmpty)

/-- The active owner-key slot: the latest one written and not revoked (R444). -/
def ownerActive (s : State) : Option Nat :=
  ((List.range 4).filter fun i => match s.otp.owners[i]? with
    | some o => o.digest.isSome && !o.revoked
    | none => false).getLast?

/-- SEC_LC (R451). -/
def secLc (s : State) : Nat :=
  lcState s + b2n s.idKey.isSome * 2 ^ 3 + (15 - s.otp.lc.length) * 2 ^ 12 + s.otp.tamper * 2 ^ 16 + (ownerActive s).getD 0xF * 2 ^ 20
    + maskBits (s.otp.owners.map fun o => o.digest.isSome) * 2 ^ 24 + maskBits (s.otp.owners.map OwnerSlot.revoked) * 2 ^ 28

/-! ### The header of an image (R428) -/

def imgMagic (m : Image) : Nat := fieldAt m.header 0x000 4 0 32
def imgSvn (m : Image) : Nat := fieldAt m.header 0x004 4 0 16
def imgBl (m : Image) : Nat := fieldAt m.header 0x004 4 16 8
def imgBind (m : Image) : Nat := fieldAt m.header 0x008 8 0 64
def imgOffset (m : Image) (i : Nat) : Nat := fieldAt m.header (0x010 + 8 * i) 4 0 32
def imgLength (m : Image) (i : Nat) : Nat := fieldAt m.header (0x014 + 8 * i) 4 0 32
def imgDigest (m : Image) (i : Nat) : Nat := fieldAt m.header (0x040 + 32 * i) 32 0 256
def imgSig (m : Image) : Nat := fieldAt m.header 0x0C0 64 0 512
def imgOwnerSig (m : Image) : Nat := fieldAt m.header 0x100 64 0 512
def imgCertLen (m : Image) : Nat := fieldAt m.header 0x140 4 0 32
def imgCert (m : Image) : List Byte := (m.header.drop 0x200).take (imgCertLen m)

/-- CERT holds a certificate inside the header that chains to this root. -/
def imgChains (m : Image) (root : Nat) : Bool :=
  !(imgCert m).isEmpty && decide (0x200 + imgCertLen m ≤ 0x1000) && m.root == some root

/-- SIG holds a signature that verifies. -/
def imgSigned (m : Image) : Bool := imgSig m != 0 && m.sigOk

/-- The owner key under which OWNER_SIG verifies; an absent one is zero. -/
def imgOwner (m : Image) : Option (BitVec 256) := if imgOwnerSig m == 0 then none else m.owner

/-- SVN of the running image; 0 while none runs. -/
def runningSvn (s : State) : Nat := (s.boot.image.map imgSvn).getD 0

/-- SEC_BOOT (R452). -/
def secBoot (s : State) : Nat :=
  let b := s.boot
  b2n b.slotB + b2n b.fallback * 2 + b2n b.ownerSig * 2 ^ 2 + b.romStatus * 2 ^ 8
    + runningSvn s * 2 ^ 16 + s.otp.svnFloor * 2 ^ 32

/-- OBS_STAT (R472). -/
def obsStat (s : State) : Nat :=
  b2n s.snap.armed.isSome * 2 + b2n s.snap.done * 2 ^ 2 + maskBits (s.cores.toList.map fun c => c.trace.frozen) * 2 ^ 16

/-- OBS_TSTAT (R473). -/
def tStat (s : State) (c : Fin 16) : Nat :=
  let k := s.cores[c]
  k.trace.wptr + b2n k.trace.frozen * 2 ^ 16 + b2n k.trace.triggered * 2 ^ 17 + b2n k.evPend * 2 ^ 18 + k.trace.spilled % 2 ^ 32 * 2 ^ 32

/-- ERR_STATE (R412, R418). -/
def errState (s : State) : Nat :=
  b2n s.jobFatal * 2 + b2n (s.groups.toList.any fun g => g.armed && g.bf16) * 2 ^ 2 + b2n (regBit s offDegrade 0) * 2 ^ 3
    + engCount s * 2 ^ 16

/-- ERR_FATAL (R421). -/
def errFatal (s : State) : Nat :=
  match s.fatal with
  | none => 0
  | some f => 1 + f.cause * 2 ^ 16 + (f.info % 2 ^ 32) * 2 ^ 32

/-- CLK_STAT (R496): every loop locked. -/
def clkStat (s : State) : Nat := s.power.inForce * 2 ^ 2 + 0xFF * 2 ^ 4

/-- CFG_SWEEP (R485). -/
def cfgSweep (s : State) : Nat := (s.cfg.sweeps % 2 ^ 16) * 2 ^ 16 + s.cfg.cur * 2 ^ 32

/-- MBX_VALID (R480). -/
def mbxValid (s : State) : Nat :=
  b2n s.mbx.valid + b2n s.mbx.pend * 2 + b2n s.mbx.absent * 2 ^ 2 + s.mbx.tag.toNat * 2 ^ 16

/-- ARR_FUSE and ARR_BIST of core c (R103, R104). -/
def arrFuse (s : State) (c : Nat) : Nat :=
  ((List.range 6).map fun k => s.fuses.toList.getD (6 * c + k) 16 * 2 ^ (5 * k)).foldl (· + ·) 0
def arrBist (s : State) (c : Nat) : Nat :=
  ((List.range 6).map fun k => let b := s.bist.toList.getD (6 * c + k) 0x1F; (b + b2n (b != 0x1F) * 2 ^ 7) * 2 ^ (8 * k)).foldl (· + ·) 0

/-! ### SU registers: writable bits (R12, R476) -/

/-- Bits `[lo + w - 1 : lo]` as a mask. -/
def fieldMask (lo w : Nat) : Nat := (2 ^ w - 1) * 2 ^ lo

/-- The bits that an SU register keeps, by offset within its block; none where no SU register lies. -/
def suMaskGlobal (off : Nat) : Option Nat :=
  if off = offQev then some (fieldMask 12 52 + fieldMask 0 6)
  else if off = offJobseed then some (fieldMask 0 64)
  else if off = offGauCtl then some 1
  else if off = offQos then some (fieldMask 0 48)
  else if off = offT3Base then some (fieldMask 12 52 + 1)
  else if off = offT3Size then some (fieldMask 0 16)
  else if off = offT3Tag then some (fieldMask 12 52)
  else if off = offHdm then some (fieldMask 16 32 + 1)
  else if off = offLnkAddr then some (fieldMask 0 17)
  else if off = offLnkRt then some (fieldMask 16 48)
  else if off = offGctl then some (fieldMask 0 2)
  else if off = offObsCtl then some (fieldMask 0 18)
  else if off = 0x090008 then some (fieldMask 0 64)
  else if off = 0x090010 then some (fieldMask 0 64)
  else if off = 0x090018 then some (fieldMask 0 6)
  else if off = offErrCtl then some (fieldMask 0 7)
  else if off = offDegrade then some (fieldMask 0 3)
  else if off = offStepreq then some (fieldMask 8 7 + fieldMask 0 2)
  else if off = offCfgCtl then some (fieldMask 0 2)
  else if off = offCfgRef then some (fieldMask 0 32)
  else if off = offGlbRst then some 0
  else none

def suMask (off : Nat) : Option Nat :=
  if 0x010000 ≤ off ∧ off < 0x010400 then
    (match off % 0x20 with
     | 0x00 => some (fieldMask 12 52 + fieldMask 0 5)
     | 0x08 => some (fieldMask 12 52 + fieldMask 0 5)
     | 0x10 => some (fieldMask 32 32 + fieldMask 3 3 + 1)
     | _ => none)
  else if 0x040000 ≤ off ∧ off < 0x050000 ∧ off % 0x1000 = 0 then some (fieldMask 32 32 + fieldMask 4 3 + 1)
  else if 0x050000 ≤ off ∧ off < 0x050200 then
    (match off % 0x40 with
     | 0x00 => some (fieldMask 48 16 + fieldMask 32 7 + fieldMask 16 13 + fieldMask 4 12 + 7)
     | 0x08 => some (fieldMask 3 61)
     | 0x10 => some (fieldMask 0 45)
     | _ => none)
  else if 0x100000 ≤ off ∧ off < 0x500000 then
    (match off % 0x40000 with
     | 0x1000 => some (fieldMask 48 16 + fieldMask 16 2 + fieldMask 0 5)
     | 0x1008 => some (fieldMask 55 1 + fieldMask 49 5 + fieldMask 0 48)
     | 0x1010 => some (fieldMask 0 56)
     | 0x1018 => some (fieldMask 20 44 + fieldMask 0 16)
     | _ => none)
  else suMaskGlobal off

/-- The flag bits of a W1C register; none where no W1C register lies. -/
def w1cFlags (off : Nat) : Option Nat :=
  if off = offGauFlags then some 0xF
  else if off = offEccstat then some 0x7
  else if off = offCflEvstat then some 0x7F
  else if off = offCflEvcnt then some 0
  else if off = offRplstat then some 0x3
  else if off = offUpdStat then some 0x7
  else if off = 0x080010 then some 0x1F
  else if off = offErrStat then some 0x1F
  else if off = offCfg then some 0x1
  else if 0x040000 ≤ off ∧ off < 0x050000 ∧ off % 0x1000 = 0x10 then some 0x3F
  else if 0x100000 ≤ off ∧ off < 0x500000 then
    (match off % 0x40000 with
     | 0x210 => some 0x3
     | 0x218 => some 0xF
     | 0x220 => some 0
     | 0x1028 => some 0x1
     | _ => none)
  else none

/-! ### Objects of several registers (R460, R482) -/

def img (n : Nat) : List Byte := le8 n
def regImg (s : State) (off : Nat) : List Byte := le8 (regGet s off).toNat

def tokensBytes (s : State) (lo n : Nat) : List Byte :=
  (List.range n).flatMap fun i => le4 (s.tokens.toList.getD (lo + i) 0).toNat

def portObjs (s : State) (p : Fin 16) : List Byte := img (portStat s p) ++ regImg s (offPerr p) ++ img (portCnt s p)

/-- The sections of a snapshot (R460). -/
def snapModule (s : State) : List Byte :=
  (List.range 4).flatMap (fun n => img (glbEngst s n)) ++ img (errState s) ++ img s.gauge.count ++ img (gauStat s) ++ img (lnkMstat s)

/-- Active banks. -/
def snapActive (s : State) : List Byte :=
  (List.finRange 16).flatMap fun (c : Fin 16) => activeImage s c

def snapFrozen (s : State) : List Byte := (List.finRange 16).flatMap fun (c : Fin 16) => bankImage s.cores[c].frozen false
def snapQueues (s : State) : List Byte := (List.finRange 32).flatMap (fun q => img (qStat s q)) ++ tokensBytes s 0 256
def snapPorts (s : State) : List Byte := (List.finRange 16).flatMap (portObjs s)

/-- STATUS: the three registers of each core in turn, then the module's (log entry 28). -/
def snapStatus (s : State) : List Byte :=
  (List.range 16).flatMap (fun c => regImg s (offTblerr c) ++ regImg s (offAccstat c) ++ regImg s (offAccpsn c)) ++
  [offRplstat, offUpdStat, offEccstat, offCflEvstat, offCflEvcnt, offErrStat, offGauFlags, 0x080010].flatMap (regImg s)

/-- A whole snapshot (R460): header and the sections that SELECT names. -/
def snapBytes (s : State) (select idx queue : Nat) (jumped : Bool) : List Byte :=
  let sec := fun (i : Nat) (f : State → List Byte) => if bitAt select i then f s else []
  let body := sec 0 snapModule ++ sec 1 snapActive ++ sec 2 snapFrozen ++ sec 3 snapQueues ++ sec 4 snapPorts ++ sec 5 snapStatus
  le4 (select % 64) ++ le4 (64 + body.length) ++ le8 s.gauge.count ++ le4 idx ++ le4 (queue + b2n jumped * 2 ^ 8) ++ List.replicate 40 0
    ++ body

/-- The object that a mailbox selector names (R462, R482), before it is padded to 64 bytes; none when it names nothing. -/
def mbxObject (s : State) (sel : Nat) : Option (List Byte) :=
  if sel = 0x01 then some (img s.gauge.count ++ img (gauStat s))
  else if sel = 0x02 then some (img 0x09601FD7 ++ img s.serial.toNat ++ img s.stepping.toNat ++ img s.bl)
  else if 0x10 ≤ sel ∧ sel < 0x20 then some (tokensBytes s (16 * (sel - 0x10)) 16)
  else if h : 0x40 ≤ sel ∧ sel < 0x48 then
    let n : Fin 8 := ⟨sel - 0x40, by omega⟩
    some (regImg s (offGrpCtl n) ++ regImg s (offGrpTbl n) ++ regImg s (offGrpStart n) ++ img (grpStat s n))
  else if h : 0x60 ≤ sel ∧ sel < 0x70 then some (portObjs s ⟨sel - 0x60, by omega⟩)
  else if sel = 0xF0 then some (regImg s offCfgCtl ++ regImg s offCfgRef ++ img (cfgSweep s) ++ regImg s offCfg)
  else if h : 0x100 ≤ sel ∧ sel < 0x110 then some (activeImage s ⟨sel - 0x100, by omega⟩)
  else if h : 0x200 ≤ sel ∧ sel < 0x210 then some (bankImage s.cores[(⟨sel - 0x200, by omega⟩ : Fin 16)].frozen false)
  else if 0x400 ≤ sel ∧ sel ≤ 0x442 then some ((s.snap.buf.drop (64 * (sel - 0x400))).take 64)
  else if h : 0x10000 ≤ sel ∧ sel < 0x90000 then
    let c : Fin 16 := ⟨(sel - 0x10000) / 0x8000, by omega⟩
    let j := (sel - 0x10000) % 0x8000
    let t := s.cores[c].trace
    let slot := fun i => getCell (fun _ => List.replicate 32 (0 : Byte)) i t.slots
    some (if t.frozen then slot (2 * j) ++ slot (2 * j + 1) else [])
  else none

end Sys2Proof.Machine
end

