-- ==== Sys2Proof/Machine/Observation.lean ====
section
/-! DEFINITION. Snapshots (R459 to R461), the trace and counter controls of the cores (R458, R466, R468, R472, R473) and the
mailbox (R480 to R482). -/
namespace Sys2Proof.Machine

/-! ### SNAP (R459, R460) -/

def snapDst (d : Desc) : Nat := fieldAt d 0x28 8 0 64
def snapSelect (d : Desc) : Nat := fieldAt d 0x30 4 0 32
def snapAt (d : Desc) : Nat := fieldAt d 0x38 8 0 64

/-- SNAP descriptors that run: each holds one of the four latch sets (R459). -/
def runningSnaps (s : State) : Nat :=
  s.queues.toList.foldl (fun n u => n + (u.active.filter fun c => match c.work with
    | .snap _ _ _ _ => true
    | _ => false).length) 0

/-- SNAP starts once one of the four latch sets is free. -/
def execSnap (q : Fin 32) (env : List Finding) (s : State) : Res :=
  .next (startAlone s q env (fun s d => dKind d == 10 && decide (runningSnaps s < 4)) fun c d n =>
    startCmd c.s q d n fun x => { x with work := .snap (snapDst d) (snapSelect d) (snapAt d) false })

/-- The tick of a snapshot is reached: AT 0 or already passed latches at once. -/
def snapDue (s : State) (tick : Nat) : Bool := tick == 0 || decide (tick ≤ s.gauge.count)

/-- The running SNAP of a queue latches, writes its snapshot and completes; a destination that R245 or R512 refuses makes it a
contained error. While an event record of it waits for an entry it completes no further (R354). -/
def execSnapLatch (q : Fin 32) (s : State) : Res :=
  match s.queues[q].active with
  | [] => .next s
  | c :: _ =>
    match c.work with
    | .snap dst select tick jumped =>
      if !snapDue s tick || evBlocked s q || !inService s then .next s
      else
        let bytes := snapBytes s select c.idx.toNat q.val jumped
        let k := Chk.writeOpen (whoOf q c.idx c.desc) { s with fresh := s.fresh + 144 } [(dst, bytes.length)]
        let s := addClamps (popCmd k.s q) q (b2n k.unbacked)
        let c := { c with clamped := c.clamped || k.unbacked, work := .plain }
        let x := { c with writes := [⟨dst, bytes, .data⟩], dests := [(dst, bytes.length)] }
        .next (if k.stop.isSome then containCmd s q c
          else if evBlocked s q then updQ s q fun u => { u with active := x :: u.active } else doneCmd s q x)
    | _ => .next s

/-! ### The mailbox snapshot (R461) -/

def offSnapAt : Nat := 0x090010
def offSnapSel : Nat := 0x090018
def offMark : Nat := 0x090008

/-- A write of OBS_SNAPSEL. -/
def snapselWrite (s : State) (v : Nat) : State :=
  let s := regPut s offSnapSel (BitVec.ofNat 64 (bits v 0 6))
  if bitAt v 32 then
    { s with snap := { s.snap with armed := some ((regGet s offSnapAt).toNat, bits v 0 6, false), done := false } }
  else s

def execObsSnapselArm (v : BitVec 64) (s : State) : Res :=
  .next (fromHost s fun s => if s.phase == .run then snapselWrite s (setBits v.toNat 32 1 1) else s)

/-- MAILBOX_SNAPSHOT_LATCH: the buffer of 4,288 bytes takes the snapshot. -/
def execMailboxSnapshotLatch (s : State) : Res :=
  match s.snap.armed with
  | none => .next s
  | some (tick, select, jumped) =>
    .next (if s.phase == .run && snapDue s tick then
        { s with fresh := s.fresh + 144
                 snap := { armed := none, done := true, buf := padTo 4288 (snapBytes s select 0xFFFFFFFF 0xFF jumped) } }
      else s)

/-! ### Trace and counter controls (R458, R466, R468, R473) -/

/-- A plain SU store: only the register's own bits are kept (R12, R476). -/
def suStore (s : State) (off v : Nat) : State := regPut s off (BitVec.ofNat 64 (v &&& (suMask off).getD 0))

/-- OBS_TCTL: RESUME unfreezes the buffer, which goes on from WPTR; a queue that may drain now does. -/
def tctlWrite (s : State) (c : Fin 16) (v : Nat) : State :=
  let s := suStore s (offTctl c) v
  let s := if bitAt v 18 then updTrace s c fun t => { t with frozen := false, triggered := false, post := none } else s
  settleTrace s c

def execResume (c : Fin 16) (v : BitVec 64) (s : State) : Res :=
  .next (fromHost s fun s => if s.phase == .run then tctlWrite s c (setBits v.toNat 18 1 1) else s)

/-- OBS_TRIG: SW fires the trigger that the write leaves armed. -/
def trigWrite (s : State) (c : Fin 16) (v : Nat) : State :=
  let s := suStore s (offTrig c) v
  if bitAt v 54 then triggerSw s c else s

def execObsTrigSw (c : Fin 16) (v : BitVec 64) (s : State) : Res :=
  .next (fromHost s fun s => if s.phase == .run then trigWrite s c (setBits v.toNat 54 1 1) else s)

/-- OBS_MARK: a MARK record in every enabled buffer; a frozen one discards it (R466, R471). -/
def markWrite (s : State) (v : Nat) : State := traceAll (suStore s offMark v) 0x1C 6 0 Who.none v

def execMark (v : BitVec 64) (s : State) : Res := .next (fromHost s fun s => if s.phase == .run then markWrite s v.toNat else s)

/-- OBS_EVSEL: accepted at once, pending until the core's next swap (R458). -/
def evselWrite (s : State) (c : Fin 16) (v : Nat) : State :=
  updCore (suStore s (offEvsel c) v) c fun k => { k with evPend := true }

def execObsEvsel (c : Fin 16) (v : BitVec 64) (s : State) : Res :=
  .next (fromHost s fun s => if s.phase == .run then evselWrite s c v.toNat else s)

/-! ### The mailbox (R480, R481) -/

/-- The MBX block answers (R432, R494). -/
def mbxAnswers (s : State) : Bool := s.phase == .zeroing || s.phase == .run

def mbxSelWrite (s : State) (v : Nat) : State :=
  if s.mbx.pend then rclampInc s else { s with mbx := { s.mbx with sel := BitVec.ofNat 32 v } }

/-- A request: VALID clears, PEND sets, and the 64 bytes are captured. -/
def mbxReqWrite (s : State) (v : Nat) : State :=
  if s.mbx.pend then rclampInc s
  else
    let o := mbxObject s s.mbx.sel.toNat
    { s with fresh := s.fresh + 9
             mbx := { s.mbx with reqTag := BitVec.ofNat 16 v, valid := false, pend := true, absent := o.isNone
                                 capture := padTo 64 (o.getD []) } }

def execMbxReq (v : BitVec 64) (s : State) : Res := .next (fromHost s fun s => if mbxAnswers s then mbxReqWrite s v.toNat else s)

/-- The capture reaches DATA0 to DATA7; VALID sets with the TAG and PEND clears. -/
def execMailboxCaptureComplete (s : State) : Res :=
  .next (if s.mbx.pend then
      { s with mbx := { s.mbx with data := s.mbx.capture, tag := s.mbx.reqTag, valid := true, pend := false } }
    else s)

end Sys2Proof.Machine
end

