-- ==== Sys2Proof/Machine/Queue.lean ====
section
/-! DEFINITION. Commands of the queue family without data of their own: NOP, FENCE, WAIT_GAUGE, SIGNAL (R357, R365 to
R367, R372, R382), the doorbells (R352 to R356) and the event ring (R354). -/
namespace Sys2Proof.Machine

def isKind (k : Nat) : State → Desc → Bool := fun _ d => dKind d == k

/-- A command that starts and completes in one step (NOP, SIGNAL). While an event record of it waits for an entry it waits too
(R354). -/
def startDone (s : State) (q : Fin 32) (d : Desc) (clamps : Nat) (f : Cmd → Cmd) : State :=
  let c := f (mkCmd s.queues[q].head d (decide (0 < clamps)))
  let s := addClamps (updQ s q fun u => { u with head := u.head + 1 }) q clamps
  if evBlocked s q then updQ s q fun u => { u with active := u.active ++ [c] } else doneCmd s q c

/-- NOP: no effect beyond its completion record (R357). -/
def execNop (q : Fin 32) (env : List Finding) (s : State) : Res :=
  .next (startAlone s q env (isKind 0) fun c d n => startDone c.s q d n id)

/-- The queues of QMASK and the ring index of the descriptor last started on each that still runs (R372). -/
def fenceWaits (s : State) (mask : Nat) : List (Nat × Nat) :=
  (List.finRange 32).filterMap fun k =>
    if bitAt mask k.val then (s.queues[k].active.getLast?).map fun c => (k.val, c.idx.toNat) else none

/-- FENCE starts (R372). -/
def execFence (q : Fin 32) (env : List Finding) (s : State) : Res :=
  .next (startAlone s q env (isKind 5) fun c d n =>
    startCmd c.s q d n fun x => { x with work := .fence (fenceWaits c.s (fieldAt d 0x28 4 0 32)) })

/-- WAIT_GAUGE starts (R382). -/
def execWaitGauge (q : Fin 32) (env : List Finding) (s : State) : Res :=
  .next (startAlone s q env (isKind 6) fun c d n =>
    startCmd c.s q d n fun x => { x with work := .waitGauge (fieldAt d 0x28 8 0 64) })

/-- The running WAIT_GAUGE completes at the first edge at or beyond TICK (R382). -/
def execWaitGaugeTick (q : Fin 32) (s : State) : Res :=
  match s.queues[q].active with
  | [] => .next s
  | c :: _ =>
    match c.work with
    | .waitGauge t => .next (if decide (t ≤ s.gauge.count) && !evBlocked s q then doneCmd (popCmd s q) q c else s)
    | _ => .next s

/-- SET of a SIGNAL (R365). -/
def signalSetBit (d : Desc) : Bool := bitAt (fieldAt d 0x28 4 0 32) 8

/-- The body of a SIGNAL: the counter change and the DATA write at completion (R365, R367). Bits [2:0] of ADDR count as a clamp
whatever WR_EN says (R387). A DATA write that R245
or R512 refuses ends the SIGNAL as a contained error. -/
def signalBody (q : Fin 32) (c : Chk) (d : Desc) (n : Nat) : State :=
  let wrEn := bitAt (fieldAt d 0x28 4 0 32) 9
  let raw := fieldAt d 0x30 8 0 64
  let bad := raw % 8 != 0
  let addr := raw / 8 * 8
  let w := whoOf q c.s.queues[q].head d
  let c := if wrEn then Chk.write w c addr 8 else c
  let n := n + b2n bad + b2n c.unbacked
  let work := Work.signal (fieldAt d 0x28 1 0 8) (signalSetBit d) (BitVec.ofNat 32 (fieldAt d 0x2C 4 0 32))
  match c.stop with
  | none =>
    startDone c.s q d n fun x =>
      { x with work := work, writes := if wrEn then [⟨addr, le8 (fieldAt d 0x38 8 0 64), .data⟩] else [] }
  | some _ =>
    let i := c.s.queues[q].head
    let s := addClamps (updQ c.s q fun u => { u with head := u.head + 1 }) q n
    containCmd s q (mkCmd i d (decide (0 < n)))

/-- SIGNAL with SET 0 (R367). -/
def execSignalAdd (q : Fin 32) (env : List Finding) (s : State) : Res :=
  .next (startAlone s q env (fun _ d => dKind d == 7 && !signalSetBit d) (signalBody q))

/-- SIGNAL with SET 1 (R367). -/
def execSignalSet (q : Fin 32) (env : List Finding) (s : State) : Res :=
  .next (startAlone s q env (fun _ d => dKind d == 7 && signalSetBit d) (signalBody q))

/-! ### Doorbells -/

/-- BAR2 writes are taken: they reach the module (R511), it is in service (R494, R406) and the queue is not DISABLED (R356). -/
def doorbellOpen (s : State) (q : Fin 32) : Bool := ioOk s && inService s && s.queues[q].state != .disabled

/-- SQ_TAIL (R352): ignored and counted when more than the SQ size beyond the oldest uncompleted index, or behind the
last tail written. -/
def execSqTail (q : Fin 32) (v : BitVec 32) (s : State) : Res :=
  if !doorbellOpen s q then .next s
  else
    let u := s.queues[q]
    let ahead := (v - u.oldest).toNat
    if decide (sqSize s q < ahead) || decide (ahead < (u.tail - u.oldest).toNat) then .next (addClamps s q 1)
    else .next (updQ s q fun u => { u with tail := v })

/-- CQ_HEAD (R353): ignored and counted beyond the count written back, or behind the last head written. -/
def execCqHead (q : Fin 32) (v : BitVec 32) (s : State) : Res :=
  if !doorbellOpen s q then .next s
  else
    let u := s.queues[q]
    if decide ((BitVec.ofNat 32 u.cqCount - u.cqHead).toNat < (v - u.cqHead).toNat) then .next (addClamps s q 1)
    else .next (updQ s q fun u => { u with cqHead := v })

/-- EV_HEAD (R354): likewise; an ignored write counts in QUE_RCLAMP (R387). -/
def execEvHead (v : BitVec 32) (s : State) : Res :=
  if !(ioOk s && inService s) then .next s
  else
    let diff := (v - BitVec.ofNat 32 s.evHead).toNat
    if decide (s.evTail - s.evHead < diff) then .next (rclampInc s)
    else .next { s with evHead := s.evHead + diff }

/-! ### The event ring -/

def evSize (s : State) : Nat := 2 ^ regField s offQev 0 5
def evBase (s : State) : Nat := regField s offQev 12 52 * 4096

/-- The slot of the next event record, and the place of the write-back of the count (R351). -/
def evSlotOf (s : State) : Nat := (evBase s + 64 * (s.evTail % evSize s)) % 2 ^ 64
def evTailOf (s : State) : Nat := (evBase s + 64 * evSize s) % 2 ^ 64

/-- Records waiting for an entry take it in order (R354). -/
def evAdmit (s : State) : State :=
  match s.evWait with
  | [] => s
  | e :: r => if decide (s.events.length < 512) then { s with events := s.events ++ [e], evWait := r } else s

/-- The oldest held record is written once the ring is enabled and has room; then the count, then vector 32
(R351, R354, R355). In the state after a device-fatal error memory takes no write (R406). -/
def writeEvent (s : State) : State :=
  match s.events with
  | [] => s
  | e :: r =>
    if s.phase == .run && s.fatal.isNone && regBit s offQev 5 && decide (s.evTail - s.evHead < evSize s)
        && accessRefused s (evSlotOf s) == 0 && accessRefused s (evTailOf s) == 0 then
      let t := wrNoted (evAdmit { s with events := r }) (evSlotOf s) e.bytes
      raise (wrNoted { t with evTail := s.evTail + 1 } (evTailOf s) (le8 (s.evTail + 1))) 32
    else s

/-- EVENT_RECORD_WRITE (R354). -/
def execEventRecordWrite (s : State) : Res := .next (writeEvent s)

end Sys2Proof.Machine
end

