-- ==== Sys2Proof/Machine/Fatal.lean ====
section
/-! DEFINITION. The sealed-bank wipe (R273, R449), device-fatal errors (R395, R396, R406) and the events that raise them or a
job-fatal error (R396, R427, R433, R440, R442). -/
namespace Sys2Proof.Machine

def offTamper : Nat := 0x080010

/-- The sealed banks written as zero: the job secret and keys, the identity key, the measurement log and the state of the SPDM
sessions go (R272, R273, R425, R431, R438). -/
def clearBanks (s : State) : State :=
  { s with t3key := none, jobClear := none, idKey := none, measLog := [], sessions := Vector.replicate 3 .none }

/-- A completed wipe of the sealed banks: WIPE is set and counted (R273, R449). -/
def wipeBanks (s : State) : State := setFlag (clearBanks s) offTamper 4 16

/-- A wipe whose read-back is told by `ok`: one that fails does not complete (R273, R449; log entry 29). -/
def wipe (ok : Bool) (s : State) : State := if ok then wipeBanks s else clearBanks s

/-- Held records are written while the ring takes them. -/
def flushEvents : Nat → State → State
  | 0, s => s
  | n + 1, s => flushEvents n (writeEvent s)

/-- Step 1 of R406: the record, and vector 32 even where the ring cannot take it. -/
def fatalRecord (s : State) (cause unit index : Nat) : State :=
  let s := errEvent s Who.none cause 3 unit index 0 0
  let s := flushEvents (s.events.length + s.evWait.length) s
  if s.events.isEmpty then s else raise s 32

/-- Step 3 of R406: running queues read HALTED, and no completion record follows. A bank that a command has shared keeps OVERLAP (R455). -/
def fatalQueues (s : State) : State :=
  let s := (List.finRange 32).foldl (fun s q =>
    s.queues[q].active.foldl (fun s c => shareEnds s c.cores (whoOf q c.idx c.desc)) s) s
  { s with queues := s.queues.map fun u =>
      { u with state := if u.state == .running then .halted else u.state, active := [], recs := [], run := none } }

/-- Step 4 of R406. -/
def fatalPorts (s : State) : State :=
  (List.finRange 16).foldl (fun s p => if s.ports[p].state == .disabled then s else portLeave s p .disabled) s

/-- A device-fatal error of a unit (R406), with the read-back of its wipe. A further one finds steps 1 to 4 and 6 done and wipes
again (R449). -/
def deviceFatalAt (s : State) (cause unit index : Nat) (wipeOk : Bool) : State :=
  if s.fatal.isSome then wipe wipeOk s
  else
    let s := fatalRecord s cause unit index
    let info := errUnitWord s unit index
    let s := wipe wipeOk (fatalPorts (fatalQueues s))
    { s with fatal := some ⟨cause, info⟩ }

/-- A device-fatal error of the module. -/
def deviceFatal (s : State) (cause : Nat) (wipeOk : Bool) : State := deviceFatalAt s cause 3 0 wipeOk

/-- Firmware runs (R432, R493). -/
def firmwareRuns (s : State) : Bool := s.phase == .zeroing || s.phase == .run

/-- FIRMWARE_REMEASURE (R433): a digest that differs is device-fatal. -/
def execFirmwareRemeasure (ok wipeOk : Bool) (s : State) : Res :=
  .next (if firmwareRuns s && !ok then deviceFatal s 0x0A wipeOk else s)

/-- TRNG_FAILURE in service (R427). -/
def execTrngFailure (wipeOk : Bool) (s : State) : Res := .next (if firmwareRuns s then deviceFatal s 0x0E wipeOk else s)

/-- FIRMWARE_WATCHDOG (R396). -/
def execFirmwareWatchdog (wipeOk : Bool) (s : State) : Res := .next (if firmwareRuns s then deviceFatal s 0x0A wipeOk else s)

/-- CORE_WATCHDOG (R396, R405): job-fatal, naming the core. -/
def execCoreWatchdog (c : Fin 16) (s : State) : Res :=
  .next (if inService s then jobFatalError s Who.none 0x06 1 c.val 0 else s)

/-- The SEC_TAMPER flag of a sensor (R453). -/
def tamperBit : TamperKind → Nat
  | .lid => 0 | .supply => 1 | .clock => 2 | .temperature => 3

/-- Step 1 of R442: the keys of R426 in the encryption engines and the port logic. -/
def zeroKeys (s : State) : State :=
  { s with t1key := none, t2key := none, ide := []
           ports := s.ports.map fun t => { t with secret := 0, txKey := 0, rxKey := 0 } }

/-- What a tamper event does (R442): keys and banks go, the device-fatal sequence runs, which wipes on its own account (R406), the flag
is set and a fuse is blown. A wipe of step 2 that fails is device-fatal before step 3 is reached (R273; log entry 29). -/
def tamper (s : State) (k : TamperKind) (wipeOk : Bool) : State :=
  let s := wipe wipeOk (zeroKeys s)
  let s := if wipeOk then s else deviceFatal s 0x09 false
  let s := deviceFatal s 0x0B wipeOk
  let s := setFlagOnly s offTamper (tamperBit k)
  { s with otp := { s.otp with tamper := min 15 (s.otp.tamper + 1) } }

/-- TAMPER_EVENT: sensed while the module is powered (R440). -/
def execTamperEvent (k : TamperKind) (wipeOk : Bool) (s : State) : Res := .next (if s.phase == .off then s else tamper s k wipeOk)

end Sys2Proof.Machine
end

