-- ==== Sys2Proof/Machine/Boot.lean ====
section
/-! DEFINITION. Module resets, boot and power (R247, R425 to R432, R492 to R494, R500, R503, R504, R511). -/
namespace Sys2Proof.Machine

/-! ### What a reset keeps (R422, R423, R428, R448, R492, R493, R504, R517) -/

/-- Every domain held in reset: fuses, OTP, flash, the test-unlock latch, host memory and fabric memory are kept, and every
register takes its Reset value. A function-level reset keeps the sessions and endpoint IDs of MCTP (log entry 25). -/
def heldState (s : State) (cause : Nat) : State :=
  let r := State.reset
  let keep := cause == 2
  { r with
    pending := s.pending, phase := .held, fresh := s.fresh
    mem := s.mem.filter fun c => decide (hostStart ≤ c.1), t3 := s.t3
    serial := s.serial, stepping := s.stepping, fuses := s.fuses, otp := s.otp, flash := s.flash, puf := s.puf, romRoot := s.romRoot, unlocked := s.unlocked
    perst := s.perst, pwrEn := s.pwrEn, loopOpen := s.loopOpen, outbox := s.outbox, resetCause := cause
    sessions := if keep then s.sessions.set 0 .none else Vector.replicate 3 .none
    mgmt := if keep then { Mgmt.reset with eidVdm := s.mgmt.eidVdm, eidI3c := s.mgmt.eidI3c } else Mgmt.reset }

/-! ### Boot (R429 to R432, R441) -/

/-- Bytes of an image slot (R428). -/
def slotBytes : Nat := 60 * 2 ^ 20

/-- Stage i lies inside the slot, and its SM3 digest equals its DIGEST. -/
def stageOk (m : Image) (i : Nat) : Bool :=
  decide (imgOffset m i + imgLength m i ≤ slotBytes) && (m.stageDigests.getD i 0).toNat == imgDigest m i

/-- An image is valid for this module (R429): its signer's certificate ends in the root of the boot ROM (R435). -/
def imageValid (s : State) (m : Image) : Bool :=
  imgMagic m == 0x5439364A && imgChains m s.romRoot && imgSigned m && (List.range 4).all (stageOk m) &&
  (match ownerActive s with
   | none => true
   | some i => (imgOwner m).isSome && imgOwner m == (s.otp.owners[i]?).bind OwnerSlot.digest) &&
  decide (s.otp.svnFloor ≤ imgSvn m) && (imgBind m == 0 || imgBind m == s.serial.toNat)

/-- The image booted: the preferred slot first (R430). The answer is the image, its slot, and FALLBACK. -/
def bootChoice (s : State) : Option (Image × Bool × Bool) :=
  let pref := if s.flash.preferB then s.flash.b else s.flash.a
  let other := if s.flash.preferB then s.flash.a else s.flash.b
  match pref.filter (imageValid s) with
  | some m => some (m, s.flash.preferB, false)
  | none => (other.filter (imageValid s)).map fun m => (m, !s.flash.preferB, true)

/-- The ROM-held state with its ROM_STATUS (R432). -/
def romHold (s : State) (status : Nat) : State :=
  { s with phase := .romHeld, boot := { Boot.reset with romStatus := status } }

/-- The measurement of the boot ROM, fixed for each stepping (R437). -/
def romMeasure (s : State) : Nat := Config.freeNat s.stepping.toNat

/-- The start-up self-test (R34, R104): engines with an invalid fuse, and those found faulty, are retired. -/
def selfTest (s : State) (found : List (Fin 96 × BitVec 5)) : State :=
  (List.finRange 96).foldl (fun s (e : Fin 96) =>
    let code := if decide (16 < s.fuses[e]) then some 0x1E else (found.find? fun f => f.1 == e).map fun f => f.2.toNat
    match code with
    | none => s
    | some c => if c = 0x1F then s else retireEngine { s with bist := s.bist.set e c } Who.none e) s

/-- The digests of measurement indices 3 to 7: bytes 0x000 to 0x13F of the header, and the four stages (R437). -/
def imageMeas (m : Image) : List Nat :=
  (Config.sm3 (padTo 0x140 m.header) % 2 ^ 256) :: (List.range 4).map fun i => (m.stageDigests.getD i 0).toNat

/-- Steps 7 to 9 of R431: measurements, the behaviour level, fresh T1 and T2 keys from TRNG bits (R427), and the start of the zeroing
and of the self-test. -/
def bootImage (s : State) (env : BootEnv) (m : Image) (slotB fallback : Bool) : State :=
  let k1 := Config.freeNat s.fresh % 2 ^ 256
  let k2 := Config.freeNat (s.fresh + 1) % 2 ^ 256
  let s := { s with phase := .zeroing, bl := imgBl m, fresh := s.fresh + 2, t1key := some k1, t2key := some k2
                    boot := { romStatus := 0, image := some m, slotB := slotB, fallback := fallback
                              ownerSig := (ownerActive s).isSome, meas := imageMeas m } }
  let log := [(1, romMeasure s), (2, secLc s + 2 ^ 64 * secBoot s)] ++ (List.range 5).map fun i => (3 + i, s.boot.meas.getD i 0)
  selfTest { s with measLog := log } env.selftest

/-- The identity private key d that the boot ROM derives (R425, steps 1 to 3). -/
def identityKey (s : State) : Nat := identityOf s.puf s.otp.helper s.otp.secret

/-- Step 4 of R425: the helper data corrects the response, and the public key of d is the one in the device certificate. -/
def identityOk (s : State) (env : BootEnv) : Bool := env.pufOk && Config.sm2Public (identityKey s) == s.flash.cert.pub

/-- The boot of R431, in its order. A wipe that fails is device-fatal (R273; log entry 29); the wipe of a function-level reset spares
the sessions that R517 lets go on (log entry 25). A lid loop once found open stays open for good (R441). -/
def boot (s : State) (env : BootEnv) : State :=
  if !env.wipeOk then deviceFatal (romHold s 0) 0x09 false
  else
    let s := { wipeBanks s with sessions := s.sessions }
    if !env.trngOk then romHold s 0x02
    else if !env.loopOk || s.loopOpen then romHold { s with loopOpen := true } 0x01
    else if lcState s == 4 then romHold s 0x05
    else if s.unlocked then romHold s 0x06
    else if !identityOk s env then romHold s 0x03
    else
      let s := { s with idKey := some (identityKey s) }
      match bootChoice s with
      | none => romHold s 0x04
      | some (m, slotB, fallback) => bootImage s env m slotB fallback

/-- A module reset (R492, R493). PERST# asserted holds the module before the boot ROM starts (R500). -/
def moduleReset (s : State) (cause : Nat) (env : BootEnv) : State :=
  let s := heldState s cause
  if s.perst then s else boot s env

/-- GLB_RST (R496). -/
def glbRstWrite (s : State) (v : Nat) (env : BootEnv) : State :=
  if bits v 0 16 == 0xD1E5 then moduleReset s 3 env else rclampInc s

def execGlbRst (v : BitVec 64) (boot : BootEnv) (s : State) : Res :=
  .next (fromHost s fun s => if alive s then glbRstWrite s v.toNat boot else s)

/-- READY once both tiers are zero (R247, R493). -/
def readyCheck (s : State) : State := if s.t1Init && s.t2Init then { s with phase := .run } else s

def execT1Init (s : State) : Res :=
  .next (if s.phase == .zeroing && s.fatal.isNone then readyCheck { s with t1Init := true } else s)

def execT2Init (s : State) : Res :=
  .next (if s.phase == .zeroing && s.fatal.isNone then readyCheck { s with t2Init := true } else s)

/-! ### Pins and host events (R500, R504, R511) -/

/-- OFF: nothing holds state but fuses, OTP and flash; the test-unlock latch falls (R448, R504). -/
def powerOff (s : State) : State := { heldState { s with unlocked := false } 0 with phase := .off }

/-- PWR_EN_RISE: from OFF, the reset of a power-on. A module that a critical limit has shut down stays off until PWR_EN has fallen
(R503): a pin that is high does not rise. -/
def execPwrEnRise (boot : BootEnv) (s : State) : Res :=
  let t := { s with pwrEn := true }
  .next (if s.pwrEn then s else if s.phase == .off then moduleReset t 0 boot else t)

/-- PWR_EN_FALL: the wipe, then OFF (R504); a wipe that fails is device-fatal on the way (R273). -/
def execPwrEnFall (wipeOk : Bool) (s : State) : Res :=
  let s := { s with pwrEn := false }
  .next (if s.phase == .off then s else powerOff (if wipeOk then wipeBanks s else deviceFatal s 0x09 false))

/-- PERST# asserted holds a powered module in reset with cause 1. -/
def execPerstAssert (s : State) : Res :=
  .next (if s.phase == .off then { s with perst := true } else heldState { s with perst := true } 1)

/-- The release of PERST# starts the sequence, every register at its Reset value (R493): an error met while the module was held
does not outlast it. -/
def execPerstRelease (boot : BootEnv) (s : State) : Res :=
  let t := { s with perst := false }
  .next (if s.perst && s.phase == .held then Sys2Proof.Machine.boot (heldState t s.resetCause) boot else t)

def execCxlLinkDown (boot : BootEnv) (s : State) : Res := .next (if alive s then moduleReset s 1 boot else s)

def execFunctionLevelReset (boot : BootEnv) (s : State) : Res := .next (if alive s then moduleReset s 2 boot else s)

/-- Events of enabled sensors await collection, the I3C bus is interrupted in band, and ALERT# is asserted (R500, R514, R515). -/
def raiseEvents (s : State) (es : List (Nat × Bool)) : State :=
  let es := es.filter fun e => !s.mgmt.disabled.contains e.1
  if es.isEmpty then s
  else
    let s := outMsg { s with mgmt := { s.mgmt with events := s.mgmt.events ++ es } } (.inBand s.mgmt.i3cAddr)
    if s.alert then s else outMsg { s with alert := true } (.alert true)

/-- The shutdown of R503: the sensor's event (R515) while the firmware that keeps the sensors runs, device-fatal with cause 0x0C, THERM#,
and every regulator off. -/
def criticalShutdown (s : State) (sensor : Nat) (rose wipeOk : Bool) : State :=
  let s := if firmwareRuns s then raiseEvents s [(sensor, rose)] else s
  powerOff (outMsg (deviceFatal s 0x0C wipeOk) .thermtrip)

/-- CRITICAL_VOLTAGE: which of the two limits the input passed, the event alone says: left open (log entry 18). -/
def execCriticalVoltage (wipeOk : Bool) (s : State) : Res :=
  .next (if s.phase == .off then s else criticalShutdown (freshen s) 0x01 (Config.freeNat s.fresh % 2 == 1) wipeOk)

/-- The temperature sensors of R515. -/
def tempSensor (id : Nat) : Bool := (decide (0x10 ≤ id) && decide (id ≤ 0x17)) || (decide (0x20 ≤ id) && decide (id ≤ 0x2B))

def execCriticalTemperature (sensor : Nat) (wipeOk : Bool) (s : State) : Res :=
  .next (if s.phase == .off || !tempSensor sensor then s else criticalShutdown s sensor true wipeOk)

end Sys2Proof.Machine
end

