-- ==== Sys2Proof/Machine/HostLink.lean ====
section
/-! DEFINITION. The host link: the HDM window (R270, R512, R513), IDE streams (R510 to R512), and patrol scrubbing (R252). -/
namespace Sys2Proof.Machine

/-! ### The HDM window -/

/-- The T2 address of byte x of the HDM range, where the window serves it now (R270, R406, R512, R513). -/
def hdmAddr (s : State) (x : Nat) : Option Nat :=
  if inService s && regBit s offHdm 0 && decide (x < regField s offHdm 32 16 * 2 ^ 30) && hostOk s then
    some (t2Start + regField s offHdm 16 16 * 2 ^ 30 + x / 64 * 64)
  else none

/-- HDM_READ: the line in clear, or a line with CXL poison where it is poisoned, outside the window, without an IDE stream,
or after a device-fatal error (R251, R406, R512, R513), such as a flit of the die network that its ECC cannot correct (R396). An
unpowered or held module answers nothing. -/
def execHdmRead (x : Nat) (env : List Finding) (s : State) : Res :=
  if !alive s then .next s
  else match hdmAddr s x with
    | none => .next (outMsg s (.cxlData [] true))
    | some a =>
      match (takeFinding (a / 64) env).1 with
      | some (.flitUe ok) => .next (outMsg (deviceFatal s 0x07 ok) (.cxlData [] true))
      | _ =>
        let c := Chk.readLine Who.none (Chk.init s env) (a / 64)
        .next (outMsg c.s (if c.stop.isSome then .cxlData [] true else .cxlData (rd c.s a 64) false))

/-- The bytes of a masked line write, from byte i on: an unmasked byte stays. -/
def maskedBytes (s : State) (a : Nat) (mask i : Nat) : List Byte → State
  | [] => s
  | b :: bs => maskedBytes (if bitAt mask i then wrByte s (a + i) b else s) a mask (i + 1) bs

/-- HDM_WRITE: a whole line replaces it and clears its poison; a partial one is merged with the line that the controller reads first,
and keeps its poison (R246, R250); outside the window, without a stream or after a device-fatal error it is discarded (R406, R512,
R513). -/
def execHdmWrite (x : Nat) (data : List Byte) (mask : BitVec 64) (env : List Finding) (s : State) : Res :=
  match hdmAddr s x with
  | none => .next s
  | some a =>
    let bs := padTo 64 data
    .next (if mask.toNat == 2 ^ 64 - 1 then wr s a bs
      else if mask.toNat == 0 then s
      else maskedBytes (Chk.mergeLine Who.none (Chk.init s env) (a / 64)).s a mask.toNat 0 bs)

/-! ### Scrubbing -/

/-- PATROL_SCRUB (R252): what reading a line of T1 or T2 finds is handled under R249 or R250; a line already stored poisoned
brings nothing new. -/
def execPatrolScrub (f : Finding) (s : State) : Res :=
  let a := 64 * f.line
  let tier := regionOf a = .t1 ∨ regionOf a = .t2
  if !inService s || !decide tier || !backed s a then .next s
  else match f.kind with
    | .flitUe ok => .next (deviceFatal s 0x07 ok)
    | .ce => .next (if linePoisoned s f.line then s else eccCorrected s a)
    | .ue => .next (if linePoisoned s f.line then s else eccUncorrected s Who.none a)
    | .hostPoison => .next s

/-! ### IDE (R426, R510 to R512) -/

/-- The SPDM session of a transport. -/
def trIdx : Transport → Fin 3
  | .doe => 0 | .vdm => 1 | .i3c => 2

def sessionOf (s : State) (tr : Transport) : Session := s.sessions[trIdx tr]

/-- The session of a transport is established (R436). -/
def established (s : State) (tr : Transport) : Bool :=
  match sessionOf s tr with
  | .established _ => true
  | _ => false

/-- IDE_KM, inside an established DOE session: keys programmed enable a stream, which carries traffic once started; a stream
that is ended is enabled no more and keeps its key until the key is reprogrammed or a reset (R426, R511; log entry 37). -/
def execIdeKm (m : IdeMsg) (s : State) : Res :=
  if !firmwareRuns s || s.fatal.isSome || !established s .doe then .next s
  else
    let others := fun (sid : Nat) => s.ide.filter fun i => i.sid != sid
    match m with
    | .keyProg sid io base limit key => .next { s with ide := others sid ++ [IdeStream.mk sid io true key base limit false] }
    | .start sid =>
      .next { s with ide := s.ide.map fun i => if i.sid == sid.val then { i with enabled := true, active := true } else i }
    | .stop sid =>
      .next { s with ide := s.ide.map fun i => if i.sid == sid.val then { i with enabled := false, active := false } else i }

end Sys2Proof.Machine
end

