-- ==== Sys2Proof/Machine/Power.lean ====
section
/-! DEFINITION. The power controller (R502, R505 to R507) and the events of the sensors (R500, R515). -/
namespace Sys2Proof.Machine

/-- Step-down threshold of the temperature sensor at a place of the list of R515: dies and Helty dies, memory quadrant edges,
regulator stages (R506). -/
def stepDownAt (i : Nat) : Int := if i < 8 then 105 else if i < 16 then 95 else 110
def criticalAt (i : Nat) : Int := if i < 8 then 120 else if i < 16 then 105 else 125

def tempAt (m : PowerMeasure) (i : Nat) : Int := m.temps.getD i 0

def isHot (m : PowerMeasure) : Bool := (List.range 20).any fun i => decide (stepDownAt i ≤ tempAt m i)
def isCool (m : PowerMeasure) : Bool := (List.range 20).all fun i => decide (tempAt m i ≤ stepDownAt i - 5)

/-- The input stands between 44.0 V and 46.0 V (R502). -/
def isLow (m : PowerMeasure) : Bool := decide (44000 ≤ m.millivolts) && decide (m.millivolts < 46000)

def powerLimit (s : State) : Nat := 2000 - 8 * regField s offStepreq 8 7
def minStep (s : State) : Nat := regField s offStepreq 0 2

/-- One window of the algorithm of R505: s, calm and k. -/
def powerStep (lim : Nat) (p : Power) (m : PowerMeasure) : Power :=
  if decide (lim < m.watts) || isHot m then
    if p.step < 3 then { p with calm := 0, step := p.step + 1 }
    else if p.k < 6 then { p with calm := 0, k := p.k + 1 }
    else { p with calm := 0 }
  else if decide (m.watts + 100 < lim) && isCool m then
    if min (p.calm + 1) 100 = 100 then
      if 0 < p.k then { p with calm := 0, k := p.k - 1 }
      else if 0 < p.step then { p with calm := 0, step := p.step - 1 }
      else { p with calm := 0 }
    else { p with calm := min (p.calm + 1) 100 }
  else { p with calm := 0 }

/-- The CAUSE of a change of the step in force: the lowest code of what set it (R502, R505; log entry 31). -/
def clockCause (s : State) (old new : Power) (m : PowerMeasure) : Nat :=
  if isLow m then 1
  else if old.inForce < new.inForce then
    let byStep := old.step < new.step ∧ new.step = new.inForce
    if byStep ∧ powerLimit s < m.watts then 1
    else if byStep ∧ isHot m then 2
    else 3
  else if old.inForce ≤ old.step ∨ isLow old.meas then 1 else 3

/-! ### Sensor events (R515) -/

/-- A threshold crossed between two measurements: a rise to it or above, or a fall below it. -/
def crossing (id : Nat) (thr old new : Int) : List (Nat × Bool) :=
  if old < thr ∧ thr ≤ new then [(id, true)] else if thr ≤ old ∧ new < thr then [(id, false)] else []

/-- A maximum crossed: the maximum itself lies within it (R502, R503). -/
def crossingMax (id : Nat) (thr old new : Int) : List (Nat × Bool) :=
  if old ≤ thr ∧ thr < new then [(id, true)] else if thr < old ∧ new ≤ thr then [(id, false)] else []

/-- The sensor IDs of the temperature list. -/
def tempId (i : Nat) : Nat := if i < 8 then 0x10 + i else 0x20 + (i - 8)

/-- Crossings of the limits of R502, R503 and R506: voltages, current, sustained and transient power, temperatures. -/
def crossings (a b : PowerMeasure) : List (Nat × Bool) :=
  [44000, 46000].flatMap (fun t => crossing 0x01 t a.millivolts b.millivolts) ++
  [58000, 60000].flatMap (fun t => crossingMax 0x01 t a.millivolts b.millivolts) ++
  crossingMax 0x02 45000 a.milliamps b.milliamps ++ [2000, 2600].flatMap (fun t => crossingMax 0x03 t a.watts b.watts) ++
  (List.range 20).flatMap fun i =>
    crossing (tempId i) (stepDownAt i) (tempAt a i) (tempAt b i) ++ crossing (tempId i) (criticalAt i) (tempAt a i) (tempAt b i)

/-- POWER_CONTROLLER_WINDOW (R505). -/
def execPowerControllerWindow (m : PowerMeasure) (s : State) : Res :=
  if !firmwareRuns s then .next s
  else
    let old := s.power
    let new := powerStep (powerLimit s) old m
    let new := { new with inForce := if isLow m then 3 else max new.step (minStep s), meas := m }
    let cause := clockCause s old new m
    let s := raiseEvents { s with power := new } (crossings old.meas m)
    .next (if old.inForce = new.inForce then s else clockEvent s cause old.inForce new.inForce)

end Sys2Proof.Machine
end

