-- ==== Sys2Proof/Machine/Management.lean ====
section
/-! DEFINITION. Management: MCTP control, PLDM base, PLDM monitoring and PLDM firmware update (R514 to R516). What the DMTF
standards alone fix is in log entry 18. -/
namespace Sys2Proof.Machine

/-! ### Who answers (R432, R514) -/

/-- MCTP runs over VDM and I3C while firmware runs; in the ROM-held state over I3C only. -/
def mctpUp (s : State) (tr : Transport) : Bool :=
  tr != .doe && (firmwareRuns s || (s.phase == .romHeld && s.fatal.isNone && tr == .i3c))

/-- PLDM types 0 and 2 need the module controller firmware. -/
def pldmUp (s : State) (tr : Transport) : Bool := tr != .doe && firmwareRuns s

def mreply (s : State) (name : String) (code : Nat) (data : List Byte) : State := outMsg s (.reply name code data)

/-! ### MCTP control -/

def setEid (g : Mgmt) (tr : Transport) (e : Byte) : Mgmt :=
  match tr with
  | .vdm => { g with eidVdm := e }
  | .i3c => { g with eidI3c := e }
  | .doe => g

def eidOf (g : Mgmt) (tr : Transport) : Byte :=
  match tr with
  | .vdm => g.eidVdm
  | _ => g.eidI3c

/-- Each transport has its own endpoint ID (R514); 0x00 and 0xFF are no endpoint's. -/
def execSetEndpointId (tr : Transport) (eid : Byte) (s : State) : Res :=
  .next (if !mctpUp s tr then s
    else if eid = 0 ∨ eid = 0xFF then mreply s "SET_ENDPOINT_ID" 2 []
    else mreply { s with mgmt := setEid s.mgmt tr eid } "SET_ENDPOINT_ID" 0 [eid])

def execGetEndpointId (tr : Transport) (s : State) : Res :=
  .next (if mctpUp s tr then mreply s "GET_ENDPOINT_ID" 0 [eidOf s.mgmt tr] else s)

/-- A UUID fixed by the module: a free value of its serial number. -/
def execGetEndpointUuid (tr : Transport) (s : State) : Res :=
  .next (if mctpUp s tr then mreply s "GET_ENDPOINT_UUID" 0 (leBytes 16 (Config.freeNat s.serial.toNat)) else s)

/-- MCTP message types: control, PLDM, SPDM, secured messages. -/
def execGetMctpVersionSupport (tr : Transport) (ty : Byte) (s : State) : Res :=
  .next (if !mctpUp s tr then s
    else if [0, 1, 5, 6, 0xFF].contains ty.toNat then mreply s "GET_MCTP_VERSION_SUPPORT" 0 []
    else mreply s "GET_MCTP_VERSION_SUPPORT" 0x80 [])

def execGetMessageTypeSupport (tr : Transport) (s : State) : Res :=
  .next (if mctpUp s tr then mreply s "GET_MESSAGE_TYPE_SUPPORT" 0 [1, 5, 6] else s)

/-! ### PLDM base -/

def execGetTid (tr : Transport) (s : State) : Res := .next (if pldmUp s tr then mreply s "GET_TID" 0 [0] else s)

def execGetPldmVersion (tr : Transport) (ty : Byte) (s : State) : Res :=
  .next (if !pldmUp s tr then s
    else if [0, 2, 5].contains ty.toNat then mreply s "GET_PLDM_VERSION" 0 [] else mreply s "GET_PLDM_VERSION" 0x83 [])

/-- Types 0, 2 and 5. -/
def execGetPldmTypes (tr : Transport) (s : State) : Res :=
  .next (if pldmUp s tr then mreply s "GET_PLDM_TYPES" 0 (leBytes 8 0x25) else s)

/-- The command codes of a type, as DSP0240, DSP0248 and DSP0267 number the commands of R514. -/
def pldmCommands (ty : Nat) : Option (List Nat) :=
  match ty with
  | 0 => some [0x02, 0x03, 0x04, 0x05]
  | 2 => some [0x0A, 0x0B, 0x0D, 0x10, 0x11, 0x21, 0x51]
  | 5 => some [0x01, 0x02, 0x10, 0x13, 0x14, 0x15, 0x16, 0x17, 0x18, 0x1A, 0x1B, 0x1C, 0x1D]
  | _ => none

def execGetPldmCommands (tr : Transport) (ty : Byte) (s : State) : Res :=
  .next (if !pldmUp s tr then s
    else match pldmCommands ty.toNat with
      | some l => mreply s "GET_PLDM_COMMANDS" 0 (leBytes 32 (l.foldl (fun n c => n ||| 2 ^ c) 0))
      | none => mreply s "GET_PLDM_COMMANDS" 0x83 [])

/-! ### PLDM monitoring (R515) -/

/-- The numeric sensors, and the state sensors. -/
def numericIds : List Nat := [1, 2, 3] ++ (List.range 8).map (0x10 + ·) ++ (List.range 12).map (0x20 + ·)
def stateIds : List Nat := [0x30, 0x31, 0x32]

/-- GetPDR: one record per sensor, in the order of the sensor IDs; handle 0 asks for the first. -/
def execGetPdr (tr : Transport) (h : Nat) (s : State) : Res :=
  .next (if !pldmUp s tr then s
    else match (numericIds ++ stateIds)[h - 1]? with
      | some id => mreply s "GET_PDR" 0 (leBytes 2 id)
      | none => mreply s "GET_PDR" 0x82 [])

/-- A numeric sensor's reading in V, A, W or °C, a fraction dropped (R515; log entry 18). -/
def reading (m : PowerMeasure) (id : Nat) : Int :=
  if id = 1 then m.millivolts / 1000 else if id = 2 then m.milliamps / 1000 else if id = 3 then m.watts
  else if id < 0x20 then tempAt m (id - 0x10) else tempAt m (id - 0x20 + 8)

/-- GetSensorReading: the sensor's operational state, then its reading; a disabled sensor has none. -/
def execGetSensorReading (tr : Transport) (id : Nat) (s : State) : Res :=
  .next (if !pldmUp s tr then s
    else if !numericIds.contains id then mreply s "GET_SENSOR_READING" 0x80 []
    else if s.mgmt.disabled.contains id then mreply s "GET_SENSOR_READING" 0 [1]
    else mreply s "GET_SENSOR_READING" 0 ([0] ++ le4 (twos 32 (reading s.power.meas id))))

/-- GetStateSensorReadings: ACLK step in force; lifecycle state and tamper count; JF and FATAL. -/
def execGetStateSensorReadings (tr : Transport) (id : Nat) (s : State) : Res :=
  .next (if !pldmUp s tr then s
    else if id = 0x30 then mreply s "GET_STATE_SENSOR_READINGS" 0 (leBytes 1 s.power.inForce)
    else if id = 0x31 then mreply s "GET_STATE_SENSOR_READINGS" 0 (leBytes 1 (lcState s) ++ leBytes 1 s.otp.tamper)
    else if id = 0x32 then mreply s "GET_STATE_SENSOR_READINGS" 0 (leBytes 1 (b2n s.jobFatal) ++ leBytes 1 (b2n s.fatal.isSome))
    else mreply s "GET_STATE_SENSOR_READINGS" 0x80 [])

/-- SetNumericSensorEnable: operational state 0 enables, 1 and 2 disable. -/
def execSetNumericSensorEnable (tr : Transport) (id : Nat) (en : Byte) (s : State) : Res :=
  .next (if !pldmUp s tr then s
    else if !numericIds.contains id || decide (2 < en.toNat) then mreply s "SET_NUMERIC_SENSOR_ENABLE" 0x80 []
    else
      let rest := s.mgmt.disabled.filter (· != id)
      mreply { s with mgmt := { s.mgmt with disabled := if en = 0 then rest else insNat id rest } } "SET_NUMERIC_SENSOR_ENABLE" 0 [])

/-- The oldest event is delivered; ALERT# falls when none remains (R500, R515). -/
def collectEvent (s : State) (name : String) : State :=
  match s.mgmt.events with
  | [] => mreply s name 0 []
  | e :: r =>
    let s := mreply { s with mgmt := { s.mgmt with events := r } } name 0 (leBytes 2 e.1 ++ leBytes 1 (b2n e.2))
    if r.isEmpty && s.alert then outMsg { s with alert := false } (.alert false) else s

def execPlatformEventMessage (tr : Transport) (s : State) : Res :=
  .next (if pldmUp s tr then collectEvent s "PLATFORM_EVENT_MESSAGE" else s)

def execPollForPlatformEventMessage (tr : Transport) (s : State) : Res :=
  .next (if pldmUp s tr then collectEvent s "POLL_FOR_PLATFORM_EVENT_MESSAGE" else s)

def execEventMessageBufferSize (tr : Transport) (n : Nat) (s : State) : Res :=
  .next (if pldmUp s tr then mreply { s with mgmt := { s.mgmt with bufSize := n } } "EVENT_MESSAGE_BUFFER_SIZE" 0 (leBytes 2 n) else s)

/-! ### PLDM firmware update (R432, R516) -/

def setFw (s : State) (f : FwState) : State := { s with mgmt := { s.mgmt with fw := f } }

/-- The slot that did not boot; in the ROM-held state, slot A. -/
def targetB (s : State) : Bool := if s.phase == .romHeld then false else !s.boot.slotB

def putFlash (s : State) (b : Bool) (m : Option Image) : State :=
  { s with flash := if b then { s.flash with b := m } else { s.flash with a := m } }

/-- A command that the update's state admits; any other state answers an error (log entry 18). -/
def fwStep (s : State) (tr : Transport) (name : String) (ok : FwState → Bool) (go : State → State) : State :=
  if !mctpUp s tr then s else if ok s.mgmt.fw then mreply (go s) name 0 [] else mreply s name 0x84 []

/-- Vendor and device identifiers (R510). -/
def execQueryDeviceIdentifiers (tr : Transport) (s : State) : Res :=
  .next (if mctpUp s tr then mreply s "QUERY_DEVICE_IDENTIFIERS" 0 (leBytes 2 0x1FD7 ++ leBytes 2 0x0960) else s)

/-- The running image's SVN and behaviour level. -/
def execGetFirmwareParameters (tr : Transport) (s : State) : Res :=
  .next (if mctpUp s tr then
      mreply s "GET_FIRMWARE_PARAMETERS" 0 (leBytes 2 (runningSvn s) ++ leBytes 1 s.bl)
    else s)

def execRequestUpdate (tr : Transport) (s : State) : Res :=
  .next (fwStep s tr "REQUEST_UPDATE" (· == .idle) fun s => setFw { s with mgmt := { s.mgmt with fwImage := none } } .requested)

def execPassComponentTable (tr : Transport) (s : State) : Res :=
  .next (fwStep s tr "PASS_COMPONENT_TABLE" (· == .requested) fun s => setFw s .table)

/-- One component of at most the 60 MiB of a slot (R428, R516). -/
def execUpdateComponent (tr : Transport) (size : Nat) (s : State) : Res :=
  .next (fwStep s tr "UPDATE_COMPONENT" (fun f => f == .table && decide (size ≤ slotBytes)) fun s => setFw s .transfer)

/-- Data for the module's request goes into the slot that did not boot; until the last of it the slot holds no whole image. The
ROM-held state writes slot A only once the image is valid. -/
def execRequestFirmwareData (tr : Transport) (last : Bool) (img : Image) (s : State) : Res :=
  .next (fwStep s tr "REQUEST_FIRMWARE_DATA" (· == .transfer) fun s =>
    let m := if last then some img else none
    let s := { s with mgmt := { s.mgmt with fwImage := m } }
    if s.phase == .romHeld then s else putFlash s (targetB s) m)

/-- A failed or incomplete transfer goes back to the component table. -/
def execTransferComplete (tr : Transport) (ok : Bool) (s : State) : Res :=
  .next (fwStep s tr "TRANSFER_COMPLETE" (· == .transfer) fun s =>
    if ok && s.mgmt.fwImage.isSome then setFw s .transferred else setFw { s with mgmt := { s.mgmt with fwImage := none } } .table)

/-- VerifyComplete reports success only when the image is valid (R429, R516). -/
def execVerifyComplete (tr : Transport) (s : State) : Res :=
  .next (if !mctpUp s tr then s
    else if s.mgmt.fw != .transferred then mreply s "VERIFY_COMPLETE" 0x84 []
    else if (s.mgmt.fwImage.map (imageValid s)).getD false then mreply (setFw s .verified) "VERIFY_COMPLETE" 0 []
    else mreply (setFw s .table) "VERIFY_COMPLETE" 1 [])

/-- ApplyComplete makes the slot preferred; the ROM-held state writes slot A, makes it preferred likewise and resets the module (R432,
R516). -/
def execApplyComplete (tr : Transport) (boot : BootEnv) (s : State) : Res :=
  .next (fwStep s tr "APPLY_COMPLETE" (· == .verified) fun s =>
    let t := { s with mgmt := { s.mgmt with fwPrefer := s.flash.preferB }, flash := { s.flash with preferB := targetB s } }
    if s.phase == .romHeld then moduleReset (putFlash t false s.mgmt.fwImage) 4 boot else setFw t .applied)

/-- ActivateFirmware: self-contained activation resets the module with cause 4; otherwise the image waits for a reset. -/
def execActivateFirmware (tr : Transport) (selfContained : Bool) (boot : BootEnv) (s : State) : Res :=
  .next (fwStep s tr "ACTIVATE_FIRMWARE" (· == .applied) fun s => if selfContained then moduleReset s 4 boot else setFw s .idle)

def fwCode : FwState → Nat
  | .idle => 0 | .requested => 1 | .table => 2 | .transfer => 3 | .transferred => 4 | .verified => 5 | .applied => 6

def execGetStatus (tr : Transport) (s : State) : Res :=
  .next (if mctpUp s tr then mreply s "GET_STATUS" 0 (leBytes 1 (fwCode s.mgmt.fw)) else s)

/-- A cancelled component leaves the boot record unchanged. -/
def execCancelUpdateComponent (tr : Transport) (s : State) : Res :=
  .next (fwStep s tr "CANCEL_UPDATE_COMPONENT" (fun f => f == .transfer || f == .transferred || f == .verified) fun s =>
    setFw { s with mgmt := { s.mgmt with fwImage := none } } .table)

/-- A cancelled update leaves the boot record as it was before it: one already applied prefers the former slot again. -/
def execCancelUpdate (tr : Transport) (s : State) : Res :=
  .next (fwStep s tr "CANCEL_UPDATE" (· != .idle) fun s =>
    let preferB := if s.mgmt.fw == .applied then s.mgmt.fwPrefer else s.flash.preferB
    setFw { s with mgmt := { s.mgmt with fwImage := none }, flash := { s.flash with preferB := preferB } } .idle)

end Sys2Proof.Machine
end

