-- ==== Sys2Proof/Machine/Registers.lean ====
section
/-! DEFINITION. Writes to BAR0 (R474 to R479, R388, R241, R270, R271) and the configuration check (R483 to R485). -/
namespace Sys2Proof.Machine

/-! ### Which blocks answer (R432, R494) -/

/-- The block of an offset answers, where the access reaches the module (R511). -/
def blockAnswers (s : State) (off : Nat) : Bool :=
  let b := off / 0x10000
  ioOk s && match s.phase with
  | .run => true
  | .zeroing => b == 0 || b == 8 || b == 0xB || b == 0xC
  | .romHeld => b == 0 || b == 8
  | _ => false

/-! ### Writes with clamps or rules of their own -/

/-- A store of clamped fields, counted once where a clamp was needed (R387). -/
def suStoreClamped (s : State) (off v c : Nat) : State :=
  suStore (if c != v then rclampInc s else s) off c

/-- SIZE_LOG2 brought into range (R388). -/
def sizeClamp (lo v : Nat) : Nat := setBits v 0 5 (max lo (min 16 (bits v 0 5)))

/-- QUE_Qn_SQ and QUE_Qn_CQ: only while the queue is DISABLED. -/
def ringWrite (s : State) (q : Fin 32) (off v : Nat) : State :=
  if s.queues[q].state == .disabled then suStoreClamped s off v (sizeClamp 4 v) else rclampInc s

/-- QUE_EV and QUE_JOBSEED: only while every queue is DISABLED. -/
def allDisabled (s : State) : Bool := s.queues.toList.all fun u => u.state == .disabled

def evWrite (s : State) (v : Nat) : State :=
  if allDisabled s then suStoreClamped s offQev v (sizeClamp 6 v) else rclampInc s

def jobseedWrite (s : State) (v : Nat) : State := if allDisabled s then suStore s offJobseed v else rclampInc s

/-- MEM_QOS (R241). -/
def qosClamp (v : Nat) : Nat :=
  let v := if bits v 40 8 < 0x0D then setBits v 40 8 0x0D else v
  let sum := ((List.range 6).map fun i => bits v (8 * i) 8).foldl (· + ·) 0
  if 0xF0 < sum then setBits v 0 48 0x0D0D1A264040 else v

/-- MEM_HDM (R270). -/
def hdmClamp (v : Nat) : Nat :=
  let b := min 3724 (bits v 16 16)
  setBits (setBits v 16 16 b) 32 16 (min (3725 - b) (bits v 32 16))

/-- MEM_T3_SIZE (R271). -/
def t3SizeClamp (v : Nat) : Nat := setBits v 0 16 (min 59604 (bits v 0 16))

/-- GAU_CTL: CAB_EN 0 treats the input as absent, so a locked input is lost (R380, R390). -/
def gauCtlWrite (s : State) (v : Nat) : State :=
  let s := suStore s offGauCtl v
  if bitAt v 0 then s else gaugeLost (updGauge s fun g => { g with prev := none })

/-- CFG_CTL and CFG_CRC_REF begin a new run of the comparison (R484). -/
def cfgCtlWrite (s : State) (v : Nat) : State :=
  let was := regBit s offCfgCtl 0
  let s := suStore s offCfgCtl v
  if bitAt v 0 && !was then { s with cfg := { s.cfg with drifting := false } } else s

def cfgRefWrite (s : State) (v : Nat) : State :=
  let s := suStore s offCfgRef v
  { s with cfg := { s.cfg with drifting := false } }

/-- W1C: each 1 clears its flag; every other field ignores the write (R479). -/
def w1cWrite (s : State) (off v : Nat) : State :=
  match w1cFlags off with
  | none => s
  | some m => regPut s off (BitVec.ofNat 64 ((regGet s off).toNat - ((regGet s off).toNat &&& v &&& m)))

def qFin (n : Nat) : Fin 32 := ⟨n % 32, Nat.mod_lt _ (by decide)⟩
def pFin (n : Nat) : Fin 16 := ⟨n % 16, Nat.mod_lt _ (by decide)⟩

/-- What the boot of a reset by SU_WRITE finds: left open (log entry 30). -/
def suBoot (s : State) : BootEnv :=
  (Config.freeBoot s.fresh).getD { trngOk := true, loopOk := true, pufOk := true, wipeOk := true, selftest := [] }

/-! ### One block at a time -/

def writeQue (s : State) (off v : Nat) : State :=
  if off < 0x010400 then
    let q := qFin ((off - 0x010000) / 0x20)
    match off % 0x20 with
    | 0x00 => ringWrite s q off v
    | 0x08 => ringWrite s q off v
    | 0x10 => queueCtlWrite s q v
    | _ => s
  else if off = offQev then evWrite s v
  else if off = offJobseed then jobseedWrite s v
  else s

def writeMem (s : State) (off v : Nat) : State :=
  if off = offQos then suStoreClamped s off v (qosClamp v)
  else if off = offHdm then suStoreClamped s off v (hdmClamp v)
  else if off = offT3Size then suStoreClamped s off v (t3SizeClamp v)
  else if off = offT3Base then suStore s off v
  else if off = offT3Tag then suStore s off v
  else w1cWrite s off v

def writeLnk (s : State) (off v : Nat) : State :=
  if off = offLnkAddr then suStore s off v
  else if off = offLnkRt then routeWrite (freshen s) v (Config.freeFindings s.fresh)
  else if off = offGctl then relink (suStore s off v) none
  else if off % 0x1000 = 0 then portCtlWrite s (pFin (off / 0x1000)) v
  else w1cWrite s off v

def writeCfl (s : State) (off v : Nat) : State :=
  if off < 0x050200 then
    let n := grpFin ((off - 0x050000) / 0x40)
    match off % 0x40 with
    | 0x00 => grpCtlWrite (freshen s) n v (Config.freeFindings s.fresh)
    | 0x08 => grpWrite s n off (v &&& (suMask off).getD 0) false []
    | 0x10 => grpWrite s n off (v &&& (suMask off).getD 0) false []
    | _ => s
  else w1cWrite s off v

def writeObs (s : State) (off v : Nat) : State :=
  if off = offMark then markWrite s v
  else if off = offSnapSel then snapselWrite s v
  else if off = offSnapAt ∨ off = offObsCtl then suStore s off v
  else s

def writeMbx (s : State) (off v : Nat) : State :=
  if off = 0x0C0000 then mbxSelWrite s v else if off = 0x0C0008 then mbxReqWrite s v else s

def writeCfg (s : State) (off v : Nat) : State :=
  if off = offCfgCtl then cfgCtlWrite s v else if off = offCfgRef then cfgRefWrite s v else w1cWrite s off v

def writeCore (s : State) (off v : Nat) : State :=
  let c := pFin ((off - 0x100000) / 0x40000)
  match off % 0x40000 with
  | 0x1000 => tctlWrite s c v
  | 0x1008 => trigWrite s c v
  | 0x1010 => evselWrite s c v
  | 0x1018 => settleTrace (suStore s off v) c
  | _ => w1cWrite s off v

/-- An aligned 8-byte write to an offset whose block answers (R476 to R479, R497). -/
def bar0Write (s : State) (off v : Nat) : State :=
  if 0x100000 ≤ off ∧ off < 0x500000 then writeCore s off v
  else match off / 0x10000 with
    | 0x0 => if off = offGlbRst then glbRstWrite (freshen s) v (suBoot s) else s
    | 0x1 => writeQue s off v
    | 0x2 => if off = offGauCtl then gauCtlWrite s v else w1cWrite s off v
    | 0x3 => writeMem s off v
    | 0x4 => writeLnk s off v
    | 0x5 => writeCfl s off v
    | 0x6 => w1cWrite s off v
    | 0x7 => w1cWrite s off v
    | 0x8 => w1cWrite s off v
    | 0x9 => writeObs s off v
    | 0xA => if off = offErrCtl ∨ off = offDegrade then suStore s off v else w1cWrite s off v
    | 0xB => if off = offStepreq then suStore s off v else s
    | 0xC => writeMbx s off v
    | 0xD => writeCfg s off v
    | _ => s

/-- SU_WRITE (R474, R476): a write of any other size or alignment is ignored and counted. -/
def execSuWrite (off : Nat) (size : Nat) (v : BitVec 64) (s : State) : Res :=
  if !blockAnswers s off then .next s
  else if size != 8 || off % 8 != 0 then .next (rclampInc s)
  else .next (bar0Write s off v.toNat)

/-- W1C_CLEAR (R479). -/
def execW1cClear (off : Nat) (v : BitVec 64) (s : State) : Res :=
  .next (if blockAnswers s off then w1cWrite s off v.toNat else s)

/-! ### The configuration check (R483, R484) -/

/-- SU registers of the sweep, ascending, each with the bits that enter as they stand. -/
def sweepRegs : List (Nat × Nat) :=
  let all := fieldMask 0 64
  (List.range 32).flatMap (fun n => [(offQsq n, all), (offQcq n, all), (offQctl n, fieldMask 1 31)]) ++
  [(offQev, all), (offJobseed, all), (offGauCtl, all), (offQos, all), (offT3Base, all), (offT3Size, all), (offT3Tag, all),
   (offHdm, all), (offPctl 0, all), (offLnkAddr, all), (offLnkRt, all), (offGctl, all)] ++
  (List.range 15).map (fun p => (offPctl (p + 1), all)) ++
  (List.range 8).flatMap (fun n => [(offGrpCtl n, all - 1), (offGrpTbl n, all), (offGrpStart n, fieldMask 32 32)]) ++
  [(offErrCtl, all), (offDegrade, all)]

/-- The CRC-32C of a sweep. -/
def sweepCrc (s : State) : Nat := crc32c (sweepRegs.flatMap fun r => le8 ((regGet s r.1).toNat &&& r.2))

/-- Drift (R484): the flag, the record, and with HALT_EN the halt of every queue. -/
def drift (s : State) : State :=
  let s := errEvent (setFlag s offCfg 0 48) Who.none 0x0D 3 3 0 0 0
  if regBit s offCfgCtl 1 then
    let id := s.haltCount + 1
    let s := haltMask { s with haltCount := id } 0xFFFFFFFF false
    raise (haltEvent s 0x01 0xFFFFFFFF id.toNat (homeAddr s) 0) 33
  else s

/-- CONFIGURATION_SWEEP: the sweeps go on while SCLK runs; a disturbed one is discarded; the first mismatch of a run is drift. -/
def execConfigurationSweep (disturbed : Bool) (s : State) : Res :=
  if !alive s || disturbed || cflBusy s then .next s
  else
    let crc := sweepCrc s
    let s := { s with cfg := { s.cfg with cur := crc, sweeps := (s.cfg.sweeps + 1) % 65536 } }
    if !regBit s offCfgCtl 0 then .next s
    else if crc == regField s offCfgRef 0 32 then .next { s with cfg := { s.cfg with drifting := false } }
    else if s.cfg.drifting then .next s
    else .next (drift { s with cfg := { s.cfg with drifting := true } })

end Sys2Proof.Machine
end

