-- ==== Sys2Proof/Machine/Security.lean ====
section
/-! DEFINITION. The SPDM responder and the vendor-defined requests (R434 to R439, R443 to R448). The content of messages that
the standard alone fixes is left out (log entry 18). -/
namespace Sys2Proof.Machine

/-! ### Requests (R436, R450) -/

def reply (s : State) (name : String) (data : List Byte) : State := outMsg s (.reply name 0 data)

/-- An SPDM ERROR with the code of this name. -/
def spdmError (s : State) (code : String) : State := outMsg s (.reply code 1 [])

/-- SPDM is answered while firmware runs; requests during and after a device-fatal sequence are discarded (R450). -/
def spdmUp (s : State) : Bool := firmwareRuns s && s.fatal.isNone

/-- What a read of a sealed bank shows: a corrected error counts (R249); one that cannot be corrected is recorded with the bank's
cluster and line (R250, R254) and is device-fatal (R251, R396). -/
def bankRead (s : State) (f : BankFind) : State :=
  if f.ue then
    let s := lastSrc (setFlag s offEccstat 1 32) 5
    let s := { s with ueAddr := BitVec.ofNat 64 (5 * 2 ^ 61 + f.cluster.val * 2 ^ 54 + bits f.line 0 14 * 2 ^ 6) }
    deviceFatalAt s 0x08 2 f.cluster.val f.wipeOk
  else lastSrc (setFlag s offEccstat 0 16) 5

/-- A request that SPDM answers, after the sealed bank that it needs is read: an error there that cannot be corrected leaves it
unanswered (R251, R450). -/
def spdmServe (s : State) (rq : SpdmReq) (go : State → State) : State :=
  if !spdmUp s then s
  else match rq.bank with
    | none => go s
    | some f => if f.ue then bankRead s f else go (bankRead s f)

/-- A well-formed request goes on; a malformed one gets InvalidRequest. -/
def spdm (s : State) (rq : SpdmReq) (go : State → State) : State :=
  spdmServe s rq fun s => if !rq.wellFormed then spdmError s "InvalidRequest" else go s

/-- There is an identity key to sign with, and no TEST_UNLOCK bars it (R425, R448). -/
def signable (s : State) : Bool := !s.unlocked && s.idKey.isSome

/-- A response signed with d over its content (R437; log entry 18); after TEST_UNLOCK such a request gets Unspecified (R448). -/
def signed (s : State) (name : String) (data : List Byte) : State :=
  if signable s then reply (freshen s) name (data ++ leBytes 64 (Config.sm2Sign (s.idKey.getD 0) (Config.sm3 data) s.fresh))
  else spdmError s "Unspecified"

/-- Test access is open (R443, R446, R448). -/
def testAccess (s : State) : Bool := lcState s == 0 || (lcState s == 3 && s.unlocked)

def setSession (s : State) (tr : Transport) (x : Session) : State := { s with sessions := s.sessions.set (trIdx tr) x }

/-- A message that the established session of its transport carries (log entry 18). -/
def inSession (s : State) (tr : Transport) (rq : SpdmReq) : Bool := rq.secured && established s tr

def execGetVersion (_tr : Transport) (rq : SpdmReq) (s : State) : Res :=
  .next (spdm s rq fun s => reply s "VERSION" [0x12])
def execGetCapabilities (_tr : Transport) (rq : SpdmReq) (s : State) : Res :=
  .next (spdm s rq fun s => reply s "CAPABILITIES" [])
/-- The algorithms of R436: SM2 for signatures and key exchange, SM3 for hashing, SM4-GCM for session protection. -/
def execNegotiateAlgorithms (_tr : Transport) (rq : SpdmReq) (s : State) : Res :=
  .next (spdm s rq fun s => outMsg s (.algorithms "SM2" "SM2" "SM3" "SM4-GCM"))

/-- Certificate slot 0 holds the device chain (R435). -/
def execGetDigests (_tr : Transport) (rq : SpdmReq) (s : State) : Res :=
  .next (spdm s rq fun s => reply s "DIGESTS" [0x01])

def execGetCertificate (_tr : Transport) (rq : SpdmReq) (slot : Nat) (s : State) : Res :=
  .next (spdm s rq fun s => if slot = 0 then reply s "CERTIFICATE" (chainBytes s.flash.inter s.flash.cert) else spdmError s "InvalidRequest")

def execChallenge (_tr : Transport) (rq : SpdmReq) (s : State) : Res :=
  .next (spdm s rq fun s => signed s "CHALLENGE_AUTH" [])

/-- The measurement block of an index (R437): index 2 is raw, the others are digests. -/
def measurement (s : State) (i : Nat) : List Byte :=
  if i = 2 then le8 (secLc s) ++ le8 (secBoot s)
  else if i = 1 then leBytes 32 (romMeasure s)
  else leBytes 32 (s.boot.meas.getD (i - 3) 0)

/-- GET_MEASUREMENTS: index 0 asks for the number of blocks, 0xFF for all of them. -/
def execGetMeasurements (_tr : Transport) (rq : SpdmReq) (index : Byte) (s : State) : Res :=
  .next (spdm s rq fun s =>
    let i := index.toNat
    let answer := if rq.sign then signed s "MEASUREMENTS" else reply s "MEASUREMENTS"
    if i = 0 then answer [7]
    else if i = 0xFF then answer ((List.range 7).flatMap fun j => measurement s (j + 1))
    else if i ≤ 7 then answer (measurement s i)
    else spdmError s "InvalidRequest")

/-- KEY_EXCHANGE ends an open session of its transport first (R436), and agrees on fresh session keys (R426; log entry 8). Its
response holds a fresh ephemeral public key and is signed. -/
def execKeyExchange (tr : Transport) (rq : SpdmReq) (s : State) : Res :=
  .next (spdm s rq fun s =>
    let t := if signable s then setSession { s with fresh := s.fresh + 2 } tr (.handshake (Config.freeNat s.fresh)) else s
    signed t "KEY_EXCHANGE_RSP" (leBytes 64 (Config.sm2Public (Config.freeNat (s.fresh + 1)))))

def execFinish (tr : Transport) (rq : SpdmReq) (ok : Bool) (s : State) : Res :=
  .next (spdm s rq fun s =>
    match sessionOf s tr with
    | .handshake k =>
      if !rq.secured then spdmError s "UnexpectedRequest"
      else if ok then reply (setSession s tr (.established k)) "FINISH_RSP" []
      else spdmError (setSession s tr .none) "DecryptError"
    | _ => spdmError s "UnexpectedRequest")

def execHeartbeat (tr : Transport) (rq : SpdmReq) (s : State) : Res :=
  .next (spdm s rq fun s => if inSession s tr rq then reply s "HEARTBEAT_ACK" [] else spdmError s "UnexpectedRequest")

/-- END_SESSION leaves an installed job key in place (R439). -/
def execEndSession (tr : Transport) (rq : SpdmReq) (s : State) : Res :=
  .next (spdm s rq fun s =>
    if inSession s tr rq then reply (setSession s tr .none) "END_SESSION_ACK" [] else spdmError s "UnexpectedRequest")

/-! ### Vendor-defined requests (R436) -/

/-- The header of a vendor-defined request: the PCI-SIG registry, vendor ID 0x1FD7, and the code byte of its name. -/
def vendorHead (rq : SpdmReq) (code : Nat) : Bool := rq.pciSig && rq.vendorId == 0x1FD7 && rq.code.toNat == code

/-- Accepted only inside the secure session, well formed; otherwise InvalidRequest and no effect. -/
def vendor (s : State) (tr : Transport) (rq : SpdmReq) (code : Nat) (go : State → State) : State :=
  spdmServe s rq fun s =>
    if !rq.wellFormed || !vendorHead rq code || !inSession s tr rq then spdmError s "InvalidRequest" else go s

/-- The T3 keys of a job secret and JOB_ID (R424, R438): the first and the last 128 bits of K, and the integrity key. -/
def jobKeyOf (jobId : BitVec 64) (secret : BitVec 256) : JobKey :=
  let z := leBytes 32 secret.toNat ++ le8 jobId.toNat
  let k := Config.kdf (z ++ ascii "T96 T3 XTS") 256
  { secret := secret, data := bits k 0 128, tweak := bits k 128 128, tag := Config.kdf (z ++ ascii "T96 T3 TAG") 256 }

/-- JOB_KEY_SET (R438, R443): refused while a key is installed, and outside MANUFACTURE and DEPLOYED. -/
def execJobKeySet (tr : Transport) (rq : SpdmReq) (jobId : BitVec 64) (secret : BitVec 256) (s : State) : Res :=
  .next (vendor s tr rq 0x01 fun s =>
    if !(lcState s == 0 || lcState s == 2) then spdmError s "InvalidRequest"
    else if s.t3key.isSome then spdmError s "UnexpectedRequest"
    else reply { s with t3key := some (jobKeyOf jobId secret) } "JOB_KEY_SET" [])

/-- The commands that run now: queue and ring index. -/
def runningList (s : State) : List (Nat × Nat) :=
  (List.finRange 32).flatMap fun (q : Fin 32) => s.queues[q].active.map fun c => (q.val, c.idx.toNat)

/-- JOB_KEY_CLEAR (R439): commands that run keep the key; a later request changes nothing more. -/
def execJobKeyClear (tr : Transport) (rq : SpdmReq) (s : State) : Res :=
  .next (vendor s tr rq 0x02 fun s =>
    let s := if s.t3key.isSome && s.jobClear.isNone then { s with jobClear := some (runningList s) } else s
    reply s "JOB_KEY_CLEAR" [])

/-- JOB_KEY_CLEAR_TAKES_EFFECT (R439). -/
def execJobKeyClearTakesEffect (s : State) : Res :=
  match s.jobClear with
  | none => .next s
  | some l => .next (if (runningList s).any fun w => l.contains w then s else { s with t3key := none, jobClear := none })

/-! ### Lifecycle (R443 to R448) -/

/-- Entries of the OTP field that are unused. -/
def lcLeft (s : State) : Nat := 15 - s.otp.lc.length

/-- An authorisation is made for this module and for its next lifecycle entry (R444, R445). -/
def authFits (s : State) (a : Auth) : Bool := a.ok && a.serial == s.serial && a.used == s.otp.lc.length

/-- A Jokarek token for this target state: it serves one transition of one module, and only once (R445). -/
def tokenOk (s : State) (auth : Option Auth) (target : Nat) : Bool :=
  match auth with
  | none => false
  | some a => authFits s a && a.jokarek && a.covers == [BitVec.ofNat 8 target]

/-- The owner's signature over a request of this payload, needed while an owner key is active (R444). -/
def ownerOk (s : State) (auth : Option Auth) (payload : List Byte) : Bool :=
  match ownerActive s, auth with
  | none, _ => true
  | some _, none => false
  | some i, some a =>
    authFits s a && !a.jokarek && (s.otp.owners[i]?).bind OwnerSlot.digest == some a.key && a.covers == payload

/-- The payload of a request with its signature bytes zero (R436, R444). -/
def unsigned (fields : List Byte) : List Byte := fields ++ List.replicate 64 0

/-- The transition is one of R446 and its authorisation stands. -/
def lcAllowed (s : State) (target : Nat) (digest : BitVec 256) (auth : Option Auth) : Bool :=
  let owner := ownerOk s auth (unsigned (BitVec.ofNat 8 target :: leBytes 32 digest.toNat))
  let free := s.otp.owners.any fun o => o.digest.isNone
  let step := match lcState s, target with
    | 0, 1 => tokenOk s auth 1
    | 1, 2 => digest == 0 || free
    | 2, 3 => owner
    | 3, 1 => tokenOk s auth 1
    | 4, _ => false
    | 2, 4 => owner
    | _, 4 => true
    | _, _ => false
  step && (decide (2 ≤ lcLeft s) || (lcLeft s == 1 && target == 4))

/-- The next free owner-key slot takes the digest. -/
def ownerPut (digest : BitVec 256) : List OwnerSlot → List OwnerSlot
  | [] => []
  | o :: r => if o.digest.isNone then { o with digest := some digest } :: r else o :: ownerPut digest r

/-- The fuses of a transition: one lifecycle entry, then the owner-key fuses (R443, R446, R447). -/
def lcFuses (s : State) (target : Nat) (digest : BitVec 256) : Otp :=
  let owners :=
    if lcState s = 1 ∧ target = 2 ∧ digest ≠ 0 then ownerPut digest s.otp.owners
    else if lcState s = 3 ∧ target = 1 then
      match ownerActive s with
      | some i => updAt (fun o => { o with revoked := true }) s.otp.owners i
      | none => s.otp.owners
    else s.otp.owners
  { s.otp with lc := s.otp.lc ++ [(target, 7 - target)], owners := owners }

/-- Every link session ends (R447). -/
def endSessions (s : State) : State :=
  (List.finRange 16).foldl (fun s p => if hasSession s.ports[p] then portDown s p else s) s

/-- LC_ADVANCE (R447): response, halt and end of sessions, wipe, fuses, reset with cause 4. -/
def lcAdvance (s : State) (target : Nat) (digest : BitVec 256) (wipeOk : Bool) (boot : BootEnv) : State :=
  let otp := lcFuses s target digest
  let s := endSessions (haltMask (reply s "LC_ADVANCE" []) 0xFFFFFFFF false)
  if !wipeOk then deviceFatal s 0x09 false
  else moduleReset { wipeBanks s with otp := otp } 4 boot

def execLcAdvance (tr : Transport) (rq : SpdmReq) (target : Byte) (digest : BitVec 256) (auth : Option Auth) (wipeOk : Bool)
    (boot : BootEnv) (s : State) : Res :=
  .next (vendor s tr rq 0x03 fun s =>
    if lcAllowed s target.toNat digest auth then lcAdvance s target.toNat digest wipeOk boot
    else spdmError s "InvalidRequest")

/-- SVN_COMMIT (R434, R444, R450): only in DEPLOYED, with the owner's signature where an owner key is active, never above the
running image's SVN nor below the floor. -/
def execSvnCommit (tr : Transport) (rq : SpdmReq) (floor : BitVec 16) (auth : Option Auth) (s : State) : Res :=
  .next (vendor s tr rq 0x04 fun s =>
    let svn := runningSvn s
    if lcState s != 2 || !ownerOk s auth (unsigned (leBytes 2 floor.toNat)) || decide (svn < floor.toNat) || decide (floor.toNat < s.otp.svnFloor) then
      spdmError s "InvalidRequest"
    else reply { s with otp := { s.otp with svnFloor := floor.toNat } } "SVN_COMMIT" [])

/-- TEST_UNLOCK (R448): the wipe, the end of the identity key, and the latch. No rule names the target state that its token covers,
so that it is not compared (log entry 36). -/
def execTestUnlock (tr : Transport) (rq : SpdmReq) (auth : Auth) (wipeOk : Bool) (s : State) : Res :=
  .next (vendor s tr rq 0x05 fun s =>
    if lcState s != 3 || !(authFits s auth && auth.jokarek) then spdmError s "InvalidRequest"
    else if !wipeOk then deviceFatal s 0x09 false
    else reply { wipeBanks s with unlocked := true } "TEST_UNLOCK" [])

end Sys2Proof.Machine
end

