-- ==== Sys2Proof/Machine/Program.lean ====
section
/-! DEFINITION. The inputs of an UPDATE: the shard descriptor (R201, R202), the program image and its checks (R204, R206 to
R210), and the schedule engine (R219 to R221). -/
namespace Sys2Proof.Machine

/-! ### Shard descriptor (R201, R202) -/

/-- A member of the bundle after its clamps. -/
structure MemberD where
  addr : Nat
  fmt : Nat
  conv : TRef
  deriving DecidableEq, Repr

/-- Formats that member m accepts, and what other codes become. -/
def memberAccepts (m c : Nat) : Bool :=
  if m == 1 then gradFmt c else if m ≤ 3 then [0x00, 0x02, 0x03, 0x04, 0x05].contains c else [0x00, 0x02, 0x03].contains c

def memberDefault (m : Nat) : Nat := if m == 1 then 0x05 else 0x00

/-- FORMAT of member m (R202): G takes what R71 lets a gradient take. Another member whose KIND is a gradient's comes under R71
first, and a code that its row does not accept becomes FP32; a code replaced counts once (log entry 47). -/
def memberFmt (m : Nat) (r : TRef) : Cl Nat :=
  let c := if roleGrad r.role && !gradFmt r.fmt then 0x05 else r.fmt
  let c := if memberAccepts m c then c else memberDefault m
  clampIf (c != r.fmt) c r.fmt

/-- Member m: the bytes of an absent one are not used. -/
def memberOf (b : List Byte) (m : Nat) : Cl MemberD :=
  let o := 0x40 + 16 * m
  let addr := fieldAt b o 8 0 64
  let r : TRef := ⟨addr, fieldAt b (o + 8) 1 0 8, false, fieldAt b (o + 9) 1 0 2, fieldAt b (o + 9) 1 2 2,
    bitAt (fieldAt b (o + 9) 1 0 8) 4, fieldAt b (o + 10) 1 0 8, 0⟩
  if addr == 0 then (⟨0, memberDefault m, { r with rnd := 0, scale := 0, nonSat := false, role := 0 }⟩, 0)
  else
    Cl.bind (memberFmt m r) fun c => let r := { r with fmt := c }
    Cl.bind (clampIf (r.scale != 0 && !(m == 1 && r.scale == 1)) { r with scale := 0 } r) fun r =>
    Cl.bind (clampIf (decide (2 ≤ r.rnd)) { r with rnd := 0 } r) fun r =>
    Cl.bind r.clampRole fun r => (⟨addr, r.fmt, r⟩, 0)

/-- A shard descriptor after its clamps. -/
structure ShardD where
  count : Nat
  freeze : Bool
  guard : Nat
  rem : Bool
  nb : Nat
  nblk : Nat
  base : Nat
  guardPtr : Nat
  normPtr : Nat
  lambda : Nat
  binvIn : Nat
  binvOut : Nat
  members : List MemberD
  remAddr : Nat
  gScale : Nat
  deriving DecidableEq, Repr

def MemberD.none : MemberD := ⟨0, 0, ⟨0, 0, false, 0, 0, false, 0, 0⟩⟩

def ShardD.member (x : ShardD) (m : Nat) : MemberD := x.members.getD m MemberD.none

/-- Bytes as members 0 to 5. -/
def membersOf (b : List Byte) : Nat → Cl (List MemberD)
  | 0 => ([], 0)
  | k + 1 => Cl.bind (membersOf b k) fun ms => Cl.bind (memberOf b k) fun m => (ms ++ [m], 0)

/-- Zero, negative, subnormal, infinite or NaN (R201). -/
def badLambda (x : Nat) : Bool := bitAt x 63 || bits x 52 11 == 0 || bits x 52 11 == 0x7FF

/-- FREEZE takes precedence: nothing else is examined or counted (R225). -/
def shardOf (b : List Byte) : Cl ShardD :=
  let w := fieldAt b 4 4 0 32
  let nblk := fieldAt b 8 4 0 32
  let raw := fieldAt b 0x10 8 0 64
  let build := fun (ms : List MemberD) (g : Nat) (r : Bool) (nb lam : Nat) =>
    (⟨fieldAt b 0 4 0 32, bitAt w 0, g, r, nb, nblk, raw % 2 ^ 50, fieldAt b 0x18 8 0 64, fieldAt b 0x20 8 0 64, lam,
      fieldAt b 0x30 8 0 64, fieldAt b 0x38 8 0 64, ms, fieldAt b 0xA0 8 0 64, fieldAt b 0xA8 8 0 64⟩ : ShardD)
  if bitAt w 0 then (build [] 0 false 2 0, 0)
  else
    Cl.bind (membersOf b 6) fun ms =>
    Cl.bind (clampIf (bits w 1 2 == 3) 0 (bits w 1 2)) fun g =>
    let p := ms.getD 0 MemberD.none
    let fp := p.addr != 0 && p.fmt == 0
    Cl.bind (clampIf (bitAt w 3 && fp) false (bitAt w 3 && p.addr != 0)) fun r =>
    let nb := bits w 8 7
    Cl.bind (clampIf (nblk != 0 && (decide (nb < 2) || decide (64 < nb))) (if nb < 2 then 2 else 64) nb) fun nb =>
    Cl.bind (clampIf (nblk != 0 && badLambda (fieldAt b 0x28 8 0 64)) 0x3E10000000000000 (fieldAt b 0x28 8 0 64)) fun lam =>
    (build ms g r nb lam, b2n (bits raw 50 14 != 0))

/-! ### Program image (R204, R206 to R209) -/

/-- One instruction word (R206). -/
structure Insn where
  op : Nat
  p : Bool
  d : Nat
  a : Nat
  b : Nat
  c : Nat
  rm : Nat
  deriving DecidableEq, Repr

def Insn.nop : Insn := ⟨0, false, 0, 0, 0, 0, 0⟩

def insnOf (w : Nat) : Insn := ⟨bits w 26 6, bitAt w 25, bits w 20 5, bits w 15 5, bits w 10 5, bits w 5 5, bits w 2 3⟩

/-- OP codes 0x1E, 0x1F and 0x24 to 0x3F are unassigned (R208). -/
def opAssigned (op : Nat) : Bool := decide (op ≤ 0x1D) || (decide (0x20 ≤ op) && decide (op ≤ 0x23))

/-- Source operands of an opcode (R208). -/
def opSources (op : Nat) : Nat :=
  if [0x00, 0x1B, 0x20, 0x23].contains op then 0
  else if [0x08, 0x09, 0x0C, 0x0D, 0x15, 0x16, 0x17, 0x18, 0x1C, 0x1D, 0x21, 0x22].contains op then 1
  else if [0x05, 0x06, 0x07, 0x0F, 0x14].contains op then 3
  else 2

/-- The opcode writes D. NOP, ST, RED and BINV make no use of D as a destination, and the conditions of R209 on D as a register are not
applied to them: a DESIGN CHOICE (log entry 47). -/
def opHasDest (op : Nat) : Bool := !([0x00, 0x21, 0x22, 0x23].contains op)

def Insn.sources (i : Insn) : List Nat := [i.a, i.b, i.c].take (opSources i.op)

/-- D is a K operand; or an S register with a V source, or of LD or IDX (R209). -/
def Insn.badDest (i : Insn) : Bool :=
  opHasDest i.op && (decide (0x18 ≤ i.d) ||
    (decide (0x10 ≤ i.d) && (i.op == 0x20 || i.op == 0x1B || i.sources.any fun x => decide (x < 0x10))))

/-- LD and ST of a member they cannot name, and of one that is absent from the bound shard (R209). -/
def Insn.badMember (i : Insn) (sh : Option ShardD) : Bool :=
  (i.op == 0x20 && decide (4 < i.b)) || (i.op == 0x21 && (decide (5 < i.b) || i.b == 1 || i.b == 4)) ||
  ((i.op == 0x20 || i.op == 0x21) && (match sh with
    | some x => (x.member i.b).addr == 0
    | none => false))

/-- The check of one instruction at index `n`, with the kinds that the accumulators have been used with (R209): each
replacement counts once, and a replaced instruction has nothing more to replace. -/
def checkInsn (sh : Option ShardD) (n : Nat) (kinds : List (Option Nat)) (i : Insn) : Cl (Insn × List (Option Nat)) :=
  let badRed := i.op == 0x22 && (decide (1 < i.d) || decide (3 < i.c) || (match kinds.getD i.d none with
    | some k => k != i.c
    | none => false))
  if !opAssigned i.op || i.badDest || i.badMember sh || badRed || (i.op == 0x23 && n != 0) then ((Insn.nop, kinds), 1)
  else
    let kinds := if i.op == 0x22 then updAt (fun _ => some i.c) kinds i.d else kinds
    Cl.bind (clampIf (decide (5 ≤ i.rm)) { i with rm := 0 } i) fun i =>
    let narrow := (i.op == 0x20 || i.op == 0x21) && i.b == 0 && !i.p && (match sh with
      | some x => x.rem
      | none => false)
    Cl.bind (clampIf narrow { i with p := true } i) fun i => ((i, kinds), 0)

/-- The checks over the instructions from index `n`. -/
def checkInsns (sh : Option ShardD) : List Nat → Nat → List (Option Nat) → Cl (List Insn)
  | [], _, _ => ([], 0)
  | w :: ws, n, kinds =>
    Cl.bind (checkInsn sh n kinds (insnOf w)) fun x =>
    Cl.bind (checkInsns sh ws (n + 1) x.2) fun t => (x.1 :: t, 0)

/-- LEN after its clamp (R204). -/
def progLen (b : List Byte) : Cl Nat := clampIf (decide (96 < fieldAt b 0 1 0 7)) 96 (fieldAt b 0 1 0 7)

/-- The instructions of an image, checked against a shard when bound and against none when loaded (R204, R209). A LEN above 96 counts as a
clamp at the load and at every binding, as the checks of R209 do: a DESIGN CHOICE (log entry 47). -/
def progOf (b : List Byte) (sh : Option ShardD) : Cl (List Insn) :=
  Cl.bind (progLen b) fun n => checkInsns sh ((List.range n).map fun i => fieldAt b (0x80 + 4 * i) 4 0 32) 0 [none, none]

/-- Constants K0 to K7. -/
def progConsts (b : List Byte) : List (BitVec 64) := (List.range 8).map fun j => BitVec.ofNat 64 (fieldAt b (0x40 + 8 * j) 8 0 64)

/-! ### The schedule engine (R219 to R221) -/

structure SchedD where
  lrBase : Nat
  lrMin : Nat
  warmStart : Nat
  gamma : Nat
  power : Nat
  peak : Nat
  wdBase : Nat
  step0 : Nat
  warmup : Nat
  decay : Nat
  stepSize : Nat
  period : Nat
  tMult : Nat
  decayKind : Nat
  warmKind : Nat
  wdFollow : Bool
  deriving DecidableEq, Repr

def f64One : Nat := 0x3FF0000000000000

/-- A non-finite binary64 replaced. -/
def finOr (d x : Nat) : Cl Nat := clampIf (bits x 52 11 == 0x7FF) d x
def oneIf0 (n : Nat) : Cl Nat := clampIf (n == 0) 1 n

/-- WARM_START: NaN becomes +0.0; outside 0 to 1 the nearer bound; 0 with exponential warm-up 2^−20. -/
def warmStartOf (exp : Bool) (x : Nat) : Cl Nat :=
  let y := if vIsNan true x then 0 else if vLt true x 0 then 0 else if vLt true f64One x then f64One else x
  let y := if exp && bits y 0 63 == 0 then 0x3EB0000000000000 else y
  clampIf (y != x) y x

def schedOf (b : List Byte) : Cl SchedD :=
  let q := fun o => fieldAt b o 8 0 64
  let w := fieldAt b 0x4E 2 0 16
  Cl.bind (finOr 0 (q 0x00)) fun lrBase => Cl.bind (finOr 0 (q 0x08)) fun lrMin =>
  Cl.bind (clampIf (bits w 3 2 == 3) 0 (bits w 3 2)) fun wk =>
  Cl.bind (warmStartOf (wk == 2) (q 0x10)) fun ws =>
  Cl.bind (finOr f64One (q 0x18)) fun gamma => Cl.bind (finOr f64One (q 0x20)) fun power =>
  Cl.bind (finOr f64One (q 0x28)) fun peak => Cl.bind (finOr 0 (q 0x30)) fun wd =>
  Cl.bind (oneIf0 (fieldAt b 0x40 4 0 32)) fun decay => Cl.bind (oneIf0 (fieldAt b 0x44 4 0 32)) fun ss =>
  Cl.bind (oneIf0 (fieldAt b 0x4C 2 0 16)) fun tm =>
  Cl.bind (clampIf (decide (6 ≤ bits w 0 3)) 0 (bits w 0 3)) fun dk =>
  (⟨lrBase, lrMin, ws, gamma, power, peak, wd, fieldAt b 0x38 4 0 32, fieldAt b 0x3C 4 0 32, decay, ss, fieldAt b 0x48 4 0 32,
    tm, dk, wk, bitAt w 5⟩, 0)

def dAdd (a b : Nat) : Nat := (vAdd true .rne a b).1
def dSub (a b : Nat) : Nat := (vSub true .rne a b).1
def dMul (a b : Nat) : Nat := (vMul true .rne a b).1
def dDiv (a b : Nat) : Nat := (vDiv true .rne a b).1

/-- The restart loop of R220 for a multiplier of at least 2, whose length at least doubles up to its limit. -/
def restarts (tMult : Nat) : Nat → Nat → Nat → Nat → Nat × Nat × Nat
  | 0, tau, len, c => (tau, len, c)
  | k + 1, tau, len, c =>
    if len ≤ tau then restarts tMult k (tau - len) (min (len * tMult) 0xFFFFFFFF) (c + 1) else (tau, len, c)

/-- The rate of the decay phase, from the steps since warm-up, and the restarts passed. -/
def decayRate (x : SchedD) (tau : Nat) : Nat × Nat :=
  let r := if x.period == 0 then (tau, x.decay, 0)
    else if x.tMult == 1 then (tau % x.period, x.period, tau / x.period)
    else restarts x.tMult 64 tau x.period 0
  let tau := r.1
  let len := r.2.1
  let eta := dMul x.lrBase (vPownI true .rne x.peak r.2.2).1
  let u := dDiv (f64OfNat (min tau len)) (f64OfNat len)
  let span := dSub eta x.lrMin
  let lr := match x.decayKind with
    | 1 => dAdd x.lrMin (dMul span (dSub f64One u))
    | 2 => dAdd x.lrMin (dMul span (dMul 0x3FE0000000000000 (dAdd f64One (vCosPi u))))
    | 3 => dMul eta (vSqrt true .rne (dDiv (f64OfNat len) (dAdd (f64OfNat tau) (f64OfNat len)))).1
    | 4 => dMul eta (vPownI true .rne x.gamma (tau / x.stepSize : Nat)).1
    | 5 => dAdd x.lrMin (dMul span (vPow (dSub f64One u) x.power))
    | _ => eta
  (lr, r.2.2)

/-- S0 to S3 of a step (R220, R221). -/
def schedule (x : SchedD) (step : Nat) : List (BitVec 64) :=
  let t := step - x.step0
  let w := if x.warmKind == 0 then 0 else x.warmup
  let u := dDiv (f64OfNat t) (f64OfNat w)
  let r := if t < w then
      (if x.warmKind == 1 then dMul x.lrBase (dAdd x.warmStart (dMul (dSub f64One x.warmStart) u))
       else dMul x.lrBase (vPow x.warmStart (dSub f64One u)), 0)
    else decayRate x (t - w)
  let wd := if !x.wdFollow then x.wdBase
    else if bits x.lrBase 0 63 == 0 then 0 else dMul x.wdBase (dDiv r.1 x.lrBase)
  [r.1, wd, dAdd (f64OfNat t) f64One, f64OfNat r.2].map (BitVec.ofNat 64)

/-- A SCHED_PTR of 0 (R200). -/
def noSchedule : List (BitVec 64) := [0, 0, 0x3FF0000000000000, 0]

end Sys2Proof.Machine
end

