-- ==== Sys2Proof/Machine/Twine.lean ====
section
/-! DEFINITION. The vector engine: chunks, operands, the effect of every Twine instruction (R205 to R218), and the commands
by which a core issues one of them (log entry 26). -/
namespace Sys2Proof.Machine

/-- An instruction in progress: the checks of memory, and the vector context. -/
structure TX where
  c : Chk
  t : Twine
  deriving DecidableEq, Repr

/-! ### The bound shard -/

/-- The shard of the bound UPDATE. -/
def Twine.shard (t : Twine) : Option ShardD := t.bundle.map fun b => (shardOf b.shard).1

/-- Active lanes of the chunk in progress (R205). -/
def Twine.lanes (t : Twine) : Nat :=
  match t.shard with
  | some x => min 512 (x.count - 512 * t.chunk)
  | none => 512

/-- BASE plus the shard element index of a lane (R203, R208). -/
def Twine.index (t : Twine) (lane : Nat) : Nat :=
  (match t.shard with
   | some x => x.base
   | none => 0) + 512 * t.chunk + lane

/-! ### Reduction accumulators (R213) -/

/-- The result of an accumulator, rounded once to binary64. -/
def RedAcc.result (r : RedAcc) : Nat :=
  match r.kind with
  | none => 0
  | some 3 => f64OfNat r.sum.toNat
  | some k =>
    if r.nan || (k == 0 && r.pinf && r.ninf) then 0x7FF8000000000000
    else if r.pinf || r.ninf then vInf true (k == 0 && r.ninf)
    else (vRoundDy true .rne r.sum (if k == 1 then -2148 else -1074) false).1

/-- A binary64 or binary32 value in units of 2^−1074. -/
def redUnits (x : Split) : Int := x.dyI * (2 ^ (x.e + 1074).toNat : Nat)

/-- One value gathered. -/
def RedAcc.take (kind : Nat) (r : RedAcc) (x : Split) : RedAcc :=
  let r := { r with kind := some kind }
  if kind == 3 then { r with sum := r.sum + b2n (x.cl != 0) }
  else if x.cl == 1 then { r with nan := true }
  else if x.cl == 2 then (if kind == 0 && x.sg then { r with ninf := true } else { r with pinf := true })
  else match kind with
    | 0 => { r with sum := r.sum + redUnits x }
    | 1 => { r with sum := r.sum + redUnits x * redUnits x }
    | _ => { r with sum := max r.sum (redUnits x).natAbs }

/-! ### Chunks (R205, R212) -/

/-- Instructions go to chunk context `k` from now on (R215). -/
def Twine.select (t : Twine) (k : Nat) : Twine :=
  if t.sel == k then t
  else
    let cs := updAt (fun _ => ⟨t.v, t.sreg, t.chunk, t.gseen⟩) t.ctxs t.sel
    match cs[k]? with
    | some x => { t with v := x.v, sreg := x.sreg, chunk := x.chunk, gseen := x.gseen, sel := k, ctxs := cs }
    | none => t

/-- A chunk begins in its context, chunks 4j to 4j + 3 in the four of them (R215): V registers zero, S0 to S3 the schedule, S4 and S5 +0.0, S6 and S7 by the pass. The first chunk of pass 1
empties the accumulators and the guard, and that of pass 2 the flags and stores. -/
def Twine.begin (t : Twine) (j : Nat) (pass2 : Bool) : Twine :=
  let t := t.select (j % 4)
  let t := if j == 0 && !pass2 then
      { t with acc := [RedAcc.reset, RedAcc.reset], guarded := 0, tripped := false, flags := 0, stores := [] }
    else if j == 0 then { t with flags := 0, stores := [] } else t
  let sched := match t.bundle with
    | some b => b.sched
    | none => t.sreg.take 4
  let k := match t.bundle with
    | some b => progConsts b.image
    | none => t.kreg
  let red := if pass2 then t.acc.map fun r => BitVec.ofNat 64 r.result else [0, 0]
  { t with v := List.replicate 16 [], sreg := sched ++ [0, 0] ++ red, kreg := k, chunk := j, pass2 := pass2, gseen := false }

/-! ### Operands (R207) -/

/-- An S or K operand as the instruction's precision reads it. -/
def Twine.scalar (t : Twine) (p : Bool) (code : Nat) : Nat :=
  let x := (if code < 0x18 then t.sreg.getD (code - 0x10) 0 else t.kreg.getD (code - 0x18) 0).toNat
  if p then x else (vCvtNarrow .rne x).1

/-- An operand at a lane: inactive and unwritten lanes read as +0. -/
def Twine.operand (t : Twine) (p : Bool) (code lane : Nat) : Nat :=
  if code < 0x10 then
    let x := ((t.v.getD code []).getD lane 0).toNat
    if p then x else x % 2 ^ 32
  else t.scalar p code

/-- A binary32 result widened exactly for an S register (R207); a NaN keeps its sign and fraction. -/
def widenExact (x : Nat) : Nat :=
  if vIsNan false x then bits x 31 1 * 2 ^ 63 + 0x7FF * 2 ^ 52 + bits x 0 23 * 2 ^ 29 else (vCvtWiden x).1

/-- The flags as the five bits of R374. -/
def VFlags.toNat (f : VFlags) : Nat := b2n f.inv + 2 * b2n f.dz + 4 * b2n f.ovf + 8 * b2n f.unf + 16 * b2n f.nx

/-- Flags collect in pass 2 only (R199). -/
def Twine.flag (t : Twine) (f : VFlags) : Twine := if t.pass2 then { t with flags := t.flags ||| f.toNat } else t

/-- The values of a vector destination, lane by lane. -/
def Twine.setV (t : Twine) (d : Nat) (xs : List Nat) : Twine := { t with v := updAt (fun _ => xs.map (BitVec.ofNat 64)) t.v d }

/-- The result of an operation: once for a scalar instruction, else for every active lane (R207). -/
def Twine.result (t : Twine) (i : Insn) (once : Bool) (g : Nat → Nat × VFlags) : Twine :=
  let n := t.lanes
  if once then
    let r := g 0
    let t := t.flag r.2
    if 0x10 ≤ i.d then
      { t with sreg := updAt (fun _ => BitVec.ofNat 64 (if i.p then r.1 else widenExact r.1)) t.sreg (i.d - 0x10) }
    else t.setV i.d (List.replicate n r.1)
  else
    let rs := (List.range n).map g
    (t.flag (rs.foldl (fun f r => f.or r.2) VFlags.none)).setV i.d (rs.map fun r => r.1)

/-- An operation on its sources, read at precision `sp`. -/
def Twine.arith (t : Twine) (i : Insn) (sp : Bool) (f : List Nat → Nat × VFlags) : Twine :=
  t.result i (i.sources.all fun x => decide (0x10 ≤ x)) fun lane => f (i.sources.map fun x => t.operand sp x lane)

/-! ### Results by opcode (R208) -/

def arg (xs : List Nat) (k : Nat) : Nat := xs.getD k 0
def bitsOnly (x : Nat) : Nat × VFlags := (x, VFlags.none)

/-- C is ±0. -/
def isZeroCode (p : Bool) (x : Nat) : Bool := (vSplit p x).cl == 0 && (vSplit p x).sig == 0

/-- The result of a computing opcode on its sources. -/
def opResult (i : Insn) (xs : List Nat) : Nat × VFlags :=
  let p := i.p
  let m := rmOf i.rm
  let a := arg xs 0
  let b := arg xs 1
  let c := arg xs 2
  match i.op with
  | 0x01 => vAdd p m a b
  | 0x02 => vSub p m a b
  | 0x03 => vMul p m a b
  | 0x04 => vDiv p m a b
  | 0x05 => vFma p m false false a b c
  | 0x06 => vFma p m false true a b c
  | 0x07 => vFma p m true false a b c
  | 0x08 => vSqrt p m a
  | 0x09 => vRsqrt p m a
  | 0x0A => vMin p a b
  | 0x0B => vMax p a b
  | 0x0C => bitsOnly (a % vZero p true)
  | 0x0D => bitsOnly (vNeg p a)
  | 0x0E => bitsOnly (a % vZero p true + vZero p (vSign p b))
  | 0x0F => vClip p a b c
  | 0x10 => vCompare p (fun lt _ => lt) false a b
  | 0x11 => vCompare p (fun _ gt => !gt) false a b
  | 0x12 => vCompare p (fun lt gt => !lt && !gt) false a b
  | 0x13 => vCompare p (fun _ _ => false) true a b
  | 0x14 => bitsOnly (if isZeroCode p c then b else a)
  | 0x15 => if p then vCvtWiden a else vCvtNarrow m a
  | 0x16 => vRint p m a
  | 0x17 => vExp2 p m a
  | 0x18 => vLog2 p m a
  | 0x19 => vPown p m a b
  | 0x1A => vScalb p m a b
  | 0x1C => bitsOnly a
  | 0x1D => bitsOnly (if (vSplit p a).cl == 0 then vZero p false else vOne p)
  | _ => bitsOnly 0

/-- A computing instruction. CVT reads the other precision (R208). With P = 1 and an S or K source it reads the binary64 value
narrowed by roundTiesToEven, as R207 reads a scalar of an instruction with P = 0: a DESIGN CHOICE (log entry 47). -/
def Twine.compute (t : Twine) (i : Insn) : Twine := t.arith i (if i.op == 0x15 then !i.p else i.p) (opResult i)

/-- IDX (R208): BASE plus the element index, converted under RM. -/
def Twine.idx (t : Twine) (i : Insn) : Twine :=
  t.result i false fun lane => vRound i.p (rmOf i.rm) false (Mag.dy (t.index lane) 0)

/-! ### LD (R212, R217) -/

/-- A NaN element loaded: its sign and fraction in the topmost places (R212). -/
def nanLoad (p : Bool) (f : Fmt) (x : Nat) : Nat :=
  match fpParam f with
  | some q => bits x (q.w + q.m) 1 * vZero p true + (2 ^ (vPar p).w - 1) * 2 ^ (vPar p).m + bits x 0 q.m * 2 ^ ((vPar p).m - q.m)
  | none => vNan p

/-- A value in the instruction's format, rounded once by roundTiesToEven. -/
def valueLoad (p : Bool) (v : EVal) : Nat × VFlags :=
  match v with
  | .nan => (vNan p, VFlags.none)
  | .inf n => (vInf p n, VFlags.none)
  | .fin n m => vRound p .rne n m

/-- One loaded element: format, SCALE of G's record, and the remainder of P. -/
def loadElem (p : Bool) (f : Fmt) (scale : Option Nat) (r : Option Nat) (x : Nat) : Nat × VFlags :=
  if (splitElem f [] x).cl == 1 then (nanLoad p f x, VFlags.none)
  else match r with
    | some y =>
      (match remPair f x (sext 16 y) with
       | some v => vRoundDy p .rne v.1 v.2 (splitElem f [] x).sg
       | none => valueLoad p (elemVal f [] x))
    | none => match scale with
      | some k => valueLoad p ((elemVal f [] x).mulV (f32Val k))
      | none => valueLoad p (elemVal f [] x)

/-- Where the chunk's elements of a member lie, and how many bytes they take (R202). -/
def Twine.place (t : Twine) (addr w : Nat) : Nat × Nat := (addr + 512 * t.chunk * w / 8, ceilDiv (t.lanes * w) 8)

/-- Element codes of the chunk from memory. The nibbles of an E2M1 gradient are counted from the byte at ADDR, low one first, whatever the
parity of BASE: a DESIGN CHOICE (log entry 47). -/
def chunkCodes (s : State) (a w n : Nat) : List Nat :=
  (List.range n).map fun i => unpackAt w (fun b => rdByte s ((a + b) % 2 ^ 64)) i

/-- An element of G that the guard takes (R214). -/
def guardHit (guard : Nat) (cl : Nat) : Bool := guard != 2 && (cl == 1 || (cl == 2 && guard == 1))

/-- LD with a bound shard. Nothing is loaded where the read is stopped. -/
def TX.load (w : Who) (i : Insn) (sh : ShardD) (x : TX) : TX :=
  let m := sh.member i.b
  let f := fmtOf m.fmt
  let rem := i.b == 0 && sh.rem
  let pl := x.t.place m.addr (fmtWidth f)
  let pr := x.t.place sh.remAddr 16
  let c := Chk.read w x.c pl.1 pl.2
  let c := if rem then Chk.read w c pr.1 pr.2 else c
  if c.stop.isSome then { x with c := c }
  else
    let n := x.t.lanes
    let codes := chunkCodes c.s pl.1 (fmtWidth f) n
    let rs := chunkCodes c.s pr.1 16 n
    let scale := if i.b == 1 && m.conv.scale == 1 then x.t.bundle.bind fun b => b.gscale else none
    let t := x.t.result i false fun lane =>
      loadElem i.p f scale (if rem then some (rs.getD lane 0) else none) (codes.getD lane 0)
    let bad := (codes.filter fun y => guardHit sh.guard (splitElem f [] y).cl).length
    let t := if i.b == 1 && !t.pass2 then
        { t with tripped := t.tripped || decide (0 < bad), guarded := t.guarded + (if t.gseen then 0 else bad), gseen := true }
      else t
    ⟨c, t⟩

/-! ### ST (R214, R217, R218) -/

/-- A source value as a real. -/
def codeVal (p : Bool) (x : Nat) : EVal := (vSplit p x).val

/-- The key inputs of R203 for a lane. -/
def Twine.braid (t : Twine) (s : State) (role lane : Nat) : Nat :=
  match t.bundle with
  | some b => braid16 (regGet s offJobseed).toNat (dStep b.desc) (dLayer b.desc) (dOp b.desc) role (t.index lane % 2 ^ 50)
  | none => 0

/-- One stored element of a member without a remainder (R218). -/
def Twine.storeElem (t : Twine) (s : State) (m : MemberD) (v : EVal) (lane : Nat) : Nat × ConvEv :=
  convertTo (fmtOf m.fmt) [] (rndOf m.conv.role m.conv.rnd (t.braid s m.conv.role lane)) m.conv.nonSat v

/-- The writes of ST and the flags of its conversions (R199). -/
def Twine.storeWrites (t : Twine) (s : State) (i : Insn) (sh : ShardD) : List MemWrite × VFlags :=
  let m := sh.member i.b
  let f := fmtOf m.fmt
  let vals := (List.range t.lanes).map fun lane => codeVal i.p (t.operand i.p i.a lane)
  if i.b == 0 && sh.rem then
    let xs := vals.map fun v => remSplit f m.conv.nonSat v
    ([⟨(t.place m.addr (fmtWidth f)).1, packElems (fmtWidth f) (xs.map fun x => x.1), .data⟩,
      ⟨(t.place sh.remAddr 16).1, packElems 16 (xs.map fun x => x.2.1), .data⟩],
      xs.foldl (fun g x => g.or (VFlags.ofConv x.2.2)) VFlags.none)
  else
    let xs := (vals.zip (List.range vals.length)).map fun v => t.storeElem s m v.1 v.2
    ([⟨(t.place m.addr (fmtWidth f)).1, packElems (fmtWidth f) (xs.map fun x => x.1), .data⟩],
      xs.foldl (fun g x => g.or (VFlags.ofConv x.2)) VFlags.none)

/-- ST with a bound shard: in pass 1 its source values feed the guard; in pass 2 its writes are collected. -/
def TX.store (w : Who) (i : Insn) (sh : ShardD) (x : TX) : TX :=
  if !x.t.pass2 then
    let hit := (List.range x.t.lanes).any fun lane => guardHit sh.guard (vSplit i.p (x.t.operand i.p i.a lane)).cl
    { x with t := { x.t with tripped := x.t.tripped || hit } }
  else
    let ws := x.t.storeWrites x.c.s i sh
    let c := ws.1.foldl (fun c r => Chk.write w c r.addr r.bytes.length) x.c
    ⟨c, if c.stop.isSome then x.t else { x.t.flag ws.2 with stores := x.t.stores ++ ws.1 }⟩

/-! ### RED (R212, R213) -/

/-- RED: in pass 1 the active lanes are gathered; an accumulator keeps its first kind (R209). -/
def Twine.red (t : Twine) (i : Insn) : Twine :=
  let other := match (t.acc.getD i.d RedAcc.reset).kind with
    | some k => k != i.c
    | none => false
  if t.pass2 || decide (1 < i.d) || decide (3 < i.c) || other then t
  else
    let xs := (List.range t.lanes).map fun lane => vSplit i.p (t.operand i.p i.a lane)
    { t with acc := updAt (fun r => xs.foldl (RedAcc.take i.c) { r with kind := some i.c }) t.acc i.d }

/-! ### One instruction -/

/-- One checked instruction. LD and ST without a bound shard have nothing to reach. -/
def TX.exec (w : Who) (i : Insn) (x : TX) : TX :=
  if x.c.stop.isSome then x
  else match i.op with
    | 0x00 => x
    | 0x23 => x
    | 0x1B => { x with t := x.t.idx i }
    | 0x20 => match x.t.shard with
      | some sh => x.load w i sh
      | none => x
    | 0x21 => match x.t.shard with
      | some sh => x.store w i sh
      | none => x
    | 0x22 => { x with t := x.t.red i }
    | _ => { x with t := x.t.compute i }

/-! ### Instructions issued one by one (log entry 26) -/

/-- The command that a core's instructions belong to. -/
def Twine.who (t : Twine) : Who :=
  match t.bundle with
  | some b => ⟨b.q, b.idx, dLayer b.desc, dOp b.desc⟩
  | none => Who.none

/-- The instruction as the sequencer issues it, after the checks of R209. -/
def issuedInsn (o : TwineOps) (op : Nat) (t : Twine) : Insn :=
  (checkInsn t.shard 0 [none, none] ⟨op, o.p, o.d.toNat, o.a.toNat, o.b.toNat, o.c.toNat, o.rm.toNat⟩).1.1

/-- The context in which the instruction runs: a new chunk's where it is the chunk's first, else the one it names. -/
def issueContext (o : TwineOps) (t : Twine) : Twine :=
  match o.chunk with
  | some k => t.begin k.1 k.2
  | none => t.select o.ctx.val

/-- Core `c` issues an instruction of opcode `op`. -/
def issue (op : Nat) (c : Fin 16) (o : TwineOps) (s : State) : State :=
  let t := issueContext o s.cores[c].twine
  let x := TX.exec t.who (issuedInsn o op t) ⟨Chk.init s o.env, t⟩
  updCore x.c.s c fun k => { k with twine := x.t }

def execTwineNop (c : Fin 16) (o : TwineOps) (s : State) : Res := .next (issue 0x00 c o s)
def execAdd (c : Fin 16) (o : TwineOps) (s : State) : Res := .next (issue 0x01 c o s)
def execSub (c : Fin 16) (o : TwineOps) (s : State) : Res := .next (issue 0x02 c o s)
def execMul (c : Fin 16) (o : TwineOps) (s : State) : Res := .next (issue 0x03 c o s)
def execDiv (c : Fin 16) (o : TwineOps) (s : State) : Res := .next (issue 0x04 c o s)
def execFma (c : Fin 16) (o : TwineOps) (s : State) : Res := .next (issue 0x05 c o s)
def execFms (c : Fin 16) (o : TwineOps) (s : State) : Res := .next (issue 0x06 c o s)
def execFnma (c : Fin 16) (o : TwineOps) (s : State) : Res := .next (issue 0x07 c o s)
def execSqrt (c : Fin 16) (o : TwineOps) (s : State) : Res := .next (issue 0x08 c o s)
def execRsqrt (c : Fin 16) (o : TwineOps) (s : State) : Res := .next (issue 0x09 c o s)
def execTmin (c : Fin 16) (o : TwineOps) (s : State) : Res := .next (issue 0x0A c o s)
def execTmax (c : Fin 16) (o : TwineOps) (s : State) : Res := .next (issue 0x0B c o s)
def execAbs (c : Fin 16) (o : TwineOps) (s : State) : Res := .next (issue 0x0C c o s)
def execNeg (c : Fin 16) (o : TwineOps) (s : State) : Res := .next (issue 0x0D c o s)
def execCopysign (c : Fin 16) (o : TwineOps) (s : State) : Res := .next (issue 0x0E c o s)
def execClip (c : Fin 16) (o : TwineOps) (s : State) : Res := .next (issue 0x0F c o s)
def execClt (c : Fin 16) (o : TwineOps) (s : State) : Res := .next (issue 0x10 c o s)
def execCle (c : Fin 16) (o : TwineOps) (s : State) : Res := .next (issue 0x11 c o s)
def execCeq (c : Fin 16) (o : TwineOps) (s : State) : Res := .next (issue 0x12 c o s)
def execCun (c : Fin 16) (o : TwineOps) (s : State) : Res := .next (issue 0x13 c o s)
def execSel (c : Fin 16) (o : TwineOps) (s : State) : Res := .next (issue 0x14 c o s)
def execCvt (c : Fin 16) (o : TwineOps) (s : State) : Res := .next (issue 0x15 c o s)
def execRint (c : Fin 16) (o : TwineOps) (s : State) : Res := .next (issue 0x16 c o s)
def execExp2 (c : Fin 16) (o : TwineOps) (s : State) : Res := .next (issue 0x17 c o s)
def execLog2 (c : Fin 16) (o : TwineOps) (s : State) : Res := .next (issue 0x18 c o s)
def execPown (c : Fin 16) (o : TwineOps) (s : State) : Res := .next (issue 0x19 c o s)
def execScalb (c : Fin 16) (o : TwineOps) (s : State) : Res := .next (issue 0x1A c o s)
def execIdx (c : Fin 16) (o : TwineOps) (s : State) : Res := .next (issue 0x1B c o s)
def execMov (c : Fin 16) (o : TwineOps) (s : State) : Res := .next (issue 0x1C c o s)
def execNfin (c : Fin 16) (o : TwineOps) (s : State) : Res := .next (issue 0x1D c o s)
def execLd (c : Fin 16) (o : TwineOps) (s : State) : Res := .next (issue 0x20 c o s)
def execSt (c : Fin 16) (o : TwineOps) (s : State) : Res := .next (issue 0x21 c o s)
def execRed (c : Fin 16) (o : TwineOps) (s : State) : Res := .next (issue 0x22 c o s)
/-- BINV: a NOP in both passes; it marks a program (R208, R222). -/
def execBinv (c : Fin 16) (o : TwineOps) (s : State) : Res := .next (issue 0x23 c o s)

end Sys2Proof.Machine
end

