-- ==== Sys2Proof/Machine/Update.lean ====
section
/-! DEFINITION. UPDATE (R200, R211 to R227): its passes, the guard, the block inverse (R222 to R224), and its completion. -/
namespace Sys2Proof.Machine

def udShard (d : Desc) : Nat := fieldAt d 0x28 8 0 64
def udSched (d : Desc) : Nat := fieldAt d 0x30 8 0 64
def udProg (d : Desc) : Nat := fieldAt d 0x38 4 0 4

def slotImage (s : State) (n : Nat) : List Byte := s.programs.toList.getD n []

/-! ### Passes (R205, R211) -/

/-- What a pass has come to: the checks and the context, the chunks written in pass 2 with the flags of each, the chunks that
met a poisoned read or a refused access, and whether a read was poisoned and an access refused. -/
structure Pass where
  x : TX
  chunks : List (List MemWrite × Nat)
  bad : List Nat
  poisoned : Bool
  refused : Bool
  deriving DecidableEq, Repr

/-- One chunk of a pass. One that meets a poisoned read or a refused access is not written, and its group is the last of
pass 2 (R227). After a refusal no later access that would be refused is made (R245). -/
def Pass.chunk (w : Who) (is : List Insn) (pass2 : Bool) (p : Pass) (j : Nat) : Pass :=
  if (match p.bad with
      | [] => false
      | b :: _ => !pass2 || b / 4 != j / 4) then p
  else
    let t := p.x.t.begin j pass2
    let f0 := t.flags
    let t := { t with flags := 0, stores := [] }
    let x := is.foldl (fun x i => TX.exec w i x) { p.x with t := t }
    let f := x.t.flags
    let y : TX := { x with t := { x.t with flags := f0 ||| f } }
    match x.c.stop with
    | none => { p with x := y, chunks := p.chunks ++ [(x.t.stores, f)] }
    | some (.poisoned _) =>
      { p with x := { y with c := y.c.go }, chunks := p.chunks ++ [([], f)], bad := p.bad ++ [j], poisoned := true }
    | some (.refused _) =>
      { p with x := { y with c := { y.c.go with s := if p.refused then p.x.c.s else y.c.s } }
               chunks := p.chunks ++ [([], f)], bad := p.bad ++ [j], refused := true }

/-- A pass over the chunks of a shard. -/
def runPass (w : Who) (is : List Insn) (pass2 : Bool) (count : Nat) (x : TX) : Pass :=
  (List.range (ceilDiv count 512)).foldl (Pass.chunk w is pass2) ⟨x, [], [], false, false⟩

/-! ### The block inverse (R223) -/

def dFma (neg : Bool) (a b c : Nat) : Nat := (vFma true .rne neg false a b c).1

/-- Row i of l, from the rows above it: none where the pivot fails. -/
def cholRow (m : List Nat) (lam : Nat) (rows : List (List Nat)) : Option (List Nat) :=
  let i := rows.length
  let off := (List.range i).foldl (fun (r : List Nat) j =>
    let lj := rows.getD j []
    let s := (List.range j).foldl (fun s q => dFma true (r.getD q 0) (lj.getD q 0) s) (m.getD j 0)
    r ++ [dDiv s (lj.getD j 0)]) []
  let d := (List.range i).foldl (fun s q => dFma true (off.getD q 0) (off.getD q 0) s) (dAdd (m.getD i 0) lam)
  let x := vSplit true d
  if x.cl != 0 || x.sg || x.sig == 0 then none else some (off ++ [(vSqrt true .rne d).1])

def cholesky (lam : Nat) : List (List Nat) → List (List Nat) → Option (List (List Nat))
  | [], rows => some rows
  | m :: ms, rows => match cholRow m lam rows with
    | none => none
    | some r => cholesky lam ms (rows ++ [r])

/-- Row i of u, the inverse of l, from the rows above it. -/
def invRow (l : List Nat) (us : List (List Nat)) : List Nat :=
  let i := us.length
  (List.range i).map (fun j =>
    let s := (List.range (i - j)).foldl (fun s k => dFma false (l.getD (j + k) 0) ((us.getD (j + k) []).getD j 0) s) 0
    dDiv (vNeg true s) (l.getD i 0)) ++ [dDiv f64One (l.getD i 0)]

/-- One attempt at damping `lam`: the lower triangle of the inverse in binary64. -/
def invAttempt (nb lam : Nat) (m : List (List Nat)) : Option (List (List Nat)) :=
  match cholesky lam m [] with
  | none => none
  | some l =>
    let u := l.foldl (fun us r => us ++ [invRow r us]) []
    let y := (List.range nb).map fun i => (List.range (i + 1)).map fun j =>
      (List.range (nb - i)).foldl (fun s k => dFma false ((u.getD (i + k) []).getD i 0) ((u.getD (i + k) []).getD j 0) s) 0
    if y.any (fun r => r.any fun x => (vSplit true x).cl != 0) then none else some y

/-- The attempts of R223, the damping doubling. -/
def invAttempts (nb lam : Nat) (m : List (List Nat)) : Nat → Option (List (List Nat))
  | 0 => none
  | k + 1 => match invAttempt nb lam m with
    | some y => some y
    | none => invAttempts nb (dMul lam 0x4000000000000000) m k

/-- The 4 NB² bytes of an inverse, from the lower triangle of its input in binary32; none when every attempt fails (R224). -/
def blockInverse (nb lam : Nat) (m : List (List Nat)) : Option (List Byte) :=
  (invAttempts nb lam (m.map fun r => r.map fun x => (vCvtWiden x).1) 4).map fun y =>
    (List.range nb).flatMap fun i => (List.range nb).flatMap fun j =>
      le4 (vCvtNarrow .rne ((y.getD (max i j) []).getD (min i j) 0)).1

/-- The blocks done: their writes with whether each was kept, and the first that was not done. -/
structure Blocks where
  c : Chk
  done : List (List MemWrite × Bool)
  deriving DecidableEq, Repr

/-- One block: its lower triangle is read, row by row. -/
def Blocks.next (w : Who) (sh : ShardD) (b : Blocks) (k : Nat) : Blocks :=
  if b.c.stop.isSome then b
  else
    let size := 4 * sh.nb * sh.nb
    let a := sh.binvIn + k * size
    let c := (List.range sh.nb).foldl (fun c i => Chk.read w c (a + 4 * sh.nb * i) (4 * (i + 1))) b.c
    if c.stop.isSome then { b with c := c }
    else
      let m := (List.range sh.nb).map fun i => (List.range (i + 1)).map fun j => rdNat c.s (a + 4 * (sh.nb * i + j)) 4
      match blockInverse sh.nb sh.lambda m with
      | none => ⟨c, b.done ++ [([], true)]⟩
      | some bytes =>
        let o := sh.binvOut + k * size
        let c := Chk.write w c o size
        if c.stop.isSome then { b with c := c } else ⟨c, b.done ++ [([⟨o, bytes, .data⟩], false)]⟩

/-! ### The phases (R211) -/

/-- What an UPDATE comes to. -/
structure UpdOut where
  x : TX
  status : Nat
  result : List Byte
  norm : List MemWrite
  blocks : List (List MemWrite × Bool)
  chunks : List (List MemWrite × Nat)
  guarded : Nat
  tripped : Bool
  deriving DecidableEq, Repr

def isPoisonStop : Option Stop → Bool
  | some (.poisoned _) => true
  | _ => false

/-- NORM_PTR: A0 and A1 (R213). -/
def normWrites (sh : ShardD) (t : Twine) : List MemWrite :=
  if sh.normPtr == 0 then [] else [⟨sh.normPtr, t.acc.flatMap fun r => le8 r.result, .data⟩]

/-- A contained end before anything is written. -/
def UpdOut.early (x : TX) (poison : Bool) : UpdOut := ⟨x, 1, updResult (16 * b2n poison) 0 0 0 0 0, [], [], [], 0, false⟩

/-- The end of an UPDATE, with the NORM_PTR write; one that is refused makes it contained. -/
def UpdOut.close (w : Who) (sh : ShardD) (o : UpdOut) : UpdOut :=
  let ns := normWrites sh o.x.t
  let c := ns.foldl (fun c r => Chk.write w c r.addr r.bytes.length) o.x.c
  if c.stop.isSome then { o with x := { o.x with c := c }, status := 1 } else { o with x := { o.x with c := c }, norm := ns }

/-- Pass 2 after the block inverse (R211, R227). -/
def updPass2 (w : Who) (sh : ShardD) (is : List Insn) (x : TX) (bs : List (List MemWrite × Bool)) : UpdOut :=
  let kept := keptOf bs
  let p := runPass w is true sh.count x
  let res := fun (b fl ph first : Nat) => updResult (b + 4 * b2n (decide (0 < kept))) fl ph 0 kept first
  let fl := orFlags (p.chunks.map fun c => c.2)
  match p.bad with
  | j :: _ => ⟨p.x, 1, res (8 + 16 * b2n p.poisoned) fl 3 j, [], bs, p.chunks, 0, false⟩
  | [] => UpdOut.close w sh ⟨p.x, 0, res 0 fl 0 0, [], bs, p.chunks, 0, false⟩

/-- The phases of an UPDATE with a bound program (R211 to R214, R222 to R227). -/
def updPhases (w : Who) (sh : ShardD) (is : List Insn) (word : Nat) (x : TX) : UpdOut :=
  let p := runPass w is false sh.count x
  if !p.bad.isEmpty then UpdOut.early p.x p.poisoned
  else if word != 0 || p.x.t.tripped then
    let g := p.x.t.guarded
    UpdOut.close w sh ⟨p.x, 0, updResult 2 0 0 g 0 0, [], [], [], g, true⟩
  else
    let binv := match is with
      | i :: _ => i.op == 0x23
      | [] => false
    let b := (List.range (if binv then sh.nblk else 0)).foldl (Blocks.next w sh) ⟨p.x.c, []⟩
    let kept := keptOf b.done
    if b.c.stop.isSome then
      ⟨{ p.x with c := b.c }, 1,
        updResult (8 + 16 * b2n (isPoisonStop b.c.stop) + 4 * b2n (decide (0 < kept))) 0 2 0 kept b.done.length, [], b.done, [], 0, false⟩
    else updPass2 w sh is { p.x with c := b.c } b.done

/-! ### The command -/

/-- The vector context with an UPDATE bound (R200). -/
def bindTwine (b : Bundle) : Twine := { Twine.reset with bundle := some b }

/-- The core of a mask of one core. -/
def coreOf (mask : Nat) : Fin 16 := ⟨Nat.log2 mask % 16, Nat.mod_lt _ (by decide)⟩

/-- The UPDATE starts with this outcome, on a core where it runs phases; its contexts stand as the run leaves them. -/
def putUpdate (q : Fin 32) (d : Desc) (n : Nat) (slot : Option Nat) (o : UpdOut) : State :=
  let mask := if o.x.t.bundle.isSome then coresOf o.x.c.s (dKind d) false else 0
  let s := startCmdOn mask o.x.c.s q d (n + b2n o.x.c.unbacked) fun y =>
    { y with status := o.status, result := o.result, work := .update slot o.norm o.blocks o.chunks o.guarded o.tripped }
  match s.queues[q].active.getLast? with
  | some c =>
    if o.x.t.bundle.isSome then
      tracePhases (updCore s (coreOf c.cores) fun k => { k with twine := o.x.t }) c (whoOf q c.idx d) [1]
    else s
  | none => s

/-- An UPDATE that starts: its shard descriptor, whose FREEZE goes before everything (R225), an empty slot, which counts once
and of which nothing else is examined (R210), a COUNT of 0 (R201), or its inputs in the order of R200, and the phases. A frozen
UPDATE, and one whose inputs stop it, binds no slot, and counts no replacement of its program (R209). The clamps of its shard descriptor
count then, those of a scale or schedule record that it has read do not: a DESIGN CHOICE (log entry 40). -/
def updateBody (q : Fin 32) (c : Chk) (d : Desc) (n : Nat) : State :=
  let w := whoOf q c.s.queues[q].head d
  let slot := udProg d
  let c := Chk.read w c (udShard d) 256
  let done := fun (c : Chk) (k : Option Nat) (st n : Nat) (b : Nat) => putUpdate q d n k
    ⟨⟨c, Twine.reset⟩, st, updResult b 0 0 0 0 0, [], [], [], 0, false⟩
  if c.stop.isSome then done c none 1 n (16 * b2n (isPoisonStop c.stop))
  else
    let raw := rd c.s (udShard d) 256
    let cl := shardOf raw
    let sh := cl.1
    if sh.freeze then done c none 0 n 1
    else if (slotImage c.s slot).isEmpty then done c (some slot) 0 (n + 1) 0
    else
      let n := n + cl.2
      let image := slotImage c.s slot
      let is := progOf image (some sh)
      if sh.count == 0 then done c (some slot) 0 (n + is.2) 0
      else
        let g := sh.member 1
        let scaled := g.addr != 0 && g.conv.scale == 1
        let c := if scaled then Chk.read w c sh.gScale 8 else c
        let c := if udSched d == 0 then c else Chk.read w c (udSched d) 128
        let c := if sh.guardPtr == 0 then c else Chk.read w c sh.guardPtr 4
        if c.stop.isSome then done c none 1 n (16 * b2n (isPoisonStop c.stop))
        else
          let gr := scaleRec (rd c.s sh.gScale 8)
          let sd := schedOf (rd c.s (udSched d) 128)
          let n := n + is.2 + (if scaled then gr.2 else 0) + (if udSched d == 0 then 0 else sd.2)
          let sv := if udSched d == 0 then noSchedule else schedule sd.1 (dStep d)
          let b : Bundle := ⟨q, c.s.queues[q].head.toNat, d, raw, if scaled then some gr.1.scale else none, sv, image⟩
          let word := if sh.guardPtr == 0 then 0 else rdNat c.s sh.guardPtr 4
          putUpdate q d n (some slot) (updPhases w sh is.1 word ⟨c, bindTwine b⟩)

/-- A running PROGRAM_LOAD to slot n (R210). -/
def programLoading (s : State) (n : Nat) : Bool :=
  s.queues.toList.any fun u => u.active.any fun c => match c.work with
    | .program k _ => k == n
    | _ => false

/-- A running UPDATE has slot n bound (R210). -/
def programBound (s : State) (n : Nat) : Bool :=
  s.queues.toList.any fun u => u.active.any fun c => match c.work with
    | .update k _ _ _ _ _ => k == some n
    | _ => false

/-- FREEZE of the shard descriptor that an UPDATE names. -/
def updFrozen (s : State) (d : Desc) : Bool := bitAt (rdNat s (udShard d + 4) 4) 0

/-- An UPDATE may start: a frozen one at any time, another when no PROGRAM_LOAD to its slot runs (R210) and a core is free of
UPDATEs (R215). -/
def updateReady (s : State) (d : Desc) : Bool :=
  updFrozen s d || (!programLoading s (udProg d) && !(freeUpdateCores s).isEmpty)

/-- UPDATE (R200, R211). -/
def execUpdate (q : Fin 32) (env : List Finding) (s : State) : Res :=
  .next (startAlone s q env (fun s d => dKind d == 4 && updateReady s d) (updateBody q))

/-! ### Completion -/

/-- Bit b of the RESULT word of an UPDATE (R374). -/
def updBit (c : Cmd) (b : Nat) : Bool := bitAt (leNat (c.result.take 4)) b

/-- The flags of UPD_STAT that an UPDATE's outcome sets, each at most once (R229). -/
def updFlags (s : State) (c : Cmd) : State :=
  let s := if updBit c 1 then setFlag s offUpdStat 0 16 else s
  let s := if updBit c 2 then setFlag s offUpdStat 1 32 else s
  if updBit c 3 then setFlag s offUpdStat 2 48 else s

/-- The phases an UPDATE entered after pass 1 (R211). -/
def updPhaseList (c : Cmd) (blocks : List (List MemWrite × Bool)) (tripped : Bool) : List Nat :=
  if c.status != 0 && !updBit c 3 then []
  else if tripped then [2, 5]
  else
    [2] ++ (if blocks.isEmpty && bits (leNat (c.result.take 4)) 10 2 != 2 then [] else [3])
      ++ (if bits (leNat (c.result.take 4)) 10 2 == 2 then [] else [4]) ++ (if c.status == 0 then [5] else [])

/-- The chunks of the pass that the context on the UPDATE's core is bound to. -/
def passChunks (s : State) (q : Fin 32) (c : Cmd) : Nat :=
  match s.cores[coreOf c.cores].twine.bundle with
  | some b => if b.q == q.val && b.idx == c.idx.toNat then ceilDiv (shardOf b.shard).1.count 512 else 0
  | none => 0

/-- The chunks that the vector engine has completed for an UPDATE (R458): each once in pass 1 and once in pass 2. Of one that a poisoned read
or a refused access stops, how many is left open (log entry 3). -/
def countChunks (s : State) (q : Fin 32) (c : Cmd) (chunks : Nat) : State :=
  let n := passChunks s q c + chunks
  if c.cores == 0 then s
  else if c.status == 0 then countEv s (coreOf c.cores) 0x19 n else countShared s c.cores 0x19 n

/-- The writes of an UPDATE become visible, with its flags, events and records (R211, R227, R458). -/
def updEffect (s : State) (q : Fin 32) (c : Cmd) (norm : List MemWrite) (blocks : List (List MemWrite × Bool))
    (chunks : List (List MemWrite × Nat)) (tripped : Bool) : State :=
  let s := updFlags (applyWrites (q.val, c.idx.toNat) (countChunks s q c chunks.length) (updWrites blocks chunks ++ norm)) c
  if updBit c 0 || (chunks.isEmpty && !tripped && !updBit c 3) then s
  else tracePhases s c (whoOf q c.idx c.desc) (updPhaseList c blocks tripped)

end Sys2Proof.Machine
end

