-- ==== Sys2Proof/Machine/Tables.lean ====
section
/-! DEFINITION. TABLE_LOAD (R133 to R138, R365, R366) and PROGRAM_LOAD (R204, R210), and the completion of the oldest running
command of a queue (R369, R373). -/
namespace Sys2Proof.Machine

def tlKind (d : Desc) : Nat := fieldAt d 0x38 4 0 4
def tlEt (d : Desc) : Nat := fieldAt d 0x38 4 4 2
def tlSrc (d : Desc) : Nat := fieldAt d 0x28 8 0 64
def tlDst (d : Desc) : Nat := fieldAt d 0x30 8 0 64
def tlCount (d : Desc) : Nat := fieldAt d 0x3C 4 0 32

/-! ### CODEBOOK (R133, R47) -/

/-- A copy of codebooks in progress: the reads go to `s`, in which the copies made so far stand. -/
structure CbCopy where
  c : Chk
  s : State
  writes : List MemWrite
  clamps : Nat
  deriving DecidableEq, Repr

/-- One codebook: 16 bytes read, entries that are NaN made 0x00 and counted, 16 bytes written. -/
def CbCopy.next (w : Who) (src dst : Nat) (x : CbCopy) (j : Nat) : CbCopy :=
  if x.c.stop.isSome then x
  else
    let c := Chk.read w x.c (src + 16 * j) 16
    match c.stop with
    | some (.poisoned _) =>
      let ws := x.writes.map (fun y => freeOf (y.addr, y.bytes.length)) ++ [⟨dst + 16 * j, List.replicate 16 0, .poison⟩]
      { x with c := { c with unbacked := c.unbacked || offMap c.s ws }, writes := ws }
    | some (.refused _) => { x with c := c, writes := x.writes.map fun y => freeOf (y.addr, y.bytes.length) }
    | none =>
      let cb := codebook (rd x.s ((src + 16 * j) % 2 ^ 64) 16)
      let bs := cb.1.map (BitVec.ofNat 8)
      let c := Chk.write w c (dst + 16 * j) 16
      if c.stop.isSome then { x with c := c, writes := x.writes.map fun y => freeOf (y.addr, y.bytes.length) }
      else ⟨c, wr x.s ((dst + 16 * j) % 2 ^ 64) bs, x.writes ++ [⟨dst + 16 * j, bs, .data⟩], x.clamps + cb.2⟩

def codebookBody (q : Fin 32) (c : Chk) (d : Desc) (n : Nat) : State :=
  if 3 ≤ tlKind d then startCmd c.s q d (n + 1) id
  else
    let w := whoOf q c.s.queues[q].head d
    let x := (List.range (tlCount d)).foldl (CbCopy.next w (tlSrc d) (tlDst d)) ⟨c, c.s, [], 0⟩
    startCmd x.c.s q d (n + x.clamps + b2n x.c.unbacked) fun y =>
      { y with status := b2n x.c.stop.isSome, writes := x.writes, dests := [(tlDst d, 16 * tlCount d)] }

/-- CODEBOOK; a TABLE_LOAD of an unknown kind also starts here, and has no effect (R365, R387). -/
def execCodebook (q : Fin 32) (env : List Finding) (s : State) : Res :=
  .next (startAlone s q env (fun _ d => dKind d == 8 && (tlKind d == 0 || decide (3 ≤ tlKind d))) (codebookBody q))

/-! ### EDDY (R133, R135) -/

/-- A running LAYER has eddy table t bound, whatever its path but the element-wise one, which ignores EDDY_SEL (R134, R135, R361). -/
def eddyBound (s : State) (t : Nat) : Bool :=
  s.queues.toList.any fun u => match u.run with
    | some r => r.ops.any fun o => !(layerOf o.desc).1.ewise && (layerOf o.desc).1.eddySel == t
    | none => false

def eddyBody (q : Fin 32) (c : Chk) (d : Desc) (n : Nat) : State :=
  let w := whoOf q c.s.queues[q].head d
  let c := Chk.read w c (tlSrc d) 32
  startCmd c.s q d (n + b2n c.unbacked) fun y =>
    { y with status := b2n c.stop.isSome, work := .eddy (tlEt d) (if c.stop.isSome then [] else rd c.s (tlSrc d) 32) }

/-- EDDY starts only when no running command has its table bound (R135). -/
def execEddy (q : Fin 32) (env : List Finding) (s : State) : Res :=
  .next (startAlone s q env (fun s d => dKind d == 8 && tlKind d == 1 && !eddyBound s (tlEt d)) (eddyBody q))

/-- The table takes the image, and its CRC and LOADED bit change (R138). -/
def eddyEffect (s : State) (t : Nat) (image : List Byte) : State :=
  let bs := image.map fun b => BitVec.ofNat 8 (b.toNat % 64)
  let f : Fin 4 := ⟨t % 4, Nat.mod_lt _ (by decide)⟩
  { s with eddies := s.eddies.set f bs, eddyCrc := s.eddyCrc.set f (crc32c bs), eddyLoaded := s.eddyLoaded.set f true }

/-! ### PREC_INIT (R366) -/

def precInitBody (q : Fin 32) (c : Chk) (d : Desc) (n : Nat) : State :=
  let w := whoOf q c.s.queues[q].head d
  let rs := (List.range (tlCount d)).map fun j => (tlDst d + j * 0x7000 + 0x40, 64)
  let c := rs.foldl (fun c r => Chk.write w c r.1 r.2) c
  startCmd c.s q d (n + b2n c.unbacked) fun y =>
    { y with status := b2n c.stop.isSome, dests := rs
             writes := if c.stop.isSome then rs.map freeOf else rs.map fun r => ⟨r.1, List.replicate 64 0, .data⟩ }

def execPrecInit (q : Fin 32) (env : List Finding) (s : State) : Res :=
  .next (startAlone s q env (fun _ d => dKind d == 8 && tlKind d == 2) (precInitBody q))

/-! ### PROGRAM_LOAD (R204, R209, R210) -/

def plSlot (d : Desc) : Nat := fieldAt d 0x30 4 0 4

def programBody (q : Fin 32) (c : Chk) (d : Desc) (n : Nat) : State :=
  let w := whoOf q c.s.queues[q].head d
  let c := Chk.read w c (tlSrc d) 512
  let image := rd c.s (tlSrc d) 512
  let n := n + (if c.stop.isSome then 0 else (progOf image none).2) + b2n c.unbacked
  startCmd c.s q d n fun y =>
    { y with status := b2n c.stop.isSome, work := .program (plSlot d) (if c.stop.isSome then [] else image) }

/-- PROGRAM_LOAD starts only when no running UPDATE has its slot bound (R210). -/
def execProgramLoad (q : Fin 32) (env : List Finding) (s : State) : Res :=
  .next (startAlone s q env (fun s d => dKind d == 9 && !programBound s (plSlot d)) (programBody q))

/-- The slot takes the image; one of LEN 0 leaves it empty; the CRC changes either way (R210, R231). -/
def programEffect (s : State) (n : Nat) (image : List Byte) : State :=
  let f : Fin 16 := ⟨n % 16, Nat.mod_lt _ (by decide)⟩
  { s with programs := s.programs.set f (if fieldAt image 0 1 0 7 == 0 then [] else image)
           progCrc := s.progCrc.set f (crc32c image) }

/-! ### COMMAND_COMPLETION (R369, R373) -/

/-- The effect at completion of a command that ends DONE, beyond its held writes and counters. -/
def doneEffect (s : State) (q : Fin 32) (c : Cmd) : State :=
  match c.work with
  | .eddy t image => eddyEffect s t image
  | .program n image => programEffect s n image
  | .update _ norm blocks chunks _ tr => updEffect s q c norm blocks chunks tr
  | _ => s

/-- The completion of contained commands: what they wrote stands, and the queue stops (R375). -/
def containDone (s : State) (q : Fin 32) (c : Cmd) : State :=
  match c.work with
  | .update _ norm blocks chunks _ tr =>
    containCmd (updEffect (applyWrites (q.val, c.idx.toNat) (popCmd s q) c.writes) q c norm blocks chunks tr) q c
  | _ => containAll s q

/-- What a command writes by its work alone: an UPDATE its blocks, chunks and norms. -/
def workWrites (c : Cmd) : List MemWrite :=
  match c.work with
  | .update _ norm blocks chunks _ _ => updWrites blocks chunks ++ norm
  | _ => []

/-- An UPDATE of which a write may not cross any more (R512): it ends where a refused access would have ended it (R227), and POISON stands
only where the group of chunks in progress read it. -/
def updateRefused (s : State) (w : Nat × Nat) (c : Cmd) : Cmd :=
  let bad := fun (ws : List MemWrite) => writesRefused s w ws != 0
  match c.work with
  | .update slot norm blocks chunks g tr =>
    match cutRefused bad blocks chunks with
    | some (ph, bs, cs, k) =>
      let j := leNat (c.result.drop 12)
      let met := ph == 3 && updBit c 3 && decide (j < cs.length)
      { c with status := 1, work := .update slot [] bs cs g tr
               result := updResult (8 + 4 * b2n (decide (0 < keptOf bs)) + 16 * b2n (met && updBit c 4)) (orFlags (cs.map fun x => x.2)) ph g
                 (keptOf bs) (if met then min j k else k) }
    | none => if bad norm then { c with status := 1, work := .update slot [] blocks chunks g tr } else c
  | _ => c

/-- The completion of a command. One of which a write may not cross any more ends contained, once its ERROR record has an entry (R227, R354,
R512). -/
def updateDone (s : State) (q : Fin 32) (c : Cmd) : State :=
  let w := (q.val, c.idx.toNat)
  let k := writesRefused s w (workWrites c)
  if k == 0 then (if c.status == 0 then doneCmd (doneEffect (popCmd s q) q c) q c else containDone s q c)
  else
    let s := errEvent s (whoOf q c.idx c.desc) k 1 3 0 0 0
    let c := updateRefused s w c
    if evBlocked s q then setCmd s q c else containDone s q c

/-- The oldest running command may complete now; kinds with an end of their own do not complete here. -/
def mayComplete (s : State) (c : Cmd) : Bool :=
  match c.work with
  | .plain => true
  | .fence ws => fenceMet s ws
  | .signal _ _ _ => true
  | .program _ _ => true
  | .eddy _ _ => true
  | .update _ _ _ _ _ _ => true
  | .ended _ _ => true
  | _ => false

/-- COMMAND_COMPLETION: the oldest running command of the queue completes, and waiting records are written. A REDUCE that has
waited for the entry of an event record goes on (R304, R354). -/
def execCommandCompletion (q : Fin 32) (s : State) : Res :=
  .next (
    let s := if s.fatal.isSome then s else flushRecs s q
    match s.queues[q].active with
    | [] => s
    | c :: _ =>
      if !inService s || s.queues[q].state != .running || evBlocked s q then s
      else if !mayComplete s c then tryFinish s q
      else match c.work with
      | .ended _ status => completeReduce s q c status
      | _ => updateDone s q c)

end Sys2Proof.Machine
end

