-- ==== Sys2Proof/Machine/Dispatch.lean ====
section
/-! DEFINITION. The one table from commands to meanings. -/
namespace Sys2Proof.Machine

def exec (i : Instr) (s : State) : Host.Outcome State Fault Refusal :=
  match i with
  | .nop q env => Sys2Proof.Machine.execNop q env s
  | .layer q env faults => Sys2Proof.Machine.execLayer q env faults s
  | .load e insn => Sys2Proof.Machine.execLoad e insn s
  | .steps e insn => Sys2Proof.Machine.execSteps e insn s
  | .elementwise e insn => Sys2Proof.Machine.execElementwise e insn s
  | .reconfigure e insn => Sys2Proof.Machine.execReconfigure e insn s
  | .arrayAbort e => Sys2Proof.Machine.execArrayAbort e s
  | .copy q env => Sys2Proof.Machine.execCopy q env s
  | .convert q env => Sys2Proof.Machine.execConvert q env s
  | .transpose q env => Sys2Proof.Machine.execTranspose q env s
  | .fill q env => Sys2Proof.Machine.execFill q env s
  | .iadd32 q env => Sys2Proof.Machine.execIadd32 q env s
  | .iadd64 q env => Sys2Proof.Machine.execIadd64 q env s
  | .swap32 q env => Sys2Proof.Machine.execSwap32 q env s
  | .swap64 q env => Sys2Proof.Machine.execSwap64 q env s
  | .cas32 q env => Sys2Proof.Machine.execCas32 q env s
  | .cas64 q env => Sys2Proof.Machine.execCas64 q env s
  | .fadd32 q env => Sys2Proof.Machine.execFadd32 q env s
  | .allreduce q env => Sys2Proof.Machine.execAllreduce q env s
  | .reduceScatter q env => Sys2Proof.Machine.execReduceScatter q env s
  | .update q env => Sys2Proof.Machine.execUpdate q env s
  | .fence q env => Sys2Proof.Machine.execFence q env s
  | .waitGauge q env => Sys2Proof.Machine.execWaitGauge q env s
  | .waitGaugeTick q => Sys2Proof.Machine.execWaitGaugeTick q s
  | .signalAdd q env => Sys2Proof.Machine.execSignalAdd q env s
  | .signalSet q env => Sys2Proof.Machine.execSignalSet q env s
  | .codebook q env => Sys2Proof.Machine.execCodebook q env s
  | .eddy q env => Sys2Proof.Machine.execEddy q env s
  | .precInit q env => Sys2Proof.Machine.execPrecInit q env s
  | .programLoad q env => Sys2Proof.Machine.execProgramLoad q env s
  | .snap q env => Sys2Proof.Machine.execSnap q env s
  | .snapLatch q => Sys2Proof.Machine.execSnapLatch q s
  | .commandCompletion q => Sys2Proof.Machine.execCommandCompletion q s
  | .commit q => Sys2Proof.Machine.execCommit q s
  | .replay q env faults => Sys2Proof.Machine.execReplay q env faults s
  | .twineNop c o => Sys2Proof.Machine.execTwineNop c o s
  | .add c o => Sys2Proof.Machine.execAdd c o s
  | .sub c o => Sys2Proof.Machine.execSub c o s
  | .mul c o => Sys2Proof.Machine.execMul c o s
  | .div c o => Sys2Proof.Machine.execDiv c o s
  | .fma c o => Sys2Proof.Machine.execFma c o s
  | .fms c o => Sys2Proof.Machine.execFms c o s
  | .fnma c o => Sys2Proof.Machine.execFnma c o s
  | .sqrt c o => Sys2Proof.Machine.execSqrt c o s
  | .rsqrt c o => Sys2Proof.Machine.execRsqrt c o s
  | .tmin c o => Sys2Proof.Machine.execTmin c o s
  | .tmax c o => Sys2Proof.Machine.execTmax c o s
  | .abs c o => Sys2Proof.Machine.execAbs c o s
  | .neg c o => Sys2Proof.Machine.execNeg c o s
  | .copysign c o => Sys2Proof.Machine.execCopysign c o s
  | .clip c o => Sys2Proof.Machine.execClip c o s
  | .clt c o => Sys2Proof.Machine.execClt c o s
  | .cle c o => Sys2Proof.Machine.execCle c o s
  | .ceq c o => Sys2Proof.Machine.execCeq c o s
  | .cun c o => Sys2Proof.Machine.execCun c o s
  | .sel c o => Sys2Proof.Machine.execSel c o s
  | .cvt c o => Sys2Proof.Machine.execCvt c o s
  | .rint c o => Sys2Proof.Machine.execRint c o s
  | .exp2 c o => Sys2Proof.Machine.execExp2 c o s
  | .log2 c o => Sys2Proof.Machine.execLog2 c o s
  | .pown c o => Sys2Proof.Machine.execPown c o s
  | .scalb c o => Sys2Proof.Machine.execScalb c o s
  | .idx c o => Sys2Proof.Machine.execIdx c o s
  | .mov c o => Sys2Proof.Machine.execMov c o s
  | .nfin c o => Sys2Proof.Machine.execNfin c o s
  | .ld c o => Sys2Proof.Machine.execLd c o s
  | .st c o => Sys2Proof.Machine.execSt c o s
  | .red c o => Sys2Proof.Machine.execRed c o s
  | .binv c o => Sys2Proof.Machine.execBinv c o s
  | .sqTail q v => Sys2Proof.Machine.execSqTail q v s
  | .cqHead q v => Sys2Proof.Machine.execCqHead q v s
  | .evHead v => Sys2Proof.Machine.execEvHead v s
  | .eventRecordWrite => Sys2Proof.Machine.execEventRecordWrite s
  | .haltDb v => Sys2Proof.Machine.execHaltDb v s
  | .haltTakesEffect => Sys2Proof.Machine.execHaltTakesEffect s
  | .haltMessage p msg => Sys2Proof.Machine.execHaltMessage p msg s
  | .queueEnable q v => Sys2Proof.Machine.execQueueEnable q v s
  | .queueDisable q v => Sys2Proof.Machine.execQueueDisable q v s
  | .glbRst v boot => Sys2Proof.Machine.execGlbRst v boot s
  | .t1Init => Sys2Proof.Machine.execT1Init s
  | .t2Init => Sys2Proof.Machine.execT2Init s
  | .portEnable p v => Sys2Proof.Machine.execPortEnable p v s
  | .portDisable p v => Sys2Proof.Machine.execPortDisable p v s
  | .release p v => Sys2Proof.Machine.execRelease p v s
  | .lnkRtLoad v env => Sys2Proof.Machine.execLnkRtLoad v env s
  | .arm n v env => Sys2Proof.Machine.execArm n v env s
  | .disarm n v => Sys2Proof.Machine.execDisarm n v s
  | .heldWriteTakesEffect n env => Sys2Proof.Machine.execHeldWriteTakesEffect n env s
  | .obsSnapselArm v => Sys2Proof.Machine.execObsSnapselArm v s
  | .mailboxSnapshotLatch => Sys2Proof.Machine.execMailboxSnapshotLatch s
  | .resume c v => Sys2Proof.Machine.execResume c v s
  | .obsTrigSw c v => Sys2Proof.Machine.execObsTrigSw c v s
  | .mark v => Sys2Proof.Machine.execMark v s
  | .obsEvsel c v => Sys2Proof.Machine.execObsEvsel c v s
  | .mbxReq v => Sys2Proof.Machine.execMbxReq v s
  | .mailboxCaptureComplete => Sys2Proof.Machine.execMailboxCaptureComplete s
  | .w1cClear off v => Sys2Proof.Machine.execW1cClear off v s
  | .suWrite off size v => Sys2Proof.Machine.execSuWrite off size v s
  | .configurationSweep disturbed => Sys2Proof.Machine.execConfigurationSweep disturbed s
  | .powerControllerWindow m => Sys2Proof.Machine.execPowerControllerWindow m s
  | .patrolScrub f => Sys2Proof.Machine.execPatrolScrub f s
  | .firmwareRemeasure ok wipeOk => Sys2Proof.Machine.execFirmwareRemeasure ok wipeOk s
  | .trngFailure wipeOk => Sys2Proof.Machine.execTrngFailure wipeOk s
  | .tamperEvent k wipeOk => Sys2Proof.Machine.execTamperEvent k wipeOk s
  | .pwrEnRise boot => Sys2Proof.Machine.execPwrEnRise boot s
  | .pwrEnFall wipeOk => Sys2Proof.Machine.execPwrEnFall wipeOk s
  | .perstAssert => Sys2Proof.Machine.execPerstAssert s
  | .perstRelease boot => Sys2Proof.Machine.execPerstRelease boot s
  | .cxlLinkDown boot => Sys2Proof.Machine.execCxlLinkDown boot s
  | .functionLevelReset boot => Sys2Proof.Machine.execFunctionLevelReset boot s
  | .criticalVoltage wipeOk => Sys2Proof.Machine.execCriticalVoltage wipeOk s
  | .criticalTemperature sensor wipeOk => Sys2Proof.Machine.execCriticalTemperature sensor wipeOk s
  | .ideKm m => Sys2Proof.Machine.execIdeKm m s
  | .hdmRead x env => Sys2Proof.Machine.execHdmRead x env s
  | .hdmWrite x data mask env => Sys2Proof.Machine.execHdmWrite x data mask env s
  | .gaugeTick => Sys2Proof.Machine.execGaugeTick s
  | .freeRunTick => Sys2Proof.Machine.execFreeRunTick s
  | .gaugeFrame f => Sys2Proof.Machine.execGaugeFrame f s
  | .lost ref => Sys2Proof.Machine.execLost ref s
  | .gaugeSetTransmit => Sys2Proof.Machine.execGaugeSetTransmit s
  | .gaugeSet p m => Sys2Proof.Machine.execGaugeSet p m s
  | .dataFlit p f env accBad => Sys2Proof.Machine.execDataFlit p f env accBad s
  | .creditFlit p f => Sys2Proof.Machine.execCreditFlit p f s
  | .retryReq p f => Sys2Proof.Machine.execRetryReq p f s
  | .retryReqRepeat p => Sys2Proof.Machine.execRetryReqRepeat p s
  | .hello p m => Sys2Proof.Machine.execHello p m s
  | .linkKeyExchange p m => Sys2Proof.Machine.execLinkKeyExchange p m s
  | .transcriptSignature p m => Sys2Proof.Machine.execTranscriptSignature p m s
  | .linkmgtDone p m => Sys2Proof.Machine.execLinkmgtDone p m s
  | .keyUpdate p f => Sys2Proof.Machine.execKeyUpdate p f s
  | .keyUpdateSend p => Sys2Proof.Machine.execKeyUpdateSend p s
  | .signalDetect p lanes => Sys2Proof.Machine.execSignalDetect p lanes s
  | .trainComplete p locked => Sys2Proof.Machine.execTrainComplete p locked s
  | .alignComplete p ok lanes => Sys2Proof.Machine.execAlignComplete p ok lanes s
  | .authTimeout p => Sys2Proof.Machine.execAuthTimeout p s
  | .retrainComplete p ok => Sys2Proof.Machine.execRetrainComplete p ok s
  | .laneLoss p lane signal => Sys2Proof.Machine.execLaneLoss p lane signal s
  | .signalLoss p => Sys2Proof.Machine.execSignalLoss p s
  | .retryStorm p errors => Sys2Proof.Machine.execRetryStorm p errors s
  | .creditStarvation p vc => Sys2Proof.Machine.execCreditStarvation p vc s
  | .malformedLimit p => Sys2Proof.Machine.execMalformedLimit p s
  | .windowOpen q env accBad => Sys2Proof.Machine.execWindowOpen q env accBad s
  | .grant src port pkt env => Sys2Proof.Machine.execGrant src port pkt env s
  | .contrib src port pkt accBad => Sys2Proof.Machine.execContrib src port pkt accBad s
  | .result src port pkt => Sys2Proof.Machine.execResult src port pkt s
  | .done src port pkt => Sys2Proof.Machine.execDone src port pkt s
  | .abort src port pkt => Sys2Proof.Machine.execAbort src port pkt s
  | .deadlineDue q u => Sys2Proof.Machine.execDeadlineDue q u s
  | .abandon q => Sys2Proof.Machine.execAbandon q s
  | .routeLossAbandon q => Sys2Proof.Machine.execRouteLossAbandon q s
  | .setEndpointId tr eid => Sys2Proof.Machine.execSetEndpointId tr eid s
  | .getEndpointId tr => Sys2Proof.Machine.execGetEndpointId tr s
  | .getEndpointUuid tr => Sys2Proof.Machine.execGetEndpointUuid tr s
  | .getMctpVersionSupport tr ty => Sys2Proof.Machine.execGetMctpVersionSupport tr ty s
  | .getMessageTypeSupport tr => Sys2Proof.Machine.execGetMessageTypeSupport tr s
  | .getTid tr => Sys2Proof.Machine.execGetTid tr s
  | .getPldmVersion tr ty => Sys2Proof.Machine.execGetPldmVersion tr ty s
  | .getPldmTypes tr => Sys2Proof.Machine.execGetPldmTypes tr s
  | .getPldmCommands tr ty => Sys2Proof.Machine.execGetPldmCommands tr ty s
  | .getPdr tr h => Sys2Proof.Machine.execGetPdr tr h s
  | .getSensorReading tr id => Sys2Proof.Machine.execGetSensorReading tr id s
  | .getStateSensorReadings tr id => Sys2Proof.Machine.execGetStateSensorReadings tr id s
  | .setNumericSensorEnable tr id en => Sys2Proof.Machine.execSetNumericSensorEnable tr id en s
  | .platformEventMessage tr => Sys2Proof.Machine.execPlatformEventMessage tr s
  | .pollForPlatformEventMessage tr => Sys2Proof.Machine.execPollForPlatformEventMessage tr s
  | .eventMessageBufferSize tr n => Sys2Proof.Machine.execEventMessageBufferSize tr n s
  | .queryDeviceIdentifiers tr => Sys2Proof.Machine.execQueryDeviceIdentifiers tr s
  | .getFirmwareParameters tr => Sys2Proof.Machine.execGetFirmwareParameters tr s
  | .requestUpdate tr => Sys2Proof.Machine.execRequestUpdate tr s
  | .passComponentTable tr => Sys2Proof.Machine.execPassComponentTable tr s
  | .updateComponent tr size => Sys2Proof.Machine.execUpdateComponent tr size s
  | .requestFirmwareData tr last img => Sys2Proof.Machine.execRequestFirmwareData tr last img s
  | .transferComplete tr ok => Sys2Proof.Machine.execTransferComplete tr ok s
  | .verifyComplete tr => Sys2Proof.Machine.execVerifyComplete tr s
  | .applyComplete tr boot => Sys2Proof.Machine.execApplyComplete tr boot s
  | .activateFirmware tr selfContained boot => Sys2Proof.Machine.execActivateFirmware tr selfContained boot s
  | .getStatus tr => Sys2Proof.Machine.execGetStatus tr s
  | .cancelUpdateComponent tr => Sys2Proof.Machine.execCancelUpdateComponent tr s
  | .cancelUpdate tr => Sys2Proof.Machine.execCancelUpdate tr s
  | .getVersion tr rq => Sys2Proof.Machine.execGetVersion tr rq s
  | .getCapabilities tr rq => Sys2Proof.Machine.execGetCapabilities tr rq s
  | .negotiateAlgorithms tr rq => Sys2Proof.Machine.execNegotiateAlgorithms tr rq s
  | .getDigests tr rq => Sys2Proof.Machine.execGetDigests tr rq s
  | .getCertificate tr rq slot => Sys2Proof.Machine.execGetCertificate tr rq slot s
  | .challenge tr rq => Sys2Proof.Machine.execChallenge tr rq s
  | .getMeasurements tr rq index => Sys2Proof.Machine.execGetMeasurements tr rq index s
  | .keyExchange tr rq => Sys2Proof.Machine.execKeyExchange tr rq s
  | .finish tr rq ok => Sys2Proof.Machine.execFinish tr rq ok s
  | .heartbeat tr rq => Sys2Proof.Machine.execHeartbeat tr rq s
  | .endSession tr rq => Sys2Proof.Machine.execEndSession tr rq s
  | .jobKeySet tr rq jobId secret => Sys2Proof.Machine.execJobKeySet tr rq jobId secret s
  | .jobKeyClear tr rq => Sys2Proof.Machine.execJobKeyClear tr rq s
  | .jobKeyClearTakesEffect => Sys2Proof.Machine.execJobKeyClearTakesEffect s
  | .lcAdvance tr rq target digest auth wipeOk boot => Sys2Proof.Machine.execLcAdvance tr rq target digest auth wipeOk boot s
  | .svnCommit tr rq floor auth => Sys2Proof.Machine.execSvnCommit tr rq floor auth s
  | .testUnlock tr rq auth wipeOk => Sys2Proof.Machine.execTestUnlock tr rq auth wipeOk s
  | .linkFollowedTick => Sys2Proof.Machine.execLinkFollowedTick s
  | .firmwareWatchdog wipeOk => Sys2Proof.Machine.execFirmwareWatchdog wipeOk s
  | .coreWatchdog c => Sys2Proof.Machine.execCoreWatchdog c s

end Sys2Proof.Machine
end

