-- ==== Sys2Proof/Machine/Reads.lean ====
section
/-! DEFINITION. What the host reads: BAR0 (R23, R474, R475, R478, R494, R497), BAR2 (R356, R386) and CXL.io configuration (R432,
R494), and the command that a write to BAR2 is (R352, R353, R354, R356, R383). The opcode table has no row for a read: these are
functions of the state. -/
namespace Sys2Proof.Machine

/-! ### The registers of each block that are neither SU nor W1C (R475, R497) -/

def readGlb (s : State) (off : Nat) : Nat :=
  match off with
  | 0x00 => 0x09601FD7
  | 0x08 => s.serial.toNat
  | 0x10 => s.stepping.toNat
  | 0x18 => s.bl
  | 0x20 => glbStat s
  | 0x100 => glbEngst s 0
  | 0x108 => glbEngst s 1
  | 0x110 => glbEngst s 2
  | 0x118 => glbEngst s 3
  | _ => 0

def readQue (s : State) (off : Nat) : Nat :=
  if off < 0x010400 then (if off % 0x20 = 0x18 then qStat s (qFin ((off - 0x010000) / 0x20)) else 0)
  else if off = 0x010408 then evStat s
  else if off = 0x010418 then s.rclamp
  else if 0x010800 ≤ off ∧ off < 0x010C00 then tokImage s ((off - 0x010800) / 8)
  else 0

def readLnk (s : State) (off : Nat) : Nat :=
  if off = 0x040F18 then lnkMstat s
  else match off % 0x1000 with
    | 0x008 => portStat s (pFin (off / 0x1000))
    | 0x018 => portCnt s (pFin (off / 0x1000))
    | _ => 0

def readCfl (s : State) (off : Nat) : Nat :=
  if off = 0x050200 then cflStat s
  else if off < 0x050200 ∧ off % 0x40 = 0x18 then grpStat s (grpFin ((off - 0x050000) / 0x40))
  else 0

def readPrc (s : State) (off : Nat) : Nat :=
  let crc := fun i => s.eddyCrc.toList.getD i 0
  match off with
  | 0x060800 => crc 0 + crc 1 * 2 ^ 32
  | 0x060808 => crc 2 + crc 3 * 2 ^ 32
  | 0x060810 => eddyStat s
  | _ => 0

/-- UPD_PSTAT, and UPD_PCRCn of slots 2n and 2n + 1 (R230, R231). -/
def readUpd (s : State) (off : Nat) : Nat :=
  if off = 0x070008 then updPstat s
  else if 0x070100 ≤ off ∧ off < 0x070140 then
    let n := (off - 0x070100) / 8
    s.progCrc.toList.getD (2 * n) 0 + s.progCrc.toList.getD (2 * n + 1) 0 * 2 ^ 32
  else 0

def readMbx (s : State) (off : Nat) : Nat :=
  if off = 0x0C0000 then s.mbx.sel.toNat
  else if off = 0x0C0008 then s.mbx.reqTag.toNat
  else if off = 0x0C0010 then mbxValid s
  else if 0x0C0040 ≤ off ∧ off < 0x0C0080 then leNat ((s.mbx.data.drop (off - 0x0C0040)).take 8)
  else 0

def readCore (s : State) (off : Nat) : Nat :=
  let c := (off - 0x100000) / 0x40000
  match off % 0x40000 with
  | 0x200 => arrFuse s c
  | 0x208 => arrBist s c
  | 0x1020 => tStat s (pFin c)
  | _ => 0

/-- The image of the register at an aligned BAR0 offset; zero where no register lies (R474), as from 0x500000 on (R23). -/
def regImage (s : State) (off : Nat) : Nat :=
  if (suMask off).isSome || (w1cFlags off).isSome then (regGet s off).toNat
  else if 0x100000 ≤ off ∧ off < 0x500000 then readCore s off
  else match off / 0x10000 with
    | 0x0 => readGlb s off
    | 0x1 => readQue s off
    | 0x2 => if off = 0x020008 then s.gauge.count else if off = 0x020010 then gauStat s else 0
    | 0x3 => if off = 0x030008 then s.ueAddr.toNat else if off = 0x030010 then memStat s else 0
    | 0x4 => readLnk s off
    | 0x5 => readCfl s off
    | 0x6 => readPrc s off
    | 0x7 => readUpd s off
    | 0x8 => if off = 0x080000 then secLc s else if off = 0x080008 then secBoot s else 0
    | 0x9 => if off = 0x090020 then obsStat s else 0
    | 0xA => if off = 0x0A0008 then errState s else if off = 0x0A0020 then errFatal s else 0
    | 0xB => if off = 0x0B0000 then clkStat s else 0
    | 0xC => readMbx s off
    | 0xD => if off = 0x0D0010 then cfgSweep s else 0
    | _ => 0

/-- A BAR0 read (R474): 8 bytes, or either half of a register in 4 bytes; any other size or alignment reads zero. A block that does
not answer reads zero (R432, R494). -/
def bar0Read (s : State) (off size : Nat) : Nat :=
  if !blockAnswers s off then 0
  else if size = 8 ∧ off % 8 = 0 then regImage s off % 2 ^ 64
  else if size = 4 ∧ off % 4 = 0 then bits (regImage s (off / 8 * 8)) (8 * (off % 8)) 32
  else 0

/-! ### BAR2 (R356) -/

/-- HALT_STAT (R386). -/
def haltStat (s : State) : Nat :=
  maskBits (s.queues.toList.map fun u => u.state == .halted) + b2n s.halts.isEmpty * 2 ^ 32

/-- A BAR2 read: doorbells read zero; HALT_STAT is one register of 8 bytes (log entry 44), which answers once the module is READY (R494). -/
def bar2Read (s : State) (off size : Nat) : Nat := if ioOk s ∧ s.phase = .run ∧ off = 0x20008 ∧ size = 8 then haltStat s else 0

/-- The command that a BAR2 write is; one of another offset or size is none. -/
def bar2Command (off size : Nat) (v : BitVec 64) : Option Instr :=
  if off = 0x20000 ∧ size = 8 then some (.haltDb v)
  else if size ≠ 4 then none
  else if off = 0x8 then some (.evHead (v.setWidth 32))
  else if 0x20000 ≤ off then none
  else match off % 0x1000 with
    | 0x000 => some (.sqTail (qFin (off / 0x1000)) (v.setWidth 32))
    | 0x004 => some (.cqHead (qFin (off / 0x1000)) (v.setWidth 32))
    | _ => none

/-! ### BAR4 (R355, R510) -/

/-- An entry of the MSI-X table as PCI Express lays it out: address, data, vector control with its mask bit (log entry 16). -/
def MsixEntry.bytes (e : MsixEntry) : List Byte := le8 e.addr.toNat ++ le4 e.data.toNat ++ le4 (b2n e.masked)

/-- The bytes of BAR4 from an offset on: the table at 0x0000, the pending bits at 0x8000, zero elsewhere. -/
def bar4Bytes (s : State) (off n : Nat) : List Byte :=
  let src := if off < 0x8000 then (s.msix.toList.flatMap MsixEntry.bytes).drop off
    else (le8 (maskBits s.msixPending.toList)).drop (off - 0x8000)
  padTo n (src.take n)

/-- A BAR4 read of 4 or 8 aligned bytes. -/
def bar4Read (s : State) (off size : Nat) : Nat :=
  if ioOk s ∧ (size = 4 ∨ size = 8) ∧ off % size = 0 then leNat (bar4Bytes s off size) else 0

/-- A vector that is pending and no longer masked sends its message. -/
def msixDeliver (s : State) (v : Fin 34) : State :=
  if s.msixPending[v] && !s.msix[v].masked then raise { s with msixPending := s.msixPending.set v false } v.val else s

/-- A BAR4 write of 4 or 8 aligned bytes to the table; the pending bits take none. The opcode table has no row for it. -/
def bar4Write (s : State) (off size v : Nat) : State :=
  if !ioOk s || !(size == 4 || size == 8) || off % size != 0 || decide (34 * 16 ≤ off) then s
  else
    let n := msixFin (off / 16)
    let old := s.msix[n].bytes
    let new := old.take (off % 16) ++ leBytes size v ++ old.drop (off % 16 + size)
    let e : MsixEntry :=
      ⟨BitVec.ofNat 64 (leNat (new.take 8)), BitVec.ofNat 32 (leNat ((new.drop 8).take 4)), bitAt (leNat (new.drop 12)) 0⟩
    msixDeliver { s with msix := s.msix.set n e } n

/-! ### CDAT (R510, R513) -/

/-- What the CDAT reports of the HDM window. -/
structure Cdat where
  latency : Nat
  bandwidth : Nat
  deriving DecidableEq, Repr

/-- The figures of one T2 package pair behind the switch, the bandwidth in MB/s: 16 bytes at each of 10,667 million transfers a second. The
latency is left open (log entry 17). -/
def cdat (s : State) : Cdat := ⟨Config.freeNat s.stepping.toNat, 16 * 10667⟩

/-! ### CXL.io configuration (R432, R494) -/

/-- What configuration space says of the function (R510): vendor, device and class code, its 64-bit BARs with their sizes in bytes, and
its MSI-X vectors. Where the standard's header holds them is left to it (log entry 16). -/
structure ConfigId where
  vendor : Nat
  device : Nat
  classCode : Nat
  bars : List (Nat × Nat)
  vectors : Nat
  deriving DecidableEq, Repr

def configId : ConfigId := ⟨0x1FD7, 0x0960, 0x120000, [(0, 2 ^ 24), (2, 2 ^ 18), (4, 2 ^ 16)], 34⟩

/-- The completion of a configuration request. -/
inductive ConfigReply where
  | silent | retry | answered
  deriving DecidableEq, Repr

/-- Before stage 1 runs, a configuration request gets Configuration Request Retry Status, unless the cause of the reset kept the HCLK
domain (R492); the boot ROM answers in the ROM-held state. -/
def configReply (s : State) : ConfigReply :=
  match s.phase with
  | .off => .silent
  | .held => if 2 ≤ s.resetCause then .answered else .retry
  | _ => .answered

end Sys2Proof.Machine
end

