-- ==== Sys2Proof/WellFormed.lean ====
section
/-! DEFINITION. When a command is well formed: its operands have the sizes that the spec gives them. `exec` gives every command
of `Instr` its effect; these checks say which operands an environment can supply. -/
namespace Sys2Proof

/-- A line number is a device address of 64 bits over 64 (R232). -/
def Finding.wf (f : Finding) : Bool := f.line < 0x400000000000000

/-- R396: an uncorrectable flit of the die network is an event of HDM_READ and PATROL_SCRUB, and no finding of another command (log entry
15). -/
def FindKind.ofLine : FindKind → Bool
  | .flitUe _ => false
  | _ => true

def findingsWf (l : List Finding) : Bool := l.all fun f => f.wf && f.kind.ofLine

/-- R326: a codeword has 136 bytes. -/
def LineCheck.wf (l : LineCheck) : Bool := l.e0 ≤ 136 && l.e1 ≤ 136

/-- R327, R329: a flit carries 224 bytes of payload. -/
def Flit.wf (f : Flit) : Bool := f.payload.length == 224 && f.line.wf

/-- R330: a packet is a header of 32 bytes and at most 4,096 bytes of payload. -/
def packetWf (p : List Byte) : Bool := 32 ≤ p.length && p.length ≤ 4128

/-- R103: a failing engine's column code names a column, or 0x1D or 0x1E. -/
def BootEnv.wf (b : BootEnv) : Bool :=
  b.selftest.all fun x => x.2.toNat ≤ 0x10 || x.2.toNat == 0x1D || x.2.toNat == 0x1E

/-- R515: twenty temperature sensors. -/
def PowerMeasure.wf (m : PowerMeasure) : Bool := m.temps.length == 20

/-- R428: a header of 4 KiB, and the digests of four stages. -/
def Image.wf (i : Image) : Bool := i.header.length ≤ 4096 && i.stageDigests.length == 4

/-- R271: a sealed bank has 1 MiB. -/
def SpdmReq.wf (r : SpdmReq) : Bool := r.bank.all fun b => b.line < 16384

/-- R510: a selective stream for UIO covers a range of fabric addresses. -/
def IdeMsg.wf : IdeMsg → Bool
  | .keyProg _ io base limit _ => io || base ≤ limit
  | .start _ => true
  | .stop _ => true

/-- R92, R88: a k-block has at most 64 elements; findings are at lines. -/
def ArrayInsn.wf (i : ArrayInsn) : Bool := i.kvalid ≤ 64 && findingsWf i.env

/-- R205: findings are at lines. -/
def TwineOps.wf (o : TwineOps) : Bool := findingsWf o.env

/-- The operands of a command have the sizes of the spec. -/
def WellFormed : Instr → Bool
  | .nop _ env => findingsWf env
  | .layer _ env _ => findingsWf env
  | .load _ insn => insn.wf
  | .steps _ insn => insn.wf
  | .elementwise _ insn => insn.wf
  | .reconfigure _ insn => insn.wf
  | .arrayAbort _ => true
  | .copy _ env => findingsWf env
  | .convert _ env => findingsWf env
  | .transpose _ env => findingsWf env
  | .fill _ env => findingsWf env
  | .iadd32 _ env => findingsWf env
  | .iadd64 _ env => findingsWf env
  | .swap32 _ env => findingsWf env
  | .swap64 _ env => findingsWf env
  | .cas32 _ env => findingsWf env
  | .cas64 _ env => findingsWf env
  | .fadd32 _ env => findingsWf env
  | .allreduce _ env => findingsWf env
  | .reduceScatter _ env => findingsWf env
  | .update _ env => findingsWf env
  | .fence _ env => findingsWf env
  | .waitGauge _ env => findingsWf env
  | .waitGaugeTick _ => true
  | .signalAdd _ env => findingsWf env
  | .signalSet _ env => findingsWf env
  | .codebook _ env => findingsWf env
  | .eddy _ env => findingsWf env
  | .precInit _ env => findingsWf env
  | .programLoad _ env => findingsWf env
  | .snap _ env => findingsWf env
  | .snapLatch _ => true
  | .commandCompletion _ => true
  | .commit _ => true
  | .replay _ env _ => findingsWf env
  | .twineNop _ o => o.wf
  | .add _ o => o.wf
  | .sub _ o => o.wf
  | .mul _ o => o.wf
  | .div _ o => o.wf
  | .fma _ o => o.wf
  | .fms _ o => o.wf
  | .fnma _ o => o.wf
  | .sqrt _ o => o.wf
  | .rsqrt _ o => o.wf
  | .tmin _ o => o.wf
  | .tmax _ o => o.wf
  | .abs _ o => o.wf
  | .neg _ o => o.wf
  | .copysign _ o => o.wf
  | .clip _ o => o.wf
  | .clt _ o => o.wf
  | .cle _ o => o.wf
  | .ceq _ o => o.wf
  | .cun _ o => o.wf
  | .sel _ o => o.wf
  | .cvt _ o => o.wf
  | .rint _ o => o.wf
  | .exp2 _ o => o.wf
  | .log2 _ o => o.wf
  | .pown _ o => o.wf
  | .scalb _ o => o.wf
  | .idx _ o => o.wf
  | .mov _ o => o.wf
  | .nfin _ o => o.wf
  | .ld _ o => o.wf
  | .st _ o => o.wf
  | .red _ o => o.wf
  | .binv _ o => o.wf
  | .sqTail _ _ => true
  | .cqHead _ _ => true
  | .evHead _ => true
  | .eventRecordWrite => true
  | .haltDb _ => true
  | .haltTakesEffect => true
  | .haltMessage _ msg => msg.length == 16
  | .queueEnable _ _ => true
  | .queueDisable _ _ => true
  | .glbRst _ boot => boot.wf
  | .t1Init => true
  | .t2Init => true
  | .portEnable _ _ => true
  | .portDisable _ _ => true
  | .release _ _ => true
  | .lnkRtLoad _ env => findingsWf env
  | .arm _ _ env => findingsWf env
  | .disarm _ _ => true
  | .heldWriteTakesEffect _ env => findingsWf env
  | .obsSnapselArm _ => true
  | .mailboxSnapshotLatch => true
  | .resume _ _ => true
  | .obsTrigSw _ _ => true
  | .mark _ => true
  | .obsEvsel _ _ => true
  | .mbxReq _ => true
  | .mailboxCaptureComplete => true
  | .w1cClear off _ => off < 0x1000000 && off % 8 == 0
  | .suWrite off size _ => off < 0x1000000 && size ∈ [1, 2, 4, 8]
  | .configurationSweep _ => true
  | .powerControllerWindow m => m.wf
  | .patrolScrub f => f.wf
  | .firmwareRemeasure _ _ => true
  | .trngFailure _ => true
  | .tamperEvent _ _ => true
  | .pwrEnRise boot => boot.wf
  | .pwrEnFall _ => true
  | .perstAssert => true
  | .perstRelease boot => boot.wf
  | .cxlLinkDown boot => boot.wf
  | .functionLevelReset boot => boot.wf
  | .criticalVoltage _ => true
  | .criticalTemperature sensor _ => sensor < 65536
  | .ideKm m => m.wf
  | .hdmRead x env => env.all Finding.wf && x % 64 == 0
  | .hdmWrite x data _ env => x % 64 == 0 && data.length == 64 && findingsWf env
  | .gaugeTick => true
  | .freeRunTick => true
  | .gaugeFrame _ => true
  | .lost _ => true
  | .gaugeSetTransmit => true
  | .gaugeSet _ m => m.line.wf
  | .dataFlit _ f env _ => f.wf && findingsWf env
  | .creditFlit _ f => f.wf
  | .retryReq _ f => f.wf
  | .retryReqRepeat _ => true
  | .hello _ m => m.line.wf
  | .linkKeyExchange _ m => m.line.wf
  | .transcriptSignature _ m => m.line.wf
  | .linkmgtDone _ m => m.line.wf
  | .keyUpdate _ f => f.wf
  | .keyUpdateSend _ => true
  | .signalDetect _ _ => true
  | .trainComplete _ _ => true
  | .alignComplete _ _ _ => true
  | .authTimeout _ => true
  | .retrainComplete _ _ => true
  | .laneLoss _ _ _ => true
  | .signalLoss _ => true
  | .retryStorm _ errors => errors.length == 4
  | .creditStarvation _ _ => true
  | .malformedLimit _ => true
  | .windowOpen _ env _ => findingsWf env
  | .grant _ _ pkt env => packetWf pkt && findingsWf env
  | .contrib _ _ pkt _ => packetWf pkt
  | .result _ _ pkt => packetWf pkt
  | .done _ _ pkt => packetWf pkt
  | .abort _ _ pkt => packetWf pkt
  | .deadlineDue _ _ => true
  | .abandon _ => true
  | .routeLossAbandon _ => true
  | .setEndpointId _ _ => true
  | .getEndpointId _ => true
  | .getEndpointUuid _ => true
  | .getMctpVersionSupport _ _ => true
  | .getMessageTypeSupport _ => true
  | .getTid _ => true
  | .getPldmVersion _ _ => true
  | .getPldmTypes _ => true
  | .getPldmCommands _ _ => true
  | .getPdr _ h => h < 0x100000000
  | .getSensorReading _ id => id < 65536
  | .getStateSensorReadings _ id => id < 65536
  | .setNumericSensorEnable _ id _ => id < 65536
  | .platformEventMessage _ => true
  | .pollForPlatformEventMessage _ => true
  | .eventMessageBufferSize _ n => n < 65536
  | .queryDeviceIdentifiers _ => true
  | .getFirmwareParameters _ => true
  | .requestUpdate _ => true
  | .passComponentTable _ => true
  | .updateComponent _ size => size < 0x100000000
  | .requestFirmwareData _ _ img => img.wf
  | .transferComplete _ _ => true
  | .verifyComplete _ => true
  | .applyComplete _ boot => boot.wf
  | .activateFirmware _ _ boot => boot.wf
  | .getStatus _ => true
  | .cancelUpdateComponent _ => true
  | .cancelUpdate _ => true
  | .getVersion _ rq => rq.wf
  | .getCapabilities _ rq => rq.wf
  | .negotiateAlgorithms _ rq => rq.wf
  | .getDigests _ rq => rq.wf
  | .getCertificate _ rq slot => rq.wf && slot < 8
  | .challenge _ rq => rq.wf
  | .getMeasurements _ rq _ => rq.wf
  | .keyExchange _ rq => rq.wf
  | .finish _ rq _ => rq.wf
  | .heartbeat _ rq => rq.wf
  | .endSession _ rq => rq.wf
  | .jobKeySet _ rq _ _ => rq.wf
  | .jobKeyClear _ rq => rq.wf
  | .jobKeyClearTakesEffect => true
  | .lcAdvance _ rq _ _ _ _ boot => rq.wf && boot.wf
  | .svnCommit _ rq _ _ => rq.wf
  | .testUnlock _ rq _ _ => rq.wf
  | .linkFollowedTick => true
  | .firmwareWatchdog _ => true
  | .coreWatchdog _ => true

/-- The packet, line or message bytes that a command brings with it. -/
def Instr.payload : Instr → List Byte
  | .nop _ _ => []
  | .layer _ _ _ => []
  | .load _ _ => []
  | .steps _ _ => []
  | .elementwise _ _ => []
  | .reconfigure _ _ => []
  | .arrayAbort _ => []
  | .copy _ _ => []
  | .convert _ _ => []
  | .transpose _ _ => []
  | .fill _ _ => []
  | .iadd32 _ _ => []
  | .iadd64 _ _ => []
  | .swap32 _ _ => []
  | .swap64 _ _ => []
  | .cas32 _ _ => []
  | .cas64 _ _ => []
  | .fadd32 _ _ => []
  | .allreduce _ _ => []
  | .reduceScatter _ _ => []
  | .update _ _ => []
  | .fence _ _ => []
  | .waitGauge _ _ => []
  | .waitGaugeTick _ => []
  | .signalAdd _ _ => []
  | .signalSet _ _ => []
  | .codebook _ _ => []
  | .eddy _ _ => []
  | .precInit _ _ => []
  | .programLoad _ _ => []
  | .snap _ _ => []
  | .snapLatch _ => []
  | .commandCompletion _ => []
  | .commit _ => []
  | .replay _ _ _ => []
  | .twineNop _ _ => []
  | .add _ _ => []
  | .sub _ _ => []
  | .mul _ _ => []
  | .div _ _ => []
  | .fma _ _ => []
  | .fms _ _ => []
  | .fnma _ _ => []
  | .sqrt _ _ => []
  | .rsqrt _ _ => []
  | .tmin _ _ => []
  | .tmax _ _ => []
  | .abs _ _ => []
  | .neg _ _ => []
  | .copysign _ _ => []
  | .clip _ _ => []
  | .clt _ _ => []
  | .cle _ _ => []
  | .ceq _ _ => []
  | .cun _ _ => []
  | .sel _ _ => []
  | .cvt _ _ => []
  | .rint _ _ => []
  | .exp2 _ _ => []
  | .log2 _ _ => []
  | .pown _ _ => []
  | .scalb _ _ => []
  | .idx _ _ => []
  | .mov _ _ => []
  | .nfin _ _ => []
  | .ld _ _ => []
  | .st _ _ => []
  | .red _ _ => []
  | .binv _ _ => []
  | .sqTail _ _ => []
  | .cqHead _ _ => []
  | .evHead _ => []
  | .eventRecordWrite => []
  | .haltDb _ => []
  | .haltTakesEffect => []
  | .haltMessage _ msg => msg
  | .queueEnable _ _ => []
  | .queueDisable _ _ => []
  | .glbRst _ _ => []
  | .t1Init => []
  | .t2Init => []
  | .portEnable _ _ => []
  | .portDisable _ _ => []
  | .release _ _ => []
  | .lnkRtLoad _ _ => []
  | .arm _ _ _ => []
  | .disarm _ _ => []
  | .heldWriteTakesEffect _ _ => []
  | .obsSnapselArm _ => []
  | .mailboxSnapshotLatch => []
  | .resume _ _ => []
  | .obsTrigSw _ _ => []
  | .mark _ => []
  | .obsEvsel _ _ => []
  | .mbxReq _ => []
  | .mailboxCaptureComplete => []
  | .w1cClear _ _ => []
  | .suWrite _ _ _ => []
  | .configurationSweep _ => []
  | .powerControllerWindow _ => []
  | .patrolScrub _ => []
  | .firmwareRemeasure _ _ => []
  | .trngFailure _ => []
  | .tamperEvent _ _ => []
  | .pwrEnRise _ => []
  | .pwrEnFall _ => []
  | .perstAssert => []
  | .perstRelease _ => []
  | .cxlLinkDown _ => []
  | .functionLevelReset _ => []
  | .criticalVoltage _ => []
  | .criticalTemperature _ _ => []
  | .ideKm _ => []
  | .hdmRead _ _ => []
  | .hdmWrite _ data _ _ => data
  | .gaugeTick => []
  | .freeRunTick => []
  | .gaugeFrame _ => []
  | .lost _ => []
  | .gaugeSetTransmit => []
  | .gaugeSet _ _ => []
  | .dataFlit _ f _ _ => f.payload
  | .creditFlit _ f => f.payload
  | .retryReq _ f => f.payload
  | .retryReqRepeat _ => []
  | .hello _ _ => []
  | .linkKeyExchange _ _ => []
  | .transcriptSignature _ _ => []
  | .linkmgtDone _ _ => []
  | .keyUpdate _ f => f.payload
  | .keyUpdateSend _ => []
  | .signalDetect _ _ => []
  | .trainComplete _ _ => []
  | .alignComplete _ _ _ => []
  | .authTimeout _ => []
  | .retrainComplete _ _ => []
  | .laneLoss _ _ _ => []
  | .signalLoss _ => []
  | .retryStorm _ _ => []
  | .creditStarvation _ _ => []
  | .malformedLimit _ => []
  | .windowOpen _ _ _ => []
  | .grant _ _ pkt _ => pkt
  | .contrib _ _ pkt _ => pkt
  | .result _ _ pkt => pkt
  | .done _ _ pkt => pkt
  | .abort _ _ pkt => pkt
  | .deadlineDue _ _ => []
  | .abandon _ => []
  | .routeLossAbandon _ => []
  | .setEndpointId _ _ => []
  | .getEndpointId _ => []
  | .getEndpointUuid _ => []
  | .getMctpVersionSupport _ _ => []
  | .getMessageTypeSupport _ => []
  | .getTid _ => []
  | .getPldmVersion _ _ => []
  | .getPldmTypes _ => []
  | .getPldmCommands _ _ => []
  | .getPdr _ _ => []
  | .getSensorReading _ _ => []
  | .getStateSensorReadings _ _ => []
  | .setNumericSensorEnable _ _ _ => []
  | .platformEventMessage _ => []
  | .pollForPlatformEventMessage _ => []
  | .eventMessageBufferSize _ _ => []
  | .queryDeviceIdentifiers _ => []
  | .getFirmwareParameters _ => []
  | .requestUpdate _ => []
  | .passComponentTable _ => []
  | .updateComponent _ _ => []
  | .requestFirmwareData _ _ _ => []
  | .transferComplete _ _ => []
  | .verifyComplete _ => []
  | .applyComplete _ _ => []
  | .activateFirmware _ _ _ => []
  | .getStatus _ => []
  | .cancelUpdateComponent _ => []
  | .cancelUpdate _ => []
  | .getVersion _ _ => []
  | .getCapabilities _ _ => []
  | .negotiateAlgorithms _ _ => []
  | .getDigests _ _ => []
  | .getCertificate _ _ _ => []
  | .challenge _ _ => []
  | .getMeasurements _ _ _ => []
  | .keyExchange _ _ => []
  | .finish _ _ _ => []
  | .heartbeat _ _ => []
  | .endSession _ _ => []
  | .jobKeySet _ _ _ _ => []
  | .jobKeyClear _ _ => []
  | .jobKeyClearTakesEffect => []
  | .lcAdvance _ _ _ _ _ _ _ => []
  | .svnCommit _ _ _ _ => []
  | .testUnlock _ _ _ _ => []
  | .linkFollowedTick => []
  | .firmwareWatchdog _ => []
  | .coreWatchdog _ => []

end Sys2Proof
end

