-- ==== Sys2Proof/Safety.lean ====
section
/-! DEFINITION. What claims about runs are stated in: the canonical form of memory and of the register file, what a module
keeps for life, and the frames that say what a command leaves alone. -/
namespace Sys2Proof.Safety

open Sys2Proof.Machine

/-- Memory and the register file are in canonical form, so that equal contents are equal data. -/
def Canonical (s : State) : Prop := Memory.wf s.mem = true ∧ cellsWf regReset s.regs = true

/-- What the fuses fix for the life of a module (R102, R496). -/
def fusesOf (s : State) : BitVec 64 × Byte × Vector Nat 96 := (s.serial, s.stepping, s.fuses)

/-- What a module keeps but for the commands that program its one-time-programmable memory, install the job key or wipe it. -/
def lifeOf (s : State) : BitVec 64 × Byte × Vector Nat 96 × Otp × Option JobKey := (s.serial, s.stepping, s.fuses, s.otp, s.t3key)

/-- A device-fatal error is in force (R406). -/
def Fatal (s : State) : Prop := s.fatal.isSome = true

/-! ### Frames -/

/-- Registers in which checks and traces leave flags: MEM_ECCSTAT, ERR_STAT, OBS_TRIG.ARM and OBS_TDROP (R253, R417, R468,
R473). -/
def noted (off : Nat) : Bool :=
  off == offEccstat || off == offErrStat || (List.finRange 16).any fun c => off == offTrig c || off == offTdrop c

/-- From `s` to `t` nothing differs but what observers are left: traces and counter banks, event records, the flags of
`noted` registers, and the marks of lines found bad (R250, R376, R454, R463). No byte of memory differs. -/
structure Aside (s t : State) : Prop where
  form : t = { s with cores := t.cores, fresh := t.fresh, regs := t.regs, poison := t.poison, t3 := t.t3,
                      events := t.events, evWait := t.evWait, evLost := t.evLost, ueAddr := t.ueAddr }
  twine : ∀ c : Fin 16, t.cores[c].twine = s.cores[c].twine
  events : s.events <+: t.events
  canon : cellsWf regReset s.regs = true → cellsWf regReset t.regs = true
  regs : cellsWf regReset s.regs = true → ∀ off, noted off = false → regGet t off = regGet s off
  bytes : cellsWf regReset s.regs = true → ∀ a, rdByte t a = rdByte s a

/-! ### Event records -/

/-- The 64 bytes of an event record from its fields (R376): KIND, queue, cause, ring index, the gauge count, and the bytes from 0x10 on. -/
def eventBytes (s : State) (kind q cause idx : Nat) (body : List Byte) : List Byte :=
  padTo 64 (le4 (kind + q * 2 ^ 8 + cause * 2 ^ 16) ++ le4 idx ++ le8 s.gauge.count ++ body)

/-- A record is held, or waits for an entry of the holding buffer (R354). -/
def Told (t : State) (q : Nat) (bytes : List Byte) : Prop := ⟨q, bytes⟩ ∈ t.events ++ t.evWait

/-- A QUEUE record (R377). -/
def queueBytes (s : State) (cause : Nat) (w : Who) : List Byte := eventBytes s 0x01 w.q cause w.idx (le4 w.layer ++ le4 w.op)

/-- The QUEUE record of a queue that leaves RUNNING names its oldest running command, and without one its head (R377, R384). -/
def stopBytes (s : State) (q : Fin 32) (cause : Nat) : List Byte :=
  queueBytes s cause (match s.queues[q].active with
    | x :: _ => whoOf q x.idx x.desc
    | [] => ⟨q, s.queues[q].head.toNat, 0, 0⟩)

/-- A HALT record (R377). -/
def haltBytes (s : State) (cause mask id origin hops : Nat) : List Byte :=
  eventBytes s 0x03 0xFF cause 0xFFFFFFFF (le4 mask ++ le4 id ++ le4 (origin + hops * 2 ^ 16))

/-- The holding buffer takes `n` more records of no command (R354). -/
def OpenRoom (s : State) (n : Nat) : Prop := s.events.length + n ≤ 256

/-! ### Commands of a queue -/

/-- The descriptor `d` stands at the head of queue `q`, alone, and may start (R368); `c` is the view of memory that its fetch
leaves. -/
def Ready (s : State) (q : Fin 32) (env : List Finding) (c : Chk) (d : Desc) : Prop :=
  s.queues[q].active = [] ∧ fetchHead s q env = .got c d ∧ descReady c.s d = true

/-- The holding buffer takes `n` more records of commands, and none waits for an entry (R354). -/
def EvRoom (s : State) (n : Nat) : Prop := s.evWait = [] ∧ s.events.length + n ≤ 512

/-- The other queues are as before. -/
def OthersSame (q : Fin 32) (s t : State) : Prop := ∀ k : Fin 32, k ≠ q → t.queues[k] = s.queues[k]

/-- The command that a descriptor starts, for its events. -/
def who (s : State) (q : Fin 32) (d : Desc) : Who := whoOf q s.queues[q].head d

/-- Reads of these ranges in order, then checks of those about to be written (R245, R250, R512). -/
def access (w : Who) (c : Chk) (rs ws : List (Nat × Nat)) : Chk :=
  ws.foldl (fun c r => Chk.write w c r.1 r.2) (rs.foldl (fun c r => Chk.read w c r.1 r.2) c)

/-- The descriptor at the head started as the running command `x`; beyond that only records differ, and no byte. -/
structure Starts (q : Fin 32) (s t : State) (d : Desc) (x : Cmd) : Prop where
  head : t.queues[q] = { s.queues[q] with head := s.queues[q].head + 1, active := s.queues[q].active ++ [x],
                                          clamps := t.queues[q].clamps }
  idx : x.idx = s.queues[q].head
  desc : x.desc = d
  others : OthersSame q s t
  aside : Aside { s with queues := t.queues } t

/-- An address outside `n` bytes from `b`. -/
def Apart (a b n : Nat) : Prop := ∀ k < n, a ≠ (b + k) % 2 ^ 64

/-- `n` backed bytes from `b`. -/
def BackedAll (s : State) (b n : Nat) : Prop := ∀ k < n, backed s ((b + k) % 2 ^ 64) = true

/-- Queue `q` can write a completion record now, and none waits before it (R353, R512). -/
def CanRecord (s : State) (q : Fin 32) : Prop := cqOk s q = true ∧ s.queues[q].recs = [] ∧ s.fatal = none

/-- Both enables ask for the vector of queue `q` (R355). -/
def asksVector (s : State) (q : Fin 32) (x : Cmd) : Bool := dIrq x.desc && regBit s (offQctl q) 3

/-- The record of `x` was written to its slot, the count after it, and the vector raised where both enables ask for it, kept pending
while it is masked (R351, R355, R373, R510). -/
structure RecordLeft (q : Fin 32) (s t : State) (x : Cmd) (status : Nat) : Prop where
  record : BackedAll s (cqSlotOf s q) 32 → rd t (cqSlotOf s q) 32 = compRecord s x status
  count : BackedAll s (cqTailOf s q) 8 → rdNat t (cqTailOf s q) 8 = (s.queues[q].cqCount + 1) % 2 ^ 64
  vector : t.outbox = s.outbox ++ (if asksVector s q x && !s.msix[msixFin q].masked && ioOk s then [.msix q] else [])
  latch : t.msixPending = if asksVector s q x && s.msix[msixFin q].masked then s.msixPending.set (msixFin q) true else s.msixPending

/-- The slot of the completion record of number `n` since the queue was enabled (R351). -/
def ringSlot (s : State) (q : Fin 32) (n : Nat) : Nat := (cqBase s q + 32 * (n % cqSize s q)) % 2 ^ 64

/-- Queue `q` can write every record of its ring now, and none waits before it (R353, R512). -/
def RingOpen (s : State) (q : Fin 32) : Prop := CanRecord s q ∧ ∀ n, accessRefused s (ringSlot s q n) = 0

/-- These commands left their records in ring order, each with this STATUS, in as many slots (R186, R351, R373). -/
def RecordsLeft (q : Fin 32) (s t : State) (cs : List Cmd) (status : Nat) : Prop :=
  cs.length ≤ cqSize s q → ∀ (k : Nat) (x : Cmd), cs[k]? = some x → BackedAll s (ringSlot s q (s.queues[q].cqCount + k)) 32 →
    rd t (ringSlot s q (s.queues[q].cqCount + k)) 32 = compRecord s x status

/-- Bytes outside the ring slot, the count and these writes are as before. -/
def BytesKept (q : Fin 32) (s t : State) (ws : List MemWrite) : Prop :=
  ∀ a, Apart a (cqSlotOf s q) 32 → Apart a (cqTailOf s q) 8 → (∀ w ∈ ws, Apart a w.addr w.bytes.length) →
    rdByte t a = rdByte s a

/-- An address outside the ring of queue `q` and its count. -/
def OffRing (s : State) (q : Fin 32) (a : Nat) : Prop := (∀ n, Apart a (ringSlot s q n) 32) ∧ Apart a (cqTailOf s q) 8

/-- Of these writes, made in order, `bs` at `a` stands: no later one meets it. -/
def Standing (ws : List MemWrite) (a : Nat) (bs : List Byte) : Prop :=
  ∃ l r, ws = l ++ ⟨a, bs, .data⟩ :: r ∧ ∀ w ∈ r, ∀ k < bs.length, Apart ((a + k) % 2 ^ 64) w.addr w.bytes.length

/-- These writes have become visible, and beyond the ring of queue `q` no other byte has changed (R369). -/
structure WritesLeft (q : Fin 32) (s t : State) (ws : List MemWrite) : Prop where
  kept : ∀ a, OffRing s q a → (∀ w ∈ ws, Apart a w.addr w.bytes.length) → rdByte t a = rdByte s a
  bytes : ∀ a bs, Standing ws a bs → BackedAll s a bs.length → (∀ k < bs.length, OffRing s q ((a + k) % 2 ^ 64)) →
    rd t a bs.length = bs

/-- Beyond records aside, only queues, token counters, memory and what leaves the module differ. -/
def Completes (s t : State) : Prop :=
  Aside { s with queues := t.queues, tokens := t.tokens, mem := t.mem, poison := t.poison, t3 := t.t3, outbox := t.outbox,
                 msixPending := t.msixPending } t

/-- The same but for registers, of which only flags outside `noted` are named beside this. -/
def Finishes (s t : State) : Prop :=
  t = { s with queues := t.queues, tokens := t.tokens, cores := t.cores, fresh := t.fresh, regs := t.regs, mem := t.mem,
               poison := t.poison, t3 := t.t3, events := t.events, evWait := t.evWait, evLost := t.evLost, ueAddr := t.ueAddr,
               outbox := t.outbox, msixPending := t.msixPending }

/-- Stopping commands changes queues, memory, groups, ports and records, and what leaves the module; the engines of a LAYER abort their
passes (R101). -/
def Stopping (s t : State) : Prop :=
  t = { s with queues := t.queues, cores := t.cores, fresh := t.fresh, regs := t.regs, mem := t.mem, poison := t.poison, t3 := t.t3,
               events := t.events, evWait := t.evWait, evLost := t.evLost, ueAddr := t.ueAddr, groups := t.groups, ports := t.ports,
               looped := t.looped, outbox := t.outbox, msixPending := t.msixPending, engines := t.engines } ∧
  ((∀ q : Fin 32, ∀ x ∈ s.queues[q].active, x.work ≠ .layer) → t.engines = s.engines)

/-- The work of a LAYER changes queues, cores, engines, memory and records. -/
def Computing (s t : State) : Prop :=
  t = { s with queues := t.queues, cores := t.cores, fresh := t.fresh, regs := t.regs, mem := t.mem, poison := t.poison, t3 := t.t3,
               events := t.events, evWait := t.evWait, evLost := t.evLost, ueAddr := t.ueAddr, engines := t.engines }

/-- One more in the token counter that SIG_EN names (R371). -/
def signalled (d : Desc) (k : Nat) : BitVec 32 := if dSigEn d && dSigTok d == k then 1 else 0

/-- The checks of reads and writes meet corrected errors at most. -/
def CleanEnv (env : List Finding) : Prop := ∀ f ∈ env, f.kind = .ce

/-- A line that a command can read: unbacked, or neither refused nor poisoned, and in T3 with a tag that does not fail. -/
def LineOk (s : State) (w : Who) (a : Nat) : Prop :=
  backed s a = true → accessRefusedFor s (w.q, w.idx) a = 0 ∧ linePoisoned s (a / 64) = false ∧
    (regionOf a = .t3 → t3Check s (tierOffset a / 256) ≠ .fails)

/-- These ranges can be read, and those written, by a command (R245, R250, R512). -/
def ReadOk (s : State) (w : Who) (rs : List (Nat × Nat)) : Prop :=
  ∀ r ∈ rs, ∀ l ∈ linesOf r.1 r.2, LineOk s w (64 * l % 2 ^ 64)
def WriteOk (s : State) (w : Who) (rs : List (Nat × Nat)) : Prop :=
  ∀ r ∈ rs, ∀ l ∈ linesOf r.1 r.2, backed s (64 * l % 2 ^ 64) = true → accessRefusedFor s (w.q, w.idx) (64 * l % 2 ^ 64) = 0

/-- Bytes outside these ranges are as before. -/
def KeptOutside (s t : State) (rs : List (Nat × Nat)) : Prop :=
  ∀ a, (∀ r ∈ rs, Apart a r.1 r.2) → rdByte t a = rdByte s a

/-- Atomics one after another: the memory they leave and the words they found (R260, R261). -/
def atomics (code : Nat) (s : State) : List (Nat × Nat) → State × List Nat
  | [] => (s, [])
  | (src, dst) :: r =>
    let n := (atomicOf code).size
    let old := rdNat s dst n
    let x := atomics code (wr s dst (leBytes n (atomicWord code old (rdNat s src n) (rdNat s (src + n) n)))) r
    (x.1, old :: x.2)

/-- The descriptor of an atomic that starts, by its code (R362). -/
def atomicRow (code : Nat) (q : Fin 32) (env : List Finding) : Instr :=
  match code with
  | 0 => .iadd32 q env
  | 1 => .iadd64 q env
  | 2 => .swap32 q env
  | 3 => .swap64 q env
  | 4 => .cas32 q env
  | 5 => .cas64 q env
  | _ => .fadd32 q env

/-- Every range that an operator of a LAYER reads, and every range it writes (R360). -/
def layerReads (l : LayerD) : List (Nat × Nat) :=
  [l.opA.scaleRange, l.opB.scaleRange, outScaleRange l false, (l.a.addr, l.opA.bytes), (l.b.addr, l.opB.bytes)] ++
    (match l.resid with
     | some x => [(x, 4 * l.m * l.n)]
     | none => [])

/-- The destinations of an operator, with the scale record of a managed output (R176, R360). -/
def layerWrites (p : Policy) (l : LayerD) : List (Nat × Nat) := layerDests l ++ if isManaged p l then [(l.c.scaleAddr, 8)] else []

/-- What the operator `o` of the run `r` comes to, on the memory of `s` (R142 to R158, R169 to R176). -/
def attempt (s : State) (r : Run) (o : OpRec) : OpOut :=
  let p := (policyOf r.pol).1
  let l := (layerOf o.desc).1
  let block := rd s r.prec precLen
  computeOp s o.desc l (capOf l o.sa o.sb o.sc o.eddy (isManaged p l)).1 p (histsOf block l.slot) (PrecSt.parse (block.drop 0x40)).hidx
    r.step r.rung (r.replays != 0)

/-- What the record of an operator keeps of its attempt (R182, R187). -/
def evOf (x : OpOut) : OpEv :=
  ⟨x.convS, x.convW, x.accF, x.accI, x.bso, lowOf x.ovfTiles, x.amaxS, x.amaxW, x.expS, x.expW, x.rung⟩

/-- An operator with the codebooks that its loads fetch again (R123, R125). -/
def refetched (s : State) (o : OpRec) : OpRec :=
  let l := (layerOf o.desc).1
  let book := fun (i : OpIn) (b : List Byte) => if i.ref.fmt = 0x08 then rd s i.scaleRange.1 i.scaleRange.2 else b
  { o with sa := book l.opA o.sa, sb := book l.opB o.sb }

/-- The operators `os`, run one after another from the memory of `s` at the rung of `r`, leave the memory of `t` and the operators `os'`: after
one that marks below the top rung the others are aborted (R183, R188). `k` numbers the first. -/
def Reruns (q : Fin 32) (r : Run) (idx : Nat → BitVec 32) : Nat → State → List OpRec → List OpRec → State → Prop
  | _, s, [], os', t => os' = [] ∧ t = s
  | _, _, _ :: _, [], _ => False
  | k, s, o :: os, o' :: os', t =>
    let x := attempt s r (refetched s o)
    let u := applyWrites (q.val, (idx k).toNat) s x.writes
    o'.desc = o.desc ∧ o'.ev = evOf x ∧ o'.recs = x.recs.map Sound.bytes ∧ o'.managed = x.managed ∧
      (if (evOf x).marked = true ∧ r.rung < r.top then
        t = u ∧ os'.length = os.length ∧ ∀ y ∈ os', y.ev = OpEv.none ∧ y.recs = []
       else Reruns q r idx (k + 1) u os os' t)

/-- A running command has no outcome of its own yet: it is no UPDATE and no REDUCE. -/
def Simple (x : Cmd) : Prop :=
  (∀ k n b c g e, x.work ≠ .update k n b c g e) ∧ (∀ r, x.work ≠ .reduce r) ∧ (∀ r k, x.work ≠ .ended r k)

/-- The commands of queue `q` as their records tell of them when they are stopped: a LAYER with its run's RESULT so far (R384). -/
def stoppedCmds (s : State) (q : Fin 32) : List Cmd :=
  s.queues[q].active.map fun x => if x.work = .layer then { x with result := runResult s q x.idx false } else x

/-- What the commands of queue `q` leave unspecified when they are stopped lies outside its ring. -/
def StopsOffRing (s : State) (q : Fin 32) : Prop :=
  ∀ x ∈ s.queues[q].active, Simple x ∧ ∀ r ∈ x.dests, ∀ k < r.2, OffRing s q ((r.1 + k) % 2 ^ 64)

/-- A HALT message leaves port `p` on the control channel (R385). -/
def SendsHalt (t : State) (p : Fin 16) (msg : List Byte) : Prop :=
  ∃ x lanes, OutMsg.flit p x lanes ∈ t.outbox ∧ x.flit.vc = 8 ∧ (x.flit.payload.drop 16).take 16 = msg

/-- Vector 33 was asked for: sent, or kept pending while it is masked (R355, R510). -/
def Vector33 (s t : State) : Prop :=
  (s.msix[33].masked = false → ioOk s = true → .msix 33 ∈ t.outbox.drop s.outbox.length) ∧
  (s.msix[33].masked = true → t.msixPending[33] = true)

/-! ### Groups and ports -/

/-- The other groups, and the other ports, are as before. -/
def GroupsSame (n : Fin 8) (s t : State) : Prop := ∀ k : Fin 8, k ≠ n → t.groups[k] = s.groups[k]
def PortsSame (p : Fin 16) (s t : State) : Prop := ∀ k : Fin 16, k ≠ p → t.ports[k] = s.ports[k]

/-- The confluence unit takes writes and packets: in service, with no job-fatal error in force. -/
def Merging (s : State) : Prop := inService s = true ∧ s.jobFatal = false

/-- A command of a REDUCE runs alone on queue `q`. -/
def Reducing (s : State) (q : Fin 32) (x : Cmd) (r : Reduce) : Prop := s.queues[q].active = [x] ∧ x.work = .reduce r

/-- The CONFLUENCE record of a REDUCE (R309). -/
def cflBytes (s : State) (q : Fin 32) (x : Cmd) (r : Reduce) (cause rank count win addr : Nat) : List Byte :=
  eventBytes s 0x05 q cause x.idx.toNat (le4 (dLayer x.desc + r.group * 2 ^ 24) ++ le4 (dOp x.desc + r.bucket * 2 ^ 16) ++ le4 r.step ++
    le4 rank ++ le4 count ++ le4 win ++ leBytes 2 addr)

/-- The write of the guard word, where a REDUCE has one, and that its place takes it (R304, R305). -/
def guardWrites (r : Reduce) (v : Nat) : List MemWrite := if r.guardPtr = 0 then [] else [⟨r.guardPtr, le4 v, .data⟩]
def GuardOk (s : State) (q : Fin 32) (x : Cmd) (r : Reduce) : Prop :=
  r.guardPtr ≠ 0 → WriteOk s (whoOf q x.idx x.desc) [(r.guardPtr, 4)]

/-- The REDUCE of queue `q` can end now: every record and write of its end finds its place. -/
def CanEnd (s : State) (q : Fin 32) (x : Cmd) (r : Reduce) : Prop :=
  CanRecord s q ∧ EvRoom s 10 ∧ GuardOk s q x r ∧ writesRefused s (q.val, x.idx.toNat) x.writes = 0

/-- The REDUCE ended with an outcome other than NORMAL: REPEAT 1, MISSING 2, POISON 3, HALTED 4 (R305, R306, R374, R375). Its record and the
CONFLUENCE record tell of it, the guard word is all ones, what it had written stands, and a contained outcome stops the queue. -/
structure ReduceEnds (q : Fin 32) (s t : State) (x : Cmd) (r : Reduce) (outcome rank : Nat) : Prop where
  record : ∃ y : Cmd, y.idx = x.idx ∧ y.desc = x.desc ∧ y.kind = x.kind ∧ y.clamped = x.clamped ∧
    y.result = reduceResult r outcome (if outcome = 2 then rank else 0x1000) 0 0 ∧
    (BackedAll s (cqSlotOf s q) 32 → rd t (cqSlotOf s q) 32 = compRecord s y (if outcome = 1 then 0 else if outcome = 4 then 2 else 1))
  count : BackedAll s (cqTailOf s q) 8 → rdNat t (cqTailOf s q) 8 = (s.queues[q].cqCount + 1) % 2 ^ 64
  bytes : BytesKept q s t (x.writes ++ guardWrites r 0xFFFFFFFF)
  writes : WritesLeft q s t (x.writes ++ guardWrites r 0xFFFFFFFF)
  queue : t.queues[q].active = [] ∧ t.queues[q].head = s.queues[q].head ∧ t.queues[q].oldest = x.idx + 1 ∧
    t.queues[q].cqCount = s.queues[q].cqCount + 1 ∧
    t.queues[q].state = (if outcome = 2 ∨ outcome = 3 then .stopped else s.queues[q].state)
  stopped : outcome = 2 ∨ outcome = 3 → Told t q (queueBytes s 0x01 (whoOf q x.idx x.desc))
  told : ∃ rk win addr, (outcome = 2 → rk = rank) ∧ Told t q (cflBytes s q x r (outcome + 3) rk 0 win addr)
  flag : (outcome = 1 → regBit t offCflEvstat 3 = true) ∧ (outcome = 2 → regBit t offCflEvstat 4 = true) ∧
    (outcome = 3 → regBit t offCflEvstat 5 = true)
  ended : t.groups[grpFin r.group].lastStep.head? = some (r.bucket, r.step, outcome)
  groups : ∀ k : Fin 8, k ≠ grpFin r.group → t.groups[k] = s.groups[k]
  tokens : ∀ k : Fin 256, t.tokens[k] = s.tokens[k] + (if outcome = 1 then signalled x.desc k else 0)

/-- No flit waits at any port, and no credit is to be returned. -/
def Quiet (s : State) : Prop := ∀ p : Fin 16, s.ports[p].waiting = [] ∧ s.ports[p].owed = []

/-- Every port is quiet, and port `o` can send a flit of channel `vc` at once: room in the retry buffer, room in the key epoch, and a
credit (R324, R334, R337). -/
def Sends (s : State) (o : Fin 16) (vc : Nat) : Prop :=
  Quiet s ∧ s.ports[o].state = .active ∧ s.ports[o].retryBuf.length < 1024 ∧ s.ports[o].txCount + 1 < 2 ^ 36 ∧
    0 < s.ports[o].credits.getD (crIdx vc (regBit s (offPctl o) 6)) 0

/-- A LINK record of port `p` with this cause and old width tells of the port as it stands now, unless the holding buffer has no entry for
it (R321, R349, R354). -/
def LinkTold (t : State) (p : Fin 16) (cause old : Nat) : Prop :=
  let u := t.ports[p]
  t.events.length < 256 → ∃ retries malformed, Told t 0xFF (eventBytes t 0x06 0xFF cause 0xFFFFFFFF
    (le4 (p.val + old % 4 * 2 ^ 4 + u.width % 4 * 2 ^ 6 + u.qreason * 2 ^ 8 + u.lanes.toNat * 2 ^ 12 + u.partnerAddr * 2 ^ 16) ++
      le4 retries ++ le4 malformed))

/-- A GAUGE record (R377). -/
def gaugeBytes (t : State) (cause old new src : Nat) : List Byte :=
  eventBytes t 0x02 0xFF cause 0xFFFFFFFF (le8 old ++ le8 new ++ le4 t.gauge.epoch ++ le4 src)

/-- Port `p` once it has accepted the flit `f`: the next SEQ is expected, what ACK covers has left the retry buffer, and the credits that the
flit brings are held (R327, R334, R337). -/
def accepted (s : State) (p : Fin 16) (f : Flit) : Port :=
  let u := s.ports[p]
  { (fecCount s p f.line).ports[p] with
    rxSeq := (u.rxSeq + 1) % 65536, discarding := false
    retryBuf := match findIdx? (fun (x : SentFlit) => x.seq == f.ack.toNat) u.retryBuf 0 with
      | some i => u.retryBuf.drop (i + 1)
      | none => u.retryBuf
    credits := if f.crVc.toNat ≤ 8 then updAt (· + f.crCount.toNat) u.credits (2 * f.crVc.toNat + b2n f.crPhase) else u.credits
    shared := if f.crVc.toNat = 0xF then u.shared + f.crCount.toNat else u.shared }

/-- The packet that the accepted flit `f` completes at port `p` in the receive buffer `b` (R330, R331). -/
def Completed (s : State) (p : Fin 16) (f : Flit) (b : RxBuf) (x : PartPkt) : Prop :=
  let cur := s.ports[p].partial_.find? fun y => y.vc == f.vc.toNat && y.phase == f.phase
  f.last = true ∧
    ((f.first = true ∧ cur = none ∧ firstFlit s p f b = some x) ∨
     (f.first = false ∧ ∃ y, cur = some y ∧ y.got + 1 = y.flits ∧
       x = { y with bytes := y.bytes ++ f.payload, got := y.got + 1, bufs := y.bufs ++ [b] }))

/-- From `s` to `t` nothing differs but records aside, flags of the ports and of the confluence unit, and what ports send. -/
def Sending (s t : State) : Prop :=
  t = { s with cores := t.cores, fresh := t.fresh, regs := t.regs, poison := t.poison, t3 := t.t3,
               events := t.events, evWait := t.evWait, evLost := t.evLost, ueAddr := t.ueAddr, ports := t.ports,
               looped := t.looped, outbox := t.outbox } ∧
  (Canonical s → ∀ off, noted off = false → (∀ p : Fin 16, off ≠ offPerr p) → off ≠ offCflEvstat → off ≠ offCflEvcnt →
    regGet t off = regGet s off) ∧
  (Canonical s → ∀ a, rdByte t a = rdByte s a)

/-- A flit that the checks of R329 accept at an ACTIVE port, under the key of the epoch that it names (R324). -/
def Accepted (s : State) (p : Fin 16) (f : Flit) : Prop :=
  s.ports[p].state = .active ∧ lineOk f.line = true ∧ f.seq.toNat = s.ports[p].rxSeq ∧ f.tagOk = true ∧
    f.keyEpoch = decide (s.ports[p].rxEpoch % 2 = 1) ∧ f.vc.toNat ≤ 8

/-- The count after one tick of its source: one more, or held until the source has reached it (R381). -/
def ticked (g : Gauge) : Gauge :=
  match g.holding with
  | some c => { g with holding := if c + 1 < g.count then some (c + 1) else none }
  | none => { g with count := (g.count + 1) % 2 ^ 64 }

/-! ### Array engines -/

/-- The slot table and the scratch of an engine are canonical. -/
def EngOk (s : State) (e : Fin 96) : Prop :=
  cellsWf (scrDefault s.engines[e].gen e) s.engines[e].scratch = true ∧ cellsWf (fun _ => (0 : Nat)) s.engines[e].slots = true

/-- No line of these bytes of engine scratch is poisoned. -/
def ScratchClean (s : State) (e : Fin 96) (off n : Nat) : Prop :=
  ∀ l ∈ linesOf off n, l % (scrSize / 64) ∉ s.engines[e].poison

def EnginesSame (e : Fin 96) (s t : State) : Prop := ∀ k : Fin 96, k ≠ e → t.engines[k] = s.engines[k]

/-- An engine given a splice configuration: one that changes, or on the log path an eddy table with another image than the engine holds,
invalidates both buffers, and copies the bound eddy table on the log path (R99, R134). -/
def configured (s : State) (g : Engine) (c : SpliceCfg) : Engine :=
  if g.cfg = c ∧ (c.path = .log → g.eddy = boundEddy s c) then g
  else { g.invalidate with cfg := c, eddy := if c.path = .log then boundEddy s c else g.eddy }

/-- A byte of slot `q` or of its sidecar (R255). -/
def ofSlot (q off : Nat) : Prop := (q * 0x2000 ≤ off ∧ off < q * 0x2000 + 0x2000) ∨ (sideAddr q ≤ off ∧ off < sideAddr q + 0x180)

/-- Beyond records aside, an instruction of engine `e` touched only the `n` slots from `slot`, and the flags of its core. -/
structure SlotsOnly (e : Fin 96) (slot n : Nat) (s t : State) : Prop where
  form : t = { s with engines := t.engines, cores := t.cores, fresh := t.fresh, regs := t.regs, poison := t.poison,
                      t3 := t.t3, events := t.events, evWait := t.evWait, evLost := t.evLost, ueAddr := t.ueAddr }
  others : EnginesSame e s t
  scratch : ∀ off < scrSize, (∀ j < n, ¬ofSlot ((slot + j) % 256) off) → scrByte t e off = scrByte s e off
  tags : ∀ q, (∀ j < n, q ≠ (slot + j) % 256) → slotTag t.engines[e] q = slotTag s.engines[e] q
  regs : Canonical s → ∀ off, noted off = false → off ≠ offAccstat (e / 6) → off ≠ offAccpsn (e / 6) → regGet t off = regGet s off
  bytes : Canonical s → ∀ a, rdByte t a = rdByte s a

/-- A slot holds what a step into it left: the tag, and the elements where it is not EMPTY. -/
def SlotHolds (t : State) (e : Fin 96) (q : Nat) (acc : Nat → Nat → Acc) : Prop :=
  slotTag t.engines[e] q = (acc 0 0).tag ∧
    ((acc 0 0).tag ≠ .empty → ∀ r < 32, ∀ k < 64, scr32 t e (q * 0x2000 + 4 * (64 * r + k)) = (acc r k).x % 2 ^ 32)

/-! ### The vector engine -/

/-- The row of a Twine opcode (R208). -/
def twineRow (op : Nat) (c : Fin 16) (o : TwineOps) : Instr :=
  match op with
  | 0x01 => .add c o | 0x02 => .sub c o | 0x03 => .mul c o | 0x04 => .div c o | 0x05 => .fma c o | 0x06 => .fms c o
  | 0x07 => .fnma c o | 0x08 => .sqrt c o | 0x09 => .rsqrt c o | 0x0A => .tmin c o | 0x0B => .tmax c o | 0x0C => .abs c o
  | 0x0D => .neg c o | 0x0E => .copysign c o | 0x0F => .clip c o | 0x10 => .clt c o | 0x11 => .cle c o | 0x12 => .ceq c o
  | 0x13 => .cun c o | 0x14 => .sel c o | 0x15 => .cvt c o | 0x16 => .rint c o | 0x17 => .exp2 c o | 0x18 => .log2 c o
  | 0x19 => .pown c o | 0x1A => .scalb c o | 0x1B => .idx c o | 0x1C => .mov c o | 0x1D => .nfin c o | 0x20 => .ld c o
  | 0x21 => .st c o | 0x22 => .red c o | 0x23 => .binv c o | _ => .twineNop c o

/-- The vector context of core `c` becomes `x`; nothing else changes. -/
def twineSet (s : State) (c : Fin 16) (x : Twine) : State := updCore s c fun k => { k with twine := x }

/-- Register `r` of a register list at a lane, as a number. -/
def laneOf (v : List (List (BitVec 64))) (r lane : Nat) : Nat := ((v.getD r []).getD lane 0).toNat

/-! ### Management -/

/-- Requests of MCTP control and PLDM that read and change nothing; those of the second list need firmware (R432, R514). -/
def mctpQueries (tr : Transport) (ty : Byte) : List Instr :=
  [.getEndpointId tr, .getEndpointUuid tr, .getMctpVersionSupport tr ty, .getMessageTypeSupport tr, .queryDeviceIdentifiers tr,
   .getFirmwareParameters tr, .getStatus tr]
def pldmQueries (tr : Transport) (ty : Byte) (h id : Nat) : List Instr :=
  [.getTid tr, .getPldmVersion tr ty, .getPldmTypes tr, .getPldmCommands tr ty, .getPdr tr h, .getSensorReading tr id,
   .getStateSensorReadings tr id]

/-- SPDM requests that read and change nothing but, for a signature, the counter of free values. -/
def spdmQueries (tr : Transport) (rq : SpdmReq) (slot : Nat) (index : Byte) : List Instr :=
  [.getVersion tr rq, .getCapabilities tr rq, .negotiateAlgorithms tr rq, .getDigests tr rq, .getCertificate tr rq slot,
   .challenge tr rq, .getMeasurements tr rq index, .heartbeat tr rq]

/-- A request inside the established session of its transport, well formed, with errors and firmware allowing SPDM (R436). -/
def InSession (s : State) (tr : Transport) (rq : SpdmReq) : Prop :=
  spdmUp s = true ∧ rq.wellFormed = true ∧ rq.secured = true ∧ established s tr = true

/-- A request inside its session for which no error is found in a sealed bank (R251). -/
def Secure (s : State) (tr : Transport) (rq : SpdmReq) : Prop := InSession s tr rq ∧ rq.bank = none

/-- One-time-programmable memory only grows: entries, revocations, digests, tamper count and floor (R442 to R444). -/
structure OtpGrows (a b : Otp) : Prop where
  helper : b.helper = a.helper
  secret : b.secret = a.secret
  lc : a.lc <+: b.lc
  tamper : a.tamper ≤ b.tamper
  floor : a.svnFloor ≤ b.svnFloor
  owners : b.owners.length = a.owners.length
  kept : ∀ (i : Nat) (o : OwnerSlot), a.owners[i]? = some o → ∃ o' : OwnerSlot, b.owners[i]? = some o' ∧ (o.revoked = true → o'.revoked = true) ∧
    (o.digest.isSome = true → o'.digest = o.digest)

end Sys2Proof.Safety
end

