-- ==== Sys2Proof/Certificates/Slice0/Obligations.lean ====
section
/-! DEFINITION. The statements about the block: what each command does where it completes, and what it leaves alone. -/

open Sys2Proof Sys2Proof.Machine Sys2Proof.Safety

/-! ### The block as a whole -/

/-- A step takes the command at the front of the queue and runs it with the queue's rest; on an empty queue the oldest packet that
the module has sent to itself is delivered, and without one the trace queues drain, which changes nothing where nothing waits in them.
What an empty queue does is the model's choice (log entries 4, 24 and 48). -/
def Obligations.StepRunsTheFrontCommand : Prop :=
  (∀ (s : State) (c : Instr) (rest : List Instr),
     step { s with pending := c :: rest } = exec c { s with pending := rest }) ∧
  (∀ s : State, s.pending = [] → s.looped = [] →
     ((∀ c : Fin 16, s.cores[c].trace.leaving = [] ∧ s.cores[c].trace.undrained = 0 ∧ s.cores[c].trace.dropped = 0) → step s = .next s) ∧
     ∃ t, step s = .next t ∧ Aside { s with mem := t.mem, poison := t.poison, t3 := t.t3 } t) ∧
  (∀ (s : State) (x : HeldPkt) (r : List HeldPkt), s.pending = [] → s.looped = x :: r →
     step s = .next (deliverPkt { s with looped := r } x.src x.port x.pkt [] false))

/-- Memory and the register file are canonical at reset. The canonical form is of the model, not of the spec (log entry 2). -/
def Obligations.ResetIsCanonical : Prop :=
  Canonical State.reset

/-- Every step keeps the canonical form of memory and of the register file. The canonical form is of the model, not of the spec
(log entry 2). -/
def Obligations.EveryStepKeepsTheCanonicalForm : Prop :=
  ∀ s t : State, step s = .next t → Canonical s → Canonical t

/-! ### Queues -/

/-- NOP: nothing but its completion record, DONE (R357, R369, R373). -/
def Obligations.NopOnlyCompletes : Prop :=
  ∀ (q : Fin 32) (env : List Finding) (s : State) (c : Chk) (d : Desc),
    Canonical s → CanRecord s q → Ready s q env c d → dKind d = 0 →
    ∃ t x, exec (.nop q env) s = .next t ∧ x.idx = s.queues[q].head ∧ x.desc = d ∧ x.kind = 0 ∧ x.result = zeroResult ∧
      x.clamped = decide (0x0B ≤ dKindRaw d) ∧
      t.queues[q] = { s.queues[q] with head := s.queues[q].head + 1, oldest := s.queues[q].head + 1,
                                       cqCount := s.queues[q].cqCount + 1, clamps := t.queues[q].clamps } ∧
      OthersSame q s t ∧ RecordLeft q s t x 0 ∧ BytesKept q s t [] ∧
      (∀ k : Fin 256, t.tokens[k] = s.tokens[k] + signalled d k) ∧ Completes s t

/-- SIGNAL with SET 0 adds VALUE to its counter, SET 1 stores VALUE; with WR_EN the 8 bytes DATA are written to ADDR with its low
three bits zero, which count as a clamp with WR_EN or without; where the write's check leaves an event record that waits for an entry of
the holding buffer, the SIGNAL waits with it (R354, R365, R367, R387). -/
def Obligations.SignalChangesItsCounter : Prop :=
  ∀ (q : Fin 32) (env : List Finding) (s : State) (c : Chk) (d : Desc),
    let tok := fieldAt d 0x28 1 0 8
    let v := BitVec.ofNat 32 (fieldAt d 0x2C 4 0 32)
    let wrEn := bitAt (fieldAt d 0x28 4 0 32) 9
    let addr := fieldAt d 0x30 8 0 64 / 8 * 8
    let ws : List MemWrite := if wrEn then [⟨addr, le8 (fieldAt d 0x38 8 0 64), .data⟩] else []
    let k := if wrEn then Chk.write (who s q d) c addr 8 else c
    let row := if signalSetBit d then Instr.signalSet q env else .signalAdd q env
    Canonical s → Ready s q env c d → dKind d = 7 → k.stop = none →
    (evBlocked k.s q = true →
      ∃ t x, exec row s = .next t ∧ x.idx = s.queues[q].head ∧ x.desc = d ∧ x.kind = 7 ∧ x.writes = ws ∧
        t.queues[q] = { s.queues[q] with head := s.queues[q].head + 1, active := [x], clamps := t.queues[q].clamps } ∧
        OthersSame q s t ∧ Aside { s with queues := t.queues } t) ∧
    (evBlocked k.s q = false → CanRecord s q →
      ∃ t x, exec row s = .next t ∧ x.idx = s.queues[q].head ∧ x.desc = d ∧ x.kind = 7 ∧ x.result = zeroResult ∧
        (fieldAt d 0x30 8 0 3 ≠ 0 → x.clamped = true) ∧
        t.queues[q] = { s.queues[q] with head := s.queues[q].head + 1, oldest := s.queues[q].head + 1,
                                         cqCount := s.queues[q].cqCount + 1, clamps := t.queues[q].clamps } ∧
        OthersSame q s t ∧ RecordLeft q s t x 0 ∧ BytesKept q s t ws ∧ WritesLeft q s t ws ∧
        (∀ k : Fin 256, t.tokens[k] =
          (if k.val = tok then (if signalSetBit d then v else s.tokens[k] + v) else s.tokens[k]) + signalled d k) ∧ Completes s t)

/-- FENCE starts and waits for the descriptor last started on each queue of QMASK that still runs; WAIT_GAUGE waits for TICK; SNAP
starts when one of the four latch sets is free. A FENCE completes when each descriptor that it waits for has completed, and not before,
and a queue that leaves RUNNING is waited for no more (R372, R382, R459). -/
def Obligations.WaitingCommandsStart : Prop :=
  (∀ (q : Fin 32) (env : List Finding) (s : State) (c : Chk) (d : Desc),
     Canonical s → Ready s q env c d → dKind d = 5 →
     ∃ t x ws, exec (.fence q env) s = .next t ∧ Starts q s t d x ∧ x.kind = 5 ∧ x.status = 0 ∧ x.writes = [] ∧ x.work = .fence ws ∧
       (∀ k i, (k, i) ∈ ws ↔ ∃ u : Fin 32, u.val = k ∧ bitAt (fieldAt d 0x28 4 0 32) k = true ∧
         (s.queues[u].active.getLast?.map fun y => y.idx.toNat) = some i)) ∧
  (∀ (q : Fin 32) (env : List Finding) (s : State) (c : Chk) (d : Desc),
     Canonical s → Ready s q env c d → dKind d = 6 →
     ∃ t x, exec (.waitGauge q env) s = .next t ∧ Starts q s t d x ∧ x.kind = 6 ∧ x.status = 0 ∧ x.writes = [] ∧
       x.work = .waitGauge (fieldAt d 0x28 8 0 64)) ∧
  (∀ (q : Fin 32) (env : List Finding) (s : State) (c : Chk) (d : Desc),
     Canonical s → Ready s q env c d → dKind d = 10 → runningSnaps c.s < 4 →
     ∃ t x, exec (.snap q env) s = .next t ∧ Starts q s t d x ∧ x.kind = 10 ∧ x.status = 0 ∧ x.writes = [] ∧
       x.work = .snap (fieldAt d 0x28 8 0 64) (fieldAt d 0x30 4 0 32) (fieldAt d 0x38 8 0 64) false) ∧
  (∀ (q : Fin 32) (s : State) (x : Cmd) (rest : List Cmd) (ws : List (Nat × Nat)),
     let open_ := ∃ w ∈ ws, ∃ u : Fin 32, u.val = w.1 % 32 ∧ ∃ y ∈ s.queues[u].active, y.idx.toNat = w.2
     Canonical s → CanRecord s q → s.queues[q].active = x :: rest → x.work = .fence ws → x.status = 0 → x.writes = [] →
     s.queues[q].state = .running → inService s = true → evBlocked s q = false →
     (open_ → exec (.commandCompletion q) s = .next s) ∧
     (¬open_ → ∃ t, exec (.commandCompletion q) s = .next t ∧ RecordLeft q s t x 0 ∧ BytesKept q s t [] ∧ OthersSame q s t ∧
       t.queues[q] = { s.queues[q] with active := rest, oldest := x.idx + 1, cqCount := s.queues[q].cqCount + 1 } ∧
       (∀ k : Fin 256, t.tokens[k] = s.tokens[k] + signalled x.desc k) ∧ Completes s t)) ∧
  (∀ (q : Fin 32) (v : BitVec 64) (s : State), inService s = true → ioOk s = true → s.queues[q].state ≠ .disabled →
     ∃ t, exec (.queueDisable q v) s = .next t ∧
       ∀ (u : Fin 32) (y : Cmd) (ws : List (Nat × Nat)), y ∈ t.queues[u].active → y.work = .fence ws → ∀ w ∈ ws, w.1 ≠ q.val)

/-- COPY and TRANSPOSE without conversion: element (i, j) of DST takes the bits of element (i, j) of SRC, or of (j, i) under
TRANSPOSE; FILL: byte j of every row is byte j mod 8 of the pattern (R266, R363). -/
def Obligations.MovesWithoutConversion : Prop :=
  (∀ (q : Fin 32) (env : List Finding) (s : State) (c : Chk) (d : Desc),
     let m := (moveOf d).1
     let w := fmtWidth (fmtOf m.src.fmt)
     Canonical s → CleanEnv env → Ready s q env c d → dKind d = 2 → isCopyOp d = true → mvConvBit d = false →
     ReadOk s (who s q d) (matRanges m.src.addr m.sstr w m.rows m.cols) → WriteOk s (who s q d) m.dests →
     ∃ t x, exec (if mvTrBit d then .transpose q env else .copy q env) s = .next t ∧ Starts q s t d x ∧ x.kind = 2 ∧ x.status = 0 ∧
       x.work = .plain ∧ x.dests = m.dests ∧
       x.writes = (if mvTrBit d then
           matWrites m.dst.addr m.dstr w m.cols m.rows fun i j => matElem s m.src.addr m.sstr w m.cols j i
         else matWrites m.dst.addr m.dstr w m.rows m.cols fun i j => matElem s m.src.addr m.sstr w m.cols i j)) ∧
  (∀ (q : Fin 32) (env : List Finding) (s : State) (c : Chk) (d : Desc),
     let dst := ((TRef.parse d 0x38).clampAddr).1
     let rows := (dim24 (fieldAt d 0x48 4 0 32)).1
     let cols := (dim24 (fieldAt d 0x4C 4 0 32)).1
     let str := (strideClamp (fieldAt d 0x54 4 0 32) cols).1
     Canonical s → Ready s q env c d → dKind d = 2 → mvOp d = 1 →
     WriteOk s (who s q d) (matRanges dst.addr str 8 rows cols) →
     ∃ t x, exec (.fill q env) s = .next t ∧ Starts q s t d x ∧ x.kind = 2 ∧ x.status = 0 ∧ x.work = .plain ∧
       x.dests = matRanges dst.addr str 8 rows cols ∧
       x.writes = matWrites dst.addr str 8 rows cols fun _ j => (fieldAt d 0x68 8 0 64 >>> (8 * (j % 8))) % 256)

/-- CONVERT, with or without TRANSPOSE: scales and codebooks are read first, and every element of DST is the conversion of its
element of SRC (R60, R265 to R268). -/
def Obligations.ConvertConvertsElements : Prop :=
  ∀ (q : Fin 32) (env : List Finding) (s : State) (c : Chk) (d : Desc) (row : Instr),
    let m := (moveOf d).1
    let sr := scaleRange m.src m.rows m.cols m.rows
    let dr := scaleRange m.dst m.drows m.dcols m.drows
    let ss := (scalesOf m.src m.cols m.rows (rd s sr.1 sr.2)).1
    let ds := if m.dst.scale = 3 then (⟨0, [], [], []⟩ : Scales) else (scalesOf m.dst m.dcols m.drows (rd s dr.1 dr.2)).1
    Canonical s → CleanEnv env → Ready s q env c d → dKind d = 2 → isCopyOp d = true → mvConvBit d = true →
    ReadOk s (who s q d) (sr :: (if m.dst.scale = 3 then [] else [dr]) ++
      matRanges m.src.addr m.sstr (fmtWidth (fmtOf m.src.fmt)) m.rows m.cols) →
    WriteOk s (who s q d) m.dests →
    (row = .convert q env ∨ (row = .transpose q env ∧ mvTrBit d = true)) →
    ∃ t x, exec row s = .next t ∧ Starts q s t d x ∧ x.kind = 2 ∧ x.status = 0 ∧ x.work = .plain ∧ x.dests = m.dests ∧
      x.writes =
        (if m.dst.scale = 3 then
          matWrites m.dst.addr m.dstr (fmtWidth (fmtOf m.dst.fmt)) m.drows m.dcols (m.mxElem s d ss) ++
          [⟨m.dst.scaleAddr, (List.range m.drows).flatMap fun i => (List.range (ceilDiv m.dcols 32)).map fun b =>
            BitVec.ofNat 8 (mxBlock (fmtOf m.dst.fmt) (m.block s ss i b)).1, .data⟩]
        else matWrites m.dst.addr m.dstr (fmtWidth (fmtOf m.dst.fmt)) m.drows m.dcols (m.convElem s d ss ds))

/-- A bank atomic reads, changes and writes its words one after another, in source element order, or for FADD in an order that is
left open; SWAP and CAS also hold the words found for RESULT_ADDR (R260 to R262). How the order is drawn is log entry 11; that the words
change as the atomic starts, while what goes to RESULT_ADDR is held to its completion, is the model's reading (log entry 6). -/
def Obligations.AtomicsRunInOrder : Prop :=
  ∀ (q : Fin 32) (env : List Finding) (s : State) (c : Chk) (d : Desc) (code : Fin 7),
    let a := atomicOf code
    let src := ((TRef.parse d 0x28).clampAddr).1
    let dst := ((TRef.parse d 0x38).clampAddr).1
    let rows := (dim24 (fieldAt d 0x48 4 0 32)).1
    let cols := (dim24 (fieldAt d 0x4C 4 0 32)).1
    let n := if a.pair then 2 * a.size else a.size
    let srcs := atomicSources a src.addr (strideClamp (fieldAt d 0x50 4 0 32) (cols * n)).1 rows cols
    let dsts := atomicTargets a dst.addr (strideClamp (fieldAt d 0x54 4 0 32) (cols * a.size)).1 rows cols
    let ps := arrival code c.s.fresh (srcs.zip dsts)
    let m := atomics code s ps
    Canonical s → CleanEnv env → Ready s q env c d → dKind d = 2 → mvOp d = 2 → mvAtomic d = code →
    (∀ t ∈ dsts, regionOf t = .core) → ReadOk s (who s q d) (srcs.map (·, n) ++ dsts.map (·, a.size)) →
    (a.old = true → WriteOk s (who s q d) [(mvResult d, rows * cols * a.size)]) →
    ∃ t x, exec (atomicRow code q env) s = .next t ∧ x.idx = s.queues[q].head ∧ x.desc = d ∧ x.kind = 2 ∧ x.status = 0 ∧
      x.work = .plain ∧ ps.Perm (srcs.zip dsts) ∧ (code.val ≠ 6 → ps = srcs.zip dsts) ∧
      x.writes = (if a.old then [⟨mvResult d, m.2.flatMap (leBytes a.size), .data⟩] else []) ∧
      t.queues[q] = { s.queues[q] with head := s.queues[q].head + 1, active := [x], clamps := t.queues[q].clamps } ∧
      OthersSame q s t ∧ (∀ b, rdByte t b = rdByte m.1 b) ∧ KeptOutside s t (dsts.map (·, a.size)) ∧
      Aside { s with queues := t.queues, mem := t.mem, poison := t.poison, t3 := t.t3 } t

/-- CODEBOOK writes COUNT tables of 16 bytes, entries that are NaN as 0x00, and a TABLE_LOAD of an unknown kind writes nothing;
EDDY and PROGRAM_LOAD read their image, and PREC_INIT zeroes the state of COUNT blocks (R47, R133, R135, R210, R365, R366,
R387). That no byte changes before the completion is log entry 6, and that row CODEBOOK starts the unknown kinds log entry 42. -/
def Obligations.TablesAndProgramsAreRead : Prop :=
  (∀ (q : Fin 32) (env : List Finding) (s : State) (c : Chk) (d : Desc),
     let src := fieldAt d 0x28 8 0 64
     let dst := fieldAt d 0x30 8 0 64
     let n := fieldAt d 0x3C 4 0 32
     let js := List.range n
     Canonical s → CleanEnv env → Ready s q env c d → dKind d = 8 →
     (tlKind d = 0 ∧ ReadOk s (who s q d) (js.map fun j => (src + 16 * j, 16)) ∧ WriteOk s (who s q d) (js.map fun j => (dst + 16 * j, 16)) ∧
       (∀ i < 16 * n, Apart ((src + i) % 2 ^ 64) dst (16 * n))) ∨ 3 ≤ tlKind d →
     ∃ t x, exec (.codebook q env) s = .next t ∧ Starts q s t d x ∧ x.kind = 8 ∧ x.status = 0 ∧ x.work = .plain ∧
       x.writes = (if tlKind d = 0 then js.map fun j => ⟨dst + 16 * j,
         (rd s (src + 16 * j) 16).map fun b => if b = 0x7F ∨ b = 0xFF then 0 else b, .data⟩ else [])) ∧
  (∀ (q : Fin 32) (env : List Finding) (s : State) (c : Chk) (d : Desc) (row : Instr) (k : Nat),
     let src := fieldAt d 0x28 8 0 64
     let rs := (List.range (fieldAt d 0x3C 4 0 32)).map fun j => (fieldAt d 0x30 8 0 64 + j * 0x7000 + 0x40, 64)
     let eddy := k = 0 ∧ row = .eddy q env ∧ dKind d = 8 ∧ tlKind d = 1 ∧ eddyBound c.s (tlEt d) = false ∧
       ReadOk s (who s q d) [(src, 32)]
     let prec := k = 1 ∧ row = .precInit q env ∧ dKind d = 8 ∧ tlKind d = 2 ∧ WriteOk s (who s q d) rs
     let prog := k = 2 ∧ row = .programLoad q env ∧ dKind d = 9 ∧ programBound c.s (fieldAt d 0x30 4 0 4) = false ∧
       ReadOk s (who s q d) [(src, 512)]
     Canonical s → CleanEnv env → Ready s q env c d → eddy ∨ prec ∨ prog →
     ∃ t x, exec row s = .next t ∧ Starts q s t d x ∧ x.kind = dKind d ∧ x.status = 0 ∧
       (k = 0 → x.work = .eddy (tlEt d) (rd s src 32) ∧ x.writes = []) ∧
       (k = 1 → x.work = .plain ∧ x.writes = rs.map fun r => ⟨r.1, List.replicate 64 0, .data⟩) ∧
       (k = 2 → x.work = .program (fieldAt d 0x30 4 0 4) (rd s src 512) ∧ x.writes = []))

/-- UPDATE: FREEZE ends it with FROZEN set and nothing written; an empty slot or a COUNT of 0 ends it with nothing written;
otherwise its outcome is that of its phases on the inputs it bound: a guard word that is not zero, or a guard that trips, leaves every
output unwritten with GUARDED set, and pass 2 goes through every chunk otherwise (R200, R201, R210, R211, R214, R225). The core that
runs it is left open (log entry 23). -/
def Obligations.UpdateBindsItsInputs : Prop :=
  ∀ (q : Fin 32) (s : State) (c : Chk) (d : Desc),
    let w := who s q d
    let raw := rd s (udShard d) 256
    let sh := (shardOf raw).1
    let image := slotImage s (udProg d)
    let scaled := (sh.member 1).addr != 0 && (sh.member 1).conv.scale == 1
    let bundle : Bundle := ⟨q, s.queues[q].head.toNat, d, raw,
      if scaled then some (scaleRec (rd s sh.gScale 8)).1.scale else none,
      if udSched d = 0 then noSchedule else schedule (schedOf (rd s (udSched d) 128)).1 (dStep d), image⟩
    let word := if sh.guardPtr = 0 then 0 else rdNat s sh.guardPtr 4
    let idle := image = [] ∨ sh.count = 0
    Canonical s → Ready s q [] c d → dKind d = 4 → updateReady c.s d = true →
    ReadOk s w [(udShard d, 256)] →
    (sh.freeze = false → ¬idle → ReadOk s w ((if scaled then [(sh.gScale, 8)] else []) ++
      (if udSched d = 0 then [] else [(udSched d, 128)]) ++ (if sh.guardPtr = 0 then [] else [(sh.guardPtr, 4)]))) →
    ∃ t x, exec (.update q []) s = .next t ∧ x.idx = s.queues[q].head ∧ x.desc = d ∧ x.kind = 4 ∧
      t.queues[q] = { s.queues[q] with head := s.queues[q].head + 1, active := [x], clamps := t.queues[q].clamps } ∧
      OthersSame q s t ∧ Aside { s with queues := t.queues, cores := t.cores } t ∧
      (∀ k : Fin 16, k ≠ coreOf x.cores → t.cores[k].twine = s.cores[k].twine) ∧
      (sh.freeze = true → x.status = 0 ∧ x.result = updResult 1 0 0 0 0 0 ∧ x.work = .update none [] [] [] 0 false) ∧
      (sh.freeze = false → idle → x.status = 0 ∧ x.result = updResult 0 0 0 0 0 0 ∧ x.work = .update (some (udProg d)) [] [] [] 0 false) ∧
      (sh.freeze = false → ¬idle → ∃ u, let o := updPhases w sh (progOf image (some sh)).1 word ⟨⟨s, [], u, none⟩, bindTwine bundle⟩
        x.status = o.status ∧ x.result = o.result ∧ x.work = .update (some (udProg d)) o.norm o.blocks o.chunks o.guarded o.tripped ∧
        (word ≠ 0 ∨ o.tripped = true → x.status = 0 → o.tripped = true ∧ o.blocks = [] ∧ o.chunks = [] ∧
          x.result = updResult 2 0 0 o.guarded 0 0) ∧
        (o.tripped = false → x.status = 0 → o.guarded = 0 ∧ o.chunks.length = ceilDiv sh.count 512 ∧ o.norm = normWrites sh o.x.t ∧
          (∀ i ∈ (progOf image (some sh)).1.head?, i.op ≠ 0x23 → o.blocks = [])))

/-- LAYER: the first descriptor of a run starts it, and a further one of the same layer joins it. Its operator's output takes the elements
that its attempt at the run's rung comes to: without scales, conversions and a residual, each is the sum of its groups along k, in
ascending order, converted to the output format. Bytes change only in the precision block and in what the operator writes (R142 to R158,
R165, R168, R176, R360). What its engines hold afterwards is log entry 9, and that the output is written before the commit log entry 6. -/
def Obligations.LayerStartsOrJoinsARun : Prop :=
  ∀ (q : Fin 32) (env : List Finding) (s : State) (c : Chk) (d : Desc),
    let l := (layerOf d).1
    let w := (q.val, s.queues[q].head.toNat)
    let prec := match s.queues[q].run with
      | none => lyPrec d
      | some r => r.prec
    let p := (policyOf (match s.queues[q].run with
      | none => padTo 64 (rd s prec precLen)
      | some r => r.pol)).1
    let v := match s.queues[q].run with
      | none => (beginRun w s d (rd s prec precLen)).1
      | some _ => s
    Canonical s → CleanEnv env → fetchHead s q env = .got c d → descReady c.s d = true → dKind d = 1 →
    l.ewise = true ∨ eddyLoading c.s l.eddySel = false →
    (match s.queues[q].run with
     | none => s.queues[q].active = []
     | some r => r.ended = false ∧ r.marking = none ∧ dLayer d = r.layer) →
    ReadOk s (who s q d) ((prec, precLen) :: layerReads l) → WriteOk s (who s q d) (layerWrites p l) →
    ∃ t x r o, exec (.layer q env []) s = .next t ∧ x.idx = s.queues[q].head ∧ x.desc = d ∧ x.kind = 1 ∧ x.status = 0 ∧
      x.work = .layer ∧ o.desc = d ∧ r.ended = lyLast d ∧
      (match s.queues[q].run with
       | none => r.layer = dLayer d ∧ r.prec = lyPrec d ∧ r.step = dStep d ∧ r.replays = 0 ∧ r.ops = [o] ∧
           (regBit s offDegrade 0 = false → r.ceil = none)
       | some r' => r = { r' with ops := r'.ops ++ [o], ended := lyLast d }) ∧
      (let sc := rd v (outScaleRange l (isManaged p l)).1 (outScaleRange l (isManaged p l)).2
       let y := attempt v r o
       o.sa = rd v l.opA.scaleRange.1 l.opA.scaleRange.2 ∧ o.sb = rd v l.opB.scaleRange.1 l.opB.scaleRange.2 ∧ o.sc = sc ∧
       o.eddy = s.eddies.toList.getD l.eddySel [] ∧ o.ev = evOf y ∧ o.recs = y.recs.map Sound.bytes ∧ o.managed = y.managed ∧
       (∀ a, rdByte t a = rdByte (applyWrites w v y.writes) a) ∧
       (l.a.scale = 0 → l.b.scale = 0 → l.c.scale = 0 → l.a.fmt ≠ 0x08 → l.b.fmt ≠ 0x08 → l.c.fmt ≠ 0x08 → l.resid = none → l.splits = 1 → l.ewise = false →
         needConv l.opA.fmt false r.rung (r.replays != 0) = false → needConv l.opB.fmt false r.rung (r.replays != 0) = false →
         let code := fun i k j => (matElem v l.a.addr 0 (fmtWidth l.opA.fmt) l.k i k, matElem v l.b.addr 0 (fmtWidth l.opB.fmt) l.n k j)
         let codes := fun i j => (List.range l.k).map fun k => code i k j
         let els := fun i j => (codes i j).map fun x =>
           ((⟨splitElem l.opA.fmt [] x.1, none⟩, ⟨splitElem l.opB.fmt [] x.2, none⟩) : AEl × AEl)
         let sum := fun i j => (splitAcc (pathOf r.rung l.opA.fmt l.opB.fmt) o.eddy l.g (1, 0) (els i j) (codes i j)).val (1, 0)
         y.writes = matWrites l.c.addr 0 (fmtWidth (fmtOf l.c.fmt)) l.m l.n fun i j =>
           (convertTo (fmtOf l.c.fmt) []
             (rndOf l.c.role l.c.rnd (braid16 (regGet s offJobseed).toNat (dStep d) (dLayer d) (dOp d) l.c.role ((i * l.n + j) % 2 ^ 50)))
             (outNonSat l.c.nonSat (sum i j)) (sum i j)).1)) ∧
      t.queues[q] = { s.queues[q] with head := s.queues[q].head + 1, active := s.queues[q].active ++ [x],
                                       clamps := t.queues[q].clamps, run := some r } ∧
      OthersSame q s t ∧
      KeptOutside s t ((if s.queues[q].run.isNone then [(lyPrec d, precLen)] else []) ++ layerDests l) ∧
      (∀ off, noted off = false → (∀ k : Fin 16, off ≠ offAccstat k) → regGet t off = regGet s off) ∧ Computing s t

/-- REPLAY writes its record, sets PRC_RPLSTAT.REPLAY once for the marking operator, and runs every operator of the run again one rung wider, in
order, up to one that marks again below the top rung (R182, R183, R187, R188). -/
def Obligations.ReplayWidensTheRun : Prop :=
  ∀ (q : Fin 32) (env : List Finding) (s : State) (r : Run) (m : Nat),
    let idx := opIdx s.queues[q].active
    Canonical s → CleanEnv env → EvRoom s 1 → s.queues[q].run = some r → r.marking = some m → s.queues[q].state = .running →
    inService s = true → s.jobFatal = false → s.queues[q].active.length = r.ops.length →
    (∀ (k : Nat) (o : OpRec), r.ops[k]? = some o → let l := (layerOf o.desc).1
      ReadOk s (whoOf q (idx k) o.desc) ((r.prec, precLen) :: layerReads l) ∧
      WriteOk s (whoOf q (idx k) o.desc) (layerWrites (policyOf r.pol).1 l)) →
    ∃ t r' o v, exec (.replay q env []) s = .next t ∧ OthersSame q s t ∧ r.ops[m]? = some o ∧
      t.queues[q] = { s.queues[q] with run := some r', active := t.queues[q].active } ∧
      t.queues[q].active.map (fun x => { x with cores := 0 }) = s.queues[q].active.map (fun x => { x with cores := 0 }) ∧
      r' = { r with rung := r.rung + 1, replays := r.replays + 1, ops := r'.ops } ∧
      Reruns q { r with rung := r.rung + 1, replays := r.replays + 1 } idx 0 s r.ops r'.ops v ∧ (∀ a, rdByte t a = rdByte v a) ∧
      s.events ++ [⟨q.val, padTo 64 (le4 (0x04 + q.val * 2 ^ 8) ++ le4 (idx m).toNat ++ le8 s.gauge.count ++
        le4 (r.layer + (r.replays + 1) * 2 ^ 24) ++
        le4 (dOp o.desc + r.rung * 2 ^ 16 + (r.rung + 1) * 2 ^ 19 + (b2n (o.ev.convS != 0) + 2 * b2n (o.ev.convW != 0) +
          4 * b2n (o.ev.accF != 0) + 8 * b2n (o.ev.accI != 0) + 16 * b2n (o.ev.bso != 0)) * 2 ^ 24) ++
        le4 r.step ++ le4 o.ev.lowTile ++ le4 (min o.ev.convS 0xFFFFFFFF) ++ le4 (min o.ev.convW 0xFFFFFFFF) ++
        le4 (min (o.ev.accF + o.ev.accI) 0xFFFFFFFF) ++ le4 (min o.ev.bso 0xFFFFFFFF) ++ le4 o.ev.amaxS ++ le4 o.ev.amaxW ++
        leBytes 1 (twos 8 o.ev.expS) ++ leBytes 1 (twos 8 o.ev.expW))⟩] <+: t.events ∧
      (o.replayed = false → regBit t offRplstat 0 = true) ∧
      KeptOutside s t (r.ops.flatMap fun o => layerDests (layerOf o.desc).1) ∧
      (∀ off, noted off = false → off ≠ offRplstat → (∀ k : Fin 16, off ≠ offAccstat k) → regGet t off = regGet s off) ∧ Computing s t

/-- COMMIT completes every command of a run that no operator marks and that has ended, or that the next descriptor cuts short: the
sounding records and the managed scale records are written, then one completion record for each command, in order and DONE, with the
run's rung and replays in RESULT (R165, R176, R184, R186, R374, R387). -/
def Obligations.CommitCompletesTheRun : Prop :=
  ∀ (q : Fin 32) (s : State) (r : Run),
    let cs := s.queues[q].active
    let cut := fun k => !r.ended && k + 1 == cs.length
    let done := fun (x : Cmd) => { x with result := layerResult (r.convAt cs x.idx) r.rung r.replays r.stands false r.ceil.isSome }
    let ws := r.ops.flatMap (opCommitWrites r)
    Canonical s → RingOpen s q → s.queues[q].run = some r → r.marking = none → r.ops ≠ [] →
    r.ended = true ∨ runCut s q r = true → (r.stands = true → EvRoom s 1) →
    (∀ (k : Nat) (o : OpRec), r.ops[k]? = some o → writesRefused s (q.val, (opIdx cs k).toNat) (opCommitWrites r o) = 0) →
    s.queues[q].state = .running → inService s = true → evBlocked s q = false →
    ∃ t, exec (.commit q) s = .next t ∧
      t.queues[q] = { s.queues[q] with active := [], run := none, clamps := t.queues[q].clamps,
                                       cqCount := s.queues[q].cqCount + cs.length,
                                       oldest := (match cs.getLast? with
                                         | some x => x.idx + 1
                                         | none => s.queues[q].oldest) } ∧
      OthersSame q s t ∧
      RecordsLeft q s t ((cs.zip (List.range cs.length)).map fun x => { done x.1 with clamped := x.1.clamped || cut x.2 }) 0 ∧
      (∀ a, OffRing s q a → rdByte t a = rdByte (ws.foldl (fun s w => wr s w.addr w.bytes) s) a) ∧ WritesLeft q s t ws ∧
      (r.stands = true → regBit t offRplstat 1 = true) ∧
      (∀ k : Fin 256, t.tokens[k] = s.tokens[k] + (match cs.getLast? with
        | some x => signalled x.desc k
        | none => 0)) ∧
      (∀ off, noted off = false → off ≠ offRplstat → regGet t off = regGet s off) ∧ Finishes s t

/-- COMMAND_COMPLETION of the oldest command that ends DONE: its held writes, its tables or program, its counter, then its record
(R135, R210, R365, R369, R371 to R373). -/
def Obligations.CompletionEndsTheOldestCommand : Prop :=
  ∀ (q : Fin 32) (s : State) (x : Cmd) (rest : List Cmd),
    Canonical s → CanRecord s q → s.queues[q].active = x :: rest → mayComplete s x = true → x.status = 0 →
    (∀ k b v, x.work ≠ .signal k b v) → (∀ k n b c g e, x.work ≠ .update k n b c g e) → (∀ r k, x.work ≠ .ended r k) →
    s.queues[q].state = .running → inService s = true → evBlocked s q = false → writesRefused s (q.val, x.idx.toNat) x.writes = 0 →
    ∃ t, exec (.commandCompletion q) s = .next t ∧
      t.queues[q] = { s.queues[q] with active := rest, oldest := x.idx + 1, cqCount := s.queues[q].cqCount + 1 } ∧
      OthersSame q s t ∧ BytesKept q s t x.writes ∧ RecordLeft q s t x 0 ∧ WritesLeft q s t x.writes ∧
      (∀ k : Fin 256, t.tokens[k] = s.tokens[k] + signalled x.desc k) ∧
      (∀ k image, x.work = .eddy k image → ∀ i : Fin 4,
        t.eddies[i] = (if i.val = k % 4 then image.map fun b => BitVec.ofNat 8 (b.toNat % 64) else s.eddies[i]) ∧
        t.eddyLoaded[i] = (decide (i.val = k % 4) || s.eddyLoaded[i])) ∧
      (∀ k image, x.work = .program k image → ∀ i : Fin 16,
        t.programs[i] = (if i.val = k % 16 then (if fieldAt image 0 1 0 7 = 0 then [] else image) else s.programs[i])) ∧
      (∀ off, noted off = false → regGet t off = regGet s off) ∧
      Finishes { s with eddies := t.eddies, eddyCrc := t.eddyCrc, eddyLoaded := t.eddyLoaded, programs := t.programs,
                        progCrc := t.progCrc } t

/-- COMMAND_COMPLETION of an UPDATE that ends DONE: the outputs of its blocks and chunks, then NORM_PTR, become visible with its flags of
UPD_STAT, then its record (R211, R227, R229). -/
def Obligations.CompletionEndsAnUpdate : Prop :=
  ∀ (q : Fin 32) (s : State) (x : Cmd) (rest : List Cmd) (slot : Option Nat) (norm : List MemWrite) (blocks : List (List MemWrite × Bool))
    (chunks : List (List MemWrite × Nat)) (g : Nat) (tripped : Bool),
    let w := (q.val, x.idx.toNat)
    let ws := blocks.flatMap (fun b => b.1) ++ chunks.flatMap (fun b => b.1) ++ norm
    Canonical s → CanRecord s q → s.queues[q].active = x :: rest →
    x.work = .update slot norm blocks chunks g tripped → x.status = 0 → x.writes = [] → writesRefused s w ws = 0 →
    s.queues[q].state = .running → inService s = true → evBlocked s q = false →
    ∃ t, exec (.commandCompletion q) s = .next t ∧
      t.queues[q] = { s.queues[q] with active := rest, oldest := x.idx + 1, cqCount := s.queues[q].cqCount + 1 } ∧
      OthersSame q s t ∧ RecordLeft q s t x 0 ∧ BytesKept q s t ws ∧ WritesLeft q s t ws ∧
      (∀ a, OffRing s q a → rdByte t a = rdByte (applyWrites w s ws) a) ∧
      (updBit x 1 = true → regBit t offUpdStat 0 = true) ∧ (updBit x 2 = true → regBit t offUpdStat 1 = true) ∧
      (updBit x 3 = true → regBit t offUpdStat 2 = true) ∧
      (∀ k : Fin 256, t.tokens[k] = s.tokens[k] + signalled x.desc k) ∧
      (∀ off, noted off = false → off ≠ offUpdStat → regGet t off = regGet s off) ∧ Finishes s t

/-- A command that ends CONTAINED leaves its record with STATUS 1 and stops its queue, with every other running command of it, in ring order;
so does a descriptor read poisoned, with kind 0. A QUEUE record with cause STOPPED names the last of them (R251, R375, R377, R389). -/
def Obligations.ContainedErrorsStopTheirQueue : Prop :=
  (∀ (q : Fin 32) (s : State) (x : Cmd) (rest : List Cmd),
     let last := rest.getLast?.getD x
     Canonical s → RingOpen s q → s.queues[q].active = x :: rest → x.work = .plain → x.status = 1 →
     s.queues[q].state = .running → inService s = true → evBlocked s q = false →
     ∃ t, exec (.commandCompletion q) s = .next t ∧
       t.queues[q] = { s.queues[q] with state := .stopped, active := [], run := none, oldest := last.idx + 1,
                                        cqCount := s.queues[q].cqCount + rest.length + 1 } ∧
       RecordsLeft q s t (x :: rest) 1 ∧ (rest = [] → RecordLeft q s t x 1 ∧ BytesKept q s t x.writes) ∧
       ((∀ y ∈ x :: rest, writesRefused s (q.val, y.idx.toNat) y.writes = 0) → WritesLeft q s t ((x :: rest).flatMap fun y => y.writes)) ∧
       Told t q.val (queueBytes s 0x01 (whoOf q last.idx last.desc)) ∧ t.tokens = s.tokens ∧
       (∀ k : Fin 32, k ≠ q → t.queues[k].state = s.queues[k].state ∧ t.queues[k].head = s.queues[k].head ∧
         t.queues[k].active.map (fun y => y.idx) = s.queues[k].active.map (fun y => y.idx))) ∧
  (∀ (q : Fin 32) (env : List Finding) (s : State) (c : Chk),
     Canonical s → CanRecord s q → s.queues[q].active = [] → fetchHead s q env = .bad c → evBlocked c.s q = false →
     ∃ t x, exec (.nop q env) s = .next t ∧ x.kind = 0 ∧ x.idx = s.queues[q].head ∧ RecordLeft q s t x 1 ∧ BytesKept q s t [] ∧
       Told t q.val (queueBytes s 0x01 (whoOf q x.idx [])) ∧
       t.queues[q] = { s.queues[q] with head := s.queues[q].head + 1, oldest := s.queues[q].head + 1, state := .stopped,
                                        active := [], run := none, cqCount := s.queues[q].cqCount + 1 })

/-- The WAIT_GAUGE at the head of a queue completes once GAU_COUNT is at TICK or beyond; the running SNAP latches once its tick is
reached, writes its snapshot to DST and completes (R382, R459, R460). -/
def Obligations.TimedCommandsEnd : Prop :=
  (∀ (q : Fin 32) (s : State) (x : Cmd) (rest : List Cmd) (n : Nat),
     Canonical s → CanRecord s q → s.queues[q].active = x :: rest → x.work = .waitGauge n → x.writes = [] →
     evBlocked s q = false →
     (s.gauge.count < n → exec (.waitGaugeTick q) s = .next s) ∧
     (n ≤ s.gauge.count → ∃ t, exec (.waitGaugeTick q) s = .next t ∧
       t.queues[q] = { s.queues[q] with active := rest, oldest := x.idx + 1, cqCount := s.queues[q].cqCount + 1 } ∧
       OthersSame q s t ∧ RecordLeft q s t x 0 ∧ BytesKept q s t [] ∧
       (∀ k : Fin 256, t.tokens[k] = s.tokens[k] + signalled x.desc k) ∧ Completes s t)) ∧
  (∀ (q : Fin 32) (s : State) (x : Cmd) (rest : List Cmd) (dst sel n : Nat) (jumped : Bool),
     let bytes := snapBytes s sel x.idx.toNat q.val jumped
     Canonical s → CanRecord s q → EvRoom s 8 → s.queues[q].active = x :: rest → x.work = .snap dst sel n jumped →
     inService s = true → WriteOk s (whoOf q x.idx x.desc) [(dst, bytes.length)] →
     (n ≠ 0 → s.gauge.count < n → exec (.snapLatch q) s = .next s) ∧
     (n = 0 ∨ n ≤ s.gauge.count → ∃ t y, exec (.snapLatch q) s = .next t ∧
       y.idx = x.idx ∧ y.desc = x.desc ∧ y.kind = x.kind ∧ y.result = x.result ∧ RecordLeft q s t y 0 ∧
       t.queues[q] = { s.queues[q] with active := rest, oldest := x.idx + 1, cqCount := s.queues[q].cqCount + 1,
                                        clamps := t.queues[q].clamps } ∧
       OthersSame q s t ∧ BytesKept q s t [⟨dst, bytes, .data⟩] ∧ WritesLeft q s t [⟨dst, bytes, .data⟩] ∧
       (∀ k : Fin 256, t.tokens[k] = s.tokens[k] + signalled x.desc k) ∧ Completes s t))

/-- SQ_TAIL moves the tail unless it passes the SQ size beyond the oldest descriptor without a record or falls behind the tail;
CQ_HEAD and EV_HEAD acknowledge records that were written; a write out of range is ignored and counted, and one that does not reach the
module, or reaches it out of service, changes nothing (R352 to R354, R356, R387, R406, R494, R511). That one changes nothing wherever the module
is out of service, before READY and after a device-fatal error, is log entry 44 (DEDUCED). -/
def Obligations.DoorbellsMoveTheirCounts : Prop :=
  (∀ (q : Fin 32) (v : BitVec 32) (s : State), ioOk s = false ∨ inService s = false ∨ s.queues[q].state = .disabled →
     exec (.sqTail q v) s = .next s ∧ exec (.cqHead q v) s = .next s ∧
     (ioOk s = false ∨ inService s = false → exec (.evHead v) s = .next s)) ∧
  (∀ (q : Fin 32) (v : BitVec 32) (s : State),
     ioOk s = true → inService s = true → s.queues[q].state ≠ .disabled →
     ∃ t, exec (.sqTail q v) s = .next t ∧ t = { s with queues := t.queues } ∧ OthersSame q s t ∧
       t.queues[q] = (if 2 ^ regField s (offQsq q) 0 5 < (v - s.queues[q].oldest).toNat ∨
             (v - s.queues[q].oldest).toNat < (s.queues[q].tail - s.queues[q].oldest).toNat then
           { s.queues[q] with clamps := min (s.queues[q].clamps + 1) 0xFFFFFF }
         else { s.queues[q] with tail := v })) ∧
  ((∀ (q : Fin 32) (v : BitVec 32) (s : State), ioOk s = true → inService s = true → s.queues[q].state ≠ .disabled →
     ∃ t, exec (.cqHead q v) s = .next t ∧ t = { s with queues := t.queues } ∧ OthersSame q s t ∧
       t.queues[q] = (if (BitVec.ofNat 32 s.queues[q].cqCount - s.queues[q].cqHead).toNat < (v - s.queues[q].cqHead).toNat then
           { s.queues[q] with clamps := min (s.queues[q].clamps + 1) 0xFFFFFF }
         else { s.queues[q] with cqHead := v })) ∧
   (∀ (v : BitVec 32) (s : State), ioOk s = true → inService s = true →
     ∃ t, exec (.evHead v) s = .next t ∧ t = { s with evHead := t.evHead, rclamp := t.rclamp } ∧
       (if s.evTail - s.evHead < (v - BitVec.ofNat 32 s.evHead).toNat then
         t.evHead = s.evHead ∧ t.rclamp = min (s.rclamp + 1) 0xFFFFFFFF
       else BitVec.ofNat 32 t.evHead = v ∧ s.evHead ≤ t.evHead ∧ (s.evHead ≤ s.evTail → t.evHead ≤ s.evTail) ∧ t.rclamp = s.rclamp)))

/-- EVENT_RECORD_WRITE takes the oldest held record to its entry of the ring, then the count, then vector 32, kept pending while it is
masked (R351, R354, R355, R510). -/
def Obligations.EventRecordsAreWrittenInOrder : Prop :=
  ∀ (s : State) (e : EvRec) (r : List EvRec),
    let a := (evBase s + 64 * (s.evTail % evSize s)) % 2 ^ 64
    let b := (evBase s + 64 * evSize s) % 2 ^ 64
    Canonical s → s.events = e :: r → s.phase = .run → s.fatal = none → regBit s offQev 5 = true →
    s.evTail - s.evHead < evSize s → accessRefused s a = 0 → accessRefused s b = 0 → e.bytes.length = 64 →
    ∃ t, exec .eventRecordWrite s = .next t ∧ t.evTail = s.evTail + 1 ∧
      t.outbox = s.outbox ++ (if !s.msix[32].masked && ioOk s then [.msix 32] else []) ∧
      t.msixPending = (if s.msix[32].masked then s.msixPending.set 32 true else s.msixPending) ∧
      (∃ new, (∀ x ∈ new, x.queue = 0xFF) ∧ match s.evWait with
        | [] => t.events = r ++ new ∧ t.evWait = []
        | w :: ws => r.length < 512 → t.events = r ++ [w] ++ new ∧ t.evWait = ws) ∧
      (BackedAll s a 64 → rd t a 64 = e.bytes) ∧ (BackedAll s b 8 → rdNat t b 8 = (s.evTail + 1) % 2 ^ 64) ∧
      KeptOutside s t [(a, 64), (b, 8)] ∧
      Aside { s with events := t.events, evWait := t.evWait, evTail := t.evTail, mem := t.mem, poison := t.poison, t3 := t.t3,
                     outbox := t.outbox, msixPending := t.msixPending } t

/-! ### HALT and the life of a queue -/

/-- HALT_DB records a request with the next identifier, and with HOPS not zero its message, with the address that the port took at its AUTH,
leaves every ACTIVE port that can send on the control channel; HALT_TAKES_EFFECT: every running queue of the masks requested ends HALTED with
nothing running, its commands told with STATUS HALTED and a QUEUE record, and vector 33 is raised; a HALT message stops the masked
queues once and goes on, and the module's own or a repetition changes nothing (R355, R374, R377, R383 to R385, R389). That HALT_ID is
the count after this HALT is log entry 44, which addresses are the module's own log entry 19. -/
def Obligations.HaltsStopTheMaskedQueues : Prop :=
  (∀ (v : BitVec 64) (s : State),
     let mask := v.toNat % 2 ^ 32
     let hops := (v.toNat >>> 32) % 16
     (inService s = false ∨ ioOk s = false → exec (.haltDb v) s = .next s) ∧
     (inService s = true → ioOk s = true →
     ∃ t, exec (.haltDb v) s = .next t ∧ t.haltCount = s.haltCount + 1 ∧
       t.halts = s.halts ++ [⟨BitVec.ofNat 32 mask, hops, s.haltCount + 1⟩] ∧
       (hops = 0 → t = { s with haltCount := t.haltCount, halts := t.halts }) ∧
       (hops ≠ 0 → Canonical s → ∀ p : Fin 16, Sends s p 8 →
         SendsHalt t p (haltMsg (hops - 1) mask (s.haltCount + 1).toNat s.ports[p].myAddr)) ∧
       Aside { s with haltCount := t.haltCount, halts := t.halts, ports := t.ports, outbox := t.outbox } t)) ∧
  (∀ s : State,
     let mask := s.halts.foldl (fun m h => m ||| h.mask.toNat) 0
     let stops := fun (k : Fin 32) => bitAt mask k.val && s.queues[k].state == .running
     s.halts ≠ [] → inService s = true →
     ∃ t, exec .haltTakesEffect s = .next t ∧ t.halts = [] ∧ Vector33 s t ∧
       (∀ k : Fin 32, t.queues[k].head = s.queues[k].head ∧ t.queues[k].tail = s.queues[k].tail ∧
         (stops k = true → t.queues[k].state = .halted ∧ t.queues[k].active = [] ∧ t.queues[k].run = none ∧
           Told t k.val (stopBytes s k 0x02) ∧
           ((∀ j : Fin 32, j ≠ k → stops j = false) → Canonical s → RingOpen s k → StopsOffRing s k →
             t.queues[k].cqCount = s.queues[k].cqCount + s.queues[k].active.length ∧ RecordsLeft k s t (stoppedCmds s k) 2)) ∧
         (stops k = false →
           t.queues[k].state = s.queues[k].state ∧ t.queues[k].active.map (fun x => x.idx) = s.queues[k].active.map (fun x => x.idx))) ∧
       ((∀ j, stops j = false) → OpenRoom s s.halts.length →
         ∀ h ∈ s.halts, Told t 0xFF (haltBytes s 0x01 h.mask.toNat h.id.toNat (homeAddr s) h.hops)) ∧
       Stopping { s with halts := [] } t) ∧
  (∀ (p : Fin 16) (msg : List Byte) (s : State),
     let hops := fieldAt msg 0 4 8 4
     let mask := fieldAt msg 4 4 0 32
     let key := (fieldAt msg 12 4 0 16, fieldAt msg 8 4 0 32)
     let stops := fun (k : Fin 32) => bitAt mask k.val && s.queues[k].state == .running
     inService s = true → fieldAt msg 0 4 0 8 = 1 →
     ∃ t, exec (.haltMessage p msg) s = .next t ∧
       (ownAddr s key.1 = true ∨ key ∈ s.haltSeen → t = s) ∧
       (ownAddr s key.1 = false → key ∉ s.haltSeen →
         t.haltSeen = (key :: s.haltSeen).take 64 ∧ Vector33 s t ∧
         (∀ k : Fin 32, t.queues[k].state = (if stops k then .halted else s.queues[k].state) ∧
           (stops k = true → t.queues[k].active = [] ∧ Told t k.val (stopBytes s k 0x02))) ∧
         ((∀ j, stops j = false) → OpenRoom s 1 → Told t 0xFF (haltBytes s 0x02 mask key.2 key.1 hops)) ∧
         ((∀ j, stops j = false) → hops ≠ 0 → Canonical s → ∀ o : Fin 16, o ≠ p → Sends s o 8 →
           SendsHalt t o (haltMsg (hops - 1) mask key.2 key.1)) ∧
         Stopping { s with haltSeen := t.haltSeen } t))

/-- EN as 1 takes a queue from DISABLED to RUNNING at START with empty rings, of which no earlier command keeps the job key, and is ignored
after a job-fatal error; EN as 0 takes it to DISABLED with nothing running, its commands told with STATUS DISABLED and a QUEUE
record (R351, R374, R377, R388, R389, R405, R439). -/
def Obligations.QueueEnableAndDisable : Prop :=
  ∀ (q : Fin 32) (v : BitVec 64) (s : State),
    let st := BitVec.ofNat 32 (v.toNat >>> 32)
    Canonical s → inService s = true → ioOk s = true →
    (lcState s ≠ 3 → s.jobFatal = true → exec (.queueEnable q v) s = .next s) ∧
    (lcState s ≠ 3 → s.jobFatal = false →
      ∃ t, exec (.queueEnable q v) s = .next t ∧ OthersSame q s t ∧ regBit t (offQctl q) 0 = true ∧
        t.queues[q] = (if s.queues[q].state = .disabled then
            { s.queues[q] with state := .running, head := st, tail := st, oldest := st, cqCount := 0, cqHead := 0, active := [],
                               recs := [], run := none }
          else s.queues[q]) ∧
        (∀ off, off ≠ offQctl q → regGet t off = regGet s off) ∧
        (s.queues[q].state ≠ .disabled → t.jobClear = s.jobClear) ∧
        (∀ l, s.jobClear = some l → s.queues[q].state = .disabled → t.jobClear = some (l.filter fun w => w.1 != q.val)) ∧
        (s.jobClear = none → t.jobClear = none) ∧
        t = { s with queues := t.queues, regs := t.regs, jobClear := t.jobClear }) ∧
    (∃ t, exec (.queueDisable q v) s = .next t ∧ regBit t (offQctl q) 0 = false ∧ t.queues[q].state = .disabled ∧
      (s.queues[q].state = .disabled → t = { s with regs := t.regs }) ∧
      (s.queues[q].state ≠ .disabled → t.queues[q].active = [] ∧ t.queues[q].run = none ∧ Told t q.val (stopBytes s q 0x03) ∧
        (RingOpen s q → StopsOffRing s q →
          t.queues[q].cqCount = s.queues[q].cqCount + s.queues[q].active.length ∧ RecordsLeft q s t (stoppedCmds s q) 3)) ∧
      (∀ k : Fin 32, k ≠ q → t.queues[k].state = s.queues[k].state ∧ t.queues[k].head = s.queues[k].head) ∧ Stopping s t)

/-! ### Resets, power and errors of the module -/

/-- A module reset that finds a good image: the boot of R431 ends with firmware running, every queue and port DISABLED, T1, T2 and
core scratch zero, T1 and T2 keys drawn anew, the identity key derived, and fuses, one-time-programmable memory and flash as they
were; a derived key that differs from the device certificate holds the module with ROM_STATUS 0x03 (R425, R427, R429 to R431, R492,
R493). What a boot finds is given with the command (log entry 13), the identity of a key is log entry 8. -/
def Obligations.ResetsBootTheModule : Prop :=
  ∀ (s : State) (env : BootEnv) (m : Image) (slotB fallback : Bool) (row : Instr) (cause : Nat),
    env.wipeOk = true → env.trngOk = true → env.loopOk = true → s.loopOpen = false → lcState s ≠ 4 →
    (alive s = true ∧ s.perst = false ∧ s.unlocked = false ∧ bootChoice s = some (m, slotB, fallback) ∧
        ((∃ v, row = .glbRst v env ∧ v.toNat % 2 ^ 16 = 0xD1E5 ∧ ioOk s = true ∧ cause = 3) ∨ (row = .cxlLinkDown env ∧ cause = 1) ∨
          (row = .functionLevelReset env ∧ cause = 2))) ∨
      (s.phase = .off ∧ s.pwrEn = false ∧ s.perst = false ∧ s.unlocked = false ∧ bootChoice s = some (m, slotB, fallback) ∧
        row = .pwrEnRise env ∧ cause = 0) →
    ∃ t, exec row s = .next t ∧ t.resetCause = cause ∧ t.t3key = none ∧
      (identityOk s env = false → t.phase = .romHeld ∧ t.boot.romStatus = 3 ∧ t.boot.image = none ∧ t.idKey = none) ∧
      (identityOk s env = true → t.phase = .zeroing ∧ t.idKey = some (identityKey s) ∧
        t.boot.image = some m ∧ t.boot.slotB = slotB ∧ t.boot.fallback = fallback ∧ t.boot.romStatus = 0 ∧ t.bl = imgBl m ∧
        t.t1key.isSome = true ∧ t.t2key.isSome = true ∧ t.boot.meas = imageMeas m) ∧
      (∀ q : Fin 32, t.queues[q].state = .disabled ∧ t.queues[q].active = []) ∧ (∀ p : Fin 16, t.ports[p].state = .disabled) ∧
      (∀ g : Fin 8, t.groups[g].armed = false) ∧
      (∀ a, regionOf a = .t1 ∨ regionOf a = .t2 ∨ regionOf a = .core → rdByte t a = 0) ∧
      (Canonical s → ∀ a, regionOf a = .host → rdByte t a = rdByte s a) ∧
      fusesOf t = fusesOf s ∧ t.otp = s.otp ∧ t.flash = s.flash ∧ t.puf = s.puf ∧ t.romRoot = s.romRoot ∧ t.outbox = s.outbox ∧ t.pending = s.pending

/-- PERST# asserted holds a powered module in reset with cause 1, and released starts its boot; T1 and T2 written as zero put the
module in service in either order (R247, R493, R500). That READY needs both is log entry 12, what the boot finds log entry 13, and the identity of a
key log entry 8. -/
def Obligations.ReleasedModulesEnterService : Prop :=
  (∀ (s : State) (env : BootEnv),
     (∃ t, exec .perstAssert s = .next t ∧ t.perst = true ∧ t.otp = s.otp ∧ t.flash = s.flash ∧ fusesOf t = fusesOf s ∧
       (s.phase = .off → t = { s with perst := true }) ∧
       (s.phase ≠ .off → t.phase = .held ∧ t.resetCause = 1 ∧ t.regs = [] ∧ t.t3key = none ∧ t.idKey = none ∧
         (∀ q : Fin 32, t.queues[q] = Queue.reset) ∧ (∀ p : Fin 16, t.ports[p] = Port.reset))) ∧
     (s.perst = true → s.phase = .held → lcState s ≠ 4 → s.unlocked = false →
       env.wipeOk = true → env.trngOk = true → env.loopOk = true → s.loopOpen = false → identityOk s env = true → ∀ m b f, bootChoice s = some (m, b, f) →
       ∃ t, exec (.perstRelease env) s = .next t ∧ t.perst = false ∧ t.phase = .zeroing ∧ t.fatal = none ∧ t.boot.image = some m ∧ t.idKey = some (identityKey s) ∧
         t.otp = s.otp ∧ t.flash = s.flash ∧ t.romRoot = s.romRoot ∧ fusesOf t = fusesOf s)) ∧
  (∀ s : State, s.phase = .zeroing → s.fatal = none →
     exec .t1Init s = .next { s with t1Init := true, phase := if s.t2Init then .run else .zeroing } ∧
     exec .t2Init s = .next { s with t2Init := true, phase := if s.t1Init then .run else .zeroing })

/-- Power goes with PWR_EN, and at a critical temperature or voltage with THERM#: nothing is left but fuses, one-time-programmable
memory, flash and what lies outside the module; a module that a critical limit has shut down stays off until PWR_EN has fallen, and
the event of the sensor interrupts the I3C bus while firmware keeps it (R448, R500, R503, R504, R515). The form of the interrupt is log
entry 18. -/
def Obligations.PowerOffLeavesOnlyFuses : Prop :=
  (∀ (s : State) (env : BootEnv), s.pwrEn = true → exec (.pwrEnRise env) s = .next s) ∧
  ∀ (s : State) (row : Instr) (ok : Bool),
    s.phase ≠ .off → row = .pwrEnFall ok ∨ row = .criticalVoltage ok ∨ (∃ id, row = .criticalTemperature id ok ∧ tempSensor id = true) →
    ∃ t, exec row s = .next t ∧ t.phase = .off ∧ t.regs = [] ∧ t.t3key = none ∧ t.idKey = none ∧ t.t1key = none ∧ t.t2key = none ∧
      t.unlocked = false ∧
      t.measLog = [] ∧ t.fatal = none ∧ (∀ q : Fin 32, t.queues[q] = Queue.reset) ∧ (∀ p : Fin 16, t.ports[p] = Port.reset) ∧
      fusesOf t = fusesOf s ∧ t.otp = s.otp ∧ t.flash = s.flash ∧ t.pending = s.pending ∧ t.perst = s.perst ∧
      (row = .pwrEnFall ok → t.pwrEn = false) ∧ (row ≠ .pwrEnFall ok → t.pwrEn = s.pwrEn) ∧ t.loopOpen = s.loopOpen ∧
      t.puf = s.puf ∧ (row = .pwrEnFall true → t.outbox = s.outbox) ∧ t.romRoot = s.romRoot ∧ (row ≠ .pwrEnFall ok → .thermtrip ∈ t.outbox ∧
        ∀ id, (row = .criticalVoltage ok ∧ id = 0x01) ∨ row = .criticalTemperature id ok → firmwareRuns s = true → id ∉ s.mgmt.disabled →
          .inBand s.mgmt.i3cAddr ∈ t.outbox ∧ (s.alert = false → .alert true ∈ t.outbox))

/-- A failure of the entropy source, a firmware digest that differs, a firmware watchdog, an uncorrectable die-network flit, an
error in a sealed bank and a tamper event are device-fatal: queues that ran read HALTED, ports are DISABLED, keys and sessions are
gone, and TAMPER.WIPE tells of a wipe that read back as zero; a further one wipes again, and a tamper event wipes on its own account too;
a core watchdog is job-fatal and leaves its ERROR record (R251, R273, R396, R397, R405, R406, R427, R433, R442, R449, R453). That a tamper event
whose wipe fails has cause 0x09 is log entry 29, the end of sessions log entry 35, and the flit error of a scrub and the bank error of
GET_VERSION log entry 15. -/
def Obligations.GravestErrorsStopTheModule : Prop :=
  (∀ (s : State) (row : Instr) (cause : Nat) (ok : Bool),
     firmwareRuns s = true → s.fatal = none →
     (row = .trngFailure ok ∧ cause = 0x0E) ∨ (row = .firmwareRemeasure false ok ∧ cause = 0x0A) ∨
       (row = .firmwareWatchdog ok ∧ cause = 0x0A) ∨
       (∃ l n, row = .patrolScrub ⟨l, .flitUe ok, n⟩ ∧ s.phase = .run ∧ (regionOf (64 * l) = .t1 ∨ regionOf (64 * l) = .t2) ∧
         backed s (64 * l) = true ∧ cause = 0x07) ∨
       (∃ tr rq b, row = .getVersion tr rq ∧ rq.bank = some b ∧ b.ue = true ∧ b.wipeOk = ok ∧ cause = 0x08) →
     exec (.firmwareRemeasure true ok) s = .next s ∧
     ∃ t, exec row s = .next t ∧ (t.fatal.map fun f => f.cause) = some cause ∧
       (∀ q : Fin 32, t.queues[q].active = [] ∧ t.queues[q].head = s.queues[q].head ∧
         t.queues[q].state = (if s.queues[q].state = .running then .halted else s.queues[q].state)) ∧
       (∀ p : Fin 16, t.ports[p].state = .disabled) ∧ (∀ k : Fin 3, t.sessions[k] = .none) ∧
       t.t3key = none ∧ t.jobClear = none ∧ t.idKey = none ∧ t.measLog = [] ∧
       (ok = true → Canonical s → regBit t offTamper 4 = true) ∧ t.phase = s.phase ∧ t.tokens = s.tokens ∧ t.otp = s.otp ∧ t.flash = s.flash ∧ fusesOf t = fusesOf s ∧ t.engines = s.engines ∧
       t.programs = s.programs ∧ t.eddies = s.eddies ∧ t.routes = s.routes ∧ t.pending = s.pending) ∧
  (∀ (s : State) (ok : Bool), firmwareRuns s = true → s.fatal.isSome = true →
     ∀ row ∈ [Instr.trngFailure ok, .firmwareRemeasure false ok, .firmwareWatchdog ok], exec row s = .next (wipe ok s)) ∧
  (∀ (s : State) (k : TamperKind) (ok : Bool), Canonical s → s.phase ≠ .off →
     ∃ t, exec (.tamperEvent k ok) s = .next t ∧ t.fatal.isSome = true ∧
       (s.fatal = none → (t.fatal.map fun f => f.cause) = some (if ok then 0x0B else 0x09)) ∧
       t.otp = { s.otp with tamper := min 15 (s.otp.tamper + 1) } ∧ t.ide = [] ∧ t.t3key = none ∧ t.idKey = none ∧ t.measLog = [] ∧
       t.t1key = none ∧ t.t2key = none ∧ (∀ p : Fin 16, t.ports[p].txKey = 0 ∧ t.ports[p].rxKey = 0 ∧ t.ports[p].secret = 0) ∧
       (∀ j : Fin 3, t.sessions[j] = .none) ∧
       regBit t offTamper (tamperBit k) = true ∧
       (ok = true → regBit t offTamper 4 = true ∧ regField t offTamper 16 16 = min 65535 (regField s offTamper 16 16 + 2)) ∧
       fusesOf t = fusesOf s ∧ t.flash = s.flash ∧ t.pending = s.pending) ∧
  (∀ (s : State) (c : Fin 16), inService s = true → s.jobFatal = false →
     ∃ t, exec (.coreWatchdog c) s = .next t ∧ t.jobFatal = true ∧ t.early = [] ∧
       (∀ q : Fin 32, t.queues[q].state = (if s.queues[q].state = .running then .halted else s.queues[q].state)) ∧
       (∀ g : Fin 8, t.groups[g].armed = false ∧ t.groups[g].held = []) ∧
       (OpenRoom s 1 → Told t 0xFF (eventBytes s 0x07 0xFF (0x06 + 2 * 2 ^ 8) 0xFFFFFFFF
         (le4 0 ++ le4 0 ++ le4 (errUnitWord s 1 c.val) ++ le4 0 ++ le8 0))) ∧
       Stopping { s with jobFatal := true, early := [] } t)

/-! ### Groups and reductions -/

/-- ARM reads the table and arms the group, or leaves it unarmed with the fault found; DISARM takes effect at once, or is held
while a REDUCE of the group runs; what does not reach the module changes nothing (R276 to R278, R477, R511). -/
def Obligations.GroupsAreArmedAndDisarmed : Prop :=
  (∀ (n : Fin 8) (v : BitVec 64) (env : List Finding) (s : State),
     let w := (grpCtlClamp (setBits v.toNat 0 1 1)).1
     let ranks := (w >>> 4) % 4096 + 1
     let members := (w >>> 16) % 8192 + 1
     let addr := regField s (offGrpTbl n) 3 61 * 8
     let self := regField s (offGrpStart n) 32 13
     let start := regField s (offGrpStart n) 0 32
     let table := rd s addr (8 * members)
     let ms := markMembers ranks ((List.range members).map fun j => (table.drop (8 * j)).take 8) []
     let fault := armFault s ms ranks self
     Canonical s → CleanEnv env → inService s = true → ioOk s = true → cflBusy s = false → groupBusy s n = false →
     (∀ j < members, accessRefused s ((addr + 8 * j) % 2 ^ 64) = 0) → ReadOk s Who.none [(addr, 8 * members)] →
     ∃ t, exec (.arm n v env) s = .next t ∧ GroupsSame n s t ∧ regGet t (offGrpCtl n) = BitVec.ofNat 64 w ∧
       t.groups[n] = (if fault.1 = 0 then
           { s.groups[n] with armed := true, crc := t.groups[n].crc, fault := 0, faultIdx := 0, members := ms, ranks := ranks, self := self,
                              warmin := (w >>> 32) % 128, start := start, abandon := (w >>> 48) % 65536, test := bitAt w 1,
                              bf16 := bitAt w 2, mismatched := [] }
         else { s.groups[n] with armed := false, crc := 0, fault := fault.1, faultIdx := fault.2, members := [], mismatched := [] }) ∧
       (fault.1 = 0 → t.groups[n].crc = crc32c (table ++ le4 start ++ leBytes 1 ((w >>> 32) % 128) ++ leBytes 2 (ranks - 1) ++
         leBytes 1 ((w >>> 1) % 4))) ∧
       Aside { s with regs := t.regs, groups := t.groups, rclamp := t.rclamp } t) ∧
  (∀ (n : Fin 8) (v : BitVec 64) (env : List Finding) (s : State),
     let w := (grpCtlClamp (setBits v.toNat 0 1 0)).1
     let off : Group → Group := fun g => { g with armed := false, crc := 0, fault := 0, faultIdx := 0, members := [], mismatched := [] }
     (ioOk s = false → exec (.arm n v env) s = .next s ∧ exec (.disarm n v) s = .next s) ∧
     (inService s = true → ioOk s = true → Canonical s →
       ∃ t, exec (.disarm n v) s = .next t ∧ GroupsSame n s t ∧
         (cflBusy s = true → t = { s with rclamp := min (s.rclamp + 1) 0xFFFFFFFF }) ∧
         (cflBusy s = false → regGet t (offGrpCtl n) = BitVec.ofNat 64 w ∧
           t.groups[n] = (if groupBusy s n then { s.groups[n] with held := [(offGrpCtl n, BitVec.ofNat 64 w)] } else off s.groups[n]) ∧
           t = { s with regs := t.regs, groups := t.groups, rclamp := t.rclamp })) ∧
     (groupBusy s n = false → s.fatal = none → bitAt w 0 = false → s.groups[n].held = [(offGrpCtl n, BitVec.ofNat 64 w)] →
       ∃ t, exec (.heldWriteTakesEffect n env) s = .next t ∧ GroupsSame n s t ∧ t.groups[n] = off { s.groups[n] with held := [] } ∧
         t = { s with groups := t.groups }))

/-- ALLREDUCE and REDUCE_SCATTER on an armed group start with no window opened, and the homes and ranks whose route is already lost
are late from the start; on a group that is not armed they end CONTAINED at once with the guard word, and the queue stops (R281,
R282, R299, R304, R305, R407). That a route lost before the start counts from the start, and that a rank's own route is not concerned, is
log entry 34. -/
def Obligations.ReduceStartsOnAnArmedGroup : Prop :=
  ∀ (q : Fin 32) (env : List Finding) (s : State) (c : Chk) (d : Desc),
    let n := fieldAt d 0x50 4 0 3
    let g := s.groups[grpFin n]
    let me := selfMember g
    let guard := fieldAt d 0x60 8 0 64
    let elem := if fieldAt d 0x50 4 4 4 ≤ 4 then fieldAt d 0x50 4 4 4 else 0
    let row := if rdScatter d then Instr.reduceScatter q env else .allreduce q env
    let warm := g.test || decide ((dStep d + 2 ^ 32 - g.start) % 2 ^ 32 < g.warmin)
    let gone := (List.range g.ranks).filter fun k => match memberAt g k false with
      | some m => routeGone s m.addr
      | none => false
    let checked := if guard = 0 then c else Chk.write (who s q d) c guard 4
    Canonical s → Ready s q env c d → dKind d = 3 → g.held = [] →
    (g.armed = false → checked.stop = none → evBlocked checked.s q = false → CanRecord s q →
      ∃ t x, exec row s = .next t ∧ x.idx = s.queues[q].head ∧ x.desc = d ∧ x.kind = 3 ∧
        x.result = le4 (5 + 0x1000 * 2 ^ 4) ++ List.replicate 12 0 ∧ RecordLeft q s t x 1 ∧
        BytesKept q s t (if guard = 0 then [] else [⟨guard, le4 0xFFFFFFFF, .data⟩]) ∧
        (guard ≠ 0 → BackedAll s guard 4 →
          (∀ k < 4, Apart ((guard + k) % 2 ^ 64) (cqSlotOf s q) 32 ∧ Apart ((guard + k) % 2 ^ 64) (cqTailOf s q) 8) →
          rdNat t guard 4 = 0xFFFFFFFF) ∧
        t.queues[q] = { s.queues[q] with state := .stopped, head := s.queues[q].head + 1, oldest := s.queues[q].head + 1, active := [],
                                         run := none, cqCount := s.queues[q].cqCount + 1, clamps := t.queues[q].clamps } ∧
        t.tokens = s.tokens ∧ t.groups = s.groups) ∧
    (g.armed = true → s.early = [] → (warm = false ∨ gone = []) →
      (me.backup = true ∨ ∀ r : Reduce, r.elem = elem → r.count = fieldAt d 0x48 4 0 32 → shardWindows r g.ranks me.rank ≠ 0) →
      ∃ t x r, exec row s = .next t ∧ Starts q s t d x ∧ x.kind = 3 ∧ x.status = 0 ∧ x.work = .reduce r ∧ r.group = n ∧ r.elem = elem ∧
        r.scatter = rdScatter d ∧ r.bucket = fieldAt d 0x50 4 16 16 ∧ r.count = fieldAt d 0x48 4 0 32 ∧ r.step = dStep d ∧
        r.deadline = dDeadline d ∧ r.guardPtr = guard ∧ r.indexBase = fieldAt d 0x58 8 0 50 ∧ r.bf16 = g.bf16 ∧ r.warm = warm ∧
        r.nextW = 0 ∧ r.windows = [] ∧ r.results = [] ∧ r.dones = [] ∧ r.homeDone = false ∧
        r.lost = (gone.filter fun k => k != me.rank || me.backup).map (fun k => (k, s.gauge.count)) ∧
        r.late.map (fun l => l.rank) = (if me.backup then [] else gone.filter fun k => k != me.rank))

/-- A home opens its next window where a place is free: its own contribution enters first, and other ranks follow; an accumulator that
shows an uncorrectable error poisons the window (R286, R292, R293, R307). A GRANT is answered with one CONTRIB of the granted window,
on the group's channel to the home; before its REDUCE has started it is held, and one for a step that has passed, or that was
halted, is discarded (R291, R292, R294, R295, R308). -/
def Obligations.WindowsAndGrantsAdvanceAReduce : Prop :=
  (∀ (q : Fin 32) (env : List Finding) (s : State) (x : Cmd) (r : Reduce) (shared accBad : Bool),
     let g := grpOf s r.group
     let me := selfMember g
     Reducing s q x r → me.backup = false → r.nextW < shardWindows r g.ranks me.rank →
     freePlace s r.group (r.nextW % 16) = some shared → (∃ k < g.ranks, k ≠ me.rank) →
     ∃ t r' y, exec (.windowOpen q env accBad) s = .next t ∧ t.queues[q] = { s.queues[q] with active := [{ x with work := .reduce r' }] } ∧
       OthersSame q s t ∧ r'.nextW = r.nextW + 1 ∧ r'.windows.map (fun z => z.w) = r.windows.map (fun z => z.w) ++ [r.nextW] ∧
       y ∈ r'.windows ∧ y.w = r.nextW ∧ y.shared = shared ∧ y.taken = [⟨me.rank, false⟩] ∧ y.late = r.late ∧
       (accBad = true → y.poison = true) ∧ y.els.length = (winRange r g.ranks me.rank r.nextW).2 ∧ r'.results = r.results ∧ r'.dones = r.dones ∧ r'.late = r.late ∧
       Sending { s with queues := t.queues } t) ∧
  (∀ (src : BitVec 16) (port : Fin 16) (pkt : List Byte) (env : List Finding) (s : State),
     let p := Pkt.parse pkt
     let g := grpOf s p.group
     Canonical s → Merging s → p.type = 1 → pktOk s src.toNat p = true →
     (∀ q x r, findReduce s p.group p.bucket p.step = some q → Reducing s q x r → p.rank < g.ranks →
       p.w < shardWindows r g.ranks p.rank →
       ∃ t, exec (.grant src port pkt env) s = .next t ∧ Sending s t ∧
         (∀ o, ownAddr s src.toNat = false → routePort s src.toNat = some o → Sends s o p.group →
           ∃ f k lanes, OutMsg.flit o f lanes ∈ t.outbox ∧ f.flit.vc = p.group ∧ (f.flit.payload.drop 16).take 32 = (Pkt.bytes k).take 32 ∧
             k.type = 2 ∧ k.group = r.group ∧ k.rank = (selfMember g).rank ∧ k.backup = (selfMember g).backup ∧ k.w = p.w ∧
             k.step = r.step ∧ k.bucket = r.bucket ∧ k.crc = g.crc)) ∧
     (findReduce s p.group p.bucket p.step = none →
       let last := g.lastStep.find? fun y => y.1 == p.bucket
       ((∀ y, last = some y → y.2.1 < p.step ∨ (p.step = y.2.1 ∧ y.2.2 ≠ 4)) →
         exec (.grant src port pkt env) s = .next { s with early := s.early ++ [⟨src.toNat, port.val, pkt⟩] }) ∧
       (∀ y, last = some y → p.step < y.2.1 ∨ (p.step = y.2.1 ∧ y.2.2 = 4) →
         ∃ t, exec (.grant src port pkt env) s = .next t ∧ t = { s with regs := t.regs } ∧ regBit t offCflEvstat 6 = true)))

/-- A CONTRIB of a primary whose window is open is taken once, and poisons the window where it is poisoned or its entry meets an
uncorrectable error in the accumulator; a second one, and one brought to a unit that does not hold its window, is discarded and flagged
(R286, R293, R295, R299, R307). The last one completes the
window: each result is formed and rounded once, the home is to write it to DST, sends a RESULT, counts NaN results and OVF events, and
after its last window sends DONE; a poisoned window has a zero payload and tells of its poison (R282, R287, R289, R290, R296, R304, R307).
A RESULT of a window that this member takes is to be written to DST at completion, once; one of another window is discarded and flagged;
while a home has sent no DONE the command goes on (R282, R295, R296, R304). That the NaN results, the OVF events and the NANRANK of a poisoned
window do not enter DONE is log entry 45 (DEDUCED); that an uncorrectable error of the accumulator poisons the window and changes no ECC flag or
register is log entry 47 (DESIGN CHOICE). -/
def Obligations.PartsAndResultsAreTakenOnce : Prop :=
  (∀ (src : BitVec 16) (port : Fin 16) (pkt : List Byte) (accBad : Bool) (s : State) (q : Fin 32) (x : Cmd) (r : Reduce)
      (y : Window),
     let p := Pkt.parse pkt
     let g := grpOf s r.group
     Canonical s → Merging s → p.type = 2 → p.backup = false → pktOk s src.toNat p = true →
     findReduce s p.group p.bucket p.step = some q → Reducing s q x r → r.warm = false →
     (r.windows.find? fun z => z.w == p.w) = some y → (∃ k < g.ranks, k ≠ p.rank ∧ ∀ z ∈ y.taken, z.rank ≠ k) →
     ∃ t, exec (.contrib src port pkt accBad) s = .next t ∧
       (port.val = p.w % 16 → (∀ z ∈ y.taken, z.rank ≠ p.rank) →
         t = { s with queues := t.queues } ∧ OthersSame q s t ∧ ∃ y', y'.w = y.w ∧ y'.taken = y.taken ++ [⟨p.rank, false⟩] ∧
           y'.poison = (y.poison || p.poison || accBad) ∧
           (p.poison = false → accBad = false → r.elem ≠ 4 → y'.els = enterEls r.elem p.rank p.fmt p.scaleExp p.payload y.els) ∧
           t.queues[q] = { s.queues[q] with active := [{ x with work := .reduce { r with windows := r.windows.map fun z =>
             if z.w = p.w then y' else z } }] }) ∧
       ((port.val ≠ p.w % 16 ∨ ∃ z ∈ y.taken, z.rank = p.rank) →
         t = { s with regs := t.regs } ∧ regBit t offCflEvstat 6 = true ∧
         (∀ off, off ≠ offCflEvstat → off ≠ offCflEvcnt → regGet t off = regGet s off))) ∧
  (∀ (src : BitVec 16) (port : Fin 16) (pkt : List Byte) (accBad : Bool) (s : State) (q : Fin 32) (x : Cmd) (r : Reduce)
      (y : Window),
     let p := Pkt.parse pkt
     let g := grpOf s r.group
     let me := selfMember g
     let rg := winRange r g.ranks me.rank y.w
     let b := resultBytes r
     let a := r.dst + rg.1 * b
     let f := fmtOf r.dstFmt
     let bad := y.poison || p.poison || accBad || r.dstPoison
     let els := enterEls r.elem p.rank p.fmt p.scaleExp p.payload y.els
     let braid := fun i => braid16 (regGet s offJobseed).toNat r.step (dLayer x.desc) (dOp x.desc) r.dstRole ((r.indexBase + (rg.1 + i)) % 2 ^ 50)
     let conv := fun (i : Nat) (e : AccEl) => convertTo f [] (rndOf r.dstRole r.dstRnd (braid i)) r.dstNonSat
       ((EVal.ofDy e.acc.toInt (-160) false).mulV (f32Val r.dstQ))
     let inf := fun neg => (convertTo f [] .rne r.dstNonSat (.inf neg)).1
     let isNan := fun (e : AccEl) => r.elem == 0 && (e.fnan || (e.fpinf && e.fninf))
     let clip := fun (e : AccEl) => max (-(2 ^ 31)) (min (2 ^ 31 - 1) e.acc.toInt)
     let code := fun (i : Nat) (e : AccEl) =>
       if r.elem = 0 then
         if isNan e then fmtNan f else if e.fpinf then inf false else if e.fninf then inf true
         else if e.acc = 0 then b2n e.allneg0 * 2 ^ (fmtWidth f - 1) else (conv i e).1
       else if r.elem = 1 then twos 32 (clip e) else if r.elem = 2 then min e.acc.toNat (2 ^ 64 - 1) else e.acc.toNat
     let ovf := fun (i : Nat) (e : AccEl) =>
       if r.elem = 0 then !e.fnan && !e.fpinf && !e.fninf && e.acc != 0 && (conv i e).2.ovf
       else if r.elem = 1 then clip e != e.acc.toInt else r.elem == 2 && decide (2 ^ 64 ≤ e.acc.toNat)
     let es := els.zip (List.range els.length)
     let bytes := if bad then List.replicate (rg.2 * b) 0 else es.flatMap fun e => leBytes b (code e.2 e.1)
     let r1 := { r with
       windows := r.windows.filter fun z => z.w != y.w
       homeNan := if bad then r.homeNan else min (r.homeNan + (els.filter isNan).length) 0xFFFFFFFF
       homeOvf := if bad then r.homeOvf else min (r.homeOvf + (es.filter fun e => ovf e.2 e.1).length) 0xFFFFFFFF
       homeNanrank := if bad then r.homeNanrank else min r.homeNanrank (els.foldl (fun m e => min m e.nanrank) 0x1000)
       homePoison := r.homePoison || bad
       badWindow := if bad then leastOf (y.w :: r.badWindow.toList) else r.badWindow }
     let last := r1.windows.isEmpty && r.nextW == shardWindows r g.ranks me.rank
     let tells := r1.homePoison || r.dstPoison
     let r2 := if last then { r1 with homeDone := true, dones := r.dones ++ [⟨me.rank, r1.homeNan, r1.homeOvf, r1.homeNanrank, tells⟩] } else r1
     let result := { mkPkt g r 4 me.rank with w := y.w, poison := bad, fmt := r.dstFmt, payCrc := crc32c bytes, payload := bytes }
     let done := { mkPkt g r 5 me.rank with poison := tells, payCrc := r1.homeOvf, aux0 := r1.homeNan, aux1 := r1.homeNanrank }
     let dests := if r.scatter then (memberAt g me.rank true).toList else otherMembers g
     Canonical s → Merging s → p.type = 2 → p.backup = false → pktOk s src.toNat p = true →
     findReduce s p.group p.bucket p.step = some q → Reducing s q x r → r.warm = false → r.elem ≠ 4 → r.homeDone = false → me.backup = false →
     port.val = p.w % 16 →
     (r.windows.find? fun z => z.w == p.w) = some y → (∀ z ∈ y.taken, z.rank ≠ p.rank) →
     (∀ k < g.ranks, k = p.rank ∨ ∃ z ∈ y.taken, z.rank = k) → y.els.length = rg.2 → WriteOk s (whoOf q x.idx x.desc) [(a, rg.2 * b)] →
     (∃ k < g.ranks, k ≠ me.rank ∧ ∀ m ∈ r.dones, m.rank ≠ k) →
     ∃ t, exec (.contrib src port pkt accBad) s = .next t ∧ OthersSame q s t ∧ Sending { s with queues := t.queues } t ∧
       t.queues[q] = { s.queues[q] with active := [{ x with writes := x.writes ++ [⟨a, bytes, if bad then .poison else .data⟩],
                                                            work := .reduce r2 }] } ∧
       (∀ m o, ownAddr s m.addr = false → routePort s m.addr = some o → Sends s o r.group →
         (dests = [m] → ∃ f lanes, OutMsg.flit o f lanes ∈ t.outbox ∧ f.flit.vc = r.group ∧
           (f.flit.payload.drop 16).take 32 = (Pkt.bytes result).take 32) ∧
         (last = true → dests = [] → otherMembers g = [m] → ∃ f lanes, OutMsg.flit o f lanes ∈ t.outbox ∧ f.flit.vc = r.group ∧
           (f.flit.payload.drop 16).take 32 = (Pkt.bytes done).take 32))) ∧
  (∀ (src : BitVec 16) (port : Fin 16) (pkt : List Byte) (s : State) (q : Fin 32) (x : Cmd) (r : Reduce),
     let p := Pkt.parse pkt
     let g := grpOf s r.group
     let rg := winRange r g.ranks p.rank p.w
     let a := r.dst + rg.1 * resultBytes r
     let n := rg.2 * resultBytes r
     Canonical s → Merging s → p.type = 4 → p.poison = false → pktOk s src.toNat p = true →
     findReduce s p.group p.bucket p.step = some q → Reducing s q x r →
     (r.elem ≠ 4 → r.dstPoison = false → p.rank < g.ranks → p.w < resultWindows g r p.rank → (p.rank, p.w) ∉ r.results →
       (∃ k < g.ranks, ∀ m ∈ r.dones, m.rank ≠ k) → WriteOk s (whoOf q x.idx x.desc) [(a, n)] → p.payload.length = n →
       ∃ t, exec (.result src port pkt) s = .next t ∧ OthersSame q s t ∧ Aside { s with queues := t.queues } t ∧
         t.queues[q] = { s.queues[q] with active := [{ x with writes := x.writes ++ [⟨a, p.payload, .data⟩],
                                                              work := .reduce { r with results := r.results ++ [(p.rank, p.w)] } }] }) ∧
     ((p.rank, p.w) ∈ r.results ∨ g.ranks ≤ p.rank ∨ resultWindows g r p.rank ≤ p.w →
       ∃ t, exec (.result src port pkt) s = .next t ∧ t = { s with regs := t.regs } ∧ regBit t offCflEvstat 6 = true))

/-- A DONE is kept until every home has sent one and every window is written; the last completes the command, with the counts of
all homes: the guard word takes the NaN total, a total that is not zero is told by an event, and the writes become visible; where a home
or a refused write tells of poison, it ends POISON (R296, R304, R305, R307, R309, R374). An ABORT ends the REDUCE with its reason, POISON before
any other: POISON and MISSING stop the queue, HALTED and REPEAT leave it RUNNING (R294, R305, R306, R374, R375). A REDUCE that has ended and
waited for an entry of the holding buffer completes once its event records are held (R354). -/
def Obligations.DoneAndAbortEndAReduce : Prop :=
  (∀ (src : BitVec 16) (port : Fin 16) (pkt : List Byte) (s : State) (q : Fin 32) (x : Cmd) (r : Reduce),
     let p := Pkt.parse pkt
     let g := grpOf s r.group
     let r' := { r with dones := r.dones ++ [⟨p.rank, p.aux0, p.payCrc, p.aux1, p.poison⟩] }
     let poisoned := r.refused = true ∨ r.dstPoison = true ∨ ∃ m ∈ r'.dones, m.poison = true
     let nan := min ((r'.dones.map DoneMsg.nan).foldl (· + ·) 0) 0xFFFFFFFF
     let ovf := min ((r'.dones.map DoneMsg.ovf).foldl (· + ·) 0) 0xFFFFFFFF
     let rank := r'.dones.foldl (fun m d => min m d.nanrank) 0x1000
     let ws := x.writes ++ guardWrites r nan
     Canonical s → Merging s → evBlocked s q = false → p.type = 5 → pktOk s src.toNat p = true →
     findReduce s p.group p.bucket p.step = some q → Reducing s q x r → (∀ m ∈ r.dones, m.rank ≠ p.rank) →
     (resultsDone g r' = false ∨ (∃ k < g.ranks, ∀ m ∈ r'.dones, m.rank ≠ k) →
       exec (.done src port pkt) s = .next (setReduce s q r')) ∧
     (resultsDone g r' = true → (∀ k < g.ranks, ∃ m ∈ r'.dones, m.rank = k) → CanEnd s q x r →
       (¬poisoned → ∃ t y, exec (.done src port pkt) s = .next t ∧ y.idx = x.idx ∧ y.desc = x.desc ∧ y.kind = x.kind ∧ y.clamped = x.clamped ∧
         y.result = reduceResult r 0 rank nan ovf ∧
         t.queues[q] = { s.queues[q] with active := [], oldest := x.idx + 1, cqCount := s.queues[q].cqCount + 1 } ∧
         OthersSame q s t ∧ RecordLeft q s t y 0 ∧ BytesKept q s t ws ∧ WritesLeft q s t ws ∧
         (nan ≠ 0 → regBit t offCflEvstat 2 = true ∧
           ∃ addr, Told t q (cflBytes s q x r 0x03 rank nan 0xFFFFFFFF addr) ∧ ∀ m, memberAt g rank false = some m → addr = m.addr) ∧
         t.groups[grpFin r.group].lastStep.head? = some (r.bucket, r.step, 0) ∧
         (∀ k : Fin 256, t.tokens[k] = s.tokens[k] + signalled x.desc k)) ∧
       (poisoned → ∃ t, exec (.done src port pkt) s = .next t ∧ ReduceEnds q s t x r 3 0x1000))) ∧
  (∀ (src : BitVec 16) (port : Fin 16) (pkt : List Byte) (s : State) (q : Fin 32) (x : Cmd) (r : Reduce),
     let p := Pkt.parse pkt
     Canonical s → Merging s → p.type = 6 → 1 ≤ p.aux0 → p.aux0 ≤ 4 → pktOk s src.toNat p = true →
     findReduce s p.group p.bucket p.step = some q → Reducing s q x r → CanEnd s q x r →
     ∃ t, exec (.abort src port pkt) s = .next t ∧
       ReduceEnds q s t x r (if r.poisoned = true ∨ p.aux0 = 4 then 3 else if p.aux0 = 3 then 4 else p.aux0) p.rank) ∧
  (∀ (q : Fin 32) (s : State) (x : Cmd) (rest : List Cmd) (r : Reduce) (k : Nat),
     Canonical s → CanRecord s q → s.queues[q].active = x :: rest → x.work = .ended r k → k ≤ 2 →
     s.queues[q].state = .running → inService s = true → evBlocked s q = false → writesRefused s (q.val, x.idx.toNat) x.writes = 0 →
     ∃ t, exec (.commandCompletion q) s = .next t ∧ RecordLeft q s t x k ∧ BytesKept q s t x.writes ∧ WritesLeft q s t x.writes ∧
       t.queues[q].active = (if k = 1 then [] else rest) ∧ t.queues[q].state = (if k = 1 then .stopped else .running) ∧
       t.queues[q].oldest = x.idx + 1 ∧ t.queues[q].cqCount = s.queues[q].cqCount + 1 ∧
       (∀ j : Fin 256, t.tokens[j] = s.tokens[j] + (if k = 0 then signalled x.desc j else 0)))

/-- At its deadline every rank missing at a window of the unit becomes late there (R298, R299); in warm-in the home ends the bucket REPEAT
(R302, R306). A late rank whose copy has not
come within ABANDON ticks, or a home lost for that long, ends the bucket MISSING, or POISON where that has reached the member, and stops the
queue (R301, R306, R407). -/
def Obligations.LateRanksAreAbandoned : Prop :=
  (∀ (q : Fin 32) (u : Fin 16) (s : State) (x : Cmd) (r : Reduce),
     let g := grpOf s r.group
     Reducing s q x r → r.deadline ≠ 0 → r.deadline ≤ s.gauge.count →
     (r.warm = true → Canonical s → CanEnd s q x r →
       (∃ z ∈ r.windows, z.w % 16 = u.val ∧ ∃ k < g.ranks, (∀ y ∈ z.taken, y.rank ≠ k) ∧ ∀ l ∈ z.late, l.rank ≠ k) →
       ∃ t, exec (.deadlineDue q u) s = .next t ∧ ReduceEnds q s t x r (if r.poisoned then 3 else 1) 0) ∧
     (r.warm = false → ∃ t r', exec (.deadlineDue q u) s = .next t ∧ t.queues[q].active = [{ x with work := .reduce r' }] ∧
       r'.windows.map (fun z => (z.w, z.taken)) = r.windows.map (fun z => (z.w, z.taken)) ∧
       (∀ z ∈ r'.windows, z.w % 16 = u.val → ∀ k < g.ranks, (∀ y ∈ z.taken, y.rank ≠ k) → ∃ l ∈ z.late, l.rank = k) ∧
       (r.windows = [] → t = s) ∧ r'.nextW = r.nextW ∧ r'.results = r.results ∧ r'.dones = r.dones ∧
       OthersSame q s t ∧ Sending { s with queues := t.queues } t)) ∧
  (∀ (q : Fin 32) (s : State) (x : Cmd) (r : Reduce) (row : Instr),
     let g := grpOf s r.group
     let overdue := fun since => since + (if g.abandon = 0 then 4096 else g.abandon) ≤ s.gauge.count
     Canonical s → CanEnd s q x r → Reducing s q x r →
     (row = .abandon q ∧ ∃ y ∈ r.windows, ∃ l ∈ y.late, (∀ z ∈ y.taken, z.rank ≠ l.rank) ∧ overdue l.since) ∨
       (row = .routeLossAbandon q ∧ ∃ l ∈ r.lost, (∀ m ∈ r.dones, m.rank ≠ l.1) ∧ overdue l.2) →
     ∃ t k, exec row s = .next t ∧ ReduceEnds q s t x r (if r.poisoned then 3 else 2) k)

/-! ### Ports -/

/-- LNK_Pp_CTL: EN takes a port from DISABLED to DETECT, its absence to DISABLED, and RELEASE alone leaves QUARANTINE, also where the write
clears EN (R318, R342, R347, R348). A port that enters DETECT has no partner present (R339). A load of LNK_RT replaces the whole route table with the VALID entries of the table it reads (R332). -/
def Obligations.PortsAndRoutesAreControlled : Prop :=
  (∀ (p : Fin 16) (v : BitVec 64) (s : State), inService s = true → ioOk s = true →
     (s.ports[p].state = .disabled → ∃ t, exec (.portEnable p v) s = .next t ∧ t.ports[p].state = .detect ∧ t.ports[p].present = false ∧ PortsSame p s t ∧
       t = { s with ports := t.ports, regs := t.regs, rclamp := t.rclamp }) ∧
     (s.ports[p].state ≠ .disabled → s.ports[p].state ≠ .quarantine →
       ∃ t, exec (.portDisable p v) s = .next t ∧ t.ports[p].state = .disabled ∧ t.ports[p].partial_ = [] ∧
         t.ports[p].retryBuf = [] ∧ t.ports[p].waiting = [] ∧ t.ports[p].lanes = 0 ∧
         (∀ k : Fin 16, k ≠ p → t.ports[k].state = s.ports[k].state) ∧
         (hasSession s.ports[p] = false → t = { s with ports := t.ports, regs := t.regs, rclamp := t.rclamp })) ∧
     (s.ports[p].state = .quarantine → ∃ t, exec (.release p v) s = .next t ∧
       t.ports[p].state = (if bitAt v.toNat 0 then .detect else .disabled) ∧ t.ports[p].qreason = 0 ∧ t.ports[p].present = false ∧
       PortsSame p s t ∧ t = { s with ports := t.ports, regs := t.regs, rclamp := t.rclamp }) ∧
     (s.ports[p].state = .quarantine →
       (∃ t, exec (.portEnable p v) s = .next t ∧ t.ports[p].state = (if bitAt v.toNat 7 then .detect else .quarantine) ∧
         PortsSame p s t ∧ t = { s with ports := t.ports, regs := t.regs, rclamp := t.rclamp }) ∧
       ∃ t, exec (.portDisable p v) s = .next t ∧ t.ports[p].state = (if bitAt v.toNat 7 then .disabled else .quarantine) ∧
         PortsSame p s t ∧ t = { s with ports := t.ports, regs := t.regs, rclamp := t.rclamp })) ∧
  (∀ (v : BitVec 64) (env : List Finding) (s : State),
     let addr := v.toNat / 2 ^ 16 * 2 ^ 16
     Canonical s → CleanEnv env → inService s = true → ioOk s = true → accessRefused s addr = 0 → ReadOk s Who.none [(addr, 65536)] →
     ∃ t, exec (.lnkRtLoad v env) s = .next t ∧
       (∀ k o, (k, o) ∈ t.routes ↔ k < 65536 ∧ bitAt (rdByte s (addr + k)).toNat 7 = true ∧ o = (rdByte s (addr + k)).toNat % 16) ∧
       Aside { s with routes := t.routes, regs := t.regs } t)

/-- Training: signal takes DETECT to TRAIN; the locked lanes give the widest allowed width for ALIGN; ALIGN leads to AUTH, where HELLO
is sent under the link address taken then, or back to ACTIVE after RETRAIN, at the widest width that the lanes the partners agree on can
form; failure and loss of signal lead to DETECT; NARROW and DOWN have their LINK records (R317 to R319, R321, R322, R343, R348, R349). How lanes are chosen is log entry 19. -/
def Obligations.TrainingLeadsToAuthOrActive : Prop :=
  ∀ (p : Fin 16) (s : State),
    (∀ lanes : BitVec 4, s.ports[p].state = .detect → lanes ≠ 0 →
      exec (.signalDetect p lanes) s = .next (updP s p fun u => { u with present := true, state := .train })) ∧
    (∀ locked : BitVec 4, s.ports[p].state = .train →
      let w := widthFor (allowedWidth s p) (lanesOf locked.toNat).length
      ∃ t, exec (.trainComplete p locked) s = .next t ∧ PortsSame p s t ∧
        (w ≠ 3 → t.ports[p].state = .align ∧ t.ports[p].width = w ∧ t = { s with ports := t.ports, fresh := t.fresh } ∧
          t.ports[p].lanes &&& locked = t.ports[p].lanes ∧ (lanesOf t.ports[p].lanes.toNat).length = widthLanes w) ∧
        (w = 3 → t.ports[p].state = .detect)) ∧
    (∀ lanes : List (Fin 4), s.ports[p].state = .align →
      let agreed := agreedLanes s.ports[p] lanes
      let w := widthFor s.ports[p].width agreed.length
      let use := agreed.take (widthLanes w)
      (w = 3 → ∃ t, exec (.alignComplete p true lanes) s = .next t ∧ t.ports[p].state = .detect ∧
        (s.ports[p].retraining = true → LinkTold t p 0x02 s.ports[p].width)) ∧
      (w ≠ 3 → s.ports[p].retraining = false →
        ∃ t, exec (.alignComplete p true lanes) s = .next t ∧ PortsSame p s t ∧
          t.ports[p] = { s.ports[p] with state := .auth, authStep := 0, transcript := t.ports[p].transcript, myAddr := linkAddr s,
                                         partnerAddr := 0, partnerPort := 0, width := w, lanes := maskOf use, order := use } ∧
          (s.idKey.isSome = false ∨ s.unlocked = true → t.outbox = s.outbox ∧ t.ports[p].transcript = []) ∧
          (s.idKey.isSome = true → s.unlocked = false → ∃ h : SentHello, t.outbox = s.outbox ++ [.hello p h] ∧
            t.ports[p].transcript = h.bytes ∧ h.inter = s.flash.inter ∧ h.cert = s.flash.cert ∧ h.addr = linkAddr s ∧ h.port = p.val ∧ h.lifecycle = lcState s ∧ h.bl = s.bl ∧ h.digest = firmwareDigest s) ∧
          t = { s with ports := t.ports, fresh := t.fresh, outbox := t.outbox }) ∧
      (w ≠ 3 → s.ports[p].retraining = true →
        ∃ t, exec (.alignComplete p true lanes) s = .next t ∧ t.ports[p].state = .active ∧ t.ports[p].retraining = false ∧
          t.ports[p].width = w ∧ t.ports[p].order = use ∧ t.ports[p].retries = 0 ∧
          (s.ports[p].oldWidth < w → LinkTold t p 0x03 s.ports[p].oldWidth) ∧
          (∀ k : Fin 16, k ≠ p → t.ports[k].state = s.ports[k].state) ∧ (Quiet s → PortsSame p s t) ∧ Sending s t)) ∧
    (s.ports[p].state = .retrain →
      exec (.retrainComplete p true) s = .next (updP s p fun u => { u with state := .align, retraining := true })) ∧
    (s.ports[p].state = .retrain → ∃ t, exec (.retrainComplete p false) s = .next t ∧ t.ports[p].state = .detect ∧
      LinkTold t p 0x02 s.ports[p].width) ∧
    (s.ports[p].state = .align → ∀ lanes, ∃ t, exec (.alignComplete p false lanes) s = .next t ∧ t.ports[p].state = .detect) ∧
    (s.ports[p].state = .auth → ∃ t, exec (.authTimeout p) s = .next t ∧ t.ports[p].state = .detect ∧ PortsSame p s t ∧
      t = { s with ports := t.ports }) ∧
    (s.ports[p].state ≠ .disabled → s.ports[p].state ≠ .quarantine →
      ∃ t, exec (.signalLoss p) s = .next t ∧ t.ports[p].state = .detect ∧ t.ports[p].present = false ∧
        (∀ k : Fin 16, k ≠ p → t.ports[k].state = s.ports[k].state))

/-- The exchange of AUTH: HELLO, KEY_EXCHANGE, TRANSCRIPT_SIGNATURE and DONE, each at its step, lead to ACTIVE with the full
allotment of credits, the partner as its HELLO named it and a first epoch; a message that is rejected or out of order, a KEY_UPDATE
among them, leads to QUARANTINE with reason 1; UP and QUARANTINE have their LINK records; a line unit that does not decode or whose CRC
fails has not arrived (R321 to R324, R328, R334, R349). What SM2 and SM3 come to is log entry 8, the order of the bytes of a HELLO log entry
17. -/
def Obligations.AuthLeadsToActive : Prop :=
  ∀ (p : Fin 16) (s : State), s.ports[p].state = .auth → s.idKey.isSome = true → s.unlocked = false →
    let tr := s.ports[p].transcript
    let eph := Config.freeNat s.fresh
    let key := fun (m : HelloMsg) => leBytes 64 (Config.sm2Public eph) ++ leBytes 32 (Config.sm2Confirm (s.idKey.getD 0) eph (tr ++ helloMsgBytes m))
    let sig := fun (m : LinkMsg) => leBytes 64 (Config.sm2Sign (s.idKey.getD 0) (Config.sm3 (tr ++ m.body)) s.fresh)
    let port := fun (l : LineCheck) => (fecCount s p l).ports[p]
    (∀ m : HelloMsg, lineOk m.line = true → helloRejected s p m = false →
      ∃ t, exec (.hello p m) s = .next t ∧ PortsSame p s t ∧ t.outbox = s.outbox ++ [.linkMsg p "KEY_EXCHANGE" (key m)] ∧
        t.ports[p] = { port m.line with authStep := 1, transcript := tr ++ helloMsgBytes m ++ key m, initiator := decide (s.flash.cert.serial.toNat < m.serial.toNat),
                                        helloAddr := m.addr.toNat, helloPort := m.port.toNat } ∧
        t = { s with ports := t.ports, outbox := t.outbox, fresh := t.fresh }) ∧
    (∀ m : HelloMsg, lineOk m.line = true → helloRejected s p m = true → Canonical s →
      ∃ t, exec (.hello p m) s = .next t ∧ t.ports[p].state = .quarantine ∧ t.ports[p].qreason = 1 ∧
        regBit t (offPerr p) 4 = true ∧ LinkTold t p 0x04 s.ports[p].width ∧ PortsSame p s t) ∧
    (∀ m : HelloMsg, lineOk m.line = false → exec (.hello p m) s = .next (fecCount s p m.line)) ∧
    (∀ m : LinkMsg, lineOk m.line = false → ∀ row ∈ [Instr.linkKeyExchange p m, .transcriptSignature p m, .linkmgtDone p m],
      exec row s = .next (fecCount s p m.line)) ∧
    (∀ m : LinkMsg, lineOk m.line = true → m.wellFormed = true → m.ok = true →
      (s.ports[p].authStep = 1 → ∃ t, exec (.linkKeyExchange p m) s = .next t ∧ PortsSame p s t ∧
        t.ports[p] = { port m.line with authStep := 2, transcript := tr ++ m.body ++ sig m } ∧
        t.outbox = s.outbox ++ [.linkMsg p "TRANSCRIPT_SIGNATURE" (sig m)] ∧
        t = { s with ports := t.ports, outbox := t.outbox, fresh := t.fresh }) ∧
      (s.ports[p].authStep = 2 → ∃ t, exec (.transcriptSignature p m) s = .next t ∧ PortsSame p s t ∧
        t.ports[p] = { port m.line with authStep := 3, transcript := tr ++ m.body } ∧ t.outbox = s.outbox ++ [.linkMsg p "DONE" []] ∧
        t = { s with ports := t.ports, outbox := t.outbox, fresh := t.fresh }) ∧
      (s.ports[p].authStep = 3 → ∃ t, exec (.linkmgtDone p m) s = .next t ∧ PortsSame p s t ∧
        t.ports[p].state = .active ∧ t.ports[p].txSeq = 0 ∧ t.ports[p].rxSeq = 0 ∧ t.ports[p].txEpoch = 0 ∧ t.ports[p].rxEpoch = 0 ∧
        t.ports[p].credits = List.replicate 18 8 ∧ t.ports[p].shared = 384 ∧ t.ports[p].retryBuf = [] ∧ t.ports[p].waiting = [] ∧
        t.ports[p].rxUsed = List.replicate 18 0 ∧ t.ports[p].rxShared = 0 ∧ t.ports[p].partnerAddr = s.ports[p].helloAddr ∧
        t.ports[p].partnerPort = s.ports[p].helloPort ∧ t.ports[p].transcript = [] ∧
        LinkTold t p 0x01 3 ∧ Aside { s with ports := t.ports } t)) ∧
    (∀ (m : LinkMsg) (row : Instr) (step : Nat), (row = .linkKeyExchange p m ∧ step = 1) ∨ (row = .transcriptSignature p m ∧ step = 2) ∨
        (row = .linkmgtDone p m ∧ step = 3) →
      lineOk m.line = true → m.wellFormed = false ∨ m.ok = false ∨ s.ports[p].authStep ≠ step → Canonical s →
      ∃ t, exec row s = .next t ∧ t.ports[p].state = .quarantine ∧ t.ports[p].qreason = 1 ∧
        LinkTold t p 0x04 s.ports[p].width) ∧
    (∀ f : Flit, f.ftype = 4 → lineOk f.line = true →
      ∃ t, exec (.keyUpdate p f) s = .next t ∧ t.ports[p].state = .quarantine ∧ t.ports[p].qreason = 1)

/-- A flit that passes its checks advances the expected SEQ, frees what it acknowledges and brings its credits; KEY_UPDATE also starts
the partner's next epoch; a DATA flit takes a receive buffer, and the first one of a packet starts it; the last one completes it: the
packet is delivered here, sent on through the port that its route named at the first flit with one more hop, or dropped and counted
(R324, R327, R329 to R331, R333, R334, R337, R385). -/
def Obligations.AcceptedFlitsAdvanceTheSequence : Prop :=
  ∀ (p : Fin 16) (f : Flit) (env : List Finding) (accBad : Bool) (s : State), Accepted s p f →
    let got := accepted s p f
    (f.ftype = 2 → (Quiet s → exec (.creditFlit p f) s = .next (updP s p fun _ => got)) ∧
      ∃ t, exec (.creditFlit p f) s = .next t ∧ t.ports[p].rxSeq = got.rxSeq ∧ t.ports[p].discarding = false ∧ Sending s t) ∧
    (f.ftype = 4 →
      let key := epochKey s.ports[p].secret s.ports[p].initiator (s.ports[p].rxEpoch + 1)
      (Quiet s → exec (.keyUpdate p f) s = .next (updP s p fun _ => { got with rxEpoch := s.ports[p].rxEpoch + 1, rxKey := key })) ∧
      ∃ t, exec (.keyUpdate p f) s = .next t ∧ t.ports[p].rxSeq = got.rxSeq ∧ t.ports[p].rxEpoch = s.ports[p].rxEpoch + 1 ∧
        t.ports[p].rxKey = key ∧ Sending s t) ∧
    (f.ftype = 1 → ∀ b, rxBufFor s.ports[p] p f.vc.toNat f.phase = some b →
      (∃ t, exec (.dataFlit p f env accBad) s = .next t ∧ t.ports[p].rxSeq = got.rxSeq ∧
        (f.last = false → t.ports[p].discarding = false ∧ Sending s t ∧
          (Quiet s → (∀ x ∈ s.ports[p].partial_, ∀ y ∈ x.bufs, y.port = p.val) → PortsSame p s t)) ∧
        (f.first = true → f.last = false → (s.ports[p].partial_.find? fun x => x.vc == f.vc.toNat && x.phase == f.phase) = none →
          ∀ x, firstFlit s p f b = some x → t.ports[p].partial_ = s.ports[p].partial_ ++ [x] ∧
            (Quiet s → t.ports[p].retryBuf = got.retryBuf ∧ t.ports[p].credits = got.credits ∧ t.ports[p].shared = got.shared ∧
              (s.ports[p].rxUsed.length = 18 →
                t.ports[p].rxShared + t.ports[p].rxUsed.sum = s.ports[p].rxShared + s.ports[p].rxUsed.sum + 1)))) ∧
      (∀ x, Completed s p f b x →
        let bs := x.bytes.take (16 + fieldAt x.bytes 4 4 0 16)
        let cls := fieldAt bs 4 4 24 4
        let body := bs.drop 16
        let src := fieldAt bs 0 4 16 16
        let entry := if fieldAt body 0 4 0 4 = 2 then fieldAt bs 4 4 20 4 else p.val
        let onward := bs.take 4 ++ le4 (setBits (leNat ((bs.drop 4).take 4)) 16 4 (fieldAt bs 4 4 16 4 + 1)) ++ bs.drop 8
        (x.out = 16 → ∃ u, Sending s u ∧
          (cls = 2 → exec (.dataFlit p f env accBad) s = .next (returnCredits (applyHaltMsg u p body))) ∧
          (cls = 1 → inService s = true → fieldAt body 0 4 0 4 ∈ [1, 2, 4, 5, 6] → pktOk s src (Pkt.parse body) = true →
            exec (.dataFlit p f env accBad) s = .next (returnCredits (deliverPkt u src entry body env accBad)))) ∧
        (∀ o : Fin 16, x.out = o.val → hasSession s.ports[o] = true →
          ∃ t, exec (.dataFlit p f env accBad) s = .next t ∧ Sending s t ∧
            (Quiet s → s.ports[o].state = .active → s.ports[o].retryBuf.length < 1024 → s.ports[o].txCount + 1 < 2 ^ 36 →
              0 < s.ports[o].credits.getD (crIdx x.vc (x.phase || regBit s (offPctl o) 6)) 0 →
              ∃ g lanes, OutMsg.flit o g lanes ∈ t.outbox ∧ g.flit.vc = x.vc ∧ g.flit.first = true ∧
                g.flit.phase = (x.phase || regBit s (offPctl o) 6) ∧ g.flit.payload = padTo 224 (onward.take 224))) ∧
        (∀ o : Fin 16, (x.out = o.val ∧ hasSession s.ports[o] = false) ∨ (17 ≤ x.out ∧ o = p) →
          ∃ t, exec (.dataFlit p f env accBad) s = .next t ∧ Sending s t ∧ (Canonical s → regBit t (offPerr o) 5 = true))))

/-- A sequenced flit that fails its checks is discarded, and one RETRY_REQ asks for the SEQ expected; one whose tag fails is malformed
too; a RETRY_REQ sends again every flit from its SEQ; KEY_UPDATE_SEND sends its flit under the old epoch and starts the next, unless
the retry buffer is full (R324, R325, R329, R337, R341). -/
def Obligations.LostFlitsAreSentAgain : Prop :=
  (∀ (p : Fin 16) (f : Flit) (env : List Finding) (accBad : Bool) (s : State), s.ports[p].state = .active →
     (∀ row, (row = .dataFlit p f env accBad ∧ f.ftype = 1) ∨ (row = .creditFlit p f ∧ f.ftype = 2) ∨ (row = .keyUpdate p f ∧ f.ftype = 4) →
       (lineOk f.line = false ∨ f.seq.toNat ≠ s.ports[p].rxSeq →
         ∃ t lanes, exec row s = .next t ∧ t.ports[p].rxSeq = s.ports[p].rxSeq ∧ t.ports[p].discarding = true ∧
           (Quiet s → PortsSame p s t ∧
             t.outbox = s.outbox ++ (if s.ports[p].discarding then [] else [.retryReq p s.ports[p].rxSeq lanes]) ∧
             t = { s with ports := t.ports, outbox := t.outbox })) ∧
       (lineOk f.line = true → f.seq.toNat = s.ports[p].rxSeq → f.tagOk = false → Canonical s →
         ∃ t, exec row s = .next t ∧ t.ports[p].rxSeq = s.ports[p].rxSeq ∧ t.ports[p].discarding = true ∧
           t.ports[p].malformed = s.ports[p].malformed + 1 ∧ regBit t (offPerr p) 3 = true)) ∧
     (s.ports[p].discarding = true → ∃ lanes, exec (.retryReqRepeat p) s =
       .next { s with outbox := s.outbox ++ [.retryReq p s.ports[p].rxSeq lanes] })) ∧
  (∀ (p : Fin 16) (s : State), s.ports[p].state = .active → Canonical s →
     (∀ (f : Flit) (i : Nat), f.ftype = 3 → lineOk f.line = true → f.vc.toNat ≤ 8 →
       findIdx? (fun (x : SentFlit) => x.seq == f.seq.toNat) s.ports[p].retryBuf 0 = some i →
       ∃ t, exec (.retryReq p f) s = .next t ∧
         t.outbox = s.outbox ++ (s.ports[p].retryBuf.drop i).map
           (fun x => OutMsg.flit p x.toLineFlit (onLanes s.ports[p] (lineUnit (flitImage x)))) ∧
         t.ports[p].retries = s.ports[p].retries + 1 ∧ t.ports[p].retryBuf = s.ports[p].retryBuf ∧ regBit t (offPerr p) 0 = true ∧
         PortsSame p s t ∧ (∀ off, off ≠ offPerr p → regGet t off = regGet s off) ∧
         t = { s with ports := t.ports, regs := t.regs, outbox := t.outbox }) ∧
     (1024 ≤ s.ports[p].retryBuf.length → exec (.keyUpdateSend p) s = .next s) ∧
     (s.ports[p].retryBuf.length < 1024 →
       ∃ t x, exec (.keyUpdateSend p) s = .next t ∧
         OutMsg.flit p x.toLineFlit (onLanes s.ports[p] (lineUnit (flitImage x))) ∈ t.outbox ∧ x.epoch = s.ports[p].txEpoch ∧
         x.key = s.ports[p].txKey ∧ x.seq = s.ports[p].txSeq ∧ x.flit.ftype = 4 ∧ t.ports[p].txEpoch = s.ports[p].txEpoch + 1 ∧
         t.ports[p].txCount = 0 ∧ t.ports[p].txKey = epochKey s.ports[p].secret (!s.ports[p].initiator) (s.ports[p].txEpoch + 1) ∧
         PortsSame p s t ∧ Sending s t))

/-- A port that loses a lane retrains on the next narrower width; a storm of retries does the same, or quarantines at one lane, and
as MALFORMED where that limit was passed in its window too; starved channels and too many malformed flits quarantine, which has its LINK
record (R319, R321, R340, R341, R347). How lanes are chosen is log entry 19, and how many malformed flits fell into a window log entry 3. -/
def Obligations.LinkFaultsNarrowOrQuarantine : Prop :=
  ∀ (p : Fin 16) (s : State),
    let u := s.ports[p]
    let next := if u.width = 2 then 2 else u.width + 1
    (∀ (lane : Fin 4) (signal : BitVec 4), u.state = .active → bitAt u.lanes.toNat lane.val = true →
      widthLanes next ≤ ((lanesOf signal.toNat).filter fun i => i != lane.val).length →
      ∃ t, exec (.laneLoss p lane signal) s = .next t ∧ t.ports[p].state = .retrain ∧ t.ports[p].width = next ∧
        t.ports[p].oldWidth = u.width ∧ bitAt t.ports[p].lanes.toNat lane.val = false ∧ PortsSame p s t ∧
        t = { s with ports := t.ports, gauge := t.gauge, fresh := t.fresh }) ∧
    (u.malformed ≤ malTh s p → windowMalformed s p ≤ malTh s p) ∧
    (∀ errs, u.state = .active → stormTh s p < u.retries → windowMalformed s p ≤ malTh s p → u.width ≠ 2 →
      ∃ t, exec (.retryStorm p errs) s = .next t ∧ t.ports[p].state = .retrain ∧ t.ports[p].width = u.width + 1 ∧ PortsSame p s t ∧
        t = { s with ports := t.ports, gauge := t.gauge }) ∧
    (∀ (row : Instr) (reason : Nat), Canonical s →
      ((∃ errs, row = .retryStorm p errs) ∧ reason = 3 ∧ u.state = .active ∧ stormTh s p < u.retries ∧
          windowMalformed s p ≤ malTh s p ∧ u.width = 2) ∨
      ((∃ errs, row = .retryStorm p errs) ∧ reason = 2 ∧ u.state = .active ∧ stormTh s p < u.retries ∧
          malTh s p < windowMalformed s p) ∨
      (∃ vc : Fin 9, row = .creditStarvation p vc ∧ reason = (if vc.val = 8 then 5 else 4) ∧ u.state = .active ∧
        (u.waiting.any fun f => f.ftype == 1 && f.vc == vc.val && !hasCredit u f) = true) ∨
      (row = .malformedLimit p ∧ reason = 2 ∧ (u.state = .active ∨ u.state = .auth) ∧ malTh s p < u.malformed) →
      ∃ t, exec row s = .next t ∧ t.ports[p].state = .quarantine ∧ t.ports[p].qreason = reason ∧ regBit t (offPerr p) 4 = true ∧
        t.ports[p].waiting = [] ∧ LinkTold t p 0x04 u.width ∧ (∀ k : Fin 16, k ≠ p → t.ports[k].state = s.ports[k].state))

/-! ### The gauge -/

/-- One tick of the source in force advances the count, or brings a held count's source nearer; two good frames that arrive 1,024 ticks
apart lock the gauge at the second's count plus 5, and frames that do not are not a lock; a third bad frame in a row, or the loss of
the input, ends the lock; a count or an epoch that two frames agree on is adopted. LOCK, LOST, JUMP and EPOCH have their GAUGE records
(R377 to R381, R390). -/
def Obligations.TicksAndFramesDriveTheGauge : Prop :=
  (∀ s : State, alive s = true →
     (let g := { s.gauge with refOk := true, subtick := 0, refTicks := s.gauge.refTicks + 1 }
      exec .gaugeTick s = .next { s with gauge := if s.gauge.locked then ticked g else g }) ∧
     (s.gauge.locked = false → s.gauge.src ≠ 1 → exec .freeRunTick s = .next { s with gauge := ticked s.gauge }) ∧
     (s.gauge.locked = false → s.gauge.src = 1 → exec .linkFollowedTick s = .next { s with gauge := ticked s.gauge })) ∧
  (∀ (f : GaugeFrame) (s : State),
     let g := s.gauge
     let new := (f.count.toNat + 5) % 2 ^ 64
     alive s = true → Canonical s →
     (regBit s offGauCtl 0 = true →
       (g.locked = false → frameOk f = true → g.prev = none →
         exec (.gaugeFrame f) s = .next { s with gauge := { g with refOk := true, prev := some ⟨f.count.toNat, f.epoch.toNat, g.refTicks⟩ } }) ∧
       (g.locked = false → frameOk f = true → ∀ x, g.prev = some x → x.arrived + 1024 ≠ g.refTicks →
         exec (.gaugeFrame f) s = .next { s with gauge := { g with refOk := true, prev := some ⟨f.count.toNat, f.epoch.toNat, g.refTicks⟩ } }) ∧
       (g.locked = false → frameOk f = true → ∀ x, g.prev = some x → x.count + 1024 = f.count.toNat → x.epoch = f.epoch.toNat →
         x.arrived + 1024 = g.refTicks →
         ∃ t, exec (.gaugeFrame f) s = .next t ∧ t.gauge.locked = true ∧ t.gauge.src = 0 ∧ t.gauge.epoch = f.epoch.toNat ∧
           t.gauge.subtick = 3 ∧ t.gauge.depth = 0 ∧ regBit t offGauFlags 0 = true ∧
           (g.count ≤ new → t.gauge.count = new ∧ t.gauge.holding = none) ∧
           (new < g.count → t.gauge.count = g.count ∧ t.gauge.holding = some new) ∧
           (OpenRoom s 1 → Told t 0xFF (gaugeBytes t 0x01 g.count new 0))) ∧
       (g.locked = true → frameOk f = true → sourceCount g ≠ new ∨ g.epoch ≠ f.epoch.toNat → ∀ x, g.disagree = some x →
         x.count + 1024 * (g.bad + 1) = f.count.toNat → x.epoch = f.epoch.toNat → x.arrived + 1024 * (g.bad + 1) = g.refTicks →
         ∃ t, exec (.gaugeFrame f) s = .next t ∧ t.gauge.locked = true ∧ t.gauge.epoch = f.epoch.toNat ∧ t.gauge.subtick = 3 ∧
           t.gauge.disagree = none ∧ (g.count ≤ new → t.gauge.count = new) ∧ (new < g.count → t.gauge.holding = some new) ∧
           (sourceCount g ≠ new → regBit t offGauFlags 2 = true) ∧ (g.epoch ≠ f.epoch.toNat → regBit t offGauFlags 3 = true) ∧
           (OpenRoom s 1 → Told t 0xFF (gaugeBytes t (if g.epoch = f.epoch.toNat then 0x03 else 0x04) g.count new g.src))) ∧
       (g.locked = true → frameOk f = false → g.bad < 2 →
         exec (.gaugeFrame f) s = .next { s with gauge := { g with refOk := true, bad := g.bad + 1 } }) ∧
       (g.locked = true → frameOk f = false → 2 ≤ g.bad →
         ∃ t, exec (.gaugeFrame f) s = .next t ∧ t.gauge.locked = false ∧ t.gauge.bad = 0 ∧ regBit t offGauFlags 1 = true)) ∧
     (g.locked = true → ∀ ref, ∃ t, exec (.lost ref) s = .next t ∧ t.gauge.locked = false ∧ t.gauge.refOk = (g.refOk && ref) ∧ t.gauge.src ≠ 0 ∧
       regBit t offGauFlags 1 = true ∧
       (OpenRoom s 1 → Told t 0xFF (eventBytes s 0x02 0xFF 0x02 0xFFFFFFFF (le8 g.count ++ le8 g.count ++ le4 g.epoch ++ le4 2))) ∧
       (gaugeChoice s = none → t.gauge.count = g.count ∧ t.gauge.src = 2)) ∧
     (g.locked = false → ∀ ref, exec (.lost ref) s = .next { s with gauge := { g with refOk := g.refOk && ref, prev := none } }))

/-- GAUGE sets: while TX_EN is 1 every ACTIVE port sends one with the gauge and the depth of this module, the last T_TX received and its
key epoch; a received one that fails is malformed, and a good one gives the source's gauge at its receipt and, from the lowest depth,
is followed, with a LINK record of the gauge (R325, R344 to R346, R377). What following a port does is log entry 27. -/
def Obligations.GaugeSetsCarryTheGauge : Prop :=
  ∀ s : State,
    (regBit s offGctl 0 = false → exec .gaugeSetTransmit s = .next s) ∧
    (regBit s offGctl 0 = true → ∃ t, exec .gaugeSetTransmit s = .next t ∧
      t = { s with ports := t.ports, fresh := t.fresh, outbox := t.outbox } ∧
      ∀ p : Fin 16, let u := s.ports[p]
        (u.state ≠ .active → t.ports[p] = u) ∧
        (u.state = .active → ∃ x : SentSet, OutMsg.gaugeSet p x.toLineSet (onLanes s.ports[p] (lineUnit (setImage x))) ∈ t.outbox ∧ x.depth = s.gauge.depth ∧
          x.lost = decide (2 ≤ s.gauge.src) ∧ x.epoch = s.gauge.epoch ∧ x.gauge = s.gauge.count ∧
          x.echo = (if u.gValid then u.gTx else 0) ∧ x.keyEpoch = u.txEpoch ∧ x.key = u.txKey ∧ u.setCount ≤ x.iv ∧
          t.ports[p] = { u with setCount := x.iv + 1 })) ∧
    (∀ (p : Fin 16) (m : GaugeSet), s.ports[p].state = .active → Canonical s →
      let u := (fecCount s p m.line).ports[p]
      let good := lineOk m.line && m.tagOk && m.keyEpoch == (s.ports[p].rxEpoch % 2 == 1)
      let time := setTime m (oneWay u m)
      (fecDecodes m.line = false → exec (.gaugeSet p m) s = .next (fecCount s p m.line)) ∧
      (fecDecodes m.line = true → good = false → ∃ t, exec (.gaugeSet p m) s = .next t ∧
        t.ports[p] = { u with malformed := s.ports[p].malformed + 1 } ∧ regBit t (offPerr p) 3 = true ∧ PortsSame p s t ∧
        t = { s with ports := t.ports, regs := t.regs }) ∧
      (good = true → ∃ t, exec (.gaugeSet p m) s = .next t ∧ PortsSame p s t ∧
        t.ports[p] = { u with gValid := true, gDepth := m.depth.toNat, gLost := m.srcLost, gCount := time / 2 ^ 16 % 2 ^ 64,
                              gSub := time % 2 ^ 16 * 25 / 2 ^ 16, gEpoch := m.epoch.toNat, gTx := m.tTx.toNat, gRx := m.tRx.toNat,
                              gDelay := oneWay u m } ∧
        (s.gauge.locked = true → t.gauge = { s.gauge with depth := 0 }) ∧
        (s.gauge.locked = false → regBit s offGctl 1 = true → m.srcLost = false → m.depth.toNat < 6 →
          (∀ k : Fin 16, k ≠ p → gaugeSourceOk s.ports[k] = true → m.depth.toNat < s.ports[k].gDepth) →
          t.gauge.src = 1 ∧ t.gauge.port = p.val ∧ t.gauge.depth = m.depth.toNat + 1 ∧ t.gauge.epoch = m.epoch.toNat ∧
            (OpenRoom s 1 → s.gauge.src ≠ 1 ∨ s.gauge.port ≠ p.val →
              Told t 0xFF (gaugeBytes t 0x05 s.gauge.count (time / 2 ^ 16 % 2 ^ 64) (1 + p.val * 2 ^ 4))))))

/-! ### Array engines -/

/-- On an engine in service whose ports hold nothing: a changed configuration invalidates both buffers and the counter, and takes the
bound eddy table on the log path; a load fills the free buffer with its staged block under the pass counter's value, and waits where
none is free; an abort invalidates the buffers and drops what waits. An instruction of one engine touches no other (R96, R97, R99,
R101, R134). Where operands are staged, and that formats outside R86 are ignored, is log entry 10. -/
def Obligations.BuffersAreLoadedAndInvalidated : Prop :=
  ∀ (e : Fin 96) (i : ArrayInsn) (s : State),
    let cfg := insnCfg i i.path
    let g := configured s s.engines[e] cfg
    let src := i.src.toNat
    let n := blockBytes cfg
    let book := if needsBook cfg then cleanBook ((List.range 16).map fun k => scrByte s e (src + n + k)) else []
    inService s = true → s.inService[e] = true →
    (∃ t, exec (.arrayAbort e) s = .next t ∧ Aside { s with engines := t.engines } t ∧ EnginesSame e s t ∧
      t.engines[e] = { s.engines[e] with counter := 0, bufA := { s.engines[e].bufA with valid := false, released := false },
                                         bufB := { s.engines[e].bufB with valid := false, released := false },
                                         waitLoads := [], waitSteps := [] }) ∧
    (∀ row ∈ [Instr.reconfigure e i, .load e i, .steps e i, .elementwise e i],
      (insnAccepted i (if row = .elementwise e i then .ewise else i.path) = false → exec row s = .next s) ∧
      ∃ t, exec row s = .next t ∧ EnginesSame e s t) ∧
    (insnAccepted i i.path = true → s.engines[e].waitLoads = [] → s.engines[e].waitSteps = [] →
      (∃ t, exec (.reconfigure e i) s = .next t ∧ t.engines[e] = g ∧ EnginesSame e s t ∧ Aside { s with engines := t.engines } t) ∧
      (loadsA g = none → exec (.load e i) s = .next (updE s e fun g => { g with waitLoads := [i] })) ∧
      (∀ a, loadsA g = some a → ∃ t b, exec (.load e i) s = .next t ∧
        t.engines[e] = { g with counter := (g.counter + 1) % 4, bufA := if a then b else g.bufA, bufB := if a then g.bufB else b,
                                poison := t.engines[e].poison } ∧
        b.tag = g.counter ∧ b.valid = true ∧ b.released = false ∧ b.mx = i.mxb ∧ b.codebook = book ∧
        (∀ kk < 16, ∀ x < 64, b.entries.getD (64 * kk + x) 0 = BitVec.ofNat 32 (statEntry s e cfg src book kk x)) ∧
        (CleanEnv i.env → ScratchClean s e src n → (needsBook cfg = true → ScratchClean s e (src + n) 16) → b.poison = false ∧ b.bad = []) ∧
        EnginesSame e s t ∧ Aside { s with engines := t.engines } t))

/-- STEPS under the engine's configuration with its tag held: count + 1 steps, each into its slots, which take POISON where the buffer
is poisoned and otherwise the groups of their rows and columns; the buffer is released; it waits while no buffer holds the tag or
another configuration stands (R97, R99, R141 to R160). ELEMENTWISE: every slot from its first takes the products of its X and Y
blocks, each a group of one (R107, R108). The layout of staged rows and of X and Y blocks, slots past 255, one STEPS as a whole pass, and
what waits are log entry 10. -/
def Obligations.StepsAndProductsEnterTheirSlots : Prop :=
  (∀ (e : Fin 96) (i : ArrayInsn) (s : State),
     let cfg := insnCfg i i.path
     let g := s.engines[e]
     let w := fmtWidth (fmtOf cfg.fa)
     let rowB := ceilDiv (kBlock cfg * w) 8
     let n := (if cfg.path == .table then 4 else 1) * (i.count.toNat + 1)
     let q := i.slot.toNat
     inService s = true → s.inService[e] = true → insnAccepted i i.path = true → g.waitLoads = [] → g.waitSteps = [] →
     (g.cfg ≠ cfg ∨ bufOf g i.tag.toNat = none →
       exec (.steps e i) s = .next (updE s e fun g => { g with waitSteps := [.steps i] })) ∧
     (∀ a b, g.cfg = cfg → bufOf g i.tag.toNat = some (a, b) →
       ∃ t, exec (.steps e i) s = .next t ∧ SlotsOnly e q n s t ∧
         t.engines[e] = { g with slots := t.engines[e].slots, scratch := t.engines[e].scratch, poison := t.engines[e].poison,
                                 bufA := if a then { g.bufA with released := true } else g.bufA,
                                 bufB := if a then g.bufB else { g.bufB with released := true } } ∧
         (EngOk s e → b.poison = true → ∀ j < n, slotTag t.engines[e] ((q + j) % 256) = .poison) ∧
         (EngOk s e → b.poison = false → b.bad = [] → CleanEnv i.env → ScratchClean s e i.src.toNat (32 * rowB) → i.count = 0 → i.first = true →
           cfg.path ≠ .table →
           SlotHolds t e q fun r k =>
             let rs := scaleDy (i.rowScale.getD r one32).toNat
             let cs := scaleDy (i.colScale.getD k one32).toNat
             let row := fun x =>
               let code := unpackAt w (fun y => scrByte s e (i.src.toNat + r * rowB + y)) x
               (code, mxEl (splitElem (fmtOf cfg.fa) [] code) i.mxa (r * kBlock cfg + x))
             rowGroups cfg g.eddy b i.kvalid 0 k row (mulDy rs cs) (sideScale s e q r k) Acc.new))) ∧
  (∀ (e : Fin 96) (i : ArrayInsn) (s : State),
     let cfg := insnCfg i .ewise
     let g := configured s s.engines[e] cfg
     let wx := fmtWidth (fmtOf i.fa.toNat)
     let wy := fmtWidth (fmtOf i.fb.toNat)
     let q := i.slot.toNat
     let src := i.src.toNat
     inService s = true → s.inService[e] = true → insnAccepted i .ewise = true → s.engines[e].waitLoads = [] → s.engines[e].waitSteps = [] →
     ∃ t, exec (.elementwise e i) s = .next t ∧ SlotsOnly e q ((i.count.toNat + 1) * ewiseSlots cfg.rung) s t ∧
       t.engines[e] = { g with slots := t.engines[e].slots, scratch := t.engines[e].scratch, poison := t.engines[e].poison } ∧
       (EngOk s e → CleanEnv i.env → ScratchClean s e src (256 * wx + 256 * wy) → i.count = 0 → cfg.rung ≠ 0 → i.first = true →
         SlotHolds t e q fun r k =>
           let el := fun (f w base : Nat) (mx : List Byte) =>
             mxEl (splitElem (fmtOf f) [] (unpackAt w (fun y => scrByte s e (base + y)) (64 * r + k))) mx (64 * r + k)
           let p := [(el i.fa.toNat wx src i.mxa, el i.fb.toNat wy (src + 256 * wx) i.mxb)]
           let sg := mulDy (scaleDy (i.rowScale.getD r one32).toNat) (scaleDy (i.colScale.getD k one32).toNat)
           if isIntFmt i.fa.toNat && isIntFmt i.fb.toNat then Acc.new.intIn true (intGroup p) sg
           else Acc.new.floatIn (sideScale s e q r k) (floatGroup p) sg))

/-! ### The vector engine -/

/-- A computing Twine instruction writes the result of its opcode to every active lane of its V register, or to its S register,
and collects flags in pass 2; every other register stays, and nothing outside the core's context changes (R199, R207, R208). Each opcode
has the operation that R208 names; the bit operations and the comparisons are spelled out on the codes (R197, R198, R208).
Issuing single instructions is log entry 26. -/
def Obligations.TwineComputesLaneByLane : Prop :=
  ∀ (op : Nat) (c : Fin 16) (o : TwineOps) (s : State),
    let t := issueContext o s.cores[c].twine
    let i := issuedInsn o op t
    let val := fun lane => opResult i (i.sources.map fun x => t.operand (if op = 0x15 then !o.p else o.p) x lane)
    let vector := i.sources.any fun x => decide (x < 0x10)
    let lanes := if vector then List.range t.lanes else [0]
    let z := if o.p then 2 ^ 63 else 2 ^ 31
    let one := if o.p then 0x3FF0000000000000 else 0x3F800000
    let inf := if o.p then 0x7FF0000000000000 else 0x7F800000
    let nan := fun (x : Nat) => inf < x % z
    let key := fun (x : Nat) => if z ≤ x then -((x % z : Nat) : Int) else (x : Int)
    let rm := rmOf i.rm
    (1 ≤ op ∧ op ≤ 0x1A) ∨ op = 0x1C ∨ op = 0x1D → i.op = op → t.v.length = 16 → t.sreg.length = 8 →
    ∃ x, exec (twineRow op c o) s = .next (twineSet s c x) ∧ x = { t with v := x.v, sreg := x.sreg, flags := x.flags } ∧
      i.d = o.d.toNat ∧ i.d < 0x18 ∧
      (∀ lane, let a := t.operand o.p o.a.toNat lane
        let b := t.operand o.p o.b.toNat lane
        let c := t.operand o.p o.c.toNat lane
        let y := val lane
        (op = 0x01 → y = vAdd o.p rm a b) ∧ (op = 0x02 → y = vSub o.p rm a b) ∧ (op = 0x03 → y = vMul o.p rm a b) ∧
        (op = 0x04 → y = vDiv o.p rm a b) ∧ (op = 0x05 → y = vFma o.p rm false false a b c) ∧
        (op = 0x06 → y = vFma o.p rm false true a b c) ∧ (op = 0x07 → y = vFma o.p rm true false a b c) ∧ (op = 0x08 → y = vSqrt o.p rm a) ∧
        (op = 0x09 → y = vRsqrt o.p rm a) ∧ (op = 0x0A → y = vMin o.p a b) ∧ (op = 0x0B → y = vMax o.p a b) ∧
        (op = 0x0F → y = vClip o.p a b c) ∧
        (op = 0x15 → y = if o.p then vCvtWiden (t.operand false o.a.toNat lane) else vCvtNarrow rm (t.operand true o.a.toNat lane)) ∧
        (op = 0x16 → y = vRint o.p rm a) ∧ (op = 0x17 → y = vExp2 o.p rm a) ∧ (op = 0x18 → y = vLog2 o.p rm a) ∧
        (op = 0x19 → y = vPown o.p rm a b) ∧ (op = 0x1A → y = vScalb o.p rm a b) ∧ (op = 0x1C → y = (a, VFlags.none)) ∧
        (a < 2 * z → b < 2 * z → c < 2 * z →
          (op = 0x0C → y = (a % z, VFlags.none)) ∧ (op = 0x0D → y = ((a + z) % (2 * z), VFlags.none)) ∧
          (op = 0x0E → y = (a % z + b / z * z, VFlags.none)) ∧ (op = 0x14 → y = (if c % z = 0 then b else a, VFlags.none)) ∧
          (op = 0x1D → y = (if a % z < inf then 0 else one, VFlags.none)) ∧
          (op = 0x10 → y.1 = if ¬nan a ∧ ¬nan b ∧ key a < key b then one else 0) ∧
          (op = 0x11 → y.1 = if ¬nan a ∧ ¬nan b ∧ key a ≤ key b then one else 0) ∧
          (op = 0x12 → y.1 = if ¬nan a ∧ ¬nan b ∧ key a = key b then one else 0) ∧
          (op = 0x13 → y.1 = if nan a ∨ nan b then one else 0))) ∧
      (i.d < 0x10 → ∀ lane < t.lanes, laneOf x.v i.d lane = (val (if vector then lane else 0)).1 % 2 ^ 64) ∧
      (0x10 ≤ i.d → (x.sreg.getD (i.d - 0x10) 0).toNat = (if o.p then (val 0).1 else widenExact (val 0).1) % 2 ^ 64) ∧
      (∀ r, r ≠ i.d → x.v.getD r [] = t.v.getD r []) ∧ (∀ r, r + 0x10 ≠ i.d → x.sreg.getD r 0 = t.sreg.getD r 0) ∧
      x.flags = (if t.pass2 then t.flags ||| (lanes.foldl (fun f l => f.or (val l).2) VFlags.none).toNat else t.flags)

/-- IDX writes element indices; LD loads a member's elements and ST keeps or checks its elements by pass; RED gathers in pass 1;
NOP, BINV and an instruction that the checks replace change nothing but a chunk begun (R205, R208, R209, R212 to R218).
Issuing single instructions is log entry 26. -/
def Obligations.TwineMovesMembersAndReduces : Prop :=
  ∀ (c : Fin 16) (o : TwineOps) (s : State),
    let t := issueContext o s.cores[c].twine
    let ins := fun op => issuedInsn o op t
    (∀ op, op ≤ 0x23 → (ins op).op = 0 ∨ op = 0x23 → exec (twineRow op c o) s = .next (twineSet s c t)) ∧
    ((ins 0x1B).op = 0x1B → t.v.length = 16 → ∃ x, exec (.idx c o) s = .next (twineSet s c x) ∧
      x = { t with v := x.v, flags := x.flags } ∧ (∀ r, r ≠ o.d.toNat → x.v.getD r [] = t.v.getD r []) ∧
      ∀ lane < t.lanes, laneOf x.v o.d.toNat lane =
        (vRound o.p (rmOf (ins 0x1B).rm) false (Mag.dy (t.index lane) 0)).1 % 2 ^ 64) ∧
    ((ins 0x22).op = 0x22 → o.d.toNat < t.acc.length → ∃ x, exec (.red c o) s = .next (twineSet s c x) ∧ x = { t with acc := x.acc } ∧
      (∀ k, k ≠ o.d.toNat → x.acc.getD k RedAcc.reset = t.acc.getD k RedAcc.reset) ∧ (t.pass2 = true → x = t) ∧
      (t.pass2 = false → (t.acc.getD o.d.toNat RedAcc.reset).kind = none ∨
          (t.acc.getD o.d.toNat RedAcc.reset).kind = some o.c.toNat →
        x.acc.getD o.d.toNat RedAcc.reset = ((List.range t.lanes).map fun lane => vSplit o.p (t.operand o.p o.a.toNat lane)).foldl
          (RedAcc.take o.c.toNat) { t.acc.getD o.d.toNat RedAcc.reset with kind := some o.c.toNat })) ∧
    (∀ sh, t.shard = some sh →
      let m := sh.member o.b.toNat
      let pl := t.place m.addr (fmtWidth (fmtOf m.fmt))
      let pr := t.place sh.remAddr 16
      let rem := o.b.toNat == 0 && sh.rem
      let ws := (t.storeWrites s (ins 0x21) sh).1
      let hit := (List.range t.lanes).any fun lane => guardHit sh.guard (vSplit (ins 0x21).p (t.operand (ins 0x21).p o.a.toNat lane)).cl
      ((ins 0x20).op = 0x20 → Canonical s → CleanEnv o.env → t.v.length = 16 →
        ReadOk s t.who (pl :: (if rem then [pr] else [])) →
        ∃ y x, exec (.ld c o) s = .next y ∧ y.cores[c].twine = x ∧ (∀ k : Fin 16, k ≠ c → y.cores[k].twine = s.cores[k].twine) ∧
          Aside { s with cores := y.cores } y ∧
          x = { t with v := x.v, flags := x.flags, tripped := x.tripped, guarded := x.guarded, gseen := x.gseen } ∧
          (∀ r, r ≠ o.d.toNat → x.v.getD r [] = t.v.getD r []) ∧
          ∀ lane < t.lanes, laneOf x.v o.d.toNat lane =
            (loadElem (ins 0x20).p (fmtOf m.fmt)
              (if o.b.toNat == 1 && m.conv.scale == 1 then t.bundle.bind fun b => b.gscale else none)
              (if rem then some ((chunkCodes s pr.1 16 t.lanes).getD lane 0) else none)
              ((chunkCodes s pl.1 (fmtWidth (fmtOf m.fmt)) t.lanes).getD lane 0)).1 % 2 ^ 64) ∧
      ((ins 0x21).op = 0x21 → t.pass2 = false → exec (.st c o) s = .next (twineSet s c { t with tripped := t.tripped || hit })) ∧
      ((ins 0x21).op = 0x21 → t.pass2 = true → WriteOk s t.who (ws.map fun r => (r.addr, r.bytes.length)) →
        ∃ y x, exec (.st c o) s = .next y ∧ y.cores[c].twine = x ∧ (∀ k : Fin 16, k ≠ c → y.cores[k].twine = s.cores[k].twine) ∧
          Aside { s with cores := y.cores } y ∧ x = { t with stores := t.stores ++ ws, flags := x.flags }))

/-! ### Observation, the mailbox and registers -/

/-- The mailbox snapshot is armed by OBS_SNAPSEL and latched at its tick; a mailbox request clears VALID and sets PEND until its
capture reaches DATA, and one made while PEND is ignored and counted (R461, R480, R481). -/
def Obligations.SnapshotsAndCapturesReachTheMailbox : Prop :=
  ∀ (v : BitVec 64) (s : State),
    (s.phase = .run → ioOk s = true → Canonical s → ∃ t, exec (.obsSnapselArm v) s = .next t ∧ t = { s with regs := t.regs, snap := t.snap } ∧
      regGet t offSnapSel = BitVec.ofNat 64 (bits v.toNat 0 6) ∧ (∀ off, off ≠ offSnapSel → regGet t off = regGet s off) ∧
      t.snap = { s.snap with armed := some ((regGet s offSnapAt).toNat, bits v.toNat 0 6, false), done := false }) ∧
    (∀ tick sel jumped, s.snap.armed = some (tick, sel, jumped) → s.phase = .run →
      (tick = 0 ∨ tick ≤ s.gauge.count → ∃ t, exec .mailboxSnapshotLatch s = .next t ∧
        t = { s with fresh := t.fresh, snap := { armed := none, done := true,
                                                 buf := padTo 4288 (snapBytes s sel 0xFFFFFFFF 0xFF jumped) } }) ∧
      (tick ≠ 0 → s.gauge.count < tick → exec .mailboxSnapshotLatch s = .next s)) ∧
    (s.phase = .zeroing ∨ s.phase = .run → ioOk s = true →
      (s.mbx.pend = true → exec (.mbxReq v) s = .next { s with rclamp := min (s.rclamp + 1) 0xFFFFFFFF }) ∧
      (s.mbx.pend = false → ∃ t, exec (.mbxReq v) s = .next t ∧ t = { s with fresh := t.fresh, mbx := t.mbx } ∧
        t.mbx.valid = false ∧ t.mbx.pend = true ∧ t.mbx.sel = s.mbx.sel ∧ t.mbx.data = s.mbx.data ∧
        ∃ u, exec .mailboxCaptureComplete t = .next u ∧ u = { t with mbx := u.mbx } ∧ u.mbx.valid = true ∧ u.mbx.pend = false ∧
          u.mbx.tag = BitVec.ofNat 16 v.toNat ∧ u.mbx.absent = (mbxObject s s.mbx.sel.toNat).isNone ∧
          u.mbx.data = padTo 64 ((mbxObject s s.mbx.sel.toNat).getD [])))

/-- OBS_MARK writes a MARK record into every enabled buffer that is not frozen; RESUME unfreezes a buffer, which goes on from WPTR; SW fires an
armed trigger: ARM clears, the TRIGGER record is written, and POST_COUNT records follow before the buffer freezes; OBS_EVSEL is held until the
next swap (R458, R465, R466, R468, R472). That a write of SW fires the trigger which it leaves armed, that its record and a MARK are of unit 6,
and how the staging queue empties is log entry 24; FINE is log entry 3. -/
def Obligations.TraceControlsAct : Prop :=
  ∀ (c : Fin 16) (v : BitVec 64) (s : State),
    let tctl := suStore s (offTctl c) (setBits v.toNat 18 1 1)
    let trig := suStore s (offTrig c) (setBits v.toNat 54 1 1)
    let post := regField s (offTctl c) 48 16
    let room := fun (k : Fin 16) => regBit s (offTctl k) 16 = true ∧ s.cores[k].trace.frozen = false ∧ s.cores[k].trace.dropped = 0 ∧
      s.cores[k].trace.staged < 64 ∧ s.cores[k].trace.undrained < 65536 ∧
      cellsWf (fun _ => List.replicate 32 (0 : Byte)) s.cores[k].trace.slots = true
    let holds := fun (t : State) (k : Fin 16) (kind unit info data : Nat) => ∃ fine < 2048,
      getCell (fun _ => List.replicate 32 (0 : Byte)) s.cores[k].trace.wptr t.cores[k].trace.slots =
        le4 (kind + unit * 2 ^ 8 + 0xFF * 2 ^ 16 + info * 2 ^ 24) ++ le4 0 ++ le4 (s.cores[k].trace.rseq * 2 ^ 16) ++ le4 0xFFFFFFFF ++
        le8 (s.gauge.count % 2 ^ 48 + fine * 2 ^ 48 + b2n (s.gauge.src == 2) * 2 ^ 59) ++ le8 data
    s.phase = .run → ioOk s = true → Canonical s →
    (∃ t, exec (.mark v) s = .next t ∧ Aside (suStore s offMark v.toNat) t ∧ regGet t offMark = v ∧
      (∀ k, room k → holds t k 0x1C 6 0 v.toNat ∧
        (regBit s (offTrig k) 55 = false → t.cores[k].trace.wptr = (s.cores[k].trace.wptr + 1) % 65536 ∧
          t.cores[k].trace.rseq = (s.cores[k].trace.rseq + 1) % 65536)) ∧
      (∀ k : Fin 16, regBit s (offTctl k) 16 = false ∨ s.cores[k].trace.frozen = true → regBit s (offTrig k) 55 = false →
        t.cores[k] = s.cores[k])) ∧
    (∃ t, exec (.resume c v) s = .next t ∧ Aside { tctl with mem := t.mem, poison := t.poison, t3 := t.t3 } t ∧
      regBit t (offTctl c) 16 = bitAt v.toNat 16 ∧
      (s.cores[c].trace.leaving = [] → s.cores[c].trace.undrained = 0 → s.cores[c].trace.dropped = 0 →
        t.cores[c] = { s.cores[c] with trace := { s.cores[c].trace with frozen := false, triggered := false, post := none } } ∧
        t = { s with regs := t.regs, cores := t.cores } ∧ ∀ k : Fin 16, k ≠ c → t.cores[k] = s.cores[k])) ∧
    (∃ t, exec (.obsTrigSw c v) s = .next t ∧ Aside trig t ∧
      (bitAt v.toNat 55 = false ∨ s.cores[c].trace.frozen = true → t = trig) ∧
      (bitAt v.toNat 55 = true → s.cores[c].trace.frozen = false →
        regBit t (offTrig c) 55 = false ∧ t.cores[c].trace.triggered = true ∧
        (s.cores[c].trace.post = none → t.cores[c].trace.frozen = decide (post = 0) ∧
          t.cores[c].trace.post = if post = 0 then none else some post) ∧ (room c → holds t c 0x1B 6 4 0))) ∧
    (∃ t, exec (.obsEvsel c v) s = .next t ∧ t = { s with regs := t.regs, cores := t.cores } ∧
      t.cores[c] = { s.cores[c] with evPend := true } ∧ (∀ k : Fin 16, k ≠ c → t.cores[k] = s.cores[k]) ∧
      regGet t (offEvsel c) = BitVec.ofNat 64 (v.toNat % 2 ^ 56) ∧ (∀ off, off ≠ offEvsel c → regGet t off = regGet s off))

/-- SU_WRITE keeps the bits a register has, ignores and counts a write of another size or alignment, and clamps MEM_QOS, MEM_HDM and
MEM_T3_SIZE; W1C_CLEAR clears the flags written as 1 and no other bit; a block that does not answer, and every block behind an enabled
CXL.io stream that is not active, ignores both and reads zero. That a device-fatal error changes none of this is log entry 35, DEDUCED from what R406 does not
name. BAR0 reads give each register at its offset: the SU and W1C ones, the engines in service, the column fuses of each core, and zero from
0x500000 on; BAR2 reads give the HALTED queues (R12, R23, R33, R103, R241, R270, R271, R356, R386, R474 to R479, R494, R511). -/
def Obligations.RegisterWritesTakeEffect : Prop :=
  ∀ (off size : Nat) (v : BitVec 64) (s : State),
    let m := BitVec.ofNat 64 ((suMask off).getD 0)
    (blockAnswers s off = false →
      exec (.suWrite off size v) s = .next s ∧ exec (.w1cClear off v) s = .next s ∧ bar0Read s off size = 0) ∧
    (s.phase = .run → ioOk s = true →
      ((suMask off).isSome = true ∨ (w1cFlags off).isSome = true → off % 8 = 0 → bar0Read s off 8 = (regGet s off).toNat ∧
        bar0Read s off 4 = (regGet s off).toNat % 2 ^ 32 ∧ bar0Read s (off + 4) 4 = (regGet s off).toNat / 2 ^ 32) ∧
      (∀ e : Fin 96, bitAt (bar0Read s (0x100 + 8 * (e.val / 24)) 8) (16 * (e.val / 6 % 4) + e.val % 6) = s.inService[e] ∧
        (s.fuses[e] < 32 → bits (bar0Read s (0x100200 + 0x40000 * (e.val / 6)) 8) (5 * (e.val % 6)) 5 = s.fuses[e])) ∧
      (0x500000 ≤ off → bar0Read s off size = 0)) ∧
    (ioOk s = true → ∀ q : Fin 32, bitAt (bar2Read s 0x20008 8) q.val = decide (s.queues[q].state = .halted) ∧
      bitAt (bar2Read s 0x20008 8) 32 = s.halts.isEmpty) ∧
    (off ≠ 0x20008 ∨ ioOk s = false → bar2Read s off size = 0) ∧
    (blockAnswers s off = true → size ≠ 8 ∨ off % 8 ≠ 0 →
      exec (.suWrite off size v) s = .next { s with rclamp := min (s.rclamp + 1) 0xFFFFFFFF }) ∧
    (s.phase = .run → ioOk s = true → Canonical s →
      (off ∈ [offT3Base, offT3Tag, offLnkAddr, offObsCtl, offSnapAt, offErrCtl, offDegrade, offStepreq] →
        ∃ t, exec (.suWrite off 8 v) s = .next t ∧ t = { s with regs := t.regs } ∧ regGet t off = v &&& m ∧
          (∀ k, k ≠ off → regGet t k = regGet s k)) ∧
      (∀ clamp, (off = offQos ∧ clamp = qosClamp v.toNat) ∨ (off = offHdm ∧ clamp = hdmClamp v.toNat) ∨
          (off = offT3Size ∧ clamp = t3SizeClamp v.toNat) →
        ∃ t, exec (.suWrite off 8 v) s = .next t ∧ t = { s with regs := t.regs, rclamp := t.rclamp } ∧
          regGet t off = BitVec.ofNat 64 clamp &&& m ∧ (∀ k, k ≠ off → regGet t k = regGet s k) ∧
          t.rclamp = (if clamp = v.toNat then s.rclamp else min (s.rclamp + 1) 0xFFFFFFFF)) ∧
      (∀ f, w1cFlags off = some f → ∃ t, exec (.w1cClear off v) s = .next t ∧ t = { s with regs := t.regs } ∧
        (∀ i < 64, regBit t off i = (regBit s off i && !(bitAt v.toNat i && bitAt f i))) ∧
        (∀ k, k ≠ off → regGet t k = regGet s k)) ∧
      (w1cFlags off = none → exec (.w1cClear off v) s = .next s))

/-- CONFIGURATION_SWEEP: a sweep that is not discarded gives CUR and counts, after a device-fatal error too; the first mismatch of a run
sets DRIFT and leaves an ERROR record, and with HALT_EN halts every queue and leaves a HALT record; a match ends the run (R377, R397, R483,
R484). That the halt takes the next HALT identity is log entry 44. -/
def Obligations.SweepsFindDrift : Prop :=
  ∀ s : State,
    let crc := sweepCrc s
    let cfg := fun b => ({ cur := crc, sweeps := (s.cfg.sweeps + 1) % 65536, drifting := b } : CfgCheck)
    exec (.configurationSweep true) s = .next s ∧
    (alive s = true → cflBusy s = false → Canonical s →
      (regBit s offCfgCtl 0 = false → exec (.configurationSweep false) s = .next { s with cfg := cfg s.cfg.drifting }) ∧
      (regBit s offCfgCtl 0 = true → crc = regField s offCfgRef 0 32 →
        exec (.configurationSweep false) s = .next { s with cfg := cfg false }) ∧
      (regBit s offCfgCtl 0 = true → crc ≠ regField s offCfgRef 0 32 →
        (s.cfg.drifting = true → exec (.configurationSweep false) s = .next { s with cfg := cfg true }) ∧
        (s.cfg.drifting = false → ∃ t, exec (.configurationSweep false) s = .next t ∧ t.cfg = cfg true ∧ regBit t offCfg 0 = true ∧
          (OpenRoom s 1 → Told t 0xFF (eventBytes s 0x07 0xFF (0x0D + 3 * 2 ^ 8) 0xFFFFFFFF
            (le4 0 ++ le4 0 ++ le4 (errUnitWord s 3 0) ++ le4 0 ++ le8 0))) ∧
          (regBit s offCfgCtl 1 = false → Aside (setFlag { s with cfg := cfg true } offCfg 0 48) t) ∧
          (regBit s offCfgCtl 1 = true → t.haltCount = s.haltCount + 1 ∧ Vector33 s t ∧
            (∀ q : Fin 32, t.queues[q].state = (if s.queues[q].state = .running then .halted else s.queues[q].state) ∧
              (s.queues[q].state = .running → t.queues[q].active = [] ∧ Told t q (stopBytes s q 0x02))) ∧
            ((∀ q : Fin 32, s.queues[q].state ≠ .running) → OpenRoom s 2 →
              Told t 0xFF (haltBytes s 0x01 0xFFFFFFFF (s.haltCount + 1).toNat (homeAddr s) 0))))))

/-- POWER_CONTROLLER_WINDOW follows the algorithm of R505, forces step 3 at a low input, leaves a CLOCK record where the step in force
changes, and reports what sensors crossed: the events, the in-band interrupt, ALERT# (R398, R500, R502, R505, R506, R514, R515). The
CAUSE where several limits act is log entry 31, the form of the events log entry 18. -/
def Obligations.PowerWindowsSetTheStep : Prop :=
  ∀ (m : PowerMeasure) (s : State),
    let p := s.power
    let lim := 2000 - 8 * regField s offStepreq 8 7
    let hot : Prop := ∃ i < 20, stepDownAt i ≤ m.temps.getD i 0
    let cool : Prop := ∀ i < 20, m.temps.getD i 0 + 5 ≤ stepDownAt i
    let high := lim < m.watts ∨ hot
    let low := ¬high ∧ m.watts + 100 < lim ∧ cool
    let es := (crossings p.meas m).filter fun x => !s.mgmt.disabled.contains x.1
    firmwareRuns s = true →
    ∃ t, exec (.powerControllerWindow m) s = .next t ∧ t.power.meas = m ∧
      (high → t.power.calm = 0 ∧ t.power.step = (if p.step < 3 then p.step + 1 else p.step) ∧
        t.power.k = (if p.step < 3 then p.k else if p.k < 6 then p.k + 1 else p.k)) ∧
      (low → p.calm < 99 → t.power.calm = p.calm + 1 ∧ t.power.step = p.step ∧ t.power.k = p.k) ∧
      (low → 99 ≤ p.calm → t.power.calm = 0 ∧ t.power.k = p.k - 1 ∧ t.power.step = (if 0 < p.k then p.step else p.step - 1)) ∧
      (¬high → ¬low → t.power.calm = 0 ∧ t.power.step = p.step ∧ t.power.k = p.k) ∧
      t.power.inForce = (if 44000 ≤ m.millivolts ∧ m.millivolts < 46000 then 3
        else max t.power.step (regField s offStepreq 0 2)) ∧
      t.mgmt = { s.mgmt with events := s.mgmt.events ++ es } ∧ t.alert = (s.alert || !es.isEmpty) ∧
      t.outbox = s.outbox ++ (if es.isEmpty then [] else [.inBand s.mgmt.i3cAddr] ++ if s.alert then [] else [.alert true]) ∧
      (p.inForce = t.power.inForce → t.events = s.events ∧ t.evWait = s.evWait) ∧
      (p.inForce ≠ t.power.inForce → OpenRoom s 1 → Told t 0xFF (eventBytes s 0x08 0xFF (clockCause s p t.power m) 0xFFFFFFFF
        (le4 (p.inForce + t.power.inForce * 2 ^ 2)))) ∧
      (p.inForce < t.power.inForce → low → clockCause s p t.power m = if 44000 ≤ m.millivolts ∧ m.millivolts < 46000 then 1 else 3) ∧
      Aside { s with power := t.power, mgmt := t.mgmt, alert := t.alert, outbox := t.outbox, events := t.events, evLost := t.evLost } t

/-! ### The host link -/

/-- HDM reads give the line, or poison; HDM writes replace the bytes of their mask, a partial one after a read of the line whose
uncorrectable error leaves it poisoned; a scrub corrects, or stores the line poisoned; IDE_KM in the DOE session programs a stream's
key, starts the stream and stops it, and the key stays (R246, R249 to R252, R270, R406, R426, R510 to R513). That a key is programmed for
a stream that is enabled and not active, and that a stop disables it, is log entry 37; that a line already poisoned gives no new finding, log
entry 39. -/
def Obligations.HostTrafficReachesTheModule : Prop :=
  ∀ s : State,
    (∀ (x : Nat) (env : List Finding), alive s = true → Canonical s → CleanEnv env →
      (hdmAddr s x = none → exec (.hdmRead x env) s = .next { s with outbox := s.outbox ++ [.cxlData [] true] }) ∧
      (∀ a, hdmAddr s x = some a → LineOk s Who.none a → ∃ t, exec (.hdmRead x env) s = .next t ∧
        t.outbox = s.outbox ++ [.cxlData (rd s a 64) false] ∧ Aside { s with outbox := t.outbox } t) ∧
      (∀ a, hdmAddr s x = some a → backed s a = true → linePoisoned s (a / 64) = true → ∃ t, exec (.hdmRead x env) s = .next t ∧
        t.outbox = s.outbox ++ [.cxlData [] true] ∧ Aside { s with outbox := t.outbox } t)) ∧
    (∀ (x : Nat) (data : List Byte) (mask : BitVec 64) (env : List Finding), data.length = 64 →
      (hdmAddr s x = none → exec (.hdmWrite x data mask env) s = .next s) ∧
      (∀ a, hdmAddr s x = some a → BackedAll s a 64 → Canonical s →
        (CleanEnv env → ∃ t, exec (.hdmWrite x data mask env) s = .next t ∧
          Aside { s with mem := t.mem, poison := t.poison, t3 := t.t3 } t ∧ KeptOutside s t [(a, 64)] ∧
          (∀ i < 64, rdByte t (a + i) = (if bitAt mask.toNat i then data.getD i 0 else rdByte s (a + i))) ∧
          (mask ≠ BitVec.allOnes 64 → t.poison = s.poison)) ∧
        (mask ≠ 0 → mask ≠ BitVec.allOnes 64 → env = [⟨a / 64, .ue, 0⟩] → linePoisoned s (a / 64) = false →
          ∃ t, exec (.hdmWrite x data mask env) s = .next t ∧ linePoisoned t (a / 64) = true ∧ regBit t offEccstat 1 = true))) ∧
    (∀ l n : Nat, inService s = true → regionOf (64 * l) = .t1 ∨ regionOf (64 * l) = .t2 → backed s (64 * l) = true →
      linePoisoned s l = false → Canonical s →
      (∃ t, exec (.patrolScrub ⟨l, .ce, n⟩) s = .next t ∧ Aside s t ∧ regBit t offEccstat 0 = true ∧ t.poison = s.poison) ∧
      (∃ t, exec (.patrolScrub ⟨l, .ue, n⟩) s = .next t ∧ Aside s t ∧ regBit t offEccstat 1 = true ∧ linePoisoned t l = true)) ∧
    (firmwareRuns s = true → s.fatal = none → established s .doe = true →
      (∀ (sid : Fin 5) (io : Bool) (base limit : Nat) (key : BitVec 256), exec (.ideKm (.keyProg sid io base limit key)) s =
        .next { s with ide := (s.ide.filter fun i => i.sid != sid.val) ++ [⟨sid.val, io, true, key, base, limit, false⟩] }) ∧
      (∀ sid : Fin 5, ∃ t, exec (.ideKm (.start sid)) s = .next t ∧ t = { s with ide := t.ide } ∧
        t.ide = s.ide.map fun i => if i.sid = sid.val then { i with enabled := true, active := true } else i) ∧
      (∀ sid : Fin 5, ∃ t, exec (.ideKm (.stop sid)) s = .next t ∧ t = { s with ide := t.ide } ∧
        t.ide = s.ide.map fun i => if i.sid = sid.val then { i with enabled := false, active := false } else i))

/-! ### Management -/

/-- Requests of MCTP control and PLDM on a transport that answers them: queries answer once and change nothing else; settings,
sensor events and their collection do what R514 and R515 say; nothing is answered elsewhere (R432, R500, R514, R515). Contents
that the DMTF standards fix are log entry 18. -/
def Obligations.ManagementAnswers : Prop :=
  ∀ (tr : Transport) (ty : Byte) (h id n : Nat) (en : Byte) (s : State),
    let say := fun (m : Mgmt) name data => ({ s with mgmt := m, outbox := s.outbox ++ [.reply name 0 data] } : State)
    (∀ row ∈ mctpQueries tr ty, (mctpUp s tr = false → exec row s = .next s) ∧
      (mctpUp s tr = true → ∃ name code data, exec row s = .next { s with outbox := s.outbox ++ [.reply name code data] })) ∧
    (∀ row ∈ pldmQueries tr ty h id, (pldmUp s tr = false → exec row s = .next s) ∧
      (pldmUp s tr = true → ∃ name code data, exec row s = .next { s with outbox := s.outbox ++ [.reply name code data] })) ∧
    (mctpUp s tr = true → en ≠ 0 → en ≠ 0xFF →
      exec (.setEndpointId tr en) s = .next (say (if tr = .vdm then { s.mgmt with eidVdm := en } else { s.mgmt with eidI3c := en })
        "SET_ENDPOINT_ID" [en]) ∧
      exec (.getEndpointId tr) s = .next (say s.mgmt "GET_ENDPOINT_ID" [if tr = .vdm then s.mgmt.eidVdm else s.mgmt.eidI3c])) ∧
    (pldmUp s tr = true →
      (id ∈ numericIds → id ∉ s.mgmt.disabled → exec (.getSensorReading tr id) s =
        .next (say s.mgmt "GET_SENSOR_READING" ([0] ++ le4 (twos 32 (reading s.power.meas id))))) ∧
      exec (.getStateSensorReadings tr 0x30) s = .next (say s.mgmt "GET_STATE_SENSOR_READINGS" (leBytes 1 s.power.inForce)) ∧
      exec (.getStateSensorReadings tr 0x31) s =
        .next (say s.mgmt "GET_STATE_SENSOR_READINGS" (leBytes 1 (lcState s) ++ leBytes 1 s.otp.tamper)) ∧
      (id ∈ numericIds → ∃ t, exec (.setNumericSensorEnable tr id 0) s = .next t ∧ (∀ k, k ∈ t.mgmt.disabled ↔ k ∈ s.mgmt.disabled ∧ k ≠ id) ∧
        t = { s with mgmt := { s.mgmt with disabled := t.mgmt.disabled }, outbox := t.outbox }) ∧
      (id ∈ numericIds → ∃ t, exec (.setNumericSensorEnable tr id 1) s = .next t ∧ (∀ k, k ∈ t.mgmt.disabled ↔ k ∈ s.mgmt.disabled ∨ k = id) ∧
        t = { s with mgmt := { s.mgmt with disabled := t.mgmt.disabled }, outbox := t.outbox }) ∧
      exec (.eventMessageBufferSize tr n) s = .next (say { s.mgmt with bufSize := n } "EVENT_MESSAGE_BUFFER_SIZE" (leBytes 2 n)) ∧
      (∀ row ∈ [Instr.platformEventMessage tr, .pollForPlatformEventMessage tr],
        (s.mgmt.events = [] → ∃ name, exec row s = .next (say s.mgmt name [])) ∧
        (∀ x r, s.mgmt.events = x :: r → ∃ name, exec row s = .next { s with
          mgmt := { s.mgmt with events := r }, alert := s.alert && !r.isEmpty,
          outbox := s.outbox ++ [.reply name 0 (leBytes 2 x.1 ++ leBytes 1 (b2n x.2))] ++
            (if r.isEmpty && s.alert then [.alert false] else []) })))

/-- A firmware update goes from request to table, transfer, verification, application and activation; only a valid image verifies;
the data goes to the slot that did not boot; a cancelled update leaves the boot record as it was before the update; the
ROM-held state writes slot A only once the image is applied, prefers it and resets the module (R428, R429, R432, R516). The states that
admit a request are log entry 18. -/
def Obligations.FirmwareUpdatesMoveThroughTheirStates : Prop :=
  ∀ (tr : Transport) (s : State) (img : Image) (env : BootEnv) (size : Nat),
    let fw := s.mgmt.fw
    let goes := fun row (st : FwState) (m : Option Image) => ∃ t, exec row s = .next t ∧
      t = { s with mgmt := { s.mgmt with fw := st, fwImage := m }, outbox := t.outbox, flash := t.flash } ∧ t.flash = s.flash
    let moved := fun (row : Instr) (t : State) => exec row s = .next t
    (mctpUp s tr = true → s.phase = .romHeld →
      (fw = .transfer → ∀ last, ∃ t, moved (.requestFirmwareData tr last img) t ∧
        t = { s with mgmt := { s.mgmt with fwImage := if last then some img else none }, outbox := t.outbox }) ∧
      (fw = .verified → ∃ t, moved (.applyComplete tr env) t ∧ t.phase ≠ .run ∧ (s.perst = false → t.resetCause = 4) ∧
        t.flash = { s.flash with a := s.mgmt.fwImage, preferB := false })) ∧
    (mctpUp s tr = true → s.phase ≠ .romHeld →
    (fw = .idle → goes (.requestUpdate tr) .requested none) ∧
    (fw = .requested → goes (.passComponentTable tr) .table s.mgmt.fwImage) ∧
    (fw = .table → size ≤ 60 * 2 ^ 20 → goes (.updateComponent tr size) .transfer s.mgmt.fwImage) ∧
    (fw = .transfer → ∀ last, ∃ t, exec (.requestFirmwareData tr last img) s = .next t ∧
      t.mgmt = { s.mgmt with fwImage := if last then some img else none } ∧
      t.flash = (if s.boot.slotB then { s.flash with a := if last then some img else none }
        else { s.flash with b := if last then some img else none }) ∧
      t = { s with mgmt := t.mgmt, flash := t.flash, outbox := t.outbox }) ∧
    (fw = .transfer → s.mgmt.fwImage.isSome = true → goes (.transferComplete tr true) .transferred s.mgmt.fwImage) ∧
    (fw = .transfer → goes (.transferComplete tr false) .table none) ∧
    (fw = .transferred → ∀ m, s.mgmt.fwImage = some m →
      goes (.verifyComplete tr) (if imageValid s m then .verified else .table) (some m)) ∧
    (fw = .verified → ∃ t, exec (.applyComplete tr env) s = .next t ∧ t.mgmt = { s.mgmt with fw := .applied, fwPrefer := s.flash.preferB } ∧
      t.flash = { s.flash with preferB := !s.boot.slotB } ∧ t = { s with mgmt := t.mgmt, flash := t.flash, outbox := t.outbox }) ∧
    (fw = .applied → goes (.activateFirmware tr false env) .idle s.mgmt.fwImage) ∧
    (fw = .applied → ∃ t, exec (.activateFirmware tr true env) s = .next t ∧ t.phase ≠ .run ∧ t.flash = s.flash ∧
      (s.perst = false → t.resetCause = 4)) ∧
    (fw = .transfer ∨ fw = .transferred ∨ fw = .verified → goes (.cancelUpdateComponent tr) .table none) ∧
    (fw ≠ .idle → fw ≠ .applied → goes (.cancelUpdate tr) .idle none) ∧
    (fw = .applied → ∃ t, exec (.cancelUpdate tr) s = .next t ∧ t.flash = { s.flash with preferB := s.mgmt.fwPrefer } ∧
      t = { s with mgmt := { s.mgmt with fw := .idle, fwImage := none }, flash := t.flash, outbox := t.outbox }))

/-- The SPDM responder: queries answer once and change nothing else, with the certificate chain of the flash and the algorithms of R436; a
signed response ends in a signature with d, and without d, or after TEST_UNLOCK, gets Unspecified; a
corrected error of a sealed bank on the way is flagged; a session of a transport opens with KEY_EXCHANGE and FINISH and closes with
END_SESSION, which leaves the job key; malformed requests get an error (R249, R434 to R439, R448, R450). Contents that the DMTF
standards fix are log entry 18, the form of keys and signatures log entry 8. -/
def Obligations.SpdmAnswersAndKeepsSessions : Prop :=
  ∀ (tr : Transport) (rq : SpdmReq) (slot : Nat) (index : Byte) (s : State),
    let say := fun (m : OutMsg) => ({ s with outbox := s.outbox ++ [m] } : State)
    let put := fun (x : Session) name code => ({ s with sessions := s.sessions.set (trIdx tr) x,
                                                         outbox := s.outbox ++ [.reply name code []] } : State)
    (∀ row ∈ spdmQueries tr rq slot index, (spdmUp s = false → exec row s = .next s) ∧
      (spdmUp s = true → rq.bank = none → ∃ t m, exec row s = .next t ∧ t = { say m with fresh := t.fresh } ∧
        (rq.wellFormed = false → m = .reply "InvalidRequest" 1 [])) ∧
      (spdmUp s = true → ∀ b, rq.bank = some b → b.ue = false → Canonical s → ∃ t m, exec row s = .next t ∧
        t = { s with regs := t.regs, fresh := t.fresh, outbox := s.outbox ++ [m] } ∧ regBit t offEccstat 0 = true)) ∧
    (spdmUp s = true → rq.wellFormed = true → rq.bank = none →
      exec (.negotiateAlgorithms tr rq) s = .next (say (.algorithms "SM2" "SM2" "SM3" "SM4-GCM")) ∧
      exec (.getCertificate tr rq 0) s = .next (say (.reply "CERTIFICATE" 0 (chainBytes s.flash.inter s.flash.cert))) ∧
      (∀ d, s.unlocked = false → s.idKey = some d →
        let sign := fun (data : List Byte) n => data ++ leBytes 64 (Config.sm2Sign d (Config.sm3 data) n)
        (∃ t k e, exec (.keyExchange tr rq) s = .next t ∧ t = { put (.handshake k) "" 0 with fresh := t.fresh, outbox := t.outbox } ∧
          t.outbox = s.outbox ++ [.reply "KEY_EXCHANGE_RSP" 0 (sign (leBytes 64 (Config.sm2Public e)) (s.fresh + 2))]) ∧
        exec (.challenge tr rq) s = .next { say (.reply "CHALLENGE_AUTH" 0 (sign [] s.fresh)) with fresh := s.fresh + 1 } ∧
        (rq.sign = true → 1 ≤ index.toNat → index.toNat ≤ 7 → exec (.getMeasurements tr rq index) s =
          .next { say (.reply "MEASUREMENTS" 0 (sign (measurement s index.toNat) s.fresh)) with fresh := s.fresh + 1 })) ∧
      (s.unlocked = true ∨ s.idKey = none → ∀ row ∈ [Instr.challenge tr rq, .keyExchange tr rq], exec row s = .next (say (.reply "Unspecified" 1 []))) ∧
      (rq.sign = false → 1 ≤ index.toNat → index.toNat ≤ 7 → exec (.getMeasurements tr rq index) s =
        .next (say (.reply "MEASUREMENTS" 0 (measurement s index.toNat)))) ∧
      (∀ k, sessionOf s tr = .handshake k → rq.secured = true →
        exec (.finish tr rq true) s = .next (put (.established k) "FINISH_RSP" 0) ∧
        exec (.finish tr rq false) s = .next (put .none "DecryptError" 1)) ∧
      (InSession s tr rq → exec (.endSession tr rq) s = .next (put .none "END_SESSION_ACK" 0) ∧
        exec (.heartbeat tr rq) s = .next (say (.reply "HEARTBEAT_ACK" 0 []))))

/-- Vendor-defined requests inside the secure session, under the registry, the vendor ID and their code byte: JOB_KEY_SET installs a
key where there is none; JOB_KEY_CLEAR marks the commands that run, and takes effect when none of them runs; SVN_COMMIT raises the
floor under the owner's signature where an owner key is active, never above the version of the running image and never down (R434, R450); a
request outside the session or under another header gets InvalidRequest (R436, R438, R439, R443, R444). That a JOB_KEY_SET outside MANUFACTURE
and DEPLOYED and any other SVN_COMMIT that is not allowed get InvalidRequest is log entry 36 (DEDUCED); the other error names are log entry 18, the
identity of a key log entry 8. -/
def Obligations.VendorRequestsSetKeysAndTheFloor : Prop :=
  ∀ (tr : Transport) (rq : SpdmReq) (jobId : BitVec 64) (secret : BitVec 256) (floor : BitVec 16) (s : State),
    let err := fun name => ({ s with outbox := s.outbox ++ [.reply name 1 []] } : State)
    let head := fun (code : Byte) => rq.pciSig = true ∧ rq.vendorId = 0x1FD7 ∧ rq.code = code
    (∀ (row : Instr) (code : Byte) (auth : Option Auth), (row = .jobKeySet tr rq jobId secret ∧ code = 1) ∨ (row = .jobKeyClear tr rq ∧ code = 2) ∨
        (row = .svnCommit tr rq floor auth ∧ code = 4) →
      spdmUp s = true → rq.bank = none → rq.wellFormed = false ∨ rq.secured = false ∨ established s tr = false ∨ ¬head code →
      exec row s = .next (err "InvalidRequest")) ∧
    (Secure s tr rq →
      (head 1 → lcState s = 0 ∨ lcState s = 2 →
        (s.t3key.isSome = true → exec (.jobKeySet tr rq jobId secret) s = .next (err "UnexpectedRequest")) ∧
        (s.t3key = none → exec (.jobKeySet tr rq jobId secret) s =
          .next { s with t3key := some (jobKeyOf jobId secret), outbox := s.outbox ++ [.reply "JOB_KEY_SET" 0 []] })) ∧
      (head 2 → ∃ t, exec (.jobKeyClear tr rq) s = .next t ∧ t = { s with jobClear := t.jobClear, outbox := t.outbox } ∧
        t.outbox = s.outbox ++ [.reply "JOB_KEY_CLEAR" 0 []] ∧
        (s.t3key.isSome = true → s.jobClear = none → ∃ l, t.jobClear = some l ∧
          ∀ (q : Fin 32) (k : Nat), (q.val, k) ∈ l ↔ ∃ x ∈ s.queues[q].active, x.idx.toNat = k)) ∧
      (head 1 → lcState s ≠ 0 → lcState s ≠ 2 → exec (.jobKeySet tr rq jobId secret) s = .next (err "InvalidRequest")) ∧
      (head 4 → ∀ auth : Option Auth,
        let owner : Prop := ∀ k, ownerActive s = some k → ∃ a o, auth = some a ∧ s.otp.owners[k]? = some o ∧ o.digest = some a.key ∧
          a.ok = true ∧ a.jokarek = false ∧ a.serial = s.serial ∧ a.used = s.otp.lc.length ∧
          a.covers = leBytes 2 floor.toNat ++ List.replicate 64 0
        (lcState s = 2 → owner → ∀ m, s.boot.image = some m → floor.toNat ≤ imgSvn m → s.otp.svnFloor ≤ floor.toNat →
          exec (.svnCommit tr rq floor auth) s =
            .next { s with otp := { s.otp with svnFloor := floor.toNat }, outbox := s.outbox ++ [.reply "SVN_COMMIT" 0 []] }) ∧
        (lcState s ≠ 2 ∨ ¬owner ∨ (∃ m, s.boot.image = some m ∧ imgSvn m < floor.toNat) ∨ floor.toNat < s.otp.svnFloor →
          exec (.svnCommit tr rq floor auth) s = .next (err "InvalidRequest")))) ∧
    (∀ l, s.jobClear = some l →
      ((∃ w ∈ l, ∃ (q : Fin 32) (x : Cmd), x ∈ s.queues[q].active ∧ w = (q.val, x.idx.toNat)) →
        exec .jobKeyClearTakesEffect s = .next s) ∧
      ((∀ w ∈ l, ∀ (q : Fin 32) (x : Cmd), x ∈ s.queues[q].active → w ≠ (q.val, x.idx.toNat)) →
        exec .jobKeyClearTakesEffect s = .next { s with t3key := none, jobClear := none }))

/-- LC_ADVANCE along a transition of R446, under its authorisation, burns one lifecycle entry with the owner-key fuses, and resets the
module with cause 4; TEST_UNLOCK wipes and sets its latch in RETURNED; a Jokarek token and an owner's signature serve this module and
its next entry only; a wipe that fails is device-fatal; what R446 does not allow gets InvalidRequest (R273, R443 to R448). Error names
are log entry 18, what the boot finds log entry 13; that a TEST_UNLOCK token's target state is not compared, and InvalidRequest for what
R446 or R448 does not allow, are log entry 36. -/
def Obligations.LifecycleTransitionsBurnOneEntry : Prop :=
  ∀ (tr : Transport) (rq : SpdmReq) (target : Byte) (digest : BitVec 256) (auth : Option Auth) (a : Auth) (env : BootEnv) (s : State),
    let err := ({ s with outbox := s.outbox ++ [.reply "InvalidRequest" 1 []] } : State)
    let fits := fun (a : Auth) => a.ok = true ∧ a.serial = s.serial ∧ a.used = s.otp.lc.length
    let token : Prop := ∃ a, auth = some a ∧ fits a ∧ a.jokarek = true ∧ a.covers = [target]
    let owner : Prop := ∀ k, ownerActive s = some k → ∃ a o, auth = some a ∧ fits a ∧ a.jokarek = false ∧ s.otp.owners[k]? = some o ∧
      o.digest = some a.key ∧ a.covers = target :: leBytes 32 digest.toNat ++ List.replicate 64 0
    let allowed : Prop := ((lcState s = 0 ∧ target = 1 ∧ token) ∨
        (lcState s = 1 ∧ target = 2 ∧ (digest = 0 ∨ ∃ o ∈ s.otp.owners, o.digest = none)) ∨ (lcState s = 2 ∧ target = 3 ∧ owner) ∨
        (lcState s = 3 ∧ target = 1 ∧ token) ∨ (lcState s < 4 ∧ target = 4 ∧ (lcState s = 2 → owner))) ∧
      (s.otp.lc.length ≤ 13 ∨ (s.otp.lc.length = 14 ∧ target = 4))
    Secure s tr rq → rq.pciSig = true → rq.vendorId = 0x1FD7 →
    (rq.code = 3 →
      (¬allowed → ∀ w, exec (.lcAdvance tr rq target digest auth w env) s = .next err) ∧
      (allowed → env.wipeOk = true → s.perst = false →
        ∃ t, exec (.lcAdvance tr rq target digest auth true env) s = .next t ∧ t.otp = lcFuses s target.toNat digest ∧
          t.otp.lc = s.otp.lc ++ [(target.toNat, 7 - target.toNat)] ∧ .reply "LC_ADVANCE" 0 [] ∈ t.outbox ∧
          t.resetCause = 4 ∧ t.phase ≠ .run ∧ (target ≠ 3 → testAccess t = false) ∧ t.t3key = none ∧ t.flash = s.flash ∧ fusesOf t = fusesOf s ∧ t.pending = s.pending ∧
          (∀ p : Fin 16, t.ports[p].state = .disabled) ∧ (∀ q : Fin 32, t.queues[q].state = .disabled)) ∧
      (allowed → ∃ t, exec (.lcAdvance tr rq target digest auth false env) s = .next t ∧ t.otp = s.otp ∧ t.t3key = none ∧
        (t.fatal.map fun f => f.cause) = some 9)) ∧
    (rq.code = 5 →
      (lcState s ≠ 3 ∨ ¬fits a ∨ a.jokarek = false → ∀ w, exec (.testUnlock tr rq a w) s = .next err) ∧
      (lcState s = 3 → fits a → a.jokarek = true →
        (∃ t, exec (.testUnlock tr rq a true) s = .next t ∧ t.unlocked = true ∧ testAccess t = true ∧ t.t3key = none ∧
          t.idKey = none ∧ (∀ k : Fin 3, t.sessions[k] = .none) ∧ t.otp = s.otp ∧ t.phase = s.phase ∧ t.queues = s.queues ∧
          t.mem = s.mem ∧ t.flash = s.flash) ∧
        ∃ t, exec (.testUnlock tr rq a false) s = .next t ∧ t.unlocked = s.unlocked ∧ t.otp = s.otp ∧ t.t3key = none ∧
          (t.fatal.map fun f => f.cause) = some 9))

/-! ### Whole-machine rules -/

/-- No command takes back what one-time-programmable memory holds, its fields stay in range, and the physical response of the die
stays (R422, R442 to R444). -/
def Obligations.EveryStepOnlyGrowsTheOtp : Prop :=
  ∀ s t : State, step s = .next t → s.otp.lc.length ≤ 15 → s.otp.tamper ≤ 15 →
    OtpGrows s.otp t.otp ∧ t.otp.lc.length ≤ 15 ∧ t.otp.tamper ≤ 15 ∧ fusesOf t = fusesOf s ∧ t.puf = s.puf

/-- Only JOB_KEY_SET installs a job key, where none is installed, in a lifecycle state that accepts it, inside a session (R438,
R443). The identity of a key is log entry 8. -/
def Obligations.OnlyJobKeySetInstallsAKey : Prop :=
  ∀ (i : Instr) (s t : State) (k : JobKey), exec i s = .next t → t.t3key = some k → s.t3key ≠ some k →
    s.t3key = none ∧ (lcState s = 0 ∨ lcState s = 2) ∧
    ∃ tr rq jobId secret, i = .jobKeySet tr rq jobId secret ∧ InSession s tr rq ∧ rq.pciSig = true ∧ rq.vendorId = 0x1FD7 ∧ rq.code = 1 ∧
      (∀ b, rq.bank = some b → b.ue = false) ∧ k = jobKeyOf jobId secret

/-! ### Formats and the boot choice -/

/-- The four integer formats are two's complement, with the ranges of R48. -/
def Obligations.IntegerFormatsAreTwosComplement : Prop :=
  ∀ p ∈ [(Fmt.int4, 4), (.int8, 8), (.int16, 16), (.int32, 32)], fmtWidth p.1 = p.2 ∧
    (∀ x < 2 ^ p.2, intOfCode p.1 x = (if x < 2 ^ (p.2 - 1) then (x : Int) else (x : Int) - 2 ^ p.2) ∧
      -2 ^ (p.2 - 1) ≤ intOfCode p.1 x ∧ intOfCode p.1 x ≤ 2 ^ (p.2 - 1) - 1) ∧
    (∀ v : Int, -2 ^ (p.2 - 1) ≤ v → v ≤ 2 ^ (p.2 - 1) - 1 → ∃ x < 2 ^ p.2, intOfCode p.1 x = v)

/-- TERNARY and BINARY: their codes, and the conversions to them, which raise neither OVF nor UFL and ignore RND. -/
def Obligations.TernaryAndBinaryClip : Prop :=
  fmtWidth .ternary = 2 ∧ fmtWidth .binary = 1 ∧
  intOfCode .ternary 0 = 0 ∧ intOfCode .ternary 1 = 1 ∧ intOfCode .ternary 3 = -1 ∧ intOfCode .ternary 2 = 0 ∧
  intOfCode .binary 0 = -1 ∧ intOfCode .binary 1 = 1 ∧
  (∀ cb mode ns v, (convertTo .ternary cb mode ns v).1 ≠ 2 ∧ (convertTo .ternary cb mode ns v).1 < 4 ∧
    (convertTo .binary cb mode ns v).1 < 2) ∧
  (∀ cb mode ns (neg : Bool) (x : Mag),
    let y : Int := if neg then -(x.roundAt true 0 .rne : Int) else x.roundAt false 0 .rne
    let t := convertTo .ternary cb mode ns (.fin neg x)
    let b := convertTo .binary cb mode ns (.fin neg x)
    intOfCode .ternary t.1 = max (-1) (min 1 y) ∧ intOfCode .binary b.1 = (if neg then -1 else 1) ∧
      t.2.ovf = false ∧ t.2.ufl = false ∧ b.2.ovf = false ∧ b.2.ufl = false)

/-- At power-up and at the release of PERST#, the boot ROM takes the preferred slot, else the other with FALLBACK, else it holds with ROM_STATUS 0x04; a TRNG that fails, a lid loop
open now or ever before, the state RETIRED and the test-unlock latch hold it before any key is derived, in that order, and an
identity that does not match its certificate holds it too (R425, R427, R430, R431, R441, R448). What a boot finds is given with the command
(log entry 13); that a loop found open stays open is log entry 12. -/
def Obligations.BootTakesTheFirstValidImage : Prop :=
  ∀ (s : State) (env : BootEnv) (row : Instr),
    let pref := if s.flash.preferB then s.flash.b else s.flash.a
    let other := if s.flash.preferB then s.flash.a else s.flash.b
    let status := if env.trngOk = false then 2 else if env.loopOk = false ∨ s.loopOpen = true then 1 else if lcState s = 4 then 5
      else if s.unlocked = true then 6 else 0
    (s.phase = .off ∧ s.pwrEn = false ∧ s.perst = false ∧ s.unlocked = false ∧ row = .pwrEnRise env) ∨
      (s.phase = .held ∧ s.perst = true ∧ row = .perstRelease env) → env.wipeOk = true →
    (status ≠ 0 → ∃ t, exec row s = .next t ∧ t.phase = .romHeld ∧ t.boot.romStatus = status ∧ t.boot.image = none ∧
      t.idKey = none ∧ (status = 1 → t.loopOpen = true)) ∧
    (status = 0 → identityOk s env = false → ∃ t, exec row s = .next t ∧ t.phase = .romHeld ∧ t.boot.romStatus = 3 ∧ t.idKey = none) ∧
    (status = 0 → identityOk s env = true →
    ∃ t, exec row s = .next t ∧
      (∀ m, pref = some m → imageValid s m = true →
        t.boot.image = some m ∧ t.boot.slotB = s.flash.preferB ∧ t.boot.fallback = false) ∧
      ((∀ m, pref = some m → imageValid s m = false) → ∀ m, other = some m → imageValid s m = true →
        t.boot.image = some m ∧ (t.boot.slotB = !s.flash.preferB) ∧ t.boot.fallback = true ∧ bitAt (secBoot t) 1 = true) ∧
      ((∀ m, pref = some m → imageValid s m = false) → (∀ m, other = some m → imageValid s m = false) →
        t.phase = .romHeld ∧ t.boot.romStatus = 4 ∧ t.boot.image = none))
end

