-- ==== Sys2Proof/Laws/Cells.lean ====
section
/-! SUPPORT. Laws of the canonical cell list: what a write leaves, what a read gives, and that the form is kept. -/
namespace Sys2Proof.Machine

variable {α : Type} [DecidableEq α] (d : Nat → α)

theorem cellsWf_cons {k : Nat} {v : α} {r : List (Nat × α)} :
    cellsWf d ((k, v) :: r) = true ↔ v ≠ d k ∧ (∀ c ∈ r, k < c.1) ∧ cellsWf d r = true := by
  simp [cellsWf, and_assoc]

/-- Every key of a written list is the key written or a key of the list. -/
theorem putCell_keys {k : Nat} {v : α} {l : List (Nat × α)} {c : Nat × α} (h : c ∈ putCell d k v l) :
    c.1 = k ∨ c ∈ l := by
  induction l with
  | nil => unfold putCell at h; split at h <;> simp_all
  | cons a r ih =>
    obtain ⟨k', v'⟩ := a
    unfold putCell at h
    split at h
    · split at h <;> simp_all
      rcases h with h | h | h <;> simp_all
    · split at h
      · split at h
        · simp_all
        · simp at h
          rcases h with h | h <;> simp_all
      · simp at h
        rcases h with h | h
        · simp_all
        · rcases ih h with h | h <;> simp_all

/-- A write keeps the canonical form. -/
theorem putCell_wf (k : Nat) (v : α) (l : List (Nat × α)) (h : cellsWf d l = true) : cellsWf d (putCell d k v l) = true := by
  induction l with
  | nil => unfold putCell; split <;> simp_all [cellsWf]
  | cons a r ih =>
    obtain ⟨k', v'⟩ := a
    obtain ⟨h1, h2, h3⟩ := (cellsWf_cons d).1 h
    unfold putCell
    split
    · rename_i hk
      split
      · exact h
      · rename_i hv
        refine (cellsWf_cons d).2 ⟨hv, ?_, h⟩
        intro c hc
        rcases List.mem_cons.1 hc with rfl | hc
        · exact hk
        · exact hk.trans (h2 c hc)
    · split
      · rename_i hk
        subst hk
        split
        · exact h3
        · rename_i hv
          exact (cellsWf_cons d).2 ⟨hv, h2, h3⟩
      · rename_i hn he
        refine (cellsWf_cons d).2 ⟨h1, ?_, ih h3⟩
        intro c hc
        rcases putCell_keys d hc with hc | hc
        · omega
        · exact h2 c hc

omit [DecidableEq α] in
/-- A key below every key of the list is unlisted. -/
theorem getCell_below {k : Nat} {l : List (Nat × α)} (h : ∀ c ∈ l, k < c.1) : getCell d k l = d k := by
  induction l with
  | nil => rfl
  | cons a r ih =>
    obtain ⟨k', v'⟩ := a
    have h1 := h (k', v') (by simp)
    unfold getCell
    rw [if_neg (by simp at h1; omega)]
    exact ih fun c hc => h c (by simp [hc])

/-- A read of the key written gives the value written. -/
theorem getCell_putCell_same (k : Nat) (v : α) (l : List (Nat × α)) (h : cellsWf d l = true) :
    getCell d k (putCell d k v l) = v := by
  induction l with
  | nil => unfold putCell; split <;> simp_all [getCell]
  | cons a r ih =>
    obtain ⟨k', v'⟩ := a
    obtain ⟨h1, h2, h3⟩ := (cellsWf_cons d).1 h
    unfold putCell
    split
    · rename_i hk
      split
      · rename_i hv
        rw [getCell_below d, hv]
        intro c hc
        rcases List.mem_cons.1 hc with rfl | hc
        · exact hk
        · exact hk.trans (h2 c hc)
      · simp [getCell]
    · split
      · rename_i hk
        subst hk
        split
        · rename_i hv
          rw [getCell_below d h2, hv]
        · simp [getCell]
      · rename_i hn he
        simp only [getCell, if_neg he]
        exact ih h3

/-- A read of any other key gives what it gave before. -/
theorem getCell_putCell_other {k j : Nat} (v : α) (l : List (Nat × α)) (hj : j ≠ k) (h : cellsWf d l = true) :
    getCell d j (putCell d k v l) = getCell d j l := by
  induction l with
  | nil => unfold putCell; split <;> simp_all [getCell]
  | cons a r ih =>
    obtain ⟨k', v'⟩ := a
    obtain ⟨h1, h2, h3⟩ := (cellsWf_cons d).1 h
    unfold putCell
    split
    · split
      · rfl
      · simp [getCell, hj]
    · split
      · rename_i hk
        subst hk
        split <;> simp [getCell, hj]
      · simp only [getCell]
        split
        · rfl
        · exact ih h3

/-- The entries above a bound keep the form. -/
theorem cellsWf_filter (p : Nat × α → Bool) (l : List (Nat × α)) (h : cellsWf d l = true) : cellsWf d (l.filter p) = true := by
  induction l with
  | nil => rfl
  | cons a r ih =>
    obtain ⟨k', v'⟩ := a
    obtain ⟨h1, h2, h3⟩ := (cellsWf_cons d).1 h
    simp only [List.filter]
    split
    · exact (cellsWf_cons d).2 ⟨h1, fun c hc => h2 c (List.mem_of_mem_filter hc), ih h3⟩
    · exact ih h3

end Sys2Proof.Machine
end

