-- ==== Sys2Proof/Laws/Memory.lean ====
section
/-! SUPPORT. Laws of memory: what a write can change, that it keeps the canonical form, and what a byte reads as after it. -/
namespace Sys2Proof.Machine

/-! ### What an operation can change -/

/-- The tag of a unit changes the list of T3 units alone. -/
theorem t3Stamp_form (s : State) (u : Nat) (b : Bool) : ∃ t, t3Stamp s u b = { s with t3 := t } := by
  unfold t3Stamp
  split
  · exact ⟨s.t3, rfl⟩
  · exact ⟨_, rfl⟩

/-- Poisoning a line changes its mark or the tag of its unit. -/
theorem poisonLine_form (s : State) (l : Nat) : ∃ p t, poisonLine s l = { s with poison := p, t3 := t } := by
  unfold poisonLine
  split
  · exact ⟨s.poison, s.t3, rfl⟩
  · split
    · obtain ⟨t, h⟩ := t3Stamp_form s (tierOffset (64 * l) / 256) true
      exact ⟨s.poison, t, h⟩
    · exact ⟨_, s.t3, rfl⟩

theorem t3Tag_form (a n : Nat) (s : State) (b : Nat) : ∃ t, t3Tag a n s b = { s with t3 := t } := by
  simp only [t3Tag]
  split
  · exact t3Stamp_form _ _ _
  · exact ⟨s.t3, rfl⟩

theorem t3Tags_form (s : State) (a n : Nat) : ∃ t, t3Tags s a n = { s with t3 := t } := by
  unfold t3Tags
  generalize blocksOf a n = bs
  induction bs generalizing s with
  | nil => exact ⟨s.t3, rfl⟩
  | cons b bs ih =>
    obtain ⟨t, ht⟩ := t3Tag_form a n s b
    obtain ⟨t', ht'⟩ := ih { s with t3 := t }
    exact ⟨t', by rw [List.foldl_cons, ht, ht']⟩

/-- A byte written leaves everything but memory, and memory in canonical form. -/
theorem wrByte_form (s : State) (a : Nat) (b : Byte) :
    ∃ m, wrByte s a b = { s with mem := m } ∧ (Memory.wf s.mem = true → Memory.wf m = true) := by
  unfold wrByte
  split
  · exact ⟨_, rfl, putCell_wf memDefault _ _ _⟩
  · exact ⟨s.mem, rfl, id⟩

theorem wrBytes_form (s : State) (a : Nat) (bs : List Byte) :
    ∃ m, wrBytes s a bs = { s with mem := m } ∧ (Memory.wf s.mem = true → Memory.wf m = true) := by
  induction bs generalizing s a with
  | nil => exact ⟨s.mem, rfl, id⟩
  | cons b bs ih =>
    obtain ⟨m, hm, hw⟩ := wrByte_form s (a % 2 ^ 64) b
    obtain ⟨m', hm', hw'⟩ := ih (wrByte s (a % 2 ^ 64) b) (a + 1)
    refine ⟨m', ?_, ?_⟩
    · simp only [wrBytes]; rw [hm', hm]
    · intro h
      apply hw'
      rw [hm]
      exact hw h

/-- A write changes memory, the marks of poisoned lines and the tags of T3 units, and keeps the canonical form. -/
theorem wr_form (s : State) (a : Nat) (bs : List Byte) :
    ∃ m p t, wr s a bs = { s with mem := m, poison := p, t3 := t } ∧ (Memory.wf s.mem = true → Memory.wf m = true) := by
  unfold wr
  split
  · exact ⟨s.mem, s.poison, s.t3, rfl, id⟩
  · obtain ⟨t, ht⟩ := t3Tags_form s a bs.length
    rw [ht]
    obtain ⟨m, hm, hw⟩ := wrBytes_form (cleanLines { s with t3 := t } a bs.length) a bs
    exact ⟨m, _, t, hm, hw⟩

theorem wrPoison_form (s : State) (a n : Nat) : ∃ p t, wrPoison s a n = { s with poison := p, t3 := t } := by
  unfold wrPoison
  generalize linesOf a n = ls
  induction ls generalizing s with
  | nil => exact ⟨s.poison, s.t3, rfl⟩
  | cons l ls ih =>
    obtain ⟨p, t, h⟩ := poisonLine_form s l
    obtain ⟨p', t', h'⟩ := ih (poisonLine s l)
    exact ⟨p', t', by simp only [List.foldl_cons]; rw [h', h]⟩

/-- A held write changes memory, poison marks, unit tags and the counter of free values. -/
theorem applyWrite_form (w : Nat × Nat) (s : State) (x : MemWrite) :
    ∃ m p t k, applyWrite w s x = { s with mem := m, poison := p, t3 := t, fresh := k } ∧
      (Memory.wf s.mem = true → Memory.wf m = true) := by
  unfold applyWrite
  split
  · exact ⟨s.mem, s.poison, s.t3, s.fresh, rfl, id⟩
  split
  · obtain ⟨m, p, t, h, hw⟩ := wr_form s x.addr x.bytes
    exact ⟨m, p, t, s.fresh, h, hw⟩
  · obtain ⟨p, t, h⟩ := wrPoison_form s x.addr x.bytes.length
    exact ⟨s.mem, p, t, s.fresh, h, id⟩
  · obtain ⟨m, p, t, h, hw⟩ := wr_form (freshen s) x.addr ((List.range x.bytes.length).map fun i => Config.freeByte s.fresh (x.addr + i))
    exact ⟨m, p, t, s.fresh + 1, h, hw⟩

theorem applyWrites_form (w : Nat × Nat) (s : State) (ws : List MemWrite) :
    ∃ m p t k, applyWrites w s ws = { s with mem := m, poison := p, t3 := t, fresh := k } ∧
      (Memory.wf s.mem = true → Memory.wf m = true) := by
  unfold applyWrites
  induction ws generalizing s with
  | nil => exact ⟨s.mem, s.poison, s.t3, s.fresh, rfl, id⟩
  | cons x ws ih =>
    obtain ⟨m, p, t, k, h, hw⟩ := applyWrite_form w s x
    obtain ⟨m', p', t', k', h', hw'⟩ := ih (applyWrite w s x)
    refine ⟨m', p', t', k', ?_, ?_⟩
    · simp only [List.foldl_cons]; rw [h', h]
    · intro hs
      apply hw'
      rw [h]
      exact hw hs

/-! ### What a byte reads as -/

/-- A byte written reads back (R11). -/
theorem rdByte_wrByte_same (s : State) (a : Nat) (b : Byte) (h : Memory.wf s.mem = true) (hb : backed s a = true) :
    rdByte (wrByte s a b) a = b := by
  have hm : wrByte s a b = { s with mem := putCell memDefault (memKey s a) b s.mem } := by simp [wrByte, hb]
  have hb' : backed { s with mem := putCell memDefault (memKey s a) b s.mem } a = true := hb
  have hk : memKey { s with mem := putCell memDefault (memKey s a) b s.mem } a = memKey s a := rfl
  rw [hm, rdByte, hk, hb']
  exact getCell_putCell_same memDefault _ _ _ h

/-- A byte with another key reads as before. -/
theorem rdByte_wrByte_other (s : State) (a c : Nat) (b : Byte) (h : Memory.wf s.mem = true) (hk : memKey s c ≠ memKey s a) :
    rdByte (wrByte s a b) c = rdByte s c := by
  unfold wrByte
  split
  · have hb' : backed { s with mem := putCell memDefault (memKey s a) b s.mem } c = backed s c := rfl
    have hk' : memKey { s with mem := putCell memDefault (memKey s a) b s.mem } c = memKey s c := rfl
    simp only [rdByte, hb', hk']
    rw [getCell_putCell_other memDefault b s.mem hk h]
  · rfl

/-- An unbacked byte reads as zero (R233). -/
theorem rdByte_unbacked (s : State) (a : Nat) (h : backed s a = false) : rdByte s a = 0 := by simp [rdByte, h]

/-- Backed addresses do not share a key (R232, R236). -/
theorem memKey_inj (s : State) {a c : Nat} (ha : backed s a = true) (hc : backed s c = true) (h : memKey s a = memKey s c) :
    a = c := by
  have low : ∀ x, backed s x = true → regionOf x ≠ .t3 → x < 2 ^ 64 := by
    intro x hx _
    by_contra hge
    have hu : regionOf x = .unmapped := by
      unfold regionOf t2Start t3Start coreStart hostStart
      split_ifs
      all_goals first | rfl | omega
    simp [backed, hu] at hx
  have t3lt : ∀ x, regionOf x = .t3 → t3Start ≤ x ∧ x < t3Start + 2 ^ 46 := by
    intro x hx
    unfold regionOf at hx
    unfold t2Start t3Start coreStart hostStart at *
    split_ifs at hx <;> omega
  unfold memKey t3Fab at h
  split at h <;> split at h
  · rename_i h1 h2
    have := t3lt a h1
    have := t3lt c h2
    omega
  · rename_i h1 h2
    have := low c hc h2
    omega
  · rename_i h1 h2
    have := low a ha h1
    omega
  · exact h

/-- A byte written leaves what every other address reads as. -/
theorem rdByte_wrByte_ne (s : State) (a c : Nat) (b : Byte) (h : Memory.wf s.mem = true) (hc : c ≠ a) :
    rdByte (wrByte s a b) c = rdByte s c := by
  by_cases hb : backed s a = true
  · by_cases hcb : backed s c = true
    · exact rdByte_wrByte_other s a c b h fun e => hc (memKey_inj s hcb hb e)
    · have hcb : backed s c = false := by simpa using hcb
      rw [rdByte_unbacked s c hcb, rdByte_unbacked]
      obtain ⟨m, hm, _⟩ := wrByte_form s a b
      rw [hm]
      exact hcb
  · simp [wrByte, hb]

theorem rdByte_wrBytes_out (s : State) (a c : Nat) (bs : List Byte) (h : Memory.wf s.mem = true)
    (hc : ∀ k < bs.length, c ≠ (a + k) % 2 ^ 64) : rdByte (wrBytes s a bs) c = rdByte s c := by
  induction bs generalizing s a with
  | nil => rfl
  | cons b bs ih =>
    obtain ⟨m, hm, hw⟩ := wrByte_form s (a % 2 ^ 64) b
    have h' : Memory.wf (wrByte s (a % 2 ^ 64) b).mem = true := by rw [hm]; exact hw h
    rw [wrBytes, ih _ _ h' ?_, rdByte_wrByte_ne _ _ _ _ h]
    · exact hc 0 (by simp)
    · intro k hk
      have := hc (k + 1) (by simpa using hk)
      rwa [show a + 1 + k = a + (k + 1) by omega]

theorem rdByte_wrBytes_in (s : State) (a k : Nat) (bs : List Byte) (h : Memory.wf s.mem = true) (hk : k < bs.length)
    (hl : bs.length ≤ 2 ^ 64) (hb : backed s ((a + k) % 2 ^ 64) = true) :
    rdByte (wrBytes s a bs) ((a + k) % 2 ^ 64) = bs[k] := by
  induction bs generalizing s a k with
  | nil => simp at hk
  | cons b bs ih =>
    obtain ⟨m, hm, hw⟩ := wrByte_form s (a % 2 ^ 64) b
    have h' : Memory.wf (wrByte s (a % 2 ^ 64) b).mem = true := by rw [hm]; exact hw h
    rw [wrBytes]
    cases k with
    | zero =>
      rw [rdByte_wrBytes_out _ _ _ _ h']
      · exact rdByte_wrByte_same s (a % 2 ^ 64) b h hb
      · intro j hj
        simp at hl
        omega
    | succ k =>
      have hb' : backed (wrByte s (a % 2 ^ 64) b) ((a + 1 + k) % 2 ^ 64) = true := by
        rw [hm, show a + 1 + k = a + (k + 1) by omega]
        exact hb
      have := ih (wrByte s (a % 2 ^ 64) b) (a + 1) k h' (by simpa using hk) (by simp at hl; omega) hb'
      rw [show a + 1 + k = a + (k + 1) by omega] at this
      simpa using this

/-- Bytes outside a write are as before. -/
theorem rdByte_wr_out (s : State) (a c : Nat) (bs : List Byte) (h : Memory.wf s.mem = true)
    (hc : ∀ k < bs.length, c ≠ (a + k) % 2 ^ 64) : rdByte (wr s a bs) c = rdByte s c := by
  unfold wr
  split
  · rfl
  · obtain ⟨t, ht⟩ := t3Tags_form s a bs.length
    rw [rdByte_wrBytes_out _ _ _ _ (by rw [ht]; exact h) hc, ht]
    rfl

/-- What is written reads back, where it is backed (R11, R233). -/
theorem rd_wr (s : State) (a : Nat) (bs : List Byte) (h : Memory.wf s.mem = true) (hf : s.fatal = none) (hl : bs.length ≤ 2 ^ 64)
    (hb : ∀ k < bs.length, backed s ((a + k) % 2 ^ 64) = true) : rd (wr s a bs) a bs.length = bs := by
  unfold wr
  split
  · rename_i h1
    have : bs = [] := by simpa [hf] using h1
    subst this
    rfl
  · obtain ⟨t, ht⟩ := t3Tags_form s a bs.length
    apply List.ext_getElem
    · simp [rd]
    · intro k h1 h2
      simp only [rd, List.getElem_map, List.getElem_range]
      rw [rdByte_wrBytes_in _ _ _ _ (by rw [ht]; exact h) h2 hl (by rw [ht]; exact hb k h2)]

/-! ### The register file -/

/-- A register written reads back. -/
theorem regGet_regPut_same (s : State) (off : Nat) (v : BitVec 64) (h : cellsWf regReset s.regs = true) :
    regGet (regPut s off v) off = v := getCell_putCell_same regReset _ _ _ h

/-- Another register reads as before. -/
theorem regGet_regPut_other (s : State) (off o : Nat) (v : BitVec 64) (h : cellsWf regReset s.regs = true) (ho : o ≠ off) :
    regGet (regPut s off v) o = regGet s o := getCell_putCell_other regReset v s.regs ho h

/-! ### Orders that are left open -/

theorem shuffle_perm {α : Type} (pick : Nat → Nat) : ∀ (n : Nat) (l : List α), l.length = n → (shuffle pick n l).Perm l
  | 0, l, h => by rw [List.eq_nil_of_length_eq_zero h]; exact List.Perm.nil
  | n + 1, l, h => by
    have hk : pick n % (n + 1) < l.length := by rw [h]; exact Nat.mod_lt _ (Nat.succ_pos n)
    rw [shuffle, List.drop_eq_getElem_cons hk]
    have hl : (l.take (pick n % (n + 1)) ++ l.drop (pick n % (n + 1) + 1)).length = n := by
      rw [List.length_append, List.length_take, List.length_drop]; omega
    refine ((shuffle_perm pick n _ hl).cons _).trans ?_
    refine List.perm_middle.symm.trans ?_
    rw [← List.drop_eq_getElem_cons hk, List.take_append_drop]

/-- Nothing is lost or doubled in an order that is left open. -/
theorem freeOrder_perm {α : Type} (fresh : Nat) (l : List α) : (freeOrder fresh l).Perm l := shuffle_perm _ _ l rfl

end Sys2Proof.Machine
end

