-- ==== Sys2Proof/Laws/Aside.lean ====
section
/-! SUPPORT. The operations that leave only what observers are left (`Aside`): flags, traces, counter banks, event records and
the checks of lines. The lemma of an operation is named after it, with `_aside`. -/
namespace Sys2Proof.Safety

open Sys2Proof.Machine

theorem noted_t3 : noted offT3Base = false ∧ noted offT3Size = false := by decide

/-- Equal memory and equal registers read alike. -/
theorem bytes_of {s t : State} (hm : t.mem = s.mem) (hr : ∀ off, noted off = false → regGet t off = regGet s off) (a : Nat) :
    rdByte t a = rdByte s a := by
  simp only [rdByte, backed, memKey, t3Fab, t3Limit, regBit, regField, hr _ noted_t3.1, hr _ noted_t3.2, hm]
  rfl

/-- What observers are left, given without its last clause. -/
theorem Aside.of {s t : State}
    (form : t = { s with cores := t.cores, fresh := t.fresh, regs := t.regs, poison := t.poison, t3 := t.t3,
                         events := t.events, evWait := t.evWait, evLost := t.evLost, ueAddr := t.ueAddr })
    (twine : ∀ c : Fin 16, t.cores[c].twine = s.cores[c].twine) (events : s.events <+: t.events)
    (canon : cellsWf regReset s.regs = true → cellsWf regReset t.regs = true)
    (regs : cellsWf regReset s.regs = true → ∀ off, noted off = false → regGet t off = regGet s off) : Aside s t :=
  ⟨form, twine, events, canon, regs, fun h a => bytes_of (by rw [form]) (regs h) a⟩

theorem Aside.refl (s : State) : Aside s s := Aside.of rfl (fun _ => rfl) (List.prefix_refl _) id fun _ _ _ => rfl

/-- What leaves only records aside keeps the canonical form. -/
theorem Aside.canonical {s t : State} (h : Aside s t) (x : Canonical s) : Canonical t :=
  ⟨by rw [h.form]; exact x.1, h.canon x.2⟩

theorem noted_trig : ∀ c : Fin 16, noted (offTrig c) = true := by decide
theorem noted_tdrop : ∀ c : Fin 16, noted (offTdrop c) = true := by decide

theorem Aside.trans {s t u : State} (h : Aside s t) (k : Aside t u) : Aside s u :=
  Aside.of (by rw [k.form, h.form]) (fun c => (k.twine c).trans (h.twine c)) (h.events.trans k.events) (fun x => k.canon (h.canon x))
    fun x off ho => (k.regs (h.canon x) off ho).trans (h.regs x off ho)

theorem Aside.ite {s t u : State} {c : Prop} [Decidable c] (ht : Aside s t) (hu : Aside s u) : Aside s (if c then t else u) := by
  split
  · exact ht
  · exact hu

theorem Aside.foldl {β : Type} {f : State → β → State} (hf : ∀ s b, Aside s (f s b)) (l : List β) (s : State) :
    Aside s (l.foldl f s) := by
  induction l generalizing s with
  | nil => exact Aside.refl s
  | cons b l ih => exact (hf s b).trans (ih _)

/-- The same over a fold that carries more than the state. -/
theorem Aside.foldlBy {α β : Type} (g : α → State) {f : α → β → α} (hf : ∀ x b, Aside (g x) (g (f x b))) (l : List β) (x : α) :
    Aside (g x) (g (l.foldl f x)) := by
  induction l generalizing x with
  | nil => exact Aside.refl _
  | cons b l ih => exact (hf x b).trans (ih _)

end Sys2Proof.Safety

namespace Sys2Proof.Machine

open Sys2Proof.Safety

/-- A change of traces, records and marks alone. -/
theorem marks_aside {s : State} (k : Vector Core 16) (n : Nat) (e w : List EvRec) (l : Nat) (p : List Nat) (t : List T3Unit) (u : BitVec 64)
    (hk : ∀ c : Fin 16, k[c].twine = s.cores[c].twine) (he : s.events <+: e) :
    Aside s { s with cores := k, fresh := n, events := e, evWait := w, evLost := l, poison := p, t3 := t, ueAddr := u } :=
  Aside.of rfl hk he id fun _ _ _ => rfl

theorem regPut_aside (s : State) (off : Nat) (v : BitVec 64) (ho : noted off = true) : Aside s (regPut s off v) :=
  Aside.of rfl (fun _ => rfl) (List.prefix_refl _) (putCell_wf regReset off v s.regs) fun x o h =>
    regGet_regPut_other s off o v x fun e => by simp [e, ho] at h

/-- What checks have left, put on the state that they started from. -/
theorem leaveNotes_eq {s t : State} (h : Aside s t) : leaveNotes s t = t := h.form.symm

theorem regPutField_aside (s : State) (off lo w v : Nat) (ho : noted off = true) : Aside s (regPutField s off lo w v) :=
  regPut_aside s off _ ho

theorem cntInc_aside (s : State) (off lo w : Nat) (ho : noted off = true) : Aside s (cntInc s off lo w) :=
  regPutField_aside s off lo w _ ho

theorem setFlag_aside (s : State) (off bit cnt : Nat) (ho : noted off = true) : Aside s (setFlag s off bit cnt) :=
  (regPutField_aside s off bit 1 1 ho).trans (cntInc_aside _ off cnt 16 ho)

theorem setFlagOnly_aside (s : State) (off bit : Nat) (ho : noted off = true) : Aside s (setFlagOnly s off bit) :=
  regPutField_aside s off bit 1 1 ho

theorem freshen_aside (s : State) : Aside s (freshen s) :=
  marks_aside s.cores (s.fresh + 1) s.events s.evWait s.evLost s.poison s.t3 s.ueAddr (fun _ => rfl) (List.prefix_refl _)

theorem poisonLine_aside (s : State) (l : Nat) : Aside s (poisonLine s l) := by
  obtain ⟨p, t, h⟩ := poisonLine_form s l
  rw [h]
  exact marks_aside s.cores s.fresh s.events s.evWait s.evLost p t s.ueAddr (fun _ => rfl) (List.prefix_refl _)

/-! ### Traces and counter banks -/

theorem updCore_aside (s : State) (c : Fin 16) (f : Core → Core) (hf : ∀ k, (f k).twine = k.twine) : Aside s (updCore s c f) := by
  refine marks_aside (s.cores.set c (f s.cores[c])) s.fresh s.events s.evWait s.evLost s.poison s.t3 s.ueAddr ?_ (List.prefix_refl _)
  intro d
  by_cases h : c.val = d.val
  · have : c = d := Fin.ext h
    subst this
    simp [hf]
  · simp [h]

theorem updTrace_aside (s : State) (c : Fin 16) (f : Trace → Trace) : Aside s (updTrace s c f) := updCore_aside s c _ fun _ => rfl

theorem fresh_aside (s : State) (n : Nat) : Aside s { s with fresh := n } :=
  marks_aside s.cores n s.events s.evWait s.evLost s.poison s.t3 s.ueAddr (fun _ => rfl) (List.prefix_refl _)

theorem countEv_aside (s : State) (c : Fin 16) (code n : Nat) : Aside s (countEv s c code n) := updCore_aside s c _ fun _ => rfl

theorem placeTrace_aside (s : State) (c : Fin 16) (bytes : List Byte) : Aside s (placeTrace s c bytes).1 := by
  unfold placeTrace
  simp only
  split
  · exact freshen_aside s
  · split
    · exact freshen_aside s
    · exact ((freshen_aside s).trans (updTrace_aside _ _ _)).trans (countEv_aside _ _ _ _)

theorem dropTrace_aside (s : State) (c : Fin 16) : Aside s (dropTrace s c) :=
  (((setFlagOnly_aside s _ _ (noted_tdrop c)).trans (cntInc_aside _ _ _ _ (noted_tdrop c))).trans (updTrace_aside _ _ _)).trans
    (countEv_aside _ _ _ _)

theorem countPost_aside (s : State) (c : Fin 16) : Aside s (countPost s c) := updTrace_aside _ _ _

theorem fireTrigger_aside (s : State) (c : Fin 16) (info : Nat) : Aside s (fireTrigger s c info) := by
  unfold fireTrigger
  refine Aside.ite (Aside.refl s) ?_
  have hr : Aside s (regPutField s (offTrig c) 55 1 0) := regPutField_aside s _ _ _ _ (noted_trig c)
  have hx : ∀ x : State × Bool, Aside s x.1 → Aside s (if x.2 then countPost x.1 c else dropTrace x.1 c) := fun x hx =>
    Aside.ite (hx.trans (countPost_aside _ _)) (hx.trans (dropTrace_aside _ _))
  refine (hx _ ?_).trans (updTrace_aside _ _ _)
  split
  · exact hr.trans (placeTrace_aside _ _ _)
  · exact hr

theorem matchFire_aside (s : State) (c : Fin 16) (kind : Nat) (w : Who) : Aside s (matchFire s c kind w).1 := by
  unfold matchFire
  split
  · exact fireTrigger_aside s c 1
  · exact Aside.refl s

theorem putTrace_aside (s : State) (c : Fin 16) (kind unit index info : Nat) (w : Who) (data : Nat) :
    Aside s (putTrace s c kind unit index info w data).1 := by
  have h := placeTrace_aside s c (traceBytes s c kind unit index info w data)
  unfold putTrace
  simp only
  refine h.trans ?_
  split
  · exact (countPost_aside _ _).trans (matchFire_aside _ _ _ _)
  · exact (matchFire_aside _ _ _ _).trans (dropTrace_aside _ _)

theorem putDrops_aside (s : State) (c : Fin 16) : Aside s (putDrops s c).1 := by
  have h := placeTrace_aside s c (traceBytes s c 0x1A 0 0 0 Who.none s.cores[c].trace.dropped)
  unfold putDrops
  simp only
  split
  · exact Aside.refl s
  · refine h.trans ?_
    split
    · exact ((updTrace_aside _ _ _).trans (countPost_aside _ _)).trans (matchFire_aside _ _ _ _)
    · exact Aside.refl _

theorem produce_aside (s : State) (c : Fin 16) (kind unit index info : Nat) (w : Who) (data : Nat) :
    Aside s (produce s c kind unit index info w data).1 := by
  unfold produce
  simp only
  split
  · exact Aside.refl s
  · refine (putDrops_aside s c).trans ?_
    split
    · exact Aside.refl _
    · split
      · exact (matchFire_aside _ _ _ _).trans (dropTrace_aside _ _)
      · exact putTrace_aside _ _ _ _ _ _ _ _

theorem broadcast_aside (x : State × Bool) : Aside x.1 (broadcast x) :=
  Aside.ite (Aside.foldl (fun t c => fireTrigger_aside t c 5) _ _) (Aside.refl _)

theorem triggerAll_aside (s : State) (bit info : Nat) : Aside s (triggerAll s bit info) := by
  refine Aside.trans (Aside.foldlBy Prod.fst (fun (x : State × Bool) (c : Fin 16) => ?_) (List.finRange 16) (s, false)) (broadcast_aside _)
  split
  · exact fireTrigger_aside _ _ _
  · exact Aside.refl _

theorem triggerSw_aside (s : State) (c : Fin 16) : Aside s (triggerSw s c) :=
  (fireTrigger_aside s c 4).trans
    (broadcast_aside (fireTrigger s c 4, regBit s (offTrig c) 55 && !s.cores[c].trace.frozen))

theorem traceRec_aside (s : State) (c : Fin 16) (kind unit index info : Nat) (w : Who) (data : Nat) :
    Aside s (traceRec s c kind unit index info w data) :=
  (produce_aside s c _ _ _ _ _ _).trans (broadcast_aside _)

theorem traceEach_aside (s : State) (kind unit info : Nat) (w : Who) (data : Fin 16 → Option Nat) :
    Aside s (traceEach s kind unit info w data) := by
  refine Aside.trans (Aside.foldlBy Prod.fst (fun (x : State × Bool) (c : Fin 16) => ?_) (List.finRange 16) (s, false)) (broadcast_aside _)
  split
  · exact produce_aside _ _ _ _ _ _ _ _
  · exact Aside.refl _

theorem traceAll_aside (s : State) (kind unit info : Nat) (w : Who) (data : Nat) : Aside s (traceAll s kind unit info w data) :=
  traceEach_aside s _ _ _ _ _

theorem traceCores_aside (s : State) (mask kind unit info : Nat) (w : Who) (data : Nat) :
    Aside s (traceCores s mask kind unit info w data) :=
  traceEach_aside s _ _ _ _ _

theorem swapBank_aside (s : State) (c : Fin 16) (w : Who) (kind : Nat) : Aside s (swapBank s c w kind) := by
  unfold swapBank
  refine Aside.trans ?_ (Aside.foldl (fun t i => traceRec_aside t c _ _ _ _ _ _) _ _)
  exact (freshen_aside s).trans (updCore_aside _ _ _ fun _ => rfl)

theorem coreBegin_aside (s : State) (mask : Nat) (w : Who) (kind : Nat) : Aside s (coreBegin s mask w kind) := by
  unfold coreBegin
  refine Aside.ite (Aside.refl s) ((fresh_aside s (s.fresh + 2)).trans (Aside.foldl (fun t (c : Fin 16) => ?_) _ _))
  exact Aside.ite (Aside.ite ((swapBank_aside t c w kind).trans (traceRec_aside _ _ _ _ _ _ _ _)) (traceRec_aside _ _ _ _ _ _ _ _))
    (Aside.refl t)

theorem shareEnds_aside (s : State) (mask : Nat) (w : Who) : Aside s (shareEnds s mask w) := by
  refine marks_aside _ s.fresh s.events s.evWait s.evLost s.poison s.t3 s.ueAddr ?_ (List.prefix_refl _)
  intro c
  simp only [Fin.getElem_fin, Vector.getElem_ofFn]
  split <;> rfl

theorem coreEnd_aside (s : State) (mask : Nat) (w : Who) (status : Nat) : Aside s (coreEnd s mask w status) := by
  unfold coreEnd
  exact Aside.ite (Aside.refl s) (((shareEnds_aside s mask w).trans (fresh_aside _ _)).trans (traceEach_aside _ _ _ _ _ _))

/-- Events of a command on the cores of a mask leave the counts of their banks. -/
theorem countShared_aside (s : State) (mask code n : Nat) : Aside s (countShared s mask code n) := by
  unfold countShared
  exact Aside.ite (Aside.refl s) ((freshen_aside s).trans
    (Aside.foldl (fun t (c : Fin 16) => Aside.ite (countEv_aside t c _ _) (Aside.refl t)) _ _))

/-! ### Event records and line checks -/

theorem evPush_aside (s : State) (q : Nat) (bytes : List Byte) : Aside s (evPush s q bytes) := by
  have h : ∀ e w l, s.events <+: e → Aside s { s with events := e, evWait := w, evLost := l } := fun e w l he =>
    marks_aside s.cores s.fresh e w l s.poison s.t3 s.ueAddr (fun _ => rfl) he
  unfold evPush
  exact Aside.ite (Aside.ite (h s.events s.evWait _ (List.prefix_refl _)) (h _ s.evWait s.evLost (List.prefix_append _ _)))
    (Aside.ite (h s.events _ s.evLost (List.prefix_refl _)) (h _ s.evWait s.evLost (List.prefix_append _ _)))

theorem errEvent_aside (s : State) (w : Who) (cause cls unit index count addr : Nat) :
    Aside s (errEvent s w cause cls unit index count addr) := by
  unfold errEvent
  refine ((evPush_aside s _ _).trans (Aside.ite (setFlag_aside _ _ _ _ (by decide)) ?_)).trans (triggerAll_aside _ _ _)
  exact Aside.ite (setFlagOnly_aside _ _ _ (by decide)) (Aside.refl _)

theorem queueEvent_aside (s : State) (cause : Nat) (w : Who) : Aside s (queueEvent s cause w) := evPush_aside _ _ _

theorem gaugeEvent_aside (s : State) (cause old new : Nat) : Aside s (gaugeEvent s cause old new) :=
  (traceAll_aside s _ _ _ _ _).trans (evPush_aside _ _ _)

theorem haltEvent_aside (s : State) (cause mask id origin hops : Nat) : Aside s (haltEvent s cause mask id origin hops) :=
  evPush_aside _ _ _

theorem clockEvent_aside (s : State) (cause old new : Nat) : Aside s (clockEvent s cause old new) := evPush_aside _ _ _

theorem lastSrc_aside (s : State) (c : Nat) : Aside s (lastSrc s c) := regPutField_aside _ _ _ _ _ (by decide)

theorem eccCorrected_aside (s : State) (a : Nat) : Aside s (eccCorrected s a) :=
  (setFlag_aside s _ _ _ (by decide)).trans (lastSrc_aside _ _)

theorem eccRecord_aside (s : State) (w : Who) (a : Nat) : Aside s (eccRecord s w a) := by
  have h1 : Aside s { s with ueAddr := BitVec.ofNat 64 (ueImage a) } :=
    marks_aside s.cores s.fresh s.events s.evWait s.evLost s.poison s.t3 _ (fun _ => rfl) (List.prefix_refl _)
  exact h1.trans (errEvent_aside _ _ _ _ _ _ _ _)

theorem eccUncorrected_aside (s : State) (w : Who) (a : Nat) : Aside s (eccUncorrected s w a) :=
  (((setFlag_aside s _ _ _ (by decide)).trans (lastSrc_aside _ _)).trans (poisonLine_aside _ _)).trans (eccRecord_aside _ _ _)

theorem eccHostPoison_aside (s : State) (w : Who) (a : Nat) : Aside s (eccHostPoison s w a) :=
  ((setFlag_aside s _ _ _ (by decide)).trans (lastSrc_aside _ _)).trans (eccRecord_aside _ _ _)

theorem eccFound_aside (s : State) (a : Nat) : Aside s (eccFound s a) := by
  unfold eccFound
  split
  · exact eccCorrected_aside s a
  · exact eccCorrected_aside s a
  · exact (eccCorrected_aside s a).trans (countEv_aside _ _ _ _)
  · exact Aside.refl s

theorem Chk.readLine_aside (w : Who) (c : Chk) (l : Nat) : Aside c.s (Chk.readLine w c l).s := by
  unfold Chk.readLine
  simp only
  split
  · exact Aside.refl _
  split
  · exact Aside.refl _
  split
  · exact errEvent_aside _ _ _ _ _ _ _ _
  exact Aside.ite (Aside.ite (eccHostPoison_aside _ _ _) (Aside.refl _)) (Aside.ite (eccUncorrected_aside _ _ _)
    (Aside.ite (Aside.ite (Aside.refl _) (eccUncorrected_aside _ _ _)) (Aside.ite (eccFound_aside _ _) (Aside.refl _))))

theorem Chk.mergeLine_aside (w : Who) (c : Chk) (l : Nat) : Aside c.s (Chk.mergeLine w c l).s := by
  unfold Chk.mergeLine
  simp only
  split
  · exact Aside.refl _
  simp only
  split
  · exact Aside.ite (eccUncorrected_aside _ _ _) (eccFound_aside _ _)
  · exact Aside.ite (Aside.refl _) (eccUncorrected_aside _ _ _)
  · exact Aside.ite (eccUncorrected_aside _ _ _) (Aside.refl _)

theorem Chk.read_aside (w : Who) (c : Chk) (a n : Nat) : Aside c.s (Chk.read w c a n).s :=
  Aside.foldlBy Chk.s (fun x l => Chk.readLine_aside w x l) _ c

theorem Chk.writeLine_aside (w : Who) (c : Chk) (l : Nat) : Aside c.s (Chk.writeLine w c l).s := by
  unfold Chk.writeLine
  simp only
  split
  · exact Aside.refl _
  · split
    · exact Aside.refl _
    · split
      · exact errEvent_aside _ _ _ _ _ _ _ _
      · exact Aside.refl _

theorem Chk.write_aside (w : Who) (c : Chk) (a n : Nat) : Aside c.s (Chk.write w c a n).s :=
  (Aside.foldlBy Chk.s (fun x l => Chk.writeLine_aside w x l) _ c).trans
    (Aside.foldlBy Chk.s (fun x l => Chk.mergeLine_aside w x l) _ _)

/-- What the checks of ranges about to be written leave. -/
theorem Chk.writeOpen_aside (w : Who) (s : State) (rs : List (Nat × Nat)) : Aside s (Chk.writeOpen w s rs).s := by
  have hw : ∀ c : Chk, Aside c.s (rs.foldl (fun c r => (linesOf r.1 r.2).foldl (Chk.writeLine w) c) c).s := fun c =>
    Aside.foldlBy Chk.s (fun x (r : Nat × Nat) => Aside.foldlBy Chk.s (fun y l => Chk.writeLine_aside w y l) (linesOf r.1 r.2) x) rs c
  have hm : ∀ u e b t, Aside u (rs.foldl (fun c r => (partLines r.1 r.2).foldl (Chk.mergeLine w) c) ⟨u, e, b, t⟩).s := fun u e b t =>
    Aside.foldlBy Chk.s (fun x (r : Nat × Nat) => Aside.foldlBy Chk.s (fun y l => Chk.mergeLine_aside w y l) (partLines r.1 r.2) x) rs
      ⟨u, e, b, t⟩
  unfold Chk.writeOpen
  simp only
  rw [leaveNotes_eq ((freshen_aside _).trans (hm _ _ _ _))]
  exact (hw (Chk.init s [])).trans ((freshen_aside _).trans (hm _ _ _ _))

/-- A write of no command leaves, beyond the bytes it writes, what observers are left. -/
theorem wrNoted_aside (s : State) (a : Nat) (bs : List Byte) : Aside (wr s a bs) (wrNoted s a bs) := by
  unfold wrNoted
  split
  · rename_i h
    rw [wr, if_pos h]
    exact Aside.refl s
  · have h : Aside s ((partLines a bs.length).foldl (Chk.mergeLine Who.none) (Chk.init (freshen s) (Config.freeFindings s.fresh))).s :=
      (freshen_aside s).trans (Aside.foldlBy Chk.s (fun x l => Chk.mergeLine_aside Who.none x l) (partLines a bs.length)
        (Chk.init (freshen s) (Config.freeFindings s.fresh)))
    simp only
    generalize ((partLines a bs.length).foldl (Chk.mergeLine Who.none) (Chk.init (freshen s) (Config.freeFindings s.fresh))).s = u at h ⊢
    obtain ⟨m, p, t, e, _⟩ := wr_form s a bs
    obtain ⟨m', p', t', e', _⟩ := wr_form u a bs
    rw [e, e']
    exact Aside.of rfl h.twine h.events h.canon h.regs

/-- The fetch of a descriptor that came through. -/
theorem fetchHead_got {s : State} {q : Fin 32} {env : List Finding} {c : Chk} {d : Desc} (h : fetchHead s q env = .got c d) :
    Aside s c.s ∧ c.unbacked = false ∧ c.stop = none := by
  have hf : Aside s (Chk.read ⟨q, s.queues[q].head.toNat, 0, 0⟩ (Chk.init s env) (sqSlot s q s.queues[q].head) 128).s :=
    Chk.read_aside _ (Chk.init s env) _ _
  unfold fetchHead at h
  simp only at h
  repeat' split at h
  all_goals first
    | (rename_i hn; cases h; exact ⟨hf, rfl, hn⟩)
    | cases h

theorem fetchHead_bad {s : State} {q : Fin 32} {env : List Finding} {c : Chk} (h : fetchHead s q env = .bad c) : Aside s c.s := by
  have hf : Aside s (Chk.read ⟨q, s.queues[q].head.toNat, 0, 0⟩ (Chk.init s env) (sqSlot s q s.queues[q].head) 128).s :=
    Chk.read_aside _ (Chk.init s env) _ _
  unfold fetchHead at h
  simp only at h
  repeat' split at h
  all_goals first
    | (cases h; exact hf)
    | cases h

/-- The first work of a command on its cores. -/
theorem startWork_aside (s : State) (w : Who) (d : Desc) (mask : Nat) : Aside s (startWork s w d mask) := by
  unfold startWork
  refine (coreBegin_aside s mask w (dKind d)).trans ?_
  simp only
  split
  · exact traceCores_aside _ _ _ _ _ _ _
  · exact Aside.refl _

/-- The end of a command's work. -/
theorem endWork_aside (s : State) (c : Cmd) (status : Nat) (w : Who) : Aside s (endWork s c status w) := by
  unfold endWork
  refine Aside.trans ?_ (coreEnd_aside _ _ _ _)
  split
  · exact Aside.ite (Aside.refl s) ((fresh_aside s _).trans (traceEach_aside _ _ _ _ _ _))
  · exact Aside.refl s

end Sys2Proof.Machine
end

