-- ==== Sys2Proof/Laws/Keep.lean ====
section
/-! SUPPORT. What every shared operation keeps: the canonical form of memory and of the register file, and what a module keeps for life. The
lemma of an operation is named after it, with `_keep`. -/
namespace Sys2Proof.Machine

open Sys2Proof.Safety

/-- A change from `s` to `t` that keeps the canonical form, the fuses and the one-time-programmable memory. -/
def Keep (s t : State) : Prop := (Canonical s → Canonical t) ∧ lifeOf t = lifeOf s

theorem Keep.refl (s : State) : Keep s s := ⟨id, rfl⟩

theorem Keep.trans {s t u : State} (h : Keep s t) (k : Keep t u) : Keep s u := ⟨fun x => k.1 (h.1 x), k.2.trans h.2⟩

/-- A change of other fields. -/
theorem Keep.same {s t : State} (hm : t.mem = s.mem) (hr : t.regs = s.regs) (hf : lifeOf t = lifeOf s) : Keep s t :=
  ⟨fun x => ⟨hm ▸ x.1, hr ▸ x.2⟩, hf⟩

theorem Keep.foldl {β : Type} {f : State → β → State} (hf : ∀ s b, Keep s (f s b)) (l : List β) (s : State) :
    Keep s (l.foldl f s) := by
  induction l generalizing s with
  | nil => exact Keep.refl s
  | cons b l ih => exact (hf s b).trans (ih _)

/-- The same over a fold that carries more than the state. -/
theorem Keep.foldlBy {α β : Type} (g : α → State) {f : α → β → α} (hf : ∀ x b, Keep (g x) (g (f x b))) (l : List β) (x : α) :
    Keep (g x) (g (l.foldl f x)) := by
  induction l generalizing x with
  | nil => exact Keep.refl _
  | cons b l ih => exact (hf x b).trans (ih _)

theorem Keep.ite {s t u : State} {c : Prop} [Decidable c] (ht : Keep s t) (hu : Keep s u) : Keep s (if c then t else u) := by
  split
  · exact ht
  · exact hu

end Sys2Proof.Machine

namespace Sys2Proof.Safety

open Sys2Proof.Machine

/-- What leaves only records aside keeps the canonical form. -/
theorem Aside.keep {s t : State} (h : Aside s t) : Keep s t := ⟨h.canonical, by rw [h.form]; rfl⟩

end Sys2Proof.Safety

namespace Sys2Proof.Machine

open Sys2Proof.Safety

/-! ### Registers -/

theorem regPut_keep (s : State) (off : Nat) (v : BitVec 64) : Keep s (regPut s off v) :=
  ⟨fun x => ⟨x.1, putCell_wf regReset off v s.regs x.2⟩, rfl⟩

theorem regPutField_keep (s : State) (off lo w v : Nat) : Keep s (regPutField s off lo w v) := regPut_keep _ _ _

theorem cntInc_keep (s : State) (off lo w : Nat) : Keep s (cntInc s off lo w) := regPutField_keep _ _ _ _ _

theorem setFlag_keep (s : State) (off bit cnt : Nat) : Keep s (setFlag s off bit cnt) :=
  (regPutField_keep _ _ _ _ _).trans (cntInc_keep _ _ _ _)

theorem setFlagOnly_keep (s : State) (off bit : Nat) : Keep s (setFlagOnly s off bit) := regPutField_keep _ _ _ _ _

theorem rclampInc_keep (s : State) : Keep s (rclampInc s) := Keep.same rfl rfl rfl

theorem freshen_keep (s : State) : Keep s (freshen s) :=
  (freshen_aside s).keep

/-! ### Memory -/

theorem wr_keep (s : State) (a : Nat) (bs : List Byte) : Keep s (wr s a bs) := by
  obtain ⟨m, p, t, h, hw⟩ := wr_form s a bs
  rw [h]
  exact ⟨fun x => ⟨hw x.1, x.2⟩, rfl⟩

theorem poisonLine_keep (s : State) (l : Nat) : Keep s (poisonLine s l) :=
  (poisonLine_aside s l).keep

theorem wrPoison_keep (s : State) (a n : Nat) : Keep s (wrPoison s a n) := by
  obtain ⟨p, t, h⟩ := wrPoison_form s a n
  rw [h]
  exact Keep.same rfl rfl rfl

theorem applyWrites_keep (w : Nat × Nat) (s : State) (ws : List MemWrite) : Keep s (applyWrites w s ws) := by
  obtain ⟨m, p, t, k, h, hw⟩ := applyWrites_form w s ws
  rw [h]
  exact ⟨fun x => ⟨hw x.1, x.2⟩, rfl⟩

theorem freeRanges_keep (w : Nat × Nat) (s : State) (rs : List (Nat × Nat)) : Keep s (freeRanges w s rs) := applyWrites_keep _ _ _

theorem wrNoted_keep (s : State) (a : Nat) (bs : List Byte) : Keep s (wrNoted s a bs) :=
  (wr_keep s a bs).trans (wrNoted_aside s a bs).keep

/-! ### Traces and counter banks -/

theorem updCore_keep (s : State) (c : Fin 16) (f : Core → Core) : Keep s (updCore s c f) :=
  Keep.same rfl rfl rfl

theorem updTrace_keep (s : State) (c : Fin 16) (f : Trace → Trace) : Keep s (updTrace s c f) :=
  (updTrace_aside s c f).keep

theorem putDrops_keep (s : State) (c : Fin 16) : Keep s (putDrops s c).1 := (putDrops_aside s c).keep

theorem fireTrigger_keep (s : State) (c : Fin 16) (info : Nat) : Keep s (fireTrigger s c info) :=
  (fireTrigger_aside s c info).keep

theorem broadcast_keep (x : State × Bool) : Keep x.1 (broadcast x) := (broadcast_aside x).keep

theorem triggerAll_keep (s : State) (bit info : Nat) : Keep s (triggerAll s bit info) :=
  (triggerAll_aside s bit info).keep

theorem spillRec_keep (s : State) (c : Fin 16) (r : List Byte) : Keep s (spillRec s c r) :=
  (wrNoted_keep s _ _).trans (updTrace_keep _ _ _)

/-- What drains goes to memory (R469). -/
theorem drain_keep (n : Nat) (s : State) (c : Fin 16) : Keep s (drain n s c) := by
  induction n generalizing s with
  | zero => exact Keep.refl s
  | succ n ih =>
    unfold drain
    simp only
    split
    · exact Keep.refl s
    · split
      · exact ((spillRec_keep s c _).trans (updTrace_keep _ _ _)).trans (ih _)
      · split
        · exact Keep.refl s
        · exact ((spillRec_keep s c _).trans (updTrace_keep _ _ _)).trans (ih _)

theorem settleTrace_keep (s : State) (c : Fin 16) : Keep s (settleTrace s c) :=
  ((drain_keep _ s c).trans (putDrops_keep _ c)).trans (broadcast_keep _)

theorem settleTraces_keep (s : State) : Keep s (settleTraces s) := Keep.foldl settleTrace_keep _ s

theorem traceRec_keep (s : State) (c : Fin 16) (kind unit index info : Nat) (w : Who) (data : Nat) :
    Keep s (traceRec s c kind unit index info w data) :=
  (traceRec_aside s c kind unit index info w data).keep

theorem traceAll_keep (s : State) (kind unit info : Nat) (w : Who) (data : Nat) : Keep s (traceAll s kind unit info w data) :=
  (traceAll_aside s kind unit info w data).keep

theorem traceCores_keep (s : State) (mask kind unit info : Nat) (w : Who) (data : Nat) :
    Keep s (traceCores s mask kind unit info w data) :=
  (traceCores_aside s mask kind unit info w data).keep

theorem swapBank_keep (s : State) (c : Fin 16) (w : Who) (kind : Nat) : Keep s (swapBank s c w kind) :=
  (swapBank_aside s c w kind).keep

theorem coreBegin_keep (s : State) (mask : Nat) (w : Who) (kind : Nat) : Keep s (coreBegin s mask w kind) :=
  (coreBegin_aside s mask w kind).keep

theorem coreEnd_keep (s : State) (mask : Nat) (w : Who) (status : Nat) : Keep s (coreEnd s mask w status) :=
  (coreEnd_aside s mask w status).keep

/-! ### Event records and line checks -/

theorem evPush_keep (s : State) (q : Nat) (bytes : List Byte) : Keep s (evPush s q bytes) :=
  (evPush_aside s q bytes).keep

theorem errEvent_keep (s : State) (w : Who) (cause cls unit index count addr : Nat) :
    Keep s (errEvent s w cause cls unit index count addr) :=
  (errEvent_aside s w cause cls unit index count addr).keep

theorem queueEvent_keep (s : State) (cause : Nat) (w : Who) : Keep s (queueEvent s cause w) :=
  (queueEvent_aside s cause w).keep

theorem gaugeEvent_keep (s : State) (cause old new : Nat) : Keep s (gaugeEvent s cause old new) :=
  (gaugeEvent_aside s cause old new).keep

theorem haltEvent_keep (s : State) (cause mask id origin hops : Nat) : Keep s (haltEvent s cause mask id origin hops) :=
  (haltEvent_aside s cause mask id origin hops).keep

theorem clockEvent_keep (s : State) (cause old new : Nat) : Keep s (clockEvent s cause old new) :=
  (clockEvent_aside s cause old new).keep

theorem lastSrc_keep (s : State) (c : Nat) : Keep s (lastSrc s c) :=
  (lastSrc_aside s c).keep

theorem eccCorrected_keep (s : State) (a : Nat) : Keep s (eccCorrected s a) :=
  (eccCorrected_aside s a).keep

theorem eccRecord_keep (s : State) (w : Who) (a : Nat) : Keep s (eccRecord s w a) :=
  (eccRecord_aside s w a).keep

theorem eccUncorrected_keep (s : State) (w : Who) (a : Nat) : Keep s (eccUncorrected s w a) :=
  (eccUncorrected_aside s w a).keep

theorem eccHostPoison_keep (s : State) (w : Who) (a : Nat) : Keep s (eccHostPoison s w a) :=
  (eccHostPoison_aside s w a).keep

theorem Chk.readLine_keep (w : Who) (c : Chk) (l : Nat) : Keep c.s (Chk.readLine w c l).s :=
  (Chk.readLine_aside w c l).keep

theorem Chk.read_keep (w : Who) (c : Chk) (a n : Nat) : Keep c.s (Chk.read w c a n).s :=
  (Chk.read_aside w c a n).keep

theorem Chk.writeLine_keep (w : Who) (c : Chk) (l : Nat) : Keep c.s (Chk.writeLine w c l).s :=
  (Chk.writeLine_aside w c l).keep

theorem Chk.write_keep (w : Who) (c : Chk) (a n : Nat) : Keep c.s (Chk.write w c a n).s :=
  (Chk.write_aside w c a n).keep

/-! ### Queues -/

theorem updQ_keep (s : State) (q : Fin 32) (f : Queue → Queue) : Keep s (updQ s q f) := Keep.same rfl rfl rfl

theorem addClamps_keep (s : State) (q : Fin 32) (n : Nat) : Keep s (addClamps s q n) := updQ_keep _ _ _

theorem pushCmd_keep (s : State) (q : Fin 32) (c : Cmd) : Keep s (pushCmd s q c) := updQ_keep _ _ _

theorem popCmd_keep (s : State) (q : Fin 32) : Keep s (popCmd s q) := updQ_keep _ _ _

theorem setCmd_keep (s : State) (q : Fin 32) (c : Cmd) : Keep s (setCmd s q c) := updQ_keep _ _ _

theorem raise_keep (s : State) (v : Nat) : Keep s (raise s v) := by
  unfold raise
  exact Keep.ite (Keep.same rfl rfl rfl) (Keep.ite (Keep.same rfl rfl rfl) (Keep.refl s))

theorem writeRec_keep (s : State) (q : Fin 32) (r : List Byte × Bool) : Keep s (writeRec s q r) := by
  unfold writeRec
  exact (((wrNoted_keep s _ _).trans (updQ_keep _ _ _)).trans (wrNoted_keep _ _ _)).trans (Keep.ite (raise_keep _ _) (Keep.refl _))

theorem writeRecs_keep (q : Fin 32) (n : Nat) (s : State) : Keep s (writeRecs q n s) := by
  induction n generalizing s with
  | zero => exact Keep.refl s
  | succ n ih =>
    unfold writeRecs
    split
    · exact Keep.refl s
    · exact Keep.ite (((updQ_keep s q _).trans (writeRec_keep _ _ _)).trans (ih _)) (Keep.refl s)

theorem flushRecs_keep (s : State) (q : Fin 32) : Keep s (flushRecs s q) := writeRecs_keep q _ s

theorem endWork_keep (s : State) (c : Cmd) (status : Nat) (w : Who) : Keep s (endWork s c status w) :=
  (endWork_aside s c status w).keep

theorem putRec_keep (s : State) (q : Fin 32) (c : Cmd) (status : Nat) : Keep s (putRec s q c status) := by
  unfold putRec
  exact ((endWork_keep s _ _ _).trans (updQ_keep _ _ _)).trans (flushRecs_keep _ _)

theorem tokenMap_keep (s : State) (t : Nat) (f : BitVec 32 → BitVec 32) : Keep s (tokenMap s t f) := Keep.same rfl rfl rfl

theorem dropFences_keep (s : State) (q : Fin 32) : Keep s (dropFences s q) := Keep.same rfl rfl rfl

theorem leaveRunning_keep (s : State) (q : Fin 32) (st : QState) : Keep s (leaveRunning s q st) :=
  (updQ_keep s _ _).trans (dropFences_keep _ _)

theorem containCmd_keep (s : State) (q : Fin 32) (c : Cmd) : Keep s (containCmd s q c) := by
  unfold containCmd
  refine Keep.ite (updQ_keep _ _ _) ?_
  exact (((setFlag_keep s _ _ _).trans (putRec_keep _ _ _ _)).trans (leaveRunning_keep _ _ _)).trans (queueEvent_keep _ _ _)

theorem containHead_keep (s : State) (q : Fin 32) : Keep s (containHead s q) :=
  (updQ_keep s _ _).trans (containCmd_keep _ _ _)

theorem signalEffect_keep (s : State) (w : Work) : Keep s (signalEffect s w) := by
  unfold signalEffect
  split
  · exact tokenMap_keep _ _ _
  · exact Keep.refl s

theorem finishCmd_keep (s : State) (q : Fin 32) (c : Cmd) : Keep s (finishCmd s q c) := by
  unfold finishCmd
  exact (((applyWrites_keep _ s _).trans (signalEffect_keep _ _)).trans (Keep.ite (tokenMap_keep _ _ _) (Keep.refl _))).trans
    (putRec_keep _ _ _ _)

theorem doneCmd_keep (s : State) (q : Fin 32) (c : Cmd) : Keep s (doneCmd s q c) := by
  unfold doneCmd
  exact Keep.ite (finishCmd_keep s q c)
    (((freeRanges_keep _ s _).trans (errEvent_keep _ _ _ _ _ _ _ _)).trans (containCmd_keep _ _ _))

theorem startWork_keep (s : State) (w : Who) (d : Desc) (mask : Nat) : Keep s (startWork s w d mask) :=
  (startWork_aside s w d mask).keep

theorem joinCores_keep (s : State) (q : Fin 32) (idx : BitVec 32) (d : Desc) (mask : Nat) : Keep s (joinCores s q idx d mask) :=
  (startWork_keep s _ d _).trans (updQ_keep _ _ _)

theorem startCmdOn_keep (mask : Nat) (s : State) (q : Fin 32) (d : Desc) (clamps : Nat) (f : Cmd → Cmd) :
    Keep s (startCmdOn mask s q d clamps f) := by
  unfold startCmdOn
  exact ((startWork_keep s _ d mask).trans (addClamps_keep _ _ _)).trans (pushCmd_keep _ _ _)

theorem startCmd_keep (s : State) (q : Fin 32) (d : Desc) (clamps : Nat) (f : Cmd → Cmd) : Keep s (startCmd s q d clamps f) :=
  startCmdOn_keep _ s q d clamps f

/-- A row that starts a descriptor keeps what its body keeps from the state after the fetch. -/
theorem startRow_keep (s : State) (q : Fin 32) (env : List Finding) (isRow : State → Desc → Bool) (body : Chk → Desc → Nat → State)
    (hb : ∀ c d n, Keep c.s (body c d n)) : Keep s (startRow s q env isRow body) := by
  have hf : Keep s (Chk.read ⟨q, s.queues[q].head.toNat, 0, 0⟩ (Chk.init s env) (sqSlot s q s.queues[q].head) 128).s :=
    Chk.read_keep _ (Chk.init s env) _ _
  unfold startRow
  split
  · exact Keep.refl s
  · rename_i c hc
    refine Keep.ite ?_ (Keep.refl s)
    refine Keep.trans ?_ (containHead_keep _ _)
    unfold fetchHead at hc
    simp only at hc
    repeat' split at hc
    all_goals first | (cases hc; exact hf) | cases hc
  · rename_i c d hc
    refine Keep.ite ?_ (Keep.refl s)
    refine Keep.trans ?_ (hb _ _ _)
    unfold fetchHead at hc
    simp only at hc
    repeat' split at hc
    all_goals first | (cases hc; exact hf) | cases hc

theorem startAlone_keep (s : State) (q : Fin 32) (env : List Finding) (isRow : State → Desc → Bool) (body : Chk → Desc → Nat → State)
    (hb : ∀ c d n, Keep c.s (body c d n)) : Keep s (startAlone s q env isRow body) := by
  unfold startAlone
  exact Keep.ite (startRow_keep s q env isRow body hb) (Keep.refl s)

end Sys2Proof.Machine
end

