-- ==== Sys2Proof/Laws/PerInstr.lean ====
section
/-! SUPPORT. A family of statements about every command as syntax: what a well-formed command brings with it fits the largest
packet of R330. -/
namespace Sys2Proof.Laws

/-- The bytes that a well-formed command brings are at most those of a packet: a header of 32 bytes and 4,096 of payload. -/
def Payload.Statement (i : Instr) : Prop := WellFormed i = true → i.payload.length ≤ 4128

theorem Payload.nop (q : Fin 32) (env : List Finding) : Payload.Statement (.nop q env) := by
  intro _; exact Nat.zero_le _
theorem Payload.layer (q : Fin 32) (env : List Finding) (faults : List EngFault) : Payload.Statement (.layer q env faults) := by
  intro _; exact Nat.zero_le _
theorem Payload.load (e : Fin 96) (insn : ArrayInsn) : Payload.Statement (.load e insn) := by
  intro _; exact Nat.zero_le _
theorem Payload.steps (e : Fin 96) (insn : ArrayInsn) : Payload.Statement (.steps e insn) := by
  intro _; exact Nat.zero_le _
theorem Payload.elementwise (e : Fin 96) (insn : ArrayInsn) : Payload.Statement (.elementwise e insn) := by
  intro _; exact Nat.zero_le _
theorem Payload.reconfigure (e : Fin 96) (insn : ArrayInsn) : Payload.Statement (.reconfigure e insn) := by
  intro _; exact Nat.zero_le _
theorem Payload.arrayAbort (e : Fin 96) : Payload.Statement (.arrayAbort e) := by
  intro _; exact Nat.zero_le _
theorem Payload.copy (q : Fin 32) (env : List Finding) : Payload.Statement (.copy q env) := by
  intro _; exact Nat.zero_le _
theorem Payload.convert (q : Fin 32) (env : List Finding) : Payload.Statement (.convert q env) := by
  intro _; exact Nat.zero_le _
theorem Payload.transpose (q : Fin 32) (env : List Finding) : Payload.Statement (.transpose q env) := by
  intro _; exact Nat.zero_le _
theorem Payload.fill (q : Fin 32) (env : List Finding) : Payload.Statement (.fill q env) := by
  intro _; exact Nat.zero_le _
theorem Payload.iadd32 (q : Fin 32) (env : List Finding) : Payload.Statement (.iadd32 q env) := by
  intro _; exact Nat.zero_le _
theorem Payload.iadd64 (q : Fin 32) (env : List Finding) : Payload.Statement (.iadd64 q env) := by
  intro _; exact Nat.zero_le _
theorem Payload.swap32 (q : Fin 32) (env : List Finding) : Payload.Statement (.swap32 q env) := by
  intro _; exact Nat.zero_le _
theorem Payload.swap64 (q : Fin 32) (env : List Finding) : Payload.Statement (.swap64 q env) := by
  intro _; exact Nat.zero_le _
theorem Payload.cas32 (q : Fin 32) (env : List Finding) : Payload.Statement (.cas32 q env) := by
  intro _; exact Nat.zero_le _
theorem Payload.cas64 (q : Fin 32) (env : List Finding) : Payload.Statement (.cas64 q env) := by
  intro _; exact Nat.zero_le _
theorem Payload.fadd32 (q : Fin 32) (env : List Finding) : Payload.Statement (.fadd32 q env) := by
  intro _; exact Nat.zero_le _
theorem Payload.allreduce (q : Fin 32) (env : List Finding) : Payload.Statement (.allreduce q env) := by
  intro _; exact Nat.zero_le _
theorem Payload.reduceScatter (q : Fin 32) (env : List Finding) : Payload.Statement (.reduceScatter q env) := by
  intro _; exact Nat.zero_le _
theorem Payload.update (q : Fin 32) (env : List Finding) : Payload.Statement (.update q env) := by
  intro _; exact Nat.zero_le _
theorem Payload.fence (q : Fin 32) (env : List Finding) : Payload.Statement (.fence q env) := by
  intro _; exact Nat.zero_le _
theorem Payload.waitGauge (q : Fin 32) (env : List Finding) : Payload.Statement (.waitGauge q env) := by
  intro _; exact Nat.zero_le _
theorem Payload.waitGaugeTick (q : Fin 32) : Payload.Statement (.waitGaugeTick q) := by
  intro _; exact Nat.zero_le _
theorem Payload.signalAdd (q : Fin 32) (env : List Finding) : Payload.Statement (.signalAdd q env) := by
  intro _; exact Nat.zero_le _
theorem Payload.signalSet (q : Fin 32) (env : List Finding) : Payload.Statement (.signalSet q env) := by
  intro _; exact Nat.zero_le _
theorem Payload.codebook (q : Fin 32) (env : List Finding) : Payload.Statement (.codebook q env) := by
  intro _; exact Nat.zero_le _
theorem Payload.eddy (q : Fin 32) (env : List Finding) : Payload.Statement (.eddy q env) := by
  intro _; exact Nat.zero_le _
theorem Payload.precInit (q : Fin 32) (env : List Finding) : Payload.Statement (.precInit q env) := by
  intro _; exact Nat.zero_le _
theorem Payload.programLoad (q : Fin 32) (env : List Finding) : Payload.Statement (.programLoad q env) := by
  intro _; exact Nat.zero_le _
theorem Payload.snap (q : Fin 32) (env : List Finding) : Payload.Statement (.snap q env) := by
  intro _; exact Nat.zero_le _
theorem Payload.snapLatch (q : Fin 32) : Payload.Statement (.snapLatch q) := by
  intro _; exact Nat.zero_le _
theorem Payload.commandCompletion (q : Fin 32) : Payload.Statement (.commandCompletion q) := by
  intro _; exact Nat.zero_le _
theorem Payload.commit (q : Fin 32) : Payload.Statement (.commit q) := by
  intro _; exact Nat.zero_le _
theorem Payload.replay (q : Fin 32) (env : List Finding) (faults : List EngFault) : Payload.Statement (.replay q env faults) := by
  intro _; exact Nat.zero_le _
theorem Payload.twineNop (c : Fin 16) (o : TwineOps) : Payload.Statement (.twineNop c o) := by
  intro _; exact Nat.zero_le _
theorem Payload.add (c : Fin 16) (o : TwineOps) : Payload.Statement (.add c o) := by
  intro _; exact Nat.zero_le _
theorem Payload.sub (c : Fin 16) (o : TwineOps) : Payload.Statement (.sub c o) := by
  intro _; exact Nat.zero_le _
theorem Payload.mul (c : Fin 16) (o : TwineOps) : Payload.Statement (.mul c o) := by
  intro _; exact Nat.zero_le _
theorem Payload.div (c : Fin 16) (o : TwineOps) : Payload.Statement (.div c o) := by
  intro _; exact Nat.zero_le _
theorem Payload.fma (c : Fin 16) (o : TwineOps) : Payload.Statement (.fma c o) := by
  intro _; exact Nat.zero_le _
theorem Payload.fms (c : Fin 16) (o : TwineOps) : Payload.Statement (.fms c o) := by
  intro _; exact Nat.zero_le _
theorem Payload.fnma (c : Fin 16) (o : TwineOps) : Payload.Statement (.fnma c o) := by
  intro _; exact Nat.zero_le _
theorem Payload.sqrt (c : Fin 16) (o : TwineOps) : Payload.Statement (.sqrt c o) := by
  intro _; exact Nat.zero_le _
theorem Payload.rsqrt (c : Fin 16) (o : TwineOps) : Payload.Statement (.rsqrt c o) := by
  intro _; exact Nat.zero_le _
theorem Payload.tmin (c : Fin 16) (o : TwineOps) : Payload.Statement (.tmin c o) := by
  intro _; exact Nat.zero_le _
theorem Payload.tmax (c : Fin 16) (o : TwineOps) : Payload.Statement (.tmax c o) := by
  intro _; exact Nat.zero_le _
theorem Payload.abs (c : Fin 16) (o : TwineOps) : Payload.Statement (.abs c o) := by
  intro _; exact Nat.zero_le _
theorem Payload.neg (c : Fin 16) (o : TwineOps) : Payload.Statement (.neg c o) := by
  intro _; exact Nat.zero_le _
theorem Payload.copysign (c : Fin 16) (o : TwineOps) : Payload.Statement (.copysign c o) := by
  intro _; exact Nat.zero_le _
theorem Payload.clip (c : Fin 16) (o : TwineOps) : Payload.Statement (.clip c o) := by
  intro _; exact Nat.zero_le _
theorem Payload.clt (c : Fin 16) (o : TwineOps) : Payload.Statement (.clt c o) := by
  intro _; exact Nat.zero_le _
theorem Payload.cle (c : Fin 16) (o : TwineOps) : Payload.Statement (.cle c o) := by
  intro _; exact Nat.zero_le _
theorem Payload.ceq (c : Fin 16) (o : TwineOps) : Payload.Statement (.ceq c o) := by
  intro _; exact Nat.zero_le _
theorem Payload.cun (c : Fin 16) (o : TwineOps) : Payload.Statement (.cun c o) := by
  intro _; exact Nat.zero_le _
theorem Payload.sel (c : Fin 16) (o : TwineOps) : Payload.Statement (.sel c o) := by
  intro _; exact Nat.zero_le _
theorem Payload.cvt (c : Fin 16) (o : TwineOps) : Payload.Statement (.cvt c o) := by
  intro _; exact Nat.zero_le _
theorem Payload.rint (c : Fin 16) (o : TwineOps) : Payload.Statement (.rint c o) := by
  intro _; exact Nat.zero_le _
theorem Payload.exp2 (c : Fin 16) (o : TwineOps) : Payload.Statement (.exp2 c o) := by
  intro _; exact Nat.zero_le _
theorem Payload.log2 (c : Fin 16) (o : TwineOps) : Payload.Statement (.log2 c o) := by
  intro _; exact Nat.zero_le _
theorem Payload.pown (c : Fin 16) (o : TwineOps) : Payload.Statement (.pown c o) := by
  intro _; exact Nat.zero_le _
theorem Payload.scalb (c : Fin 16) (o : TwineOps) : Payload.Statement (.scalb c o) := by
  intro _; exact Nat.zero_le _
theorem Payload.idx (c : Fin 16) (o : TwineOps) : Payload.Statement (.idx c o) := by
  intro _; exact Nat.zero_le _
theorem Payload.mov (c : Fin 16) (o : TwineOps) : Payload.Statement (.mov c o) := by
  intro _; exact Nat.zero_le _
theorem Payload.nfin (c : Fin 16) (o : TwineOps) : Payload.Statement (.nfin c o) := by
  intro _; exact Nat.zero_le _
theorem Payload.ld (c : Fin 16) (o : TwineOps) : Payload.Statement (.ld c o) := by
  intro _; exact Nat.zero_le _
theorem Payload.st (c : Fin 16) (o : TwineOps) : Payload.Statement (.st c o) := by
  intro _; exact Nat.zero_le _
theorem Payload.red (c : Fin 16) (o : TwineOps) : Payload.Statement (.red c o) := by
  intro _; exact Nat.zero_le _
theorem Payload.binv (c : Fin 16) (o : TwineOps) : Payload.Statement (.binv c o) := by
  intro _; exact Nat.zero_le _
theorem Payload.sqTail (q : Fin 32) (v : BitVec 32) : Payload.Statement (.sqTail q v) := by
  intro _; exact Nat.zero_le _
theorem Payload.cqHead (q : Fin 32) (v : BitVec 32) : Payload.Statement (.cqHead q v) := by
  intro _; exact Nat.zero_le _
theorem Payload.evHead (v : BitVec 32) : Payload.Statement (.evHead v) := by
  intro _; exact Nat.zero_le _
theorem Payload.eventRecordWrite : Payload.Statement (.eventRecordWrite) := by
  intro _; exact Nat.zero_le _
theorem Payload.haltDb (v : BitVec 64) : Payload.Statement (.haltDb v) := by
  intro _; exact Nat.zero_le _
theorem Payload.haltTakesEffect : Payload.Statement (.haltTakesEffect) := by
  intro _; exact Nat.zero_le _
theorem Payload.haltMessage (p : Fin 16) (msg : List Byte) : Payload.Statement (.haltMessage p msg) := by
  intro h; simp [WellFormed] at h; simp [Instr.payload]; omega
theorem Payload.queueEnable (q : Fin 32) (v : BitVec 64) : Payload.Statement (.queueEnable q v) := by
  intro _; exact Nat.zero_le _
theorem Payload.queueDisable (q : Fin 32) (v : BitVec 64) : Payload.Statement (.queueDisable q v) := by
  intro _; exact Nat.zero_le _
theorem Payload.glbRst (v : BitVec 64) (boot : BootEnv) : Payload.Statement (.glbRst v boot) := by
  intro _; exact Nat.zero_le _
theorem Payload.t1Init : Payload.Statement (.t1Init) := by
  intro _; exact Nat.zero_le _
theorem Payload.t2Init : Payload.Statement (.t2Init) := by
  intro _; exact Nat.zero_le _
theorem Payload.portEnable (p : Fin 16) (v : BitVec 64) : Payload.Statement (.portEnable p v) := by
  intro _; exact Nat.zero_le _
theorem Payload.portDisable (p : Fin 16) (v : BitVec 64) : Payload.Statement (.portDisable p v) := by
  intro _; exact Nat.zero_le _
theorem Payload.release (p : Fin 16) (v : BitVec 64) : Payload.Statement (.release p v) := by
  intro _; exact Nat.zero_le _
theorem Payload.lnkRtLoad (v : BitVec 64) (env : List Finding) : Payload.Statement (.lnkRtLoad v env) := by
  intro _; exact Nat.zero_le _
theorem Payload.arm (n : Fin 8) (v : BitVec 64) (env : List Finding) : Payload.Statement (.arm n v env) := by
  intro _; exact Nat.zero_le _
theorem Payload.disarm (n : Fin 8) (v : BitVec 64) : Payload.Statement (.disarm n v) := by
  intro _; exact Nat.zero_le _
theorem Payload.heldWriteTakesEffect (n : Fin 8) (env : List Finding) : Payload.Statement (.heldWriteTakesEffect n env) := by
  intro _; exact Nat.zero_le _
theorem Payload.obsSnapselArm (v : BitVec 64) : Payload.Statement (.obsSnapselArm v) := by
  intro _; exact Nat.zero_le _
theorem Payload.mailboxSnapshotLatch : Payload.Statement (.mailboxSnapshotLatch) := by
  intro _; exact Nat.zero_le _
theorem Payload.resume (c : Fin 16) (v : BitVec 64) : Payload.Statement (.resume c v) := by
  intro _; exact Nat.zero_le _
theorem Payload.obsTrigSw (c : Fin 16) (v : BitVec 64) : Payload.Statement (.obsTrigSw c v) := by
  intro _; exact Nat.zero_le _
theorem Payload.mark (v : BitVec 64) : Payload.Statement (.mark v) := by
  intro _; exact Nat.zero_le _
theorem Payload.obsEvsel (c : Fin 16) (v : BitVec 64) : Payload.Statement (.obsEvsel c v) := by
  intro _; exact Nat.zero_le _
theorem Payload.mbxReq (v : BitVec 64) : Payload.Statement (.mbxReq v) := by
  intro _; exact Nat.zero_le _
theorem Payload.mailboxCaptureComplete : Payload.Statement (.mailboxCaptureComplete) := by
  intro _; exact Nat.zero_le _
theorem Payload.w1cClear (off : Nat) (v : BitVec 64) : Payload.Statement (.w1cClear off v) := by
  intro _; exact Nat.zero_le _
theorem Payload.suWrite (off : Nat) (size : Nat) (v : BitVec 64) : Payload.Statement (.suWrite off size v) := by
  intro _; exact Nat.zero_le _
theorem Payload.configurationSweep (disturbed : Bool) : Payload.Statement (.configurationSweep disturbed) := by
  intro _; exact Nat.zero_le _
theorem Payload.powerControllerWindow (m : PowerMeasure) : Payload.Statement (.powerControllerWindow m) := by
  intro _; exact Nat.zero_le _
theorem Payload.patrolScrub (f : Finding) : Payload.Statement (.patrolScrub f) := by
  intro _; exact Nat.zero_le _
theorem Payload.firmwareRemeasure (ok : Bool) (wipeOk : Bool) : Payload.Statement (.firmwareRemeasure ok wipeOk) := by
  intro _; exact Nat.zero_le _
theorem Payload.trngFailure (wipeOk : Bool) : Payload.Statement (.trngFailure wipeOk) := by
  intro _; exact Nat.zero_le _
theorem Payload.tamperEvent (k : TamperKind) (wipeOk : Bool) : Payload.Statement (.tamperEvent k wipeOk) := by
  intro _; exact Nat.zero_le _
theorem Payload.pwrEnRise (boot : BootEnv) : Payload.Statement (.pwrEnRise boot) := by
  intro _; exact Nat.zero_le _
theorem Payload.pwrEnFall (wipeOk : Bool) : Payload.Statement (.pwrEnFall wipeOk) := by
  intro _; exact Nat.zero_le _
theorem Payload.perstAssert : Payload.Statement (.perstAssert) := by
  intro _; exact Nat.zero_le _
theorem Payload.perstRelease (boot : BootEnv) : Payload.Statement (.perstRelease boot) := by
  intro _; exact Nat.zero_le _
theorem Payload.cxlLinkDown (boot : BootEnv) : Payload.Statement (.cxlLinkDown boot) := by
  intro _; exact Nat.zero_le _
theorem Payload.functionLevelReset (boot : BootEnv) : Payload.Statement (.functionLevelReset boot) := by
  intro _; exact Nat.zero_le _
theorem Payload.criticalVoltage (wipeOk : Bool) : Payload.Statement (.criticalVoltage wipeOk) := by
  intro _; exact Nat.zero_le _
theorem Payload.criticalTemperature (sensor : Nat) (wipeOk : Bool) : Payload.Statement (.criticalTemperature sensor wipeOk) := by
  intro _; exact Nat.zero_le _
theorem Payload.ideKm (m : IdeMsg) : Payload.Statement (.ideKm m) := by
  intro _; exact Nat.zero_le _
theorem Payload.hdmRead (x : Nat) (env : List Finding) : Payload.Statement (.hdmRead x env) := by
  intro _; exact Nat.zero_le _
theorem Payload.hdmWrite (x : Nat) (data : List Byte) (mask : BitVec 64) (env : List Finding) : Payload.Statement (.hdmWrite x data mask env) := by
  intro h; simp [WellFormed] at h; simp [Instr.payload]; omega
theorem Payload.gaugeTick : Payload.Statement (.gaugeTick) := by
  intro _; exact Nat.zero_le _
theorem Payload.freeRunTick : Payload.Statement (.freeRunTick) := by
  intro _; exact Nat.zero_le _
theorem Payload.gaugeFrame (f : GaugeFrame) : Payload.Statement (.gaugeFrame f) := by
  intro _; exact Nat.zero_le _
theorem Payload.lost (ref : Bool) : Payload.Statement (.lost ref) := by
  intro _; exact Nat.zero_le _
theorem Payload.gaugeSetTransmit : Payload.Statement (.gaugeSetTransmit) := by
  intro _; exact Nat.zero_le _
theorem Payload.gaugeSet (p : Fin 16) (m : GaugeSet) : Payload.Statement (.gaugeSet p m) := by
  intro _; exact Nat.zero_le _
theorem Payload.dataFlit (p : Fin 16) (f : Flit) (env : List Finding) (accBad : Bool) : Payload.Statement (.dataFlit p f env accBad) := by
  intro h; simp [WellFormed, Flit.wf] at h; simp [Instr.payload]; omega
theorem Payload.creditFlit (p : Fin 16) (f : Flit) : Payload.Statement (.creditFlit p f) := by
  intro h; simp [WellFormed, Flit.wf] at h; simp [Instr.payload]; omega
theorem Payload.retryReq (p : Fin 16) (f : Flit) : Payload.Statement (.retryReq p f) := by
  intro h; simp [WellFormed, Flit.wf] at h; simp [Instr.payload]; omega
theorem Payload.retryReqRepeat (p : Fin 16) : Payload.Statement (.retryReqRepeat p) := by
  intro _; exact Nat.zero_le _
theorem Payload.hello (p : Fin 16) (m : HelloMsg) : Payload.Statement (.hello p m) := by
  intro _; exact Nat.zero_le _
theorem Payload.linkKeyExchange (p : Fin 16) (m : LinkMsg) : Payload.Statement (.linkKeyExchange p m) := by
  intro _; exact Nat.zero_le _
theorem Payload.transcriptSignature (p : Fin 16) (m : LinkMsg) : Payload.Statement (.transcriptSignature p m) := by
  intro _; exact Nat.zero_le _
theorem Payload.linkmgtDone (p : Fin 16) (m : LinkMsg) : Payload.Statement (.linkmgtDone p m) := by
  intro _; exact Nat.zero_le _
theorem Payload.keyUpdate (p : Fin 16) (f : Flit) : Payload.Statement (.keyUpdate p f) := by
  intro h; simp [WellFormed, Flit.wf] at h; simp [Instr.payload]; omega
theorem Payload.keyUpdateSend (p : Fin 16) : Payload.Statement (.keyUpdateSend p) := by
  intro _; exact Nat.zero_le _
theorem Payload.signalDetect (p : Fin 16) (lanes : BitVec 4) : Payload.Statement (.signalDetect p lanes) := by
  intro _; exact Nat.zero_le _
theorem Payload.trainComplete (p : Fin 16) (locked : BitVec 4) : Payload.Statement (.trainComplete p locked) := by
  intro _; exact Nat.zero_le _
theorem Payload.alignComplete (p : Fin 16) (ok : Bool) (lanes : List (Fin 4)) : Payload.Statement (.alignComplete p ok lanes) := by
  intro _; exact Nat.zero_le _
theorem Payload.authTimeout (p : Fin 16) : Payload.Statement (.authTimeout p) := by
  intro _; exact Nat.zero_le _
theorem Payload.retrainComplete (p : Fin 16) (ok : Bool) : Payload.Statement (.retrainComplete p ok) := by
  intro _; exact Nat.zero_le _
theorem Payload.laneLoss (p : Fin 16) (lane : Fin 4) (signal : BitVec 4) : Payload.Statement (.laneLoss p lane signal) := by
  intro _; exact Nat.zero_le _
theorem Payload.signalLoss (p : Fin 16) : Payload.Statement (.signalLoss p) := by
  intro _; exact Nat.zero_le _
theorem Payload.retryStorm (p : Fin 16) (errors : List Nat) : Payload.Statement (.retryStorm p errors) := by
  intro _; exact Nat.zero_le _
theorem Payload.creditStarvation (p : Fin 16) (vc : Fin 9) : Payload.Statement (.creditStarvation p vc) := by
  intro _; exact Nat.zero_le _
theorem Payload.malformedLimit (p : Fin 16) : Payload.Statement (.malformedLimit p) := by
  intro _; exact Nat.zero_le _
theorem Payload.windowOpen (q : Fin 32) (env : List Finding) (accBad : Bool) : Payload.Statement (.windowOpen q env accBad) := by
  intro _; exact Nat.zero_le _
theorem Payload.grant (src : BitVec 16) (port : Fin 16) (pkt : List Byte) (env : List Finding) : Payload.Statement (.grant src port pkt env) := by
  intro h; simp [WellFormed, packetWf] at h; simp [Instr.payload]; omega
theorem Payload.contrib (src : BitVec 16) (port : Fin 16) (pkt : List Byte) (accBad : Bool) : Payload.Statement (.contrib src port pkt accBad) := by
  intro h; simp [WellFormed, packetWf] at h; simp [Instr.payload]; omega
theorem Payload.result (src : BitVec 16) (port : Fin 16) (pkt : List Byte) : Payload.Statement (.result src port pkt) := by
  intro h; simp [WellFormed, packetWf] at h; simp [Instr.payload]; omega
theorem Payload.done (src : BitVec 16) (port : Fin 16) (pkt : List Byte) : Payload.Statement (.done src port pkt) := by
  intro h; simp [WellFormed, packetWf] at h; simp [Instr.payload]; omega
theorem Payload.abort (src : BitVec 16) (port : Fin 16) (pkt : List Byte) : Payload.Statement (.abort src port pkt) := by
  intro h; simp [WellFormed, packetWf] at h; simp [Instr.payload]; omega
theorem Payload.deadlineDue (q : Fin 32) (u : Fin 16) : Payload.Statement (.deadlineDue q u) := by
  intro _; exact Nat.zero_le _
theorem Payload.abandon (q : Fin 32) : Payload.Statement (.abandon q) := by
  intro _; exact Nat.zero_le _
theorem Payload.routeLossAbandon (q : Fin 32) : Payload.Statement (.routeLossAbandon q) := by
  intro _; exact Nat.zero_le _
theorem Payload.setEndpointId (tr : Transport) (eid : Byte) : Payload.Statement (.setEndpointId tr eid) := by
  intro _; exact Nat.zero_le _
theorem Payload.getEndpointId (tr : Transport) : Payload.Statement (.getEndpointId tr) := by
  intro _; exact Nat.zero_le _
theorem Payload.getEndpointUuid (tr : Transport) : Payload.Statement (.getEndpointUuid tr) := by
  intro _; exact Nat.zero_le _
theorem Payload.getMctpVersionSupport (tr : Transport) (ty : Byte) : Payload.Statement (.getMctpVersionSupport tr ty) := by
  intro _; exact Nat.zero_le _
theorem Payload.getMessageTypeSupport (tr : Transport) : Payload.Statement (.getMessageTypeSupport tr) := by
  intro _; exact Nat.zero_le _
theorem Payload.getTid (tr : Transport) : Payload.Statement (.getTid tr) := by
  intro _; exact Nat.zero_le _
theorem Payload.getPldmVersion (tr : Transport) (ty : Byte) : Payload.Statement (.getPldmVersion tr ty) := by
  intro _; exact Nat.zero_le _
theorem Payload.getPldmTypes (tr : Transport) : Payload.Statement (.getPldmTypes tr) := by
  intro _; exact Nat.zero_le _
theorem Payload.getPldmCommands (tr : Transport) (ty : Byte) : Payload.Statement (.getPldmCommands tr ty) := by
  intro _; exact Nat.zero_le _
theorem Payload.getPdr (tr : Transport) (h : Nat) : Payload.Statement (.getPdr tr h) := by
  intro _; exact Nat.zero_le _
theorem Payload.getSensorReading (tr : Transport) (id : Nat) : Payload.Statement (.getSensorReading tr id) := by
  intro _; exact Nat.zero_le _
theorem Payload.getStateSensorReadings (tr : Transport) (id : Nat) : Payload.Statement (.getStateSensorReadings tr id) := by
  intro _; exact Nat.zero_le _
theorem Payload.setNumericSensorEnable (tr : Transport) (id : Nat) (en : Byte) : Payload.Statement (.setNumericSensorEnable tr id en) := by
  intro _; exact Nat.zero_le _
theorem Payload.platformEventMessage (tr : Transport) : Payload.Statement (.platformEventMessage tr) := by
  intro _; exact Nat.zero_le _
theorem Payload.pollForPlatformEventMessage (tr : Transport) : Payload.Statement (.pollForPlatformEventMessage tr) := by
  intro _; exact Nat.zero_le _
theorem Payload.eventMessageBufferSize (tr : Transport) (n : Nat) : Payload.Statement (.eventMessageBufferSize tr n) := by
  intro _; exact Nat.zero_le _
theorem Payload.queryDeviceIdentifiers (tr : Transport) : Payload.Statement (.queryDeviceIdentifiers tr) := by
  intro _; exact Nat.zero_le _
theorem Payload.getFirmwareParameters (tr : Transport) : Payload.Statement (.getFirmwareParameters tr) := by
  intro _; exact Nat.zero_le _
theorem Payload.requestUpdate (tr : Transport) : Payload.Statement (.requestUpdate tr) := by
  intro _; exact Nat.zero_le _
theorem Payload.passComponentTable (tr : Transport) : Payload.Statement (.passComponentTable tr) := by
  intro _; exact Nat.zero_le _
theorem Payload.updateComponent (tr : Transport) (size : Nat) : Payload.Statement (.updateComponent tr size) := by
  intro _; exact Nat.zero_le _
theorem Payload.requestFirmwareData (tr : Transport) (last : Bool) (img : Image) : Payload.Statement (.requestFirmwareData tr last img) := by
  intro _; exact Nat.zero_le _
theorem Payload.transferComplete (tr : Transport) (ok : Bool) : Payload.Statement (.transferComplete tr ok) := by
  intro _; exact Nat.zero_le _
theorem Payload.verifyComplete (tr : Transport) : Payload.Statement (.verifyComplete tr) := by
  intro _; exact Nat.zero_le _
theorem Payload.applyComplete (tr : Transport) (boot : BootEnv) : Payload.Statement (.applyComplete tr boot) := by
  intro _; exact Nat.zero_le _
theorem Payload.activateFirmware (tr : Transport) (selfContained : Bool) (boot : BootEnv) : Payload.Statement (.activateFirmware tr selfContained boot) := by
  intro _; exact Nat.zero_le _
theorem Payload.getStatus (tr : Transport) : Payload.Statement (.getStatus tr) := by
  intro _; exact Nat.zero_le _
theorem Payload.cancelUpdateComponent (tr : Transport) : Payload.Statement (.cancelUpdateComponent tr) := by
  intro _; exact Nat.zero_le _
theorem Payload.cancelUpdate (tr : Transport) : Payload.Statement (.cancelUpdate tr) := by
  intro _; exact Nat.zero_le _
theorem Payload.getVersion (tr : Transport) (rq : SpdmReq) : Payload.Statement (.getVersion tr rq) := by
  intro _; exact Nat.zero_le _
theorem Payload.getCapabilities (tr : Transport) (rq : SpdmReq) : Payload.Statement (.getCapabilities tr rq) := by
  intro _; exact Nat.zero_le _
theorem Payload.negotiateAlgorithms (tr : Transport) (rq : SpdmReq) : Payload.Statement (.negotiateAlgorithms tr rq) := by
  intro _; exact Nat.zero_le _
theorem Payload.getDigests (tr : Transport) (rq : SpdmReq) : Payload.Statement (.getDigests tr rq) := by
  intro _; exact Nat.zero_le _
theorem Payload.getCertificate (tr : Transport) (rq : SpdmReq) (slot : Nat) : Payload.Statement (.getCertificate tr rq slot) := by
  intro _; exact Nat.zero_le _
theorem Payload.challenge (tr : Transport) (rq : SpdmReq) : Payload.Statement (.challenge tr rq) := by
  intro _; exact Nat.zero_le _
theorem Payload.getMeasurements (tr : Transport) (rq : SpdmReq) (index : Byte) : Payload.Statement (.getMeasurements tr rq index) := by
  intro _; exact Nat.zero_le _
theorem Payload.keyExchange (tr : Transport) (rq : SpdmReq) : Payload.Statement (.keyExchange tr rq) := by
  intro _; exact Nat.zero_le _
theorem Payload.finish (tr : Transport) (rq : SpdmReq) (ok : Bool) : Payload.Statement (.finish tr rq ok) := by
  intro _; exact Nat.zero_le _
theorem Payload.heartbeat (tr : Transport) (rq : SpdmReq) : Payload.Statement (.heartbeat tr rq) := by
  intro _; exact Nat.zero_le _
theorem Payload.endSession (tr : Transport) (rq : SpdmReq) : Payload.Statement (.endSession tr rq) := by
  intro _; exact Nat.zero_le _
theorem Payload.jobKeySet (tr : Transport) (rq : SpdmReq) (jobId : BitVec 64) (secret : BitVec 256) : Payload.Statement (.jobKeySet tr rq jobId secret) := by
  intro _; exact Nat.zero_le _
theorem Payload.jobKeyClear (tr : Transport) (rq : SpdmReq) : Payload.Statement (.jobKeyClear tr rq) := by
  intro _; exact Nat.zero_le _
theorem Payload.jobKeyClearTakesEffect : Payload.Statement (.jobKeyClearTakesEffect) := by
  intro _; exact Nat.zero_le _
theorem Payload.lcAdvance (tr : Transport) (rq : SpdmReq) (target : Byte) (digest : BitVec 256) (auth : Option Auth) (wipeOk : Bool) (boot : BootEnv) : Payload.Statement (.lcAdvance tr rq target digest auth wipeOk boot) := by
  intro _; exact Nat.zero_le _
theorem Payload.svnCommit (tr : Transport) (rq : SpdmReq) (floor : BitVec 16) (auth : Option Auth) : Payload.Statement (.svnCommit tr rq floor auth) := by
  intro _; exact Nat.zero_le _
theorem Payload.testUnlock (tr : Transport) (rq : SpdmReq) (auth : Auth) (wipeOk : Bool) : Payload.Statement (.testUnlock tr rq auth wipeOk) := by
  intro _; exact Nat.zero_le _
theorem Payload.linkFollowedTick : Payload.Statement (.linkFollowedTick) := by
  intro _; exact Nat.zero_le _
theorem Payload.firmwareWatchdog (wipeOk : Bool) : Payload.Statement (.firmwareWatchdog wipeOk) := by
  intro _; exact Nat.zero_le _
theorem Payload.coreWatchdog (c : Fin 16) : Payload.Statement (.coreWatchdog c) := by
  intro _; exact Nat.zero_le _

end Sys2Proof.Laws
end

