-- ==== Sys2Proof/Laws/State.lean ====
section
/-! SUPPORT. One lemma per field of State for each named update, so that no proof unfolds a record update. -/
namespace Sys2Proof.Machine

variable (s : State)

/-! ### updQ -/
@[simp] theorem updQ_pending (q : Fin 32) (f : Queue → Queue) : (updQ s q f).pending = s.pending := rfl
@[simp] theorem updQ_phase (q : Fin 32) (f : Queue → Queue) : (updQ s q f).phase = s.phase := rfl
@[simp] theorem updQ_fresh (q : Fin 32) (f : Queue → Queue) : (updQ s q f).fresh = s.fresh := rfl
@[simp] theorem updQ_regs (q : Fin 32) (f : Queue → Queue) : (updQ s q f).regs = s.regs := rfl
@[simp] theorem updQ_mem (q : Fin 32) (f : Queue → Queue) : (updQ s q f).mem = s.mem := rfl
@[simp] theorem updQ_poison (q : Fin 32) (f : Queue → Queue) : (updQ s q f).poison = s.poison := rfl
@[simp] theorem updQ_t3 (q : Fin 32) (f : Queue → Queue) : (updQ s q f).t3 = s.t3 := rfl
@[simp] theorem updQ_queues (q : Fin 32) (f : Queue → Queue) : (updQ s q f).queues = s.queues.set q (f s.queues[q]) := rfl
@[simp] theorem updQ_tokens (q : Fin 32) (f : Queue → Queue) : (updQ s q f).tokens = s.tokens := rfl
@[simp] theorem updQ_events (q : Fin 32) (f : Queue → Queue) : (updQ s q f).events = s.events := rfl
@[simp] theorem updQ_evWait (q : Fin 32) (f : Queue → Queue) : (updQ s q f).evWait = s.evWait := rfl
@[simp] theorem updQ_evTail (q : Fin 32) (f : Queue → Queue) : (updQ s q f).evTail = s.evTail := rfl
@[simp] theorem updQ_evHead (q : Fin 32) (f : Queue → Queue) : (updQ s q f).evHead = s.evHead := rfl
@[simp] theorem updQ_evLost (q : Fin 32) (f : Queue → Queue) : (updQ s q f).evLost = s.evLost := rfl
@[simp] theorem updQ_rclamp (q : Fin 32) (f : Queue → Queue) : (updQ s q f).rclamp = s.rclamp := rfl
@[simp] theorem updQ_halts (q : Fin 32) (f : Queue → Queue) : (updQ s q f).halts = s.halts := rfl
@[simp] theorem updQ_haltCount (q : Fin 32) (f : Queue → Queue) : (updQ s q f).haltCount = s.haltCount := rfl
@[simp] theorem updQ_haltSeen (q : Fin 32) (f : Queue → Queue) : (updQ s q f).haltSeen = s.haltSeen := rfl
@[simp] theorem updQ_gauge (q : Fin 32) (f : Queue → Queue) : (updQ s q f).gauge = s.gauge := rfl
@[simp] theorem updQ_ports (q : Fin 32) (f : Queue → Queue) : (updQ s q f).ports = s.ports := rfl
@[simp] theorem updQ_routes (q : Fin 32) (f : Queue → Queue) : (updQ s q f).routes = s.routes := rfl
@[simp] theorem updQ_groups (q : Fin 32) (f : Queue → Queue) : (updQ s q f).groups = s.groups := rfl
@[simp] theorem updQ_early (q : Fin 32) (f : Queue → Queue) : (updQ s q f).early = s.early := rfl
@[simp] theorem updQ_looped (q : Fin 32) (f : Queue → Queue) : (updQ s q f).looped = s.looped := rfl
@[simp] theorem updQ_resetCause (q : Fin 32) (f : Queue → Queue) : (updQ s q f).resetCause = s.resetCause := rfl
@[simp] theorem updQ_bl (q : Fin 32) (f : Queue → Queue) : (updQ s q f).bl = s.bl := rfl
@[simp] theorem updQ_t1Init (q : Fin 32) (f : Queue → Queue) : (updQ s q f).t1Init = s.t1Init := rfl
@[simp] theorem updQ_t2Init (q : Fin 32) (f : Queue → Queue) : (updQ s q f).t2Init = s.t2Init := rfl
@[simp] theorem updQ_ueAddr (q : Fin 32) (f : Queue → Queue) : (updQ s q f).ueAddr = s.ueAddr := rfl
@[simp] theorem updQ_jobFatal (q : Fin 32) (f : Queue → Queue) : (updQ s q f).jobFatal = s.jobFatal := rfl
@[simp] theorem updQ_fatal (q : Fin 32) (f : Queue → Queue) : (updQ s q f).fatal = s.fatal := rfl
@[simp] theorem updQ_mbx (q : Fin 32) (f : Queue → Queue) : (updQ s q f).mbx = s.mbx := rfl
@[simp] theorem updQ_inService (q : Fin 32) (f : Queue → Queue) : (updQ s q f).inService = s.inService := rfl
@[simp] theorem updQ_engines (q : Fin 32) (f : Queue → Queue) : (updQ s q f).engines = s.engines := rfl
@[simp] theorem updQ_fuses (q : Fin 32) (f : Queue → Queue) : (updQ s q f).fuses = s.fuses := rfl
@[simp] theorem updQ_eddies (q : Fin 32) (f : Queue → Queue) : (updQ s q f).eddies = s.eddies := rfl
@[simp] theorem updQ_eddyCrc (q : Fin 32) (f : Queue → Queue) : (updQ s q f).eddyCrc = s.eddyCrc := rfl
@[simp] theorem updQ_eddyLoaded (q : Fin 32) (f : Queue → Queue) : (updQ s q f).eddyLoaded = s.eddyLoaded := rfl
@[simp] theorem updQ_bist (q : Fin 32) (f : Queue → Queue) : (updQ s q f).bist = s.bist := rfl
@[simp] theorem updQ_programs (q : Fin 32) (f : Queue → Queue) : (updQ s q f).programs = s.programs := rfl
@[simp] theorem updQ_progCrc (q : Fin 32) (f : Queue → Queue) : (updQ s q f).progCrc = s.progCrc := rfl
@[simp] theorem updQ_cores (q : Fin 32) (f : Queue → Queue) : (updQ s q f).cores = s.cores := rfl
@[simp] theorem updQ_snap (q : Fin 32) (f : Queue → Queue) : (updQ s q f).snap = s.snap := rfl
@[simp] theorem updQ_power (q : Fin 32) (f : Queue → Queue) : (updQ s q f).power = s.power := rfl
@[simp] theorem updQ_serial (q : Fin 32) (f : Queue → Queue) : (updQ s q f).serial = s.serial := rfl
@[simp] theorem updQ_stepping (q : Fin 32) (f : Queue → Queue) : (updQ s q f).stepping = s.stepping := rfl
@[simp] theorem updQ_otp (q : Fin 32) (f : Queue → Queue) : (updQ s q f).otp = s.otp := rfl
@[simp] theorem updQ_flash (q : Fin 32) (f : Queue → Queue) : (updQ s q f).flash = s.flash := rfl
@[simp] theorem updQ_boot (q : Fin 32) (f : Queue → Queue) : (updQ s q f).boot = s.boot := rfl
@[simp] theorem updQ_puf (q : Fin 32) (f : Queue → Queue) : (updQ s q f).puf = s.puf := rfl
@[simp] theorem updQ_romRoot (q : Fin 32) (f : Queue → Queue) : (updQ s q f).romRoot = s.romRoot := rfl
@[simp] theorem updQ_idKey (q : Fin 32) (f : Queue → Queue) : (updQ s q f).idKey = s.idKey := rfl
@[simp] theorem updQ_t1key (q : Fin 32) (f : Queue → Queue) : (updQ s q f).t1key = s.t1key := rfl
@[simp] theorem updQ_t2key (q : Fin 32) (f : Queue → Queue) : (updQ s q f).t2key = s.t2key := rfl
@[simp] theorem updQ_unlocked (q : Fin 32) (f : Queue → Queue) : (updQ s q f).unlocked = s.unlocked := rfl
@[simp] theorem updQ_measLog (q : Fin 32) (f : Queue → Queue) : (updQ s q f).measLog = s.measLog := rfl
@[simp] theorem updQ_sessions (q : Fin 32) (f : Queue → Queue) : (updQ s q f).sessions = s.sessions := rfl
@[simp] theorem updQ_jobClear (q : Fin 32) (f : Queue → Queue) : (updQ s q f).jobClear = s.jobClear := rfl
@[simp] theorem updQ_mgmt (q : Fin 32) (f : Queue → Queue) : (updQ s q f).mgmt = s.mgmt := rfl
@[simp] theorem updQ_cfg (q : Fin 32) (f : Queue → Queue) : (updQ s q f).cfg = s.cfg := rfl
@[simp] theorem updQ_alert (q : Fin 32) (f : Queue → Queue) : (updQ s q f).alert = s.alert := rfl
@[simp] theorem updQ_perst (q : Fin 32) (f : Queue → Queue) : (updQ s q f).perst = s.perst := rfl
@[simp] theorem updQ_pwrEn (q : Fin 32) (f : Queue → Queue) : (updQ s q f).pwrEn = s.pwrEn := rfl
@[simp] theorem updQ_loopOpen (q : Fin 32) (f : Queue → Queue) : (updQ s q f).loopOpen = s.loopOpen := rfl
@[simp] theorem updQ_ide (q : Fin 32) (f : Queue → Queue) : (updQ s q f).ide = s.ide := rfl
@[simp] theorem updQ_msix (q : Fin 32) (f : Queue → Queue) : (updQ s q f).msix = s.msix := rfl
@[simp] theorem updQ_msixPending (q : Fin 32) (f : Queue → Queue) : (updQ s q f).msixPending = s.msixPending := rfl
@[simp] theorem updQ_t3key (q : Fin 32) (f : Queue → Queue) : (updQ s q f).t3key = s.t3key := rfl
@[simp] theorem updQ_outbox (q : Fin 32) (f : Queue → Queue) : (updQ s q f).outbox = s.outbox := rfl

/-! ### updP -/
@[simp] theorem updP_pending (p : Fin 16) (f : Port → Port) : (updP s p f).pending = s.pending := rfl
@[simp] theorem updP_phase (p : Fin 16) (f : Port → Port) : (updP s p f).phase = s.phase := rfl
@[simp] theorem updP_fresh (p : Fin 16) (f : Port → Port) : (updP s p f).fresh = s.fresh := rfl
@[simp] theorem updP_regs (p : Fin 16) (f : Port → Port) : (updP s p f).regs = s.regs := rfl
@[simp] theorem updP_mem (p : Fin 16) (f : Port → Port) : (updP s p f).mem = s.mem := rfl
@[simp] theorem updP_poison (p : Fin 16) (f : Port → Port) : (updP s p f).poison = s.poison := rfl
@[simp] theorem updP_t3 (p : Fin 16) (f : Port → Port) : (updP s p f).t3 = s.t3 := rfl
@[simp] theorem updP_queues (p : Fin 16) (f : Port → Port) : (updP s p f).queues = s.queues := rfl
@[simp] theorem updP_tokens (p : Fin 16) (f : Port → Port) : (updP s p f).tokens = s.tokens := rfl
@[simp] theorem updP_events (p : Fin 16) (f : Port → Port) : (updP s p f).events = s.events := rfl
@[simp] theorem updP_evWait (p : Fin 16) (f : Port → Port) : (updP s p f).evWait = s.evWait := rfl
@[simp] theorem updP_evTail (p : Fin 16) (f : Port → Port) : (updP s p f).evTail = s.evTail := rfl
@[simp] theorem updP_evHead (p : Fin 16) (f : Port → Port) : (updP s p f).evHead = s.evHead := rfl
@[simp] theorem updP_evLost (p : Fin 16) (f : Port → Port) : (updP s p f).evLost = s.evLost := rfl
@[simp] theorem updP_rclamp (p : Fin 16) (f : Port → Port) : (updP s p f).rclamp = s.rclamp := rfl
@[simp] theorem updP_halts (p : Fin 16) (f : Port → Port) : (updP s p f).halts = s.halts := rfl
@[simp] theorem updP_haltCount (p : Fin 16) (f : Port → Port) : (updP s p f).haltCount = s.haltCount := rfl
@[simp] theorem updP_haltSeen (p : Fin 16) (f : Port → Port) : (updP s p f).haltSeen = s.haltSeen := rfl
@[simp] theorem updP_gauge (p : Fin 16) (f : Port → Port) : (updP s p f).gauge = s.gauge := rfl
@[simp] theorem updP_ports (p : Fin 16) (f : Port → Port) : (updP s p f).ports = s.ports.set p (f s.ports[p]) := rfl
@[simp] theorem updP_routes (p : Fin 16) (f : Port → Port) : (updP s p f).routes = s.routes := rfl
@[simp] theorem updP_groups (p : Fin 16) (f : Port → Port) : (updP s p f).groups = s.groups := rfl
@[simp] theorem updP_early (p : Fin 16) (f : Port → Port) : (updP s p f).early = s.early := rfl
@[simp] theorem updP_looped (p : Fin 16) (f : Port → Port) : (updP s p f).looped = s.looped := rfl
@[simp] theorem updP_resetCause (p : Fin 16) (f : Port → Port) : (updP s p f).resetCause = s.resetCause := rfl
@[simp] theorem updP_bl (p : Fin 16) (f : Port → Port) : (updP s p f).bl = s.bl := rfl
@[simp] theorem updP_t1Init (p : Fin 16) (f : Port → Port) : (updP s p f).t1Init = s.t1Init := rfl
@[simp] theorem updP_t2Init (p : Fin 16) (f : Port → Port) : (updP s p f).t2Init = s.t2Init := rfl
@[simp] theorem updP_ueAddr (p : Fin 16) (f : Port → Port) : (updP s p f).ueAddr = s.ueAddr := rfl
@[simp] theorem updP_jobFatal (p : Fin 16) (f : Port → Port) : (updP s p f).jobFatal = s.jobFatal := rfl
@[simp] theorem updP_fatal (p : Fin 16) (f : Port → Port) : (updP s p f).fatal = s.fatal := rfl
@[simp] theorem updP_mbx (p : Fin 16) (f : Port → Port) : (updP s p f).mbx = s.mbx := rfl
@[simp] theorem updP_inService (p : Fin 16) (f : Port → Port) : (updP s p f).inService = s.inService := rfl
@[simp] theorem updP_engines (p : Fin 16) (f : Port → Port) : (updP s p f).engines = s.engines := rfl
@[simp] theorem updP_fuses (p : Fin 16) (f : Port → Port) : (updP s p f).fuses = s.fuses := rfl
@[simp] theorem updP_eddies (p : Fin 16) (f : Port → Port) : (updP s p f).eddies = s.eddies := rfl
@[simp] theorem updP_eddyCrc (p : Fin 16) (f : Port → Port) : (updP s p f).eddyCrc = s.eddyCrc := rfl
@[simp] theorem updP_eddyLoaded (p : Fin 16) (f : Port → Port) : (updP s p f).eddyLoaded = s.eddyLoaded := rfl
@[simp] theorem updP_bist (p : Fin 16) (f : Port → Port) : (updP s p f).bist = s.bist := rfl
@[simp] theorem updP_programs (p : Fin 16) (f : Port → Port) : (updP s p f).programs = s.programs := rfl
@[simp] theorem updP_progCrc (p : Fin 16) (f : Port → Port) : (updP s p f).progCrc = s.progCrc := rfl
@[simp] theorem updP_cores (p : Fin 16) (f : Port → Port) : (updP s p f).cores = s.cores := rfl
@[simp] theorem updP_snap (p : Fin 16) (f : Port → Port) : (updP s p f).snap = s.snap := rfl
@[simp] theorem updP_power (p : Fin 16) (f : Port → Port) : (updP s p f).power = s.power := rfl
@[simp] theorem updP_serial (p : Fin 16) (f : Port → Port) : (updP s p f).serial = s.serial := rfl
@[simp] theorem updP_stepping (p : Fin 16) (f : Port → Port) : (updP s p f).stepping = s.stepping := rfl
@[simp] theorem updP_otp (p : Fin 16) (f : Port → Port) : (updP s p f).otp = s.otp := rfl
@[simp] theorem updP_flash (p : Fin 16) (f : Port → Port) : (updP s p f).flash = s.flash := rfl
@[simp] theorem updP_boot (p : Fin 16) (f : Port → Port) : (updP s p f).boot = s.boot := rfl
@[simp] theorem updP_puf (p : Fin 16) (f : Port → Port) : (updP s p f).puf = s.puf := rfl
@[simp] theorem updP_romRoot (p : Fin 16) (f : Port → Port) : (updP s p f).romRoot = s.romRoot := rfl
@[simp] theorem updP_idKey (p : Fin 16) (f : Port → Port) : (updP s p f).idKey = s.idKey := rfl
@[simp] theorem updP_t1key (p : Fin 16) (f : Port → Port) : (updP s p f).t1key = s.t1key := rfl
@[simp] theorem updP_t2key (p : Fin 16) (f : Port → Port) : (updP s p f).t2key = s.t2key := rfl
@[simp] theorem updP_unlocked (p : Fin 16) (f : Port → Port) : (updP s p f).unlocked = s.unlocked := rfl
@[simp] theorem updP_measLog (p : Fin 16) (f : Port → Port) : (updP s p f).measLog = s.measLog := rfl
@[simp] theorem updP_sessions (p : Fin 16) (f : Port → Port) : (updP s p f).sessions = s.sessions := rfl
@[simp] theorem updP_jobClear (p : Fin 16) (f : Port → Port) : (updP s p f).jobClear = s.jobClear := rfl
@[simp] theorem updP_mgmt (p : Fin 16) (f : Port → Port) : (updP s p f).mgmt = s.mgmt := rfl
@[simp] theorem updP_cfg (p : Fin 16) (f : Port → Port) : (updP s p f).cfg = s.cfg := rfl
@[simp] theorem updP_alert (p : Fin 16) (f : Port → Port) : (updP s p f).alert = s.alert := rfl
@[simp] theorem updP_perst (p : Fin 16) (f : Port → Port) : (updP s p f).perst = s.perst := rfl
@[simp] theorem updP_pwrEn (p : Fin 16) (f : Port → Port) : (updP s p f).pwrEn = s.pwrEn := rfl
@[simp] theorem updP_loopOpen (p : Fin 16) (f : Port → Port) : (updP s p f).loopOpen = s.loopOpen := rfl
@[simp] theorem updP_ide (p : Fin 16) (f : Port → Port) : (updP s p f).ide = s.ide := rfl
@[simp] theorem updP_msix (p : Fin 16) (f : Port → Port) : (updP s p f).msix = s.msix := rfl
@[simp] theorem updP_msixPending (p : Fin 16) (f : Port → Port) : (updP s p f).msixPending = s.msixPending := rfl
@[simp] theorem updP_t3key (p : Fin 16) (f : Port → Port) : (updP s p f).t3key = s.t3key := rfl
@[simp] theorem updP_outbox (p : Fin 16) (f : Port → Port) : (updP s p f).outbox = s.outbox := rfl

/-! ### updG -/
@[simp] theorem updG_pending (n : Nat) (f : Group → Group) : (updG s n f).pending = s.pending := rfl
@[simp] theorem updG_phase (n : Nat) (f : Group → Group) : (updG s n f).phase = s.phase := rfl
@[simp] theorem updG_fresh (n : Nat) (f : Group → Group) : (updG s n f).fresh = s.fresh := rfl
@[simp] theorem updG_regs (n : Nat) (f : Group → Group) : (updG s n f).regs = s.regs := rfl
@[simp] theorem updG_mem (n : Nat) (f : Group → Group) : (updG s n f).mem = s.mem := rfl
@[simp] theorem updG_poison (n : Nat) (f : Group → Group) : (updG s n f).poison = s.poison := rfl
@[simp] theorem updG_t3 (n : Nat) (f : Group → Group) : (updG s n f).t3 = s.t3 := rfl
@[simp] theorem updG_queues (n : Nat) (f : Group → Group) : (updG s n f).queues = s.queues := rfl
@[simp] theorem updG_tokens (n : Nat) (f : Group → Group) : (updG s n f).tokens = s.tokens := rfl
@[simp] theorem updG_events (n : Nat) (f : Group → Group) : (updG s n f).events = s.events := rfl
@[simp] theorem updG_evWait (n : Nat) (f : Group → Group) : (updG s n f).evWait = s.evWait := rfl
@[simp] theorem updG_evTail (n : Nat) (f : Group → Group) : (updG s n f).evTail = s.evTail := rfl
@[simp] theorem updG_evHead (n : Nat) (f : Group → Group) : (updG s n f).evHead = s.evHead := rfl
@[simp] theorem updG_evLost (n : Nat) (f : Group → Group) : (updG s n f).evLost = s.evLost := rfl
@[simp] theorem updG_rclamp (n : Nat) (f : Group → Group) : (updG s n f).rclamp = s.rclamp := rfl
@[simp] theorem updG_halts (n : Nat) (f : Group → Group) : (updG s n f).halts = s.halts := rfl
@[simp] theorem updG_haltCount (n : Nat) (f : Group → Group) : (updG s n f).haltCount = s.haltCount := rfl
@[simp] theorem updG_haltSeen (n : Nat) (f : Group → Group) : (updG s n f).haltSeen = s.haltSeen := rfl
@[simp] theorem updG_gauge (n : Nat) (f : Group → Group) : (updG s n f).gauge = s.gauge := rfl
@[simp] theorem updG_ports (n : Nat) (f : Group → Group) : (updG s n f).ports = s.ports := rfl
@[simp] theorem updG_routes (n : Nat) (f : Group → Group) : (updG s n f).routes = s.routes := rfl
@[simp] theorem updG_groups (n : Nat) (f : Group → Group) : (updG s n f).groups = s.groups.set (grpFin n) (f (grpOf s n)) := rfl
@[simp] theorem updG_early (n : Nat) (f : Group → Group) : (updG s n f).early = s.early := rfl
@[simp] theorem updG_looped (n : Nat) (f : Group → Group) : (updG s n f).looped = s.looped := rfl
@[simp] theorem updG_resetCause (n : Nat) (f : Group → Group) : (updG s n f).resetCause = s.resetCause := rfl
@[simp] theorem updG_bl (n : Nat) (f : Group → Group) : (updG s n f).bl = s.bl := rfl
@[simp] theorem updG_t1Init (n : Nat) (f : Group → Group) : (updG s n f).t1Init = s.t1Init := rfl
@[simp] theorem updG_t2Init (n : Nat) (f : Group → Group) : (updG s n f).t2Init = s.t2Init := rfl
@[simp] theorem updG_ueAddr (n : Nat) (f : Group → Group) : (updG s n f).ueAddr = s.ueAddr := rfl
@[simp] theorem updG_jobFatal (n : Nat) (f : Group → Group) : (updG s n f).jobFatal = s.jobFatal := rfl
@[simp] theorem updG_fatal (n : Nat) (f : Group → Group) : (updG s n f).fatal = s.fatal := rfl
@[simp] theorem updG_mbx (n : Nat) (f : Group → Group) : (updG s n f).mbx = s.mbx := rfl
@[simp] theorem updG_inService (n : Nat) (f : Group → Group) : (updG s n f).inService = s.inService := rfl
@[simp] theorem updG_engines (n : Nat) (f : Group → Group) : (updG s n f).engines = s.engines := rfl
@[simp] theorem updG_fuses (n : Nat) (f : Group → Group) : (updG s n f).fuses = s.fuses := rfl
@[simp] theorem updG_eddies (n : Nat) (f : Group → Group) : (updG s n f).eddies = s.eddies := rfl
@[simp] theorem updG_eddyCrc (n : Nat) (f : Group → Group) : (updG s n f).eddyCrc = s.eddyCrc := rfl
@[simp] theorem updG_eddyLoaded (n : Nat) (f : Group → Group) : (updG s n f).eddyLoaded = s.eddyLoaded := rfl
@[simp] theorem updG_bist (n : Nat) (f : Group → Group) : (updG s n f).bist = s.bist := rfl
@[simp] theorem updG_programs (n : Nat) (f : Group → Group) : (updG s n f).programs = s.programs := rfl
@[simp] theorem updG_progCrc (n : Nat) (f : Group → Group) : (updG s n f).progCrc = s.progCrc := rfl
@[simp] theorem updG_cores (n : Nat) (f : Group → Group) : (updG s n f).cores = s.cores := rfl
@[simp] theorem updG_snap (n : Nat) (f : Group → Group) : (updG s n f).snap = s.snap := rfl
@[simp] theorem updG_power (n : Nat) (f : Group → Group) : (updG s n f).power = s.power := rfl
@[simp] theorem updG_serial (n : Nat) (f : Group → Group) : (updG s n f).serial = s.serial := rfl
@[simp] theorem updG_stepping (n : Nat) (f : Group → Group) : (updG s n f).stepping = s.stepping := rfl
@[simp] theorem updG_otp (n : Nat) (f : Group → Group) : (updG s n f).otp = s.otp := rfl
@[simp] theorem updG_flash (n : Nat) (f : Group → Group) : (updG s n f).flash = s.flash := rfl
@[simp] theorem updG_boot (n : Nat) (f : Group → Group) : (updG s n f).boot = s.boot := rfl
@[simp] theorem updG_puf (n : Nat) (f : Group → Group) : (updG s n f).puf = s.puf := rfl
@[simp] theorem updG_romRoot (n : Nat) (f : Group → Group) : (updG s n f).romRoot = s.romRoot := rfl
@[simp] theorem updG_idKey (n : Nat) (f : Group → Group) : (updG s n f).idKey = s.idKey := rfl
@[simp] theorem updG_t1key (n : Nat) (f : Group → Group) : (updG s n f).t1key = s.t1key := rfl
@[simp] theorem updG_t2key (n : Nat) (f : Group → Group) : (updG s n f).t2key = s.t2key := rfl
@[simp] theorem updG_unlocked (n : Nat) (f : Group → Group) : (updG s n f).unlocked = s.unlocked := rfl
@[simp] theorem updG_measLog (n : Nat) (f : Group → Group) : (updG s n f).measLog = s.measLog := rfl
@[simp] theorem updG_sessions (n : Nat) (f : Group → Group) : (updG s n f).sessions = s.sessions := rfl
@[simp] theorem updG_jobClear (n : Nat) (f : Group → Group) : (updG s n f).jobClear = s.jobClear := rfl
@[simp] theorem updG_mgmt (n : Nat) (f : Group → Group) : (updG s n f).mgmt = s.mgmt := rfl
@[simp] theorem updG_cfg (n : Nat) (f : Group → Group) : (updG s n f).cfg = s.cfg := rfl
@[simp] theorem updG_alert (n : Nat) (f : Group → Group) : (updG s n f).alert = s.alert := rfl
@[simp] theorem updG_perst (n : Nat) (f : Group → Group) : (updG s n f).perst = s.perst := rfl
@[simp] theorem updG_pwrEn (n : Nat) (f : Group → Group) : (updG s n f).pwrEn = s.pwrEn := rfl
@[simp] theorem updG_loopOpen (n : Nat) (f : Group → Group) : (updG s n f).loopOpen = s.loopOpen := rfl
@[simp] theorem updG_ide (n : Nat) (f : Group → Group) : (updG s n f).ide = s.ide := rfl
@[simp] theorem updG_msix (n : Nat) (f : Group → Group) : (updG s n f).msix = s.msix := rfl
@[simp] theorem updG_msixPending (n : Nat) (f : Group → Group) : (updG s n f).msixPending = s.msixPending := rfl
@[simp] theorem updG_t3key (n : Nat) (f : Group → Group) : (updG s n f).t3key = s.t3key := rfl
@[simp] theorem updG_outbox (n : Nat) (f : Group → Group) : (updG s n f).outbox = s.outbox := rfl

/-! ### updE -/
@[simp] theorem updE_pending (e : Fin 96) (f : Engine → Engine) : (updE s e f).pending = s.pending := rfl
@[simp] theorem updE_phase (e : Fin 96) (f : Engine → Engine) : (updE s e f).phase = s.phase := rfl
@[simp] theorem updE_fresh (e : Fin 96) (f : Engine → Engine) : (updE s e f).fresh = s.fresh := rfl
@[simp] theorem updE_regs (e : Fin 96) (f : Engine → Engine) : (updE s e f).regs = s.regs := rfl
@[simp] theorem updE_mem (e : Fin 96) (f : Engine → Engine) : (updE s e f).mem = s.mem := rfl
@[simp] theorem updE_poison (e : Fin 96) (f : Engine → Engine) : (updE s e f).poison = s.poison := rfl
@[simp] theorem updE_t3 (e : Fin 96) (f : Engine → Engine) : (updE s e f).t3 = s.t3 := rfl
@[simp] theorem updE_queues (e : Fin 96) (f : Engine → Engine) : (updE s e f).queues = s.queues := rfl
@[simp] theorem updE_tokens (e : Fin 96) (f : Engine → Engine) : (updE s e f).tokens = s.tokens := rfl
@[simp] theorem updE_events (e : Fin 96) (f : Engine → Engine) : (updE s e f).events = s.events := rfl
@[simp] theorem updE_evWait (e : Fin 96) (f : Engine → Engine) : (updE s e f).evWait = s.evWait := rfl
@[simp] theorem updE_evTail (e : Fin 96) (f : Engine → Engine) : (updE s e f).evTail = s.evTail := rfl
@[simp] theorem updE_evHead (e : Fin 96) (f : Engine → Engine) : (updE s e f).evHead = s.evHead := rfl
@[simp] theorem updE_evLost (e : Fin 96) (f : Engine → Engine) : (updE s e f).evLost = s.evLost := rfl
@[simp] theorem updE_rclamp (e : Fin 96) (f : Engine → Engine) : (updE s e f).rclamp = s.rclamp := rfl
@[simp] theorem updE_halts (e : Fin 96) (f : Engine → Engine) : (updE s e f).halts = s.halts := rfl
@[simp] theorem updE_haltCount (e : Fin 96) (f : Engine → Engine) : (updE s e f).haltCount = s.haltCount := rfl
@[simp] theorem updE_haltSeen (e : Fin 96) (f : Engine → Engine) : (updE s e f).haltSeen = s.haltSeen := rfl
@[simp] theorem updE_gauge (e : Fin 96) (f : Engine → Engine) : (updE s e f).gauge = s.gauge := rfl
@[simp] theorem updE_ports (e : Fin 96) (f : Engine → Engine) : (updE s e f).ports = s.ports := rfl
@[simp] theorem updE_routes (e : Fin 96) (f : Engine → Engine) : (updE s e f).routes = s.routes := rfl
@[simp] theorem updE_groups (e : Fin 96) (f : Engine → Engine) : (updE s e f).groups = s.groups := rfl
@[simp] theorem updE_early (e : Fin 96) (f : Engine → Engine) : (updE s e f).early = s.early := rfl
@[simp] theorem updE_looped (e : Fin 96) (f : Engine → Engine) : (updE s e f).looped = s.looped := rfl
@[simp] theorem updE_resetCause (e : Fin 96) (f : Engine → Engine) : (updE s e f).resetCause = s.resetCause := rfl
@[simp] theorem updE_bl (e : Fin 96) (f : Engine → Engine) : (updE s e f).bl = s.bl := rfl
@[simp] theorem updE_t1Init (e : Fin 96) (f : Engine → Engine) : (updE s e f).t1Init = s.t1Init := rfl
@[simp] theorem updE_t2Init (e : Fin 96) (f : Engine → Engine) : (updE s e f).t2Init = s.t2Init := rfl
@[simp] theorem updE_ueAddr (e : Fin 96) (f : Engine → Engine) : (updE s e f).ueAddr = s.ueAddr := rfl
@[simp] theorem updE_jobFatal (e : Fin 96) (f : Engine → Engine) : (updE s e f).jobFatal = s.jobFatal := rfl
@[simp] theorem updE_fatal (e : Fin 96) (f : Engine → Engine) : (updE s e f).fatal = s.fatal := rfl
@[simp] theorem updE_mbx (e : Fin 96) (f : Engine → Engine) : (updE s e f).mbx = s.mbx := rfl
@[simp] theorem updE_inService (e : Fin 96) (f : Engine → Engine) : (updE s e f).inService = s.inService := rfl
@[simp] theorem updE_engines (e : Fin 96) (f : Engine → Engine) : (updE s e f).engines = s.engines.set e (f s.engines[e]) := rfl
@[simp] theorem updE_fuses (e : Fin 96) (f : Engine → Engine) : (updE s e f).fuses = s.fuses := rfl
@[simp] theorem updE_eddies (e : Fin 96) (f : Engine → Engine) : (updE s e f).eddies = s.eddies := rfl
@[simp] theorem updE_eddyCrc (e : Fin 96) (f : Engine → Engine) : (updE s e f).eddyCrc = s.eddyCrc := rfl
@[simp] theorem updE_eddyLoaded (e : Fin 96) (f : Engine → Engine) : (updE s e f).eddyLoaded = s.eddyLoaded := rfl
@[simp] theorem updE_bist (e : Fin 96) (f : Engine → Engine) : (updE s e f).bist = s.bist := rfl
@[simp] theorem updE_programs (e : Fin 96) (f : Engine → Engine) : (updE s e f).programs = s.programs := rfl
@[simp] theorem updE_progCrc (e : Fin 96) (f : Engine → Engine) : (updE s e f).progCrc = s.progCrc := rfl
@[simp] theorem updE_cores (e : Fin 96) (f : Engine → Engine) : (updE s e f).cores = s.cores := rfl
@[simp] theorem updE_snap (e : Fin 96) (f : Engine → Engine) : (updE s e f).snap = s.snap := rfl
@[simp] theorem updE_power (e : Fin 96) (f : Engine → Engine) : (updE s e f).power = s.power := rfl
@[simp] theorem updE_serial (e : Fin 96) (f : Engine → Engine) : (updE s e f).serial = s.serial := rfl
@[simp] theorem updE_stepping (e : Fin 96) (f : Engine → Engine) : (updE s e f).stepping = s.stepping := rfl
@[simp] theorem updE_otp (e : Fin 96) (f : Engine → Engine) : (updE s e f).otp = s.otp := rfl
@[simp] theorem updE_flash (e : Fin 96) (f : Engine → Engine) : (updE s e f).flash = s.flash := rfl
@[simp] theorem updE_boot (e : Fin 96) (f : Engine → Engine) : (updE s e f).boot = s.boot := rfl
@[simp] theorem updE_puf (e : Fin 96) (f : Engine → Engine) : (updE s e f).puf = s.puf := rfl
@[simp] theorem updE_romRoot (e : Fin 96) (f : Engine → Engine) : (updE s e f).romRoot = s.romRoot := rfl
@[simp] theorem updE_idKey (e : Fin 96) (f : Engine → Engine) : (updE s e f).idKey = s.idKey := rfl
@[simp] theorem updE_t1key (e : Fin 96) (f : Engine → Engine) : (updE s e f).t1key = s.t1key := rfl
@[simp] theorem updE_t2key (e : Fin 96) (f : Engine → Engine) : (updE s e f).t2key = s.t2key := rfl
@[simp] theorem updE_unlocked (e : Fin 96) (f : Engine → Engine) : (updE s e f).unlocked = s.unlocked := rfl
@[simp] theorem updE_measLog (e : Fin 96) (f : Engine → Engine) : (updE s e f).measLog = s.measLog := rfl
@[simp] theorem updE_sessions (e : Fin 96) (f : Engine → Engine) : (updE s e f).sessions = s.sessions := rfl
@[simp] theorem updE_jobClear (e : Fin 96) (f : Engine → Engine) : (updE s e f).jobClear = s.jobClear := rfl
@[simp] theorem updE_mgmt (e : Fin 96) (f : Engine → Engine) : (updE s e f).mgmt = s.mgmt := rfl
@[simp] theorem updE_cfg (e : Fin 96) (f : Engine → Engine) : (updE s e f).cfg = s.cfg := rfl
@[simp] theorem updE_alert (e : Fin 96) (f : Engine → Engine) : (updE s e f).alert = s.alert := rfl
@[simp] theorem updE_perst (e : Fin 96) (f : Engine → Engine) : (updE s e f).perst = s.perst := rfl
@[simp] theorem updE_pwrEn (e : Fin 96) (f : Engine → Engine) : (updE s e f).pwrEn = s.pwrEn := rfl
@[simp] theorem updE_loopOpen (e : Fin 96) (f : Engine → Engine) : (updE s e f).loopOpen = s.loopOpen := rfl
@[simp] theorem updE_ide (e : Fin 96) (f : Engine → Engine) : (updE s e f).ide = s.ide := rfl
@[simp] theorem updE_msix (e : Fin 96) (f : Engine → Engine) : (updE s e f).msix = s.msix := rfl
@[simp] theorem updE_msixPending (e : Fin 96) (f : Engine → Engine) : (updE s e f).msixPending = s.msixPending := rfl
@[simp] theorem updE_t3key (e : Fin 96) (f : Engine → Engine) : (updE s e f).t3key = s.t3key := rfl
@[simp] theorem updE_outbox (e : Fin 96) (f : Engine → Engine) : (updE s e f).outbox = s.outbox := rfl

/-! ### updCore -/
@[simp] theorem updCore_pending (c : Fin 16) (f : Core → Core) : (updCore s c f).pending = s.pending := rfl
@[simp] theorem updCore_phase (c : Fin 16) (f : Core → Core) : (updCore s c f).phase = s.phase := rfl
@[simp] theorem updCore_fresh (c : Fin 16) (f : Core → Core) : (updCore s c f).fresh = s.fresh := rfl
@[simp] theorem updCore_regs (c : Fin 16) (f : Core → Core) : (updCore s c f).regs = s.regs := rfl
@[simp] theorem updCore_mem (c : Fin 16) (f : Core → Core) : (updCore s c f).mem = s.mem := rfl
@[simp] theorem updCore_poison (c : Fin 16) (f : Core → Core) : (updCore s c f).poison = s.poison := rfl
@[simp] theorem updCore_t3 (c : Fin 16) (f : Core → Core) : (updCore s c f).t3 = s.t3 := rfl
@[simp] theorem updCore_queues (c : Fin 16) (f : Core → Core) : (updCore s c f).queues = s.queues := rfl
@[simp] theorem updCore_tokens (c : Fin 16) (f : Core → Core) : (updCore s c f).tokens = s.tokens := rfl
@[simp] theorem updCore_events (c : Fin 16) (f : Core → Core) : (updCore s c f).events = s.events := rfl
@[simp] theorem updCore_evWait (c : Fin 16) (f : Core → Core) : (updCore s c f).evWait = s.evWait := rfl
@[simp] theorem updCore_evTail (c : Fin 16) (f : Core → Core) : (updCore s c f).evTail = s.evTail := rfl
@[simp] theorem updCore_evHead (c : Fin 16) (f : Core → Core) : (updCore s c f).evHead = s.evHead := rfl
@[simp] theorem updCore_evLost (c : Fin 16) (f : Core → Core) : (updCore s c f).evLost = s.evLost := rfl
@[simp] theorem updCore_rclamp (c : Fin 16) (f : Core → Core) : (updCore s c f).rclamp = s.rclamp := rfl
@[simp] theorem updCore_halts (c : Fin 16) (f : Core → Core) : (updCore s c f).halts = s.halts := rfl
@[simp] theorem updCore_haltCount (c : Fin 16) (f : Core → Core) : (updCore s c f).haltCount = s.haltCount := rfl
@[simp] theorem updCore_haltSeen (c : Fin 16) (f : Core → Core) : (updCore s c f).haltSeen = s.haltSeen := rfl
@[simp] theorem updCore_gauge (c : Fin 16) (f : Core → Core) : (updCore s c f).gauge = s.gauge := rfl
@[simp] theorem updCore_ports (c : Fin 16) (f : Core → Core) : (updCore s c f).ports = s.ports := rfl
@[simp] theorem updCore_routes (c : Fin 16) (f : Core → Core) : (updCore s c f).routes = s.routes := rfl
@[simp] theorem updCore_groups (c : Fin 16) (f : Core → Core) : (updCore s c f).groups = s.groups := rfl
@[simp] theorem updCore_early (c : Fin 16) (f : Core → Core) : (updCore s c f).early = s.early := rfl
@[simp] theorem updCore_looped (c : Fin 16) (f : Core → Core) : (updCore s c f).looped = s.looped := rfl
@[simp] theorem updCore_resetCause (c : Fin 16) (f : Core → Core) : (updCore s c f).resetCause = s.resetCause := rfl
@[simp] theorem updCore_bl (c : Fin 16) (f : Core → Core) : (updCore s c f).bl = s.bl := rfl
@[simp] theorem updCore_t1Init (c : Fin 16) (f : Core → Core) : (updCore s c f).t1Init = s.t1Init := rfl
@[simp] theorem updCore_t2Init (c : Fin 16) (f : Core → Core) : (updCore s c f).t2Init = s.t2Init := rfl
@[simp] theorem updCore_ueAddr (c : Fin 16) (f : Core → Core) : (updCore s c f).ueAddr = s.ueAddr := rfl
@[simp] theorem updCore_jobFatal (c : Fin 16) (f : Core → Core) : (updCore s c f).jobFatal = s.jobFatal := rfl
@[simp] theorem updCore_fatal (c : Fin 16) (f : Core → Core) : (updCore s c f).fatal = s.fatal := rfl
@[simp] theorem updCore_mbx (c : Fin 16) (f : Core → Core) : (updCore s c f).mbx = s.mbx := rfl
@[simp] theorem updCore_inService (c : Fin 16) (f : Core → Core) : (updCore s c f).inService = s.inService := rfl
@[simp] theorem updCore_engines (c : Fin 16) (f : Core → Core) : (updCore s c f).engines = s.engines := rfl
@[simp] theorem updCore_fuses (c : Fin 16) (f : Core → Core) : (updCore s c f).fuses = s.fuses := rfl
@[simp] theorem updCore_eddies (c : Fin 16) (f : Core → Core) : (updCore s c f).eddies = s.eddies := rfl
@[simp] theorem updCore_eddyCrc (c : Fin 16) (f : Core → Core) : (updCore s c f).eddyCrc = s.eddyCrc := rfl
@[simp] theorem updCore_eddyLoaded (c : Fin 16) (f : Core → Core) : (updCore s c f).eddyLoaded = s.eddyLoaded := rfl
@[simp] theorem updCore_bist (c : Fin 16) (f : Core → Core) : (updCore s c f).bist = s.bist := rfl
@[simp] theorem updCore_programs (c : Fin 16) (f : Core → Core) : (updCore s c f).programs = s.programs := rfl
@[simp] theorem updCore_progCrc (c : Fin 16) (f : Core → Core) : (updCore s c f).progCrc = s.progCrc := rfl
@[simp] theorem updCore_cores (c : Fin 16) (f : Core → Core) : (updCore s c f).cores = s.cores.set c (f s.cores[c]) := rfl
@[simp] theorem updCore_snap (c : Fin 16) (f : Core → Core) : (updCore s c f).snap = s.snap := rfl
@[simp] theorem updCore_power (c : Fin 16) (f : Core → Core) : (updCore s c f).power = s.power := rfl
@[simp] theorem updCore_serial (c : Fin 16) (f : Core → Core) : (updCore s c f).serial = s.serial := rfl
@[simp] theorem updCore_stepping (c : Fin 16) (f : Core → Core) : (updCore s c f).stepping = s.stepping := rfl
@[simp] theorem updCore_otp (c : Fin 16) (f : Core → Core) : (updCore s c f).otp = s.otp := rfl
@[simp] theorem updCore_flash (c : Fin 16) (f : Core → Core) : (updCore s c f).flash = s.flash := rfl
@[simp] theorem updCore_boot (c : Fin 16) (f : Core → Core) : (updCore s c f).boot = s.boot := rfl
@[simp] theorem updCore_puf (c : Fin 16) (f : Core → Core) : (updCore s c f).puf = s.puf := rfl
@[simp] theorem updCore_romRoot (c : Fin 16) (f : Core → Core) : (updCore s c f).romRoot = s.romRoot := rfl
@[simp] theorem updCore_idKey (c : Fin 16) (f : Core → Core) : (updCore s c f).idKey = s.idKey := rfl
@[simp] theorem updCore_t1key (c : Fin 16) (f : Core → Core) : (updCore s c f).t1key = s.t1key := rfl
@[simp] theorem updCore_t2key (c : Fin 16) (f : Core → Core) : (updCore s c f).t2key = s.t2key := rfl
@[simp] theorem updCore_unlocked (c : Fin 16) (f : Core → Core) : (updCore s c f).unlocked = s.unlocked := rfl
@[simp] theorem updCore_measLog (c : Fin 16) (f : Core → Core) : (updCore s c f).measLog = s.measLog := rfl
@[simp] theorem updCore_sessions (c : Fin 16) (f : Core → Core) : (updCore s c f).sessions = s.sessions := rfl
@[simp] theorem updCore_jobClear (c : Fin 16) (f : Core → Core) : (updCore s c f).jobClear = s.jobClear := rfl
@[simp] theorem updCore_mgmt (c : Fin 16) (f : Core → Core) : (updCore s c f).mgmt = s.mgmt := rfl
@[simp] theorem updCore_cfg (c : Fin 16) (f : Core → Core) : (updCore s c f).cfg = s.cfg := rfl
@[simp] theorem updCore_alert (c : Fin 16) (f : Core → Core) : (updCore s c f).alert = s.alert := rfl
@[simp] theorem updCore_perst (c : Fin 16) (f : Core → Core) : (updCore s c f).perst = s.perst := rfl
@[simp] theorem updCore_pwrEn (c : Fin 16) (f : Core → Core) : (updCore s c f).pwrEn = s.pwrEn := rfl
@[simp] theorem updCore_loopOpen (c : Fin 16) (f : Core → Core) : (updCore s c f).loopOpen = s.loopOpen := rfl
@[simp] theorem updCore_ide (c : Fin 16) (f : Core → Core) : (updCore s c f).ide = s.ide := rfl
@[simp] theorem updCore_msix (c : Fin 16) (f : Core → Core) : (updCore s c f).msix = s.msix := rfl
@[simp] theorem updCore_msixPending (c : Fin 16) (f : Core → Core) : (updCore s c f).msixPending = s.msixPending := rfl
@[simp] theorem updCore_t3key (c : Fin 16) (f : Core → Core) : (updCore s c f).t3key = s.t3key := rfl
@[simp] theorem updCore_outbox (c : Fin 16) (f : Core → Core) : (updCore s c f).outbox = s.outbox := rfl

/-! ### updGauge -/
@[simp] theorem updGauge_pending (f : Gauge → Gauge) : (updGauge s f).pending = s.pending := rfl
@[simp] theorem updGauge_phase (f : Gauge → Gauge) : (updGauge s f).phase = s.phase := rfl
@[simp] theorem updGauge_fresh (f : Gauge → Gauge) : (updGauge s f).fresh = s.fresh := rfl
@[simp] theorem updGauge_regs (f : Gauge → Gauge) : (updGauge s f).regs = s.regs := rfl
@[simp] theorem updGauge_mem (f : Gauge → Gauge) : (updGauge s f).mem = s.mem := rfl
@[simp] theorem updGauge_poison (f : Gauge → Gauge) : (updGauge s f).poison = s.poison := rfl
@[simp] theorem updGauge_t3 (f : Gauge → Gauge) : (updGauge s f).t3 = s.t3 := rfl
@[simp] theorem updGauge_queues (f : Gauge → Gauge) : (updGauge s f).queues = s.queues := rfl
@[simp] theorem updGauge_tokens (f : Gauge → Gauge) : (updGauge s f).tokens = s.tokens := rfl
@[simp] theorem updGauge_events (f : Gauge → Gauge) : (updGauge s f).events = s.events := rfl
@[simp] theorem updGauge_evWait (f : Gauge → Gauge) : (updGauge s f).evWait = s.evWait := rfl
@[simp] theorem updGauge_evTail (f : Gauge → Gauge) : (updGauge s f).evTail = s.evTail := rfl
@[simp] theorem updGauge_evHead (f : Gauge → Gauge) : (updGauge s f).evHead = s.evHead := rfl
@[simp] theorem updGauge_evLost (f : Gauge → Gauge) : (updGauge s f).evLost = s.evLost := rfl
@[simp] theorem updGauge_rclamp (f : Gauge → Gauge) : (updGauge s f).rclamp = s.rclamp := rfl
@[simp] theorem updGauge_halts (f : Gauge → Gauge) : (updGauge s f).halts = s.halts := rfl
@[simp] theorem updGauge_haltCount (f : Gauge → Gauge) : (updGauge s f).haltCount = s.haltCount := rfl
@[simp] theorem updGauge_haltSeen (f : Gauge → Gauge) : (updGauge s f).haltSeen = s.haltSeen := rfl
@[simp] theorem updGauge_gauge (f : Gauge → Gauge) : (updGauge s f).gauge = f s.gauge := rfl
@[simp] theorem updGauge_ports (f : Gauge → Gauge) : (updGauge s f).ports = s.ports := rfl
@[simp] theorem updGauge_routes (f : Gauge → Gauge) : (updGauge s f).routes = s.routes := rfl
@[simp] theorem updGauge_groups (f : Gauge → Gauge) : (updGauge s f).groups = s.groups := rfl
@[simp] theorem updGauge_early (f : Gauge → Gauge) : (updGauge s f).early = s.early := rfl
@[simp] theorem updGauge_looped (f : Gauge → Gauge) : (updGauge s f).looped = s.looped := rfl
@[simp] theorem updGauge_resetCause (f : Gauge → Gauge) : (updGauge s f).resetCause = s.resetCause := rfl
@[simp] theorem updGauge_bl (f : Gauge → Gauge) : (updGauge s f).bl = s.bl := rfl
@[simp] theorem updGauge_t1Init (f : Gauge → Gauge) : (updGauge s f).t1Init = s.t1Init := rfl
@[simp] theorem updGauge_t2Init (f : Gauge → Gauge) : (updGauge s f).t2Init = s.t2Init := rfl
@[simp] theorem updGauge_ueAddr (f : Gauge → Gauge) : (updGauge s f).ueAddr = s.ueAddr := rfl
@[simp] theorem updGauge_jobFatal (f : Gauge → Gauge) : (updGauge s f).jobFatal = s.jobFatal := rfl
@[simp] theorem updGauge_fatal (f : Gauge → Gauge) : (updGauge s f).fatal = s.fatal := rfl
@[simp] theorem updGauge_mbx (f : Gauge → Gauge) : (updGauge s f).mbx = s.mbx := rfl
@[simp] theorem updGauge_inService (f : Gauge → Gauge) : (updGauge s f).inService = s.inService := rfl
@[simp] theorem updGauge_engines (f : Gauge → Gauge) : (updGauge s f).engines = s.engines := rfl
@[simp] theorem updGauge_fuses (f : Gauge → Gauge) : (updGauge s f).fuses = s.fuses := rfl
@[simp] theorem updGauge_eddies (f : Gauge → Gauge) : (updGauge s f).eddies = s.eddies := rfl
@[simp] theorem updGauge_eddyCrc (f : Gauge → Gauge) : (updGauge s f).eddyCrc = s.eddyCrc := rfl
@[simp] theorem updGauge_eddyLoaded (f : Gauge → Gauge) : (updGauge s f).eddyLoaded = s.eddyLoaded := rfl
@[simp] theorem updGauge_bist (f : Gauge → Gauge) : (updGauge s f).bist = s.bist := rfl
@[simp] theorem updGauge_programs (f : Gauge → Gauge) : (updGauge s f).programs = s.programs := rfl
@[simp] theorem updGauge_progCrc (f : Gauge → Gauge) : (updGauge s f).progCrc = s.progCrc := rfl
@[simp] theorem updGauge_cores (f : Gauge → Gauge) : (updGauge s f).cores = s.cores := rfl
@[simp] theorem updGauge_snap (f : Gauge → Gauge) : (updGauge s f).snap = s.snap := rfl
@[simp] theorem updGauge_power (f : Gauge → Gauge) : (updGauge s f).power = s.power := rfl
@[simp] theorem updGauge_serial (f : Gauge → Gauge) : (updGauge s f).serial = s.serial := rfl
@[simp] theorem updGauge_stepping (f : Gauge → Gauge) : (updGauge s f).stepping = s.stepping := rfl
@[simp] theorem updGauge_otp (f : Gauge → Gauge) : (updGauge s f).otp = s.otp := rfl
@[simp] theorem updGauge_flash (f : Gauge → Gauge) : (updGauge s f).flash = s.flash := rfl
@[simp] theorem updGauge_boot (f : Gauge → Gauge) : (updGauge s f).boot = s.boot := rfl
@[simp] theorem updGauge_puf (f : Gauge → Gauge) : (updGauge s f).puf = s.puf := rfl
@[simp] theorem updGauge_romRoot (f : Gauge → Gauge) : (updGauge s f).romRoot = s.romRoot := rfl
@[simp] theorem updGauge_idKey (f : Gauge → Gauge) : (updGauge s f).idKey = s.idKey := rfl
@[simp] theorem updGauge_t1key (f : Gauge → Gauge) : (updGauge s f).t1key = s.t1key := rfl
@[simp] theorem updGauge_t2key (f : Gauge → Gauge) : (updGauge s f).t2key = s.t2key := rfl
@[simp] theorem updGauge_unlocked (f : Gauge → Gauge) : (updGauge s f).unlocked = s.unlocked := rfl
@[simp] theorem updGauge_measLog (f : Gauge → Gauge) : (updGauge s f).measLog = s.measLog := rfl
@[simp] theorem updGauge_sessions (f : Gauge → Gauge) : (updGauge s f).sessions = s.sessions := rfl
@[simp] theorem updGauge_jobClear (f : Gauge → Gauge) : (updGauge s f).jobClear = s.jobClear := rfl
@[simp] theorem updGauge_mgmt (f : Gauge → Gauge) : (updGauge s f).mgmt = s.mgmt := rfl
@[simp] theorem updGauge_cfg (f : Gauge → Gauge) : (updGauge s f).cfg = s.cfg := rfl
@[simp] theorem updGauge_alert (f : Gauge → Gauge) : (updGauge s f).alert = s.alert := rfl
@[simp] theorem updGauge_perst (f : Gauge → Gauge) : (updGauge s f).perst = s.perst := rfl
@[simp] theorem updGauge_pwrEn (f : Gauge → Gauge) : (updGauge s f).pwrEn = s.pwrEn := rfl
@[simp] theorem updGauge_loopOpen (f : Gauge → Gauge) : (updGauge s f).loopOpen = s.loopOpen := rfl
@[simp] theorem updGauge_ide (f : Gauge → Gauge) : (updGauge s f).ide = s.ide := rfl
@[simp] theorem updGauge_msix (f : Gauge → Gauge) : (updGauge s f).msix = s.msix := rfl
@[simp] theorem updGauge_msixPending (f : Gauge → Gauge) : (updGauge s f).msixPending = s.msixPending := rfl
@[simp] theorem updGauge_t3key (f : Gauge → Gauge) : (updGauge s f).t3key = s.t3key := rfl
@[simp] theorem updGauge_outbox (f : Gauge → Gauge) : (updGauge s f).outbox = s.outbox := rfl

/-! ### outMsg -/
@[simp] theorem outMsg_pending (m : OutMsg) : (outMsg s m).pending = s.pending := rfl
@[simp] theorem outMsg_phase (m : OutMsg) : (outMsg s m).phase = s.phase := rfl
@[simp] theorem outMsg_fresh (m : OutMsg) : (outMsg s m).fresh = s.fresh := rfl
@[simp] theorem outMsg_regs (m : OutMsg) : (outMsg s m).regs = s.regs := rfl
@[simp] theorem outMsg_mem (m : OutMsg) : (outMsg s m).mem = s.mem := rfl
@[simp] theorem outMsg_poison (m : OutMsg) : (outMsg s m).poison = s.poison := rfl
@[simp] theorem outMsg_t3 (m : OutMsg) : (outMsg s m).t3 = s.t3 := rfl
@[simp] theorem outMsg_queues (m : OutMsg) : (outMsg s m).queues = s.queues := rfl
@[simp] theorem outMsg_tokens (m : OutMsg) : (outMsg s m).tokens = s.tokens := rfl
@[simp] theorem outMsg_events (m : OutMsg) : (outMsg s m).events = s.events := rfl
@[simp] theorem outMsg_evWait (m : OutMsg) : (outMsg s m).evWait = s.evWait := rfl
@[simp] theorem outMsg_evTail (m : OutMsg) : (outMsg s m).evTail = s.evTail := rfl
@[simp] theorem outMsg_evHead (m : OutMsg) : (outMsg s m).evHead = s.evHead := rfl
@[simp] theorem outMsg_evLost (m : OutMsg) : (outMsg s m).evLost = s.evLost := rfl
@[simp] theorem outMsg_rclamp (m : OutMsg) : (outMsg s m).rclamp = s.rclamp := rfl
@[simp] theorem outMsg_halts (m : OutMsg) : (outMsg s m).halts = s.halts := rfl
@[simp] theorem outMsg_haltCount (m : OutMsg) : (outMsg s m).haltCount = s.haltCount := rfl
@[simp] theorem outMsg_haltSeen (m : OutMsg) : (outMsg s m).haltSeen = s.haltSeen := rfl
@[simp] theorem outMsg_gauge (m : OutMsg) : (outMsg s m).gauge = s.gauge := rfl
@[simp] theorem outMsg_ports (m : OutMsg) : (outMsg s m).ports = s.ports := rfl
@[simp] theorem outMsg_routes (m : OutMsg) : (outMsg s m).routes = s.routes := rfl
@[simp] theorem outMsg_groups (m : OutMsg) : (outMsg s m).groups = s.groups := rfl
@[simp] theorem outMsg_early (m : OutMsg) : (outMsg s m).early = s.early := rfl
@[simp] theorem outMsg_looped (m : OutMsg) : (outMsg s m).looped = s.looped := rfl
@[simp] theorem outMsg_resetCause (m : OutMsg) : (outMsg s m).resetCause = s.resetCause := rfl
@[simp] theorem outMsg_bl (m : OutMsg) : (outMsg s m).bl = s.bl := rfl
@[simp] theorem outMsg_t1Init (m : OutMsg) : (outMsg s m).t1Init = s.t1Init := rfl
@[simp] theorem outMsg_t2Init (m : OutMsg) : (outMsg s m).t2Init = s.t2Init := rfl
@[simp] theorem outMsg_ueAddr (m : OutMsg) : (outMsg s m).ueAddr = s.ueAddr := rfl
@[simp] theorem outMsg_jobFatal (m : OutMsg) : (outMsg s m).jobFatal = s.jobFatal := rfl
@[simp] theorem outMsg_fatal (m : OutMsg) : (outMsg s m).fatal = s.fatal := rfl
@[simp] theorem outMsg_mbx (m : OutMsg) : (outMsg s m).mbx = s.mbx := rfl
@[simp] theorem outMsg_inService (m : OutMsg) : (outMsg s m).inService = s.inService := rfl
@[simp] theorem outMsg_engines (m : OutMsg) : (outMsg s m).engines = s.engines := rfl
@[simp] theorem outMsg_fuses (m : OutMsg) : (outMsg s m).fuses = s.fuses := rfl
@[simp] theorem outMsg_eddies (m : OutMsg) : (outMsg s m).eddies = s.eddies := rfl
@[simp] theorem outMsg_eddyCrc (m : OutMsg) : (outMsg s m).eddyCrc = s.eddyCrc := rfl
@[simp] theorem outMsg_eddyLoaded (m : OutMsg) : (outMsg s m).eddyLoaded = s.eddyLoaded := rfl
@[simp] theorem outMsg_bist (m : OutMsg) : (outMsg s m).bist = s.bist := rfl
@[simp] theorem outMsg_programs (m : OutMsg) : (outMsg s m).programs = s.programs := rfl
@[simp] theorem outMsg_progCrc (m : OutMsg) : (outMsg s m).progCrc = s.progCrc := rfl
@[simp] theorem outMsg_cores (m : OutMsg) : (outMsg s m).cores = s.cores := rfl
@[simp] theorem outMsg_snap (m : OutMsg) : (outMsg s m).snap = s.snap := rfl
@[simp] theorem outMsg_power (m : OutMsg) : (outMsg s m).power = s.power := rfl
@[simp] theorem outMsg_serial (m : OutMsg) : (outMsg s m).serial = s.serial := rfl
@[simp] theorem outMsg_stepping (m : OutMsg) : (outMsg s m).stepping = s.stepping := rfl
@[simp] theorem outMsg_otp (m : OutMsg) : (outMsg s m).otp = s.otp := rfl
@[simp] theorem outMsg_flash (m : OutMsg) : (outMsg s m).flash = s.flash := rfl
@[simp] theorem outMsg_boot (m : OutMsg) : (outMsg s m).boot = s.boot := rfl
@[simp] theorem outMsg_puf (m : OutMsg) : (outMsg s m).puf = s.puf := rfl
@[simp] theorem outMsg_romRoot (m : OutMsg) : (outMsg s m).romRoot = s.romRoot := rfl
@[simp] theorem outMsg_idKey (m : OutMsg) : (outMsg s m).idKey = s.idKey := rfl
@[simp] theorem outMsg_t1key (m : OutMsg) : (outMsg s m).t1key = s.t1key := rfl
@[simp] theorem outMsg_t2key (m : OutMsg) : (outMsg s m).t2key = s.t2key := rfl
@[simp] theorem outMsg_unlocked (m : OutMsg) : (outMsg s m).unlocked = s.unlocked := rfl
@[simp] theorem outMsg_measLog (m : OutMsg) : (outMsg s m).measLog = s.measLog := rfl
@[simp] theorem outMsg_sessions (m : OutMsg) : (outMsg s m).sessions = s.sessions := rfl
@[simp] theorem outMsg_jobClear (m : OutMsg) : (outMsg s m).jobClear = s.jobClear := rfl
@[simp] theorem outMsg_mgmt (m : OutMsg) : (outMsg s m).mgmt = s.mgmt := rfl
@[simp] theorem outMsg_cfg (m : OutMsg) : (outMsg s m).cfg = s.cfg := rfl
@[simp] theorem outMsg_alert (m : OutMsg) : (outMsg s m).alert = s.alert := rfl
@[simp] theorem outMsg_perst (m : OutMsg) : (outMsg s m).perst = s.perst := rfl
@[simp] theorem outMsg_pwrEn (m : OutMsg) : (outMsg s m).pwrEn = s.pwrEn := rfl
@[simp] theorem outMsg_loopOpen (m : OutMsg) : (outMsg s m).loopOpen = s.loopOpen := rfl
@[simp] theorem outMsg_ide (m : OutMsg) : (outMsg s m).ide = s.ide := rfl
@[simp] theorem outMsg_msix (m : OutMsg) : (outMsg s m).msix = s.msix := rfl
@[simp] theorem outMsg_msixPending (m : OutMsg) : (outMsg s m).msixPending = s.msixPending := rfl
@[simp] theorem outMsg_t3key (m : OutMsg) : (outMsg s m).t3key = s.t3key := rfl
@[simp] theorem outMsg_outbox (m : OutMsg) : (outMsg s m).outbox = s.outbox ++ [m] := rfl

/-! ### raise -/
/-- A vector raised: its message, or its pending bit while it is masked (R355, R510). -/
theorem raise_eq (v : Nat) : raise s v = { s with
    outbox := s.outbox ++ (if !s.msix[msixFin v].masked && ioOk s then [.msix v] else [])
    msixPending := if s.msix[msixFin v].masked then s.msixPending.set (msixFin v) true else s.msixPending } := by
  unfold raise
  generalize s.msix[msixFin v].masked = b
  generalize ioOk s = c
  cases b <;> cases c <;> simp

@[simp] theorem raise_pending (v : Nat) : (raise s v).pending = s.pending := by rw [raise_eq]
@[simp] theorem raise_phase (v : Nat) : (raise s v).phase = s.phase := by rw [raise_eq]
@[simp] theorem raise_fresh (v : Nat) : (raise s v).fresh = s.fresh := by rw [raise_eq]
@[simp] theorem raise_regs (v : Nat) : (raise s v).regs = s.regs := by rw [raise_eq]
@[simp] theorem raise_mem (v : Nat) : (raise s v).mem = s.mem := by rw [raise_eq]
@[simp] theorem raise_poison (v : Nat) : (raise s v).poison = s.poison := by rw [raise_eq]
@[simp] theorem raise_t3 (v : Nat) : (raise s v).t3 = s.t3 := by rw [raise_eq]
@[simp] theorem raise_queues (v : Nat) : (raise s v).queues = s.queues := by rw [raise_eq]
@[simp] theorem raise_tokens (v : Nat) : (raise s v).tokens = s.tokens := by rw [raise_eq]
@[simp] theorem raise_events (v : Nat) : (raise s v).events = s.events := by rw [raise_eq]
@[simp] theorem raise_evWait (v : Nat) : (raise s v).evWait = s.evWait := by rw [raise_eq]
@[simp] theorem raise_evTail (v : Nat) : (raise s v).evTail = s.evTail := by rw [raise_eq]
@[simp] theorem raise_evHead (v : Nat) : (raise s v).evHead = s.evHead := by rw [raise_eq]
@[simp] theorem raise_evLost (v : Nat) : (raise s v).evLost = s.evLost := by rw [raise_eq]
@[simp] theorem raise_rclamp (v : Nat) : (raise s v).rclamp = s.rclamp := by rw [raise_eq]
@[simp] theorem raise_halts (v : Nat) : (raise s v).halts = s.halts := by rw [raise_eq]
@[simp] theorem raise_haltCount (v : Nat) : (raise s v).haltCount = s.haltCount := by rw [raise_eq]
@[simp] theorem raise_haltSeen (v : Nat) : (raise s v).haltSeen = s.haltSeen := by rw [raise_eq]
@[simp] theorem raise_gauge (v : Nat) : (raise s v).gauge = s.gauge := by rw [raise_eq]
@[simp] theorem raise_ports (v : Nat) : (raise s v).ports = s.ports := by rw [raise_eq]
@[simp] theorem raise_routes (v : Nat) : (raise s v).routes = s.routes := by rw [raise_eq]
@[simp] theorem raise_groups (v : Nat) : (raise s v).groups = s.groups := by rw [raise_eq]
@[simp] theorem raise_early (v : Nat) : (raise s v).early = s.early := by rw [raise_eq]
@[simp] theorem raise_looped (v : Nat) : (raise s v).looped = s.looped := by rw [raise_eq]
@[simp] theorem raise_resetCause (v : Nat) : (raise s v).resetCause = s.resetCause := by rw [raise_eq]
@[simp] theorem raise_bl (v : Nat) : (raise s v).bl = s.bl := by rw [raise_eq]
@[simp] theorem raise_t1Init (v : Nat) : (raise s v).t1Init = s.t1Init := by rw [raise_eq]
@[simp] theorem raise_t2Init (v : Nat) : (raise s v).t2Init = s.t2Init := by rw [raise_eq]
@[simp] theorem raise_ueAddr (v : Nat) : (raise s v).ueAddr = s.ueAddr := by rw [raise_eq]
@[simp] theorem raise_jobFatal (v : Nat) : (raise s v).jobFatal = s.jobFatal := by rw [raise_eq]
@[simp] theorem raise_fatal (v : Nat) : (raise s v).fatal = s.fatal := by rw [raise_eq]
@[simp] theorem raise_mbx (v : Nat) : (raise s v).mbx = s.mbx := by rw [raise_eq]
@[simp] theorem raise_inService (v : Nat) : (raise s v).inService = s.inService := by rw [raise_eq]
@[simp] theorem raise_engines (v : Nat) : (raise s v).engines = s.engines := by rw [raise_eq]
@[simp] theorem raise_fuses (v : Nat) : (raise s v).fuses = s.fuses := by rw [raise_eq]
@[simp] theorem raise_eddies (v : Nat) : (raise s v).eddies = s.eddies := by rw [raise_eq]
@[simp] theorem raise_eddyCrc (v : Nat) : (raise s v).eddyCrc = s.eddyCrc := by rw [raise_eq]
@[simp] theorem raise_eddyLoaded (v : Nat) : (raise s v).eddyLoaded = s.eddyLoaded := by rw [raise_eq]
@[simp] theorem raise_bist (v : Nat) : (raise s v).bist = s.bist := by rw [raise_eq]
@[simp] theorem raise_programs (v : Nat) : (raise s v).programs = s.programs := by rw [raise_eq]
@[simp] theorem raise_progCrc (v : Nat) : (raise s v).progCrc = s.progCrc := by rw [raise_eq]
@[simp] theorem raise_cores (v : Nat) : (raise s v).cores = s.cores := by rw [raise_eq]
@[simp] theorem raise_snap (v : Nat) : (raise s v).snap = s.snap := by rw [raise_eq]
@[simp] theorem raise_power (v : Nat) : (raise s v).power = s.power := by rw [raise_eq]
@[simp] theorem raise_serial (v : Nat) : (raise s v).serial = s.serial := by rw [raise_eq]
@[simp] theorem raise_stepping (v : Nat) : (raise s v).stepping = s.stepping := by rw [raise_eq]
@[simp] theorem raise_otp (v : Nat) : (raise s v).otp = s.otp := by rw [raise_eq]
@[simp] theorem raise_flash (v : Nat) : (raise s v).flash = s.flash := by rw [raise_eq]
@[simp] theorem raise_boot (v : Nat) : (raise s v).boot = s.boot := by rw [raise_eq]
@[simp] theorem raise_puf (v : Nat) : (raise s v).puf = s.puf := by rw [raise_eq]
@[simp] theorem raise_romRoot (v : Nat) : (raise s v).romRoot = s.romRoot := by rw [raise_eq]
@[simp] theorem raise_idKey (v : Nat) : (raise s v).idKey = s.idKey := by rw [raise_eq]
@[simp] theorem raise_t1key (v : Nat) : (raise s v).t1key = s.t1key := by rw [raise_eq]
@[simp] theorem raise_t2key (v : Nat) : (raise s v).t2key = s.t2key := by rw [raise_eq]
@[simp] theorem raise_unlocked (v : Nat) : (raise s v).unlocked = s.unlocked := by rw [raise_eq]
@[simp] theorem raise_measLog (v : Nat) : (raise s v).measLog = s.measLog := by rw [raise_eq]
@[simp] theorem raise_sessions (v : Nat) : (raise s v).sessions = s.sessions := by rw [raise_eq]
@[simp] theorem raise_jobClear (v : Nat) : (raise s v).jobClear = s.jobClear := by rw [raise_eq]
@[simp] theorem raise_mgmt (v : Nat) : (raise s v).mgmt = s.mgmt := by rw [raise_eq]
@[simp] theorem raise_cfg (v : Nat) : (raise s v).cfg = s.cfg := by rw [raise_eq]
@[simp] theorem raise_alert (v : Nat) : (raise s v).alert = s.alert := by rw [raise_eq]
@[simp] theorem raise_perst (v : Nat) : (raise s v).perst = s.perst := by rw [raise_eq]
@[simp] theorem raise_pwrEn (v : Nat) : (raise s v).pwrEn = s.pwrEn := by rw [raise_eq]
@[simp] theorem raise_loopOpen (v : Nat) : (raise s v).loopOpen = s.loopOpen := by rw [raise_eq]
@[simp] theorem raise_ide (v : Nat) : (raise s v).ide = s.ide := by rw [raise_eq]
@[simp] theorem raise_msix (v : Nat) : (raise s v).msix = s.msix := by rw [raise_eq]
@[simp] theorem raise_msixPending (v : Nat) : (raise s v).msixPending = if s.msix[msixFin v].masked then s.msixPending.set (msixFin v) true else s.msixPending := by rw [raise_eq]
@[simp] theorem raise_t3key (v : Nat) : (raise s v).t3key = s.t3key := by rw [raise_eq]
@[simp] theorem raise_outbox (v : Nat) : (raise s v).outbox = s.outbox ++ (if !s.msix[msixFin v].masked && ioOk s then [.msix v] else []) := by rw [raise_eq]

/-! ### regPut -/
@[simp] theorem regPut_pending (off : Nat) (v : BitVec 64) : (regPut s off v).pending = s.pending := rfl
@[simp] theorem regPut_phase (off : Nat) (v : BitVec 64) : (regPut s off v).phase = s.phase := rfl
@[simp] theorem regPut_fresh (off : Nat) (v : BitVec 64) : (regPut s off v).fresh = s.fresh := rfl
@[simp] theorem regPut_regs (off : Nat) (v : BitVec 64) : (regPut s off v).regs = putCell regReset off v s.regs := rfl
@[simp] theorem regPut_mem (off : Nat) (v : BitVec 64) : (regPut s off v).mem = s.mem := rfl
@[simp] theorem regPut_poison (off : Nat) (v : BitVec 64) : (regPut s off v).poison = s.poison := rfl
@[simp] theorem regPut_t3 (off : Nat) (v : BitVec 64) : (regPut s off v).t3 = s.t3 := rfl
@[simp] theorem regPut_queues (off : Nat) (v : BitVec 64) : (regPut s off v).queues = s.queues := rfl
@[simp] theorem regPut_tokens (off : Nat) (v : BitVec 64) : (regPut s off v).tokens = s.tokens := rfl
@[simp] theorem regPut_events (off : Nat) (v : BitVec 64) : (regPut s off v).events = s.events := rfl
@[simp] theorem regPut_evWait (off : Nat) (v : BitVec 64) : (regPut s off v).evWait = s.evWait := rfl
@[simp] theorem regPut_evTail (off : Nat) (v : BitVec 64) : (regPut s off v).evTail = s.evTail := rfl
@[simp] theorem regPut_evHead (off : Nat) (v : BitVec 64) : (regPut s off v).evHead = s.evHead := rfl
@[simp] theorem regPut_evLost (off : Nat) (v : BitVec 64) : (regPut s off v).evLost = s.evLost := rfl
@[simp] theorem regPut_rclamp (off : Nat) (v : BitVec 64) : (regPut s off v).rclamp = s.rclamp := rfl
@[simp] theorem regPut_halts (off : Nat) (v : BitVec 64) : (regPut s off v).halts = s.halts := rfl
@[simp] theorem regPut_haltCount (off : Nat) (v : BitVec 64) : (regPut s off v).haltCount = s.haltCount := rfl
@[simp] theorem regPut_haltSeen (off : Nat) (v : BitVec 64) : (regPut s off v).haltSeen = s.haltSeen := rfl
@[simp] theorem regPut_gauge (off : Nat) (v : BitVec 64) : (regPut s off v).gauge = s.gauge := rfl
@[simp] theorem regPut_ports (off : Nat) (v : BitVec 64) : (regPut s off v).ports = s.ports := rfl
@[simp] theorem regPut_routes (off : Nat) (v : BitVec 64) : (regPut s off v).routes = s.routes := rfl
@[simp] theorem regPut_groups (off : Nat) (v : BitVec 64) : (regPut s off v).groups = s.groups := rfl
@[simp] theorem regPut_early (off : Nat) (v : BitVec 64) : (regPut s off v).early = s.early := rfl
@[simp] theorem regPut_looped (off : Nat) (v : BitVec 64) : (regPut s off v).looped = s.looped := rfl
@[simp] theorem regPut_resetCause (off : Nat) (v : BitVec 64) : (regPut s off v).resetCause = s.resetCause := rfl
@[simp] theorem regPut_bl (off : Nat) (v : BitVec 64) : (regPut s off v).bl = s.bl := rfl
@[simp] theorem regPut_t1Init (off : Nat) (v : BitVec 64) : (regPut s off v).t1Init = s.t1Init := rfl
@[simp] theorem regPut_t2Init (off : Nat) (v : BitVec 64) : (regPut s off v).t2Init = s.t2Init := rfl
@[simp] theorem regPut_ueAddr (off : Nat) (v : BitVec 64) : (regPut s off v).ueAddr = s.ueAddr := rfl
@[simp] theorem regPut_jobFatal (off : Nat) (v : BitVec 64) : (regPut s off v).jobFatal = s.jobFatal := rfl
@[simp] theorem regPut_fatal (off : Nat) (v : BitVec 64) : (regPut s off v).fatal = s.fatal := rfl
@[simp] theorem regPut_mbx (off : Nat) (v : BitVec 64) : (regPut s off v).mbx = s.mbx := rfl
@[simp] theorem regPut_inService (off : Nat) (v : BitVec 64) : (regPut s off v).inService = s.inService := rfl
@[simp] theorem regPut_engines (off : Nat) (v : BitVec 64) : (regPut s off v).engines = s.engines := rfl
@[simp] theorem regPut_fuses (off : Nat) (v : BitVec 64) : (regPut s off v).fuses = s.fuses := rfl
@[simp] theorem regPut_eddies (off : Nat) (v : BitVec 64) : (regPut s off v).eddies = s.eddies := rfl
@[simp] theorem regPut_eddyCrc (off : Nat) (v : BitVec 64) : (regPut s off v).eddyCrc = s.eddyCrc := rfl
@[simp] theorem regPut_eddyLoaded (off : Nat) (v : BitVec 64) : (regPut s off v).eddyLoaded = s.eddyLoaded := rfl
@[simp] theorem regPut_bist (off : Nat) (v : BitVec 64) : (regPut s off v).bist = s.bist := rfl
@[simp] theorem regPut_programs (off : Nat) (v : BitVec 64) : (regPut s off v).programs = s.programs := rfl
@[simp] theorem regPut_progCrc (off : Nat) (v : BitVec 64) : (regPut s off v).progCrc = s.progCrc := rfl
@[simp] theorem regPut_cores (off : Nat) (v : BitVec 64) : (regPut s off v).cores = s.cores := rfl
@[simp] theorem regPut_snap (off : Nat) (v : BitVec 64) : (regPut s off v).snap = s.snap := rfl
@[simp] theorem regPut_power (off : Nat) (v : BitVec 64) : (regPut s off v).power = s.power := rfl
@[simp] theorem regPut_serial (off : Nat) (v : BitVec 64) : (regPut s off v).serial = s.serial := rfl
@[simp] theorem regPut_stepping (off : Nat) (v : BitVec 64) : (regPut s off v).stepping = s.stepping := rfl
@[simp] theorem regPut_otp (off : Nat) (v : BitVec 64) : (regPut s off v).otp = s.otp := rfl
@[simp] theorem regPut_flash (off : Nat) (v : BitVec 64) : (regPut s off v).flash = s.flash := rfl
@[simp] theorem regPut_boot (off : Nat) (v : BitVec 64) : (regPut s off v).boot = s.boot := rfl
@[simp] theorem regPut_puf (off : Nat) (v : BitVec 64) : (regPut s off v).puf = s.puf := rfl
@[simp] theorem regPut_romRoot (off : Nat) (v : BitVec 64) : (regPut s off v).romRoot = s.romRoot := rfl
@[simp] theorem regPut_idKey (off : Nat) (v : BitVec 64) : (regPut s off v).idKey = s.idKey := rfl
@[simp] theorem regPut_t1key (off : Nat) (v : BitVec 64) : (regPut s off v).t1key = s.t1key := rfl
@[simp] theorem regPut_t2key (off : Nat) (v : BitVec 64) : (regPut s off v).t2key = s.t2key := rfl
@[simp] theorem regPut_unlocked (off : Nat) (v : BitVec 64) : (regPut s off v).unlocked = s.unlocked := rfl
@[simp] theorem regPut_measLog (off : Nat) (v : BitVec 64) : (regPut s off v).measLog = s.measLog := rfl
@[simp] theorem regPut_sessions (off : Nat) (v : BitVec 64) : (regPut s off v).sessions = s.sessions := rfl
@[simp] theorem regPut_jobClear (off : Nat) (v : BitVec 64) : (regPut s off v).jobClear = s.jobClear := rfl
@[simp] theorem regPut_mgmt (off : Nat) (v : BitVec 64) : (regPut s off v).mgmt = s.mgmt := rfl
@[simp] theorem regPut_cfg (off : Nat) (v : BitVec 64) : (regPut s off v).cfg = s.cfg := rfl
@[simp] theorem regPut_alert (off : Nat) (v : BitVec 64) : (regPut s off v).alert = s.alert := rfl
@[simp] theorem regPut_perst (off : Nat) (v : BitVec 64) : (regPut s off v).perst = s.perst := rfl
@[simp] theorem regPut_pwrEn (off : Nat) (v : BitVec 64) : (regPut s off v).pwrEn = s.pwrEn := rfl
@[simp] theorem regPut_loopOpen (off : Nat) (v : BitVec 64) : (regPut s off v).loopOpen = s.loopOpen := rfl
@[simp] theorem regPut_ide (off : Nat) (v : BitVec 64) : (regPut s off v).ide = s.ide := rfl
@[simp] theorem regPut_msix (off : Nat) (v : BitVec 64) : (regPut s off v).msix = s.msix := rfl
@[simp] theorem regPut_msixPending (off : Nat) (v : BitVec 64) : (regPut s off v).msixPending = s.msixPending := rfl
@[simp] theorem regPut_t3key (off : Nat) (v : BitVec 64) : (regPut s off v).t3key = s.t3key := rfl
@[simp] theorem regPut_outbox (off : Nat) (v : BitVec 64) : (regPut s off v).outbox = s.outbox := rfl

/-! ### rclampInc -/
@[simp] theorem rclampInc_pending : (rclampInc s).pending = s.pending := rfl
@[simp] theorem rclampInc_phase : (rclampInc s).phase = s.phase := rfl
@[simp] theorem rclampInc_fresh : (rclampInc s).fresh = s.fresh := rfl
@[simp] theorem rclampInc_regs : (rclampInc s).regs = s.regs := rfl
@[simp] theorem rclampInc_mem : (rclampInc s).mem = s.mem := rfl
@[simp] theorem rclampInc_poison : (rclampInc s).poison = s.poison := rfl
@[simp] theorem rclampInc_t3 : (rclampInc s).t3 = s.t3 := rfl
@[simp] theorem rclampInc_queues : (rclampInc s).queues = s.queues := rfl
@[simp] theorem rclampInc_tokens : (rclampInc s).tokens = s.tokens := rfl
@[simp] theorem rclampInc_events : (rclampInc s).events = s.events := rfl
@[simp] theorem rclampInc_evWait : (rclampInc s).evWait = s.evWait := rfl
@[simp] theorem rclampInc_evTail : (rclampInc s).evTail = s.evTail := rfl
@[simp] theorem rclampInc_evHead : (rclampInc s).evHead = s.evHead := rfl
@[simp] theorem rclampInc_evLost : (rclampInc s).evLost = s.evLost := rfl
@[simp] theorem rclampInc_rclamp : (rclampInc s).rclamp = min (s.rclamp + 1) 0xFFFFFFFF := rfl
@[simp] theorem rclampInc_halts : (rclampInc s).halts = s.halts := rfl
@[simp] theorem rclampInc_haltCount : (rclampInc s).haltCount = s.haltCount := rfl
@[simp] theorem rclampInc_haltSeen : (rclampInc s).haltSeen = s.haltSeen := rfl
@[simp] theorem rclampInc_gauge : (rclampInc s).gauge = s.gauge := rfl
@[simp] theorem rclampInc_ports : (rclampInc s).ports = s.ports := rfl
@[simp] theorem rclampInc_routes : (rclampInc s).routes = s.routes := rfl
@[simp] theorem rclampInc_groups : (rclampInc s).groups = s.groups := rfl
@[simp] theorem rclampInc_early : (rclampInc s).early = s.early := rfl
@[simp] theorem rclampInc_looped : (rclampInc s).looped = s.looped := rfl
@[simp] theorem rclampInc_resetCause : (rclampInc s).resetCause = s.resetCause := rfl
@[simp] theorem rclampInc_bl : (rclampInc s).bl = s.bl := rfl
@[simp] theorem rclampInc_t1Init : (rclampInc s).t1Init = s.t1Init := rfl
@[simp] theorem rclampInc_t2Init : (rclampInc s).t2Init = s.t2Init := rfl
@[simp] theorem rclampInc_ueAddr : (rclampInc s).ueAddr = s.ueAddr := rfl
@[simp] theorem rclampInc_jobFatal : (rclampInc s).jobFatal = s.jobFatal := rfl
@[simp] theorem rclampInc_fatal : (rclampInc s).fatal = s.fatal := rfl
@[simp] theorem rclampInc_mbx : (rclampInc s).mbx = s.mbx := rfl
@[simp] theorem rclampInc_inService : (rclampInc s).inService = s.inService := rfl
@[simp] theorem rclampInc_engines : (rclampInc s).engines = s.engines := rfl
@[simp] theorem rclampInc_fuses : (rclampInc s).fuses = s.fuses := rfl
@[simp] theorem rclampInc_eddies : (rclampInc s).eddies = s.eddies := rfl
@[simp] theorem rclampInc_eddyCrc : (rclampInc s).eddyCrc = s.eddyCrc := rfl
@[simp] theorem rclampInc_eddyLoaded : (rclampInc s).eddyLoaded = s.eddyLoaded := rfl
@[simp] theorem rclampInc_bist : (rclampInc s).bist = s.bist := rfl
@[simp] theorem rclampInc_programs : (rclampInc s).programs = s.programs := rfl
@[simp] theorem rclampInc_progCrc : (rclampInc s).progCrc = s.progCrc := rfl
@[simp] theorem rclampInc_cores : (rclampInc s).cores = s.cores := rfl
@[simp] theorem rclampInc_snap : (rclampInc s).snap = s.snap := rfl
@[simp] theorem rclampInc_power : (rclampInc s).power = s.power := rfl
@[simp] theorem rclampInc_serial : (rclampInc s).serial = s.serial := rfl
@[simp] theorem rclampInc_stepping : (rclampInc s).stepping = s.stepping := rfl
@[simp] theorem rclampInc_otp : (rclampInc s).otp = s.otp := rfl
@[simp] theorem rclampInc_flash : (rclampInc s).flash = s.flash := rfl
@[simp] theorem rclampInc_boot : (rclampInc s).boot = s.boot := rfl
@[simp] theorem rclampInc_puf : (rclampInc s).puf = s.puf := rfl
@[simp] theorem rclampInc_romRoot : (rclampInc s).romRoot = s.romRoot := rfl
@[simp] theorem rclampInc_idKey : (rclampInc s).idKey = s.idKey := rfl
@[simp] theorem rclampInc_t1key : (rclampInc s).t1key = s.t1key := rfl
@[simp] theorem rclampInc_t2key : (rclampInc s).t2key = s.t2key := rfl
@[simp] theorem rclampInc_unlocked : (rclampInc s).unlocked = s.unlocked := rfl
@[simp] theorem rclampInc_measLog : (rclampInc s).measLog = s.measLog := rfl
@[simp] theorem rclampInc_sessions : (rclampInc s).sessions = s.sessions := rfl
@[simp] theorem rclampInc_jobClear : (rclampInc s).jobClear = s.jobClear := rfl
@[simp] theorem rclampInc_mgmt : (rclampInc s).mgmt = s.mgmt := rfl
@[simp] theorem rclampInc_cfg : (rclampInc s).cfg = s.cfg := rfl
@[simp] theorem rclampInc_alert : (rclampInc s).alert = s.alert := rfl
@[simp] theorem rclampInc_perst : (rclampInc s).perst = s.perst := rfl
@[simp] theorem rclampInc_pwrEn : (rclampInc s).pwrEn = s.pwrEn := rfl
@[simp] theorem rclampInc_loopOpen : (rclampInc s).loopOpen = s.loopOpen := rfl
@[simp] theorem rclampInc_ide : (rclampInc s).ide = s.ide := rfl
@[simp] theorem rclampInc_msix : (rclampInc s).msix = s.msix := rfl
@[simp] theorem rclampInc_msixPending : (rclampInc s).msixPending = s.msixPending := rfl
@[simp] theorem rclampInc_t3key : (rclampInc s).t3key = s.t3key := rfl
@[simp] theorem rclampInc_outbox : (rclampInc s).outbox = s.outbox := rfl

/-! ### freshen -/
@[simp] theorem freshen_pending : (freshen s).pending = s.pending := rfl
@[simp] theorem freshen_phase : (freshen s).phase = s.phase := rfl
@[simp] theorem freshen_fresh : (freshen s).fresh = s.fresh + 1 := rfl
@[simp] theorem freshen_regs : (freshen s).regs = s.regs := rfl
@[simp] theorem freshen_mem : (freshen s).mem = s.mem := rfl
@[simp] theorem freshen_poison : (freshen s).poison = s.poison := rfl
@[simp] theorem freshen_t3 : (freshen s).t3 = s.t3 := rfl
@[simp] theorem freshen_queues : (freshen s).queues = s.queues := rfl
@[simp] theorem freshen_tokens : (freshen s).tokens = s.tokens := rfl
@[simp] theorem freshen_events : (freshen s).events = s.events := rfl
@[simp] theorem freshen_evWait : (freshen s).evWait = s.evWait := rfl
@[simp] theorem freshen_evTail : (freshen s).evTail = s.evTail := rfl
@[simp] theorem freshen_evHead : (freshen s).evHead = s.evHead := rfl
@[simp] theorem freshen_evLost : (freshen s).evLost = s.evLost := rfl
@[simp] theorem freshen_rclamp : (freshen s).rclamp = s.rclamp := rfl
@[simp] theorem freshen_halts : (freshen s).halts = s.halts := rfl
@[simp] theorem freshen_haltCount : (freshen s).haltCount = s.haltCount := rfl
@[simp] theorem freshen_haltSeen : (freshen s).haltSeen = s.haltSeen := rfl
@[simp] theorem freshen_gauge : (freshen s).gauge = s.gauge := rfl
@[simp] theorem freshen_ports : (freshen s).ports = s.ports := rfl
@[simp] theorem freshen_routes : (freshen s).routes = s.routes := rfl
@[simp] theorem freshen_groups : (freshen s).groups = s.groups := rfl
@[simp] theorem freshen_early : (freshen s).early = s.early := rfl
@[simp] theorem freshen_looped : (freshen s).looped = s.looped := rfl
@[simp] theorem freshen_resetCause : (freshen s).resetCause = s.resetCause := rfl
@[simp] theorem freshen_bl : (freshen s).bl = s.bl := rfl
@[simp] theorem freshen_t1Init : (freshen s).t1Init = s.t1Init := rfl
@[simp] theorem freshen_t2Init : (freshen s).t2Init = s.t2Init := rfl
@[simp] theorem freshen_ueAddr : (freshen s).ueAddr = s.ueAddr := rfl
@[simp] theorem freshen_jobFatal : (freshen s).jobFatal = s.jobFatal := rfl
@[simp] theorem freshen_fatal : (freshen s).fatal = s.fatal := rfl
@[simp] theorem freshen_mbx : (freshen s).mbx = s.mbx := rfl
@[simp] theorem freshen_inService : (freshen s).inService = s.inService := rfl
@[simp] theorem freshen_engines : (freshen s).engines = s.engines := rfl
@[simp] theorem freshen_fuses : (freshen s).fuses = s.fuses := rfl
@[simp] theorem freshen_eddies : (freshen s).eddies = s.eddies := rfl
@[simp] theorem freshen_eddyCrc : (freshen s).eddyCrc = s.eddyCrc := rfl
@[simp] theorem freshen_eddyLoaded : (freshen s).eddyLoaded = s.eddyLoaded := rfl
@[simp] theorem freshen_bist : (freshen s).bist = s.bist := rfl
@[simp] theorem freshen_programs : (freshen s).programs = s.programs := rfl
@[simp] theorem freshen_progCrc : (freshen s).progCrc = s.progCrc := rfl
@[simp] theorem freshen_cores : (freshen s).cores = s.cores := rfl
@[simp] theorem freshen_snap : (freshen s).snap = s.snap := rfl
@[simp] theorem freshen_power : (freshen s).power = s.power := rfl
@[simp] theorem freshen_serial : (freshen s).serial = s.serial := rfl
@[simp] theorem freshen_stepping : (freshen s).stepping = s.stepping := rfl
@[simp] theorem freshen_otp : (freshen s).otp = s.otp := rfl
@[simp] theorem freshen_flash : (freshen s).flash = s.flash := rfl
@[simp] theorem freshen_boot : (freshen s).boot = s.boot := rfl
@[simp] theorem freshen_puf : (freshen s).puf = s.puf := rfl
@[simp] theorem freshen_romRoot : (freshen s).romRoot = s.romRoot := rfl
@[simp] theorem freshen_idKey : (freshen s).idKey = s.idKey := rfl
@[simp] theorem freshen_t1key : (freshen s).t1key = s.t1key := rfl
@[simp] theorem freshen_t2key : (freshen s).t2key = s.t2key := rfl
@[simp] theorem freshen_unlocked : (freshen s).unlocked = s.unlocked := rfl
@[simp] theorem freshen_measLog : (freshen s).measLog = s.measLog := rfl
@[simp] theorem freshen_sessions : (freshen s).sessions = s.sessions := rfl
@[simp] theorem freshen_jobClear : (freshen s).jobClear = s.jobClear := rfl
@[simp] theorem freshen_mgmt : (freshen s).mgmt = s.mgmt := rfl
@[simp] theorem freshen_cfg : (freshen s).cfg = s.cfg := rfl
@[simp] theorem freshen_alert : (freshen s).alert = s.alert := rfl
@[simp] theorem freshen_perst : (freshen s).perst = s.perst := rfl
@[simp] theorem freshen_pwrEn : (freshen s).pwrEn = s.pwrEn := rfl
@[simp] theorem freshen_loopOpen : (freshen s).loopOpen = s.loopOpen := rfl
@[simp] theorem freshen_ide : (freshen s).ide = s.ide := rfl
@[simp] theorem freshen_msix : (freshen s).msix = s.msix := rfl
@[simp] theorem freshen_msixPending : (freshen s).msixPending = s.msixPending := rfl
@[simp] theorem freshen_t3key : (freshen s).t3key = s.t3key := rfl
@[simp] theorem freshen_outbox : (freshen s).outbox = s.outbox := rfl

/-! ### setFw -/
@[simp] theorem setFw_pending (f : FwState) : (setFw s f).pending = s.pending := rfl
@[simp] theorem setFw_phase (f : FwState) : (setFw s f).phase = s.phase := rfl
@[simp] theorem setFw_fresh (f : FwState) : (setFw s f).fresh = s.fresh := rfl
@[simp] theorem setFw_regs (f : FwState) : (setFw s f).regs = s.regs := rfl
@[simp] theorem setFw_mem (f : FwState) : (setFw s f).mem = s.mem := rfl
@[simp] theorem setFw_poison (f : FwState) : (setFw s f).poison = s.poison := rfl
@[simp] theorem setFw_t3 (f : FwState) : (setFw s f).t3 = s.t3 := rfl
@[simp] theorem setFw_queues (f : FwState) : (setFw s f).queues = s.queues := rfl
@[simp] theorem setFw_tokens (f : FwState) : (setFw s f).tokens = s.tokens := rfl
@[simp] theorem setFw_events (f : FwState) : (setFw s f).events = s.events := rfl
@[simp] theorem setFw_evWait (f : FwState) : (setFw s f).evWait = s.evWait := rfl
@[simp] theorem setFw_evTail (f : FwState) : (setFw s f).evTail = s.evTail := rfl
@[simp] theorem setFw_evHead (f : FwState) : (setFw s f).evHead = s.evHead := rfl
@[simp] theorem setFw_evLost (f : FwState) : (setFw s f).evLost = s.evLost := rfl
@[simp] theorem setFw_rclamp (f : FwState) : (setFw s f).rclamp = s.rclamp := rfl
@[simp] theorem setFw_halts (f : FwState) : (setFw s f).halts = s.halts := rfl
@[simp] theorem setFw_haltCount (f : FwState) : (setFw s f).haltCount = s.haltCount := rfl
@[simp] theorem setFw_haltSeen (f : FwState) : (setFw s f).haltSeen = s.haltSeen := rfl
@[simp] theorem setFw_gauge (f : FwState) : (setFw s f).gauge = s.gauge := rfl
@[simp] theorem setFw_ports (f : FwState) : (setFw s f).ports = s.ports := rfl
@[simp] theorem setFw_routes (f : FwState) : (setFw s f).routes = s.routes := rfl
@[simp] theorem setFw_groups (f : FwState) : (setFw s f).groups = s.groups := rfl
@[simp] theorem setFw_early (f : FwState) : (setFw s f).early = s.early := rfl
@[simp] theorem setFw_looped (f : FwState) : (setFw s f).looped = s.looped := rfl
@[simp] theorem setFw_resetCause (f : FwState) : (setFw s f).resetCause = s.resetCause := rfl
@[simp] theorem setFw_bl (f : FwState) : (setFw s f).bl = s.bl := rfl
@[simp] theorem setFw_t1Init (f : FwState) : (setFw s f).t1Init = s.t1Init := rfl
@[simp] theorem setFw_t2Init (f : FwState) : (setFw s f).t2Init = s.t2Init := rfl
@[simp] theorem setFw_ueAddr (f : FwState) : (setFw s f).ueAddr = s.ueAddr := rfl
@[simp] theorem setFw_jobFatal (f : FwState) : (setFw s f).jobFatal = s.jobFatal := rfl
@[simp] theorem setFw_fatal (f : FwState) : (setFw s f).fatal = s.fatal := rfl
@[simp] theorem setFw_mbx (f : FwState) : (setFw s f).mbx = s.mbx := rfl
@[simp] theorem setFw_inService (f : FwState) : (setFw s f).inService = s.inService := rfl
@[simp] theorem setFw_engines (f : FwState) : (setFw s f).engines = s.engines := rfl
@[simp] theorem setFw_fuses (f : FwState) : (setFw s f).fuses = s.fuses := rfl
@[simp] theorem setFw_eddies (f : FwState) : (setFw s f).eddies = s.eddies := rfl
@[simp] theorem setFw_eddyCrc (f : FwState) : (setFw s f).eddyCrc = s.eddyCrc := rfl
@[simp] theorem setFw_eddyLoaded (f : FwState) : (setFw s f).eddyLoaded = s.eddyLoaded := rfl
@[simp] theorem setFw_bist (f : FwState) : (setFw s f).bist = s.bist := rfl
@[simp] theorem setFw_programs (f : FwState) : (setFw s f).programs = s.programs := rfl
@[simp] theorem setFw_progCrc (f : FwState) : (setFw s f).progCrc = s.progCrc := rfl
@[simp] theorem setFw_cores (f : FwState) : (setFw s f).cores = s.cores := rfl
@[simp] theorem setFw_snap (f : FwState) : (setFw s f).snap = s.snap := rfl
@[simp] theorem setFw_power (f : FwState) : (setFw s f).power = s.power := rfl
@[simp] theorem setFw_serial (f : FwState) : (setFw s f).serial = s.serial := rfl
@[simp] theorem setFw_stepping (f : FwState) : (setFw s f).stepping = s.stepping := rfl
@[simp] theorem setFw_otp (f : FwState) : (setFw s f).otp = s.otp := rfl
@[simp] theorem setFw_flash (f : FwState) : (setFw s f).flash = s.flash := rfl
@[simp] theorem setFw_boot (f : FwState) : (setFw s f).boot = s.boot := rfl
@[simp] theorem setFw_puf (f : FwState) : (setFw s f).puf = s.puf := rfl
@[simp] theorem setFw_romRoot (f : FwState) : (setFw s f).romRoot = s.romRoot := rfl
@[simp] theorem setFw_idKey (f : FwState) : (setFw s f).idKey = s.idKey := rfl
@[simp] theorem setFw_t1key (f : FwState) : (setFw s f).t1key = s.t1key := rfl
@[simp] theorem setFw_t2key (f : FwState) : (setFw s f).t2key = s.t2key := rfl
@[simp] theorem setFw_unlocked (f : FwState) : (setFw s f).unlocked = s.unlocked := rfl
@[simp] theorem setFw_measLog (f : FwState) : (setFw s f).measLog = s.measLog := rfl
@[simp] theorem setFw_sessions (f : FwState) : (setFw s f).sessions = s.sessions := rfl
@[simp] theorem setFw_jobClear (f : FwState) : (setFw s f).jobClear = s.jobClear := rfl
@[simp] theorem setFw_mgmt (f : FwState) : (setFw s f).mgmt = { s.mgmt with fw := f } := rfl
@[simp] theorem setFw_cfg (f : FwState) : (setFw s f).cfg = s.cfg := rfl
@[simp] theorem setFw_alert (f : FwState) : (setFw s f).alert = s.alert := rfl
@[simp] theorem setFw_perst (f : FwState) : (setFw s f).perst = s.perst := rfl
@[simp] theorem setFw_pwrEn (f : FwState) : (setFw s f).pwrEn = s.pwrEn := rfl
@[simp] theorem setFw_loopOpen (f : FwState) : (setFw s f).loopOpen = s.loopOpen := rfl
@[simp] theorem setFw_ide (f : FwState) : (setFw s f).ide = s.ide := rfl
@[simp] theorem setFw_msix (f : FwState) : (setFw s f).msix = s.msix := rfl
@[simp] theorem setFw_msixPending (f : FwState) : (setFw s f).msixPending = s.msixPending := rfl
@[simp] theorem setFw_t3key (f : FwState) : (setFw s f).t3key = s.t3key := rfl
@[simp] theorem setFw_outbox (f : FwState) : (setFw s f).outbox = s.outbox := rfl

/-! ### setSession -/
@[simp] theorem setSession_pending (tr : Transport) (x : Session) : (setSession s tr x).pending = s.pending := rfl
@[simp] theorem setSession_phase (tr : Transport) (x : Session) : (setSession s tr x).phase = s.phase := rfl
@[simp] theorem setSession_fresh (tr : Transport) (x : Session) : (setSession s tr x).fresh = s.fresh := rfl
@[simp] theorem setSession_regs (tr : Transport) (x : Session) : (setSession s tr x).regs = s.regs := rfl
@[simp] theorem setSession_mem (tr : Transport) (x : Session) : (setSession s tr x).mem = s.mem := rfl
@[simp] theorem setSession_poison (tr : Transport) (x : Session) : (setSession s tr x).poison = s.poison := rfl
@[simp] theorem setSession_t3 (tr : Transport) (x : Session) : (setSession s tr x).t3 = s.t3 := rfl
@[simp] theorem setSession_queues (tr : Transport) (x : Session) : (setSession s tr x).queues = s.queues := rfl
@[simp] theorem setSession_tokens (tr : Transport) (x : Session) : (setSession s tr x).tokens = s.tokens := rfl
@[simp] theorem setSession_events (tr : Transport) (x : Session) : (setSession s tr x).events = s.events := rfl
@[simp] theorem setSession_evWait (tr : Transport) (x : Session) : (setSession s tr x).evWait = s.evWait := rfl
@[simp] theorem setSession_evTail (tr : Transport) (x : Session) : (setSession s tr x).evTail = s.evTail := rfl
@[simp] theorem setSession_evHead (tr : Transport) (x : Session) : (setSession s tr x).evHead = s.evHead := rfl
@[simp] theorem setSession_evLost (tr : Transport) (x : Session) : (setSession s tr x).evLost = s.evLost := rfl
@[simp] theorem setSession_rclamp (tr : Transport) (x : Session) : (setSession s tr x).rclamp = s.rclamp := rfl
@[simp] theorem setSession_halts (tr : Transport) (x : Session) : (setSession s tr x).halts = s.halts := rfl
@[simp] theorem setSession_haltCount (tr : Transport) (x : Session) : (setSession s tr x).haltCount = s.haltCount := rfl
@[simp] theorem setSession_haltSeen (tr : Transport) (x : Session) : (setSession s tr x).haltSeen = s.haltSeen := rfl
@[simp] theorem setSession_gauge (tr : Transport) (x : Session) : (setSession s tr x).gauge = s.gauge := rfl
@[simp] theorem setSession_ports (tr : Transport) (x : Session) : (setSession s tr x).ports = s.ports := rfl
@[simp] theorem setSession_routes (tr : Transport) (x : Session) : (setSession s tr x).routes = s.routes := rfl
@[simp] theorem setSession_groups (tr : Transport) (x : Session) : (setSession s tr x).groups = s.groups := rfl
@[simp] theorem setSession_early (tr : Transport) (x : Session) : (setSession s tr x).early = s.early := rfl
@[simp] theorem setSession_looped (tr : Transport) (x : Session) : (setSession s tr x).looped = s.looped := rfl
@[simp] theorem setSession_resetCause (tr : Transport) (x : Session) : (setSession s tr x).resetCause = s.resetCause := rfl
@[simp] theorem setSession_bl (tr : Transport) (x : Session) : (setSession s tr x).bl = s.bl := rfl
@[simp] theorem setSession_t1Init (tr : Transport) (x : Session) : (setSession s tr x).t1Init = s.t1Init := rfl
@[simp] theorem setSession_t2Init (tr : Transport) (x : Session) : (setSession s tr x).t2Init = s.t2Init := rfl
@[simp] theorem setSession_ueAddr (tr : Transport) (x : Session) : (setSession s tr x).ueAddr = s.ueAddr := rfl
@[simp] theorem setSession_jobFatal (tr : Transport) (x : Session) : (setSession s tr x).jobFatal = s.jobFatal := rfl
@[simp] theorem setSession_fatal (tr : Transport) (x : Session) : (setSession s tr x).fatal = s.fatal := rfl
@[simp] theorem setSession_mbx (tr : Transport) (x : Session) : (setSession s tr x).mbx = s.mbx := rfl
@[simp] theorem setSession_inService (tr : Transport) (x : Session) : (setSession s tr x).inService = s.inService := rfl
@[simp] theorem setSession_engines (tr : Transport) (x : Session) : (setSession s tr x).engines = s.engines := rfl
@[simp] theorem setSession_fuses (tr : Transport) (x : Session) : (setSession s tr x).fuses = s.fuses := rfl
@[simp] theorem setSession_eddies (tr : Transport) (x : Session) : (setSession s tr x).eddies = s.eddies := rfl
@[simp] theorem setSession_eddyCrc (tr : Transport) (x : Session) : (setSession s tr x).eddyCrc = s.eddyCrc := rfl
@[simp] theorem setSession_eddyLoaded (tr : Transport) (x : Session) : (setSession s tr x).eddyLoaded = s.eddyLoaded := rfl
@[simp] theorem setSession_bist (tr : Transport) (x : Session) : (setSession s tr x).bist = s.bist := rfl
@[simp] theorem setSession_programs (tr : Transport) (x : Session) : (setSession s tr x).programs = s.programs := rfl
@[simp] theorem setSession_progCrc (tr : Transport) (x : Session) : (setSession s tr x).progCrc = s.progCrc := rfl
@[simp] theorem setSession_cores (tr : Transport) (x : Session) : (setSession s tr x).cores = s.cores := rfl
@[simp] theorem setSession_snap (tr : Transport) (x : Session) : (setSession s tr x).snap = s.snap := rfl
@[simp] theorem setSession_power (tr : Transport) (x : Session) : (setSession s tr x).power = s.power := rfl
@[simp] theorem setSession_serial (tr : Transport) (x : Session) : (setSession s tr x).serial = s.serial := rfl
@[simp] theorem setSession_stepping (tr : Transport) (x : Session) : (setSession s tr x).stepping = s.stepping := rfl
@[simp] theorem setSession_otp (tr : Transport) (x : Session) : (setSession s tr x).otp = s.otp := rfl
@[simp] theorem setSession_flash (tr : Transport) (x : Session) : (setSession s tr x).flash = s.flash := rfl
@[simp] theorem setSession_boot (tr : Transport) (x : Session) : (setSession s tr x).boot = s.boot := rfl
@[simp] theorem setSession_puf (tr : Transport) (x : Session) : (setSession s tr x).puf = s.puf := rfl
@[simp] theorem setSession_romRoot (tr : Transport) (x : Session) : (setSession s tr x).romRoot = s.romRoot := rfl
@[simp] theorem setSession_idKey (tr : Transport) (x : Session) : (setSession s tr x).idKey = s.idKey := rfl
@[simp] theorem setSession_t1key (tr : Transport) (x : Session) : (setSession s tr x).t1key = s.t1key := rfl
@[simp] theorem setSession_t2key (tr : Transport) (x : Session) : (setSession s tr x).t2key = s.t2key := rfl
@[simp] theorem setSession_unlocked (tr : Transport) (x : Session) : (setSession s tr x).unlocked = s.unlocked := rfl
@[simp] theorem setSession_measLog (tr : Transport) (x : Session) : (setSession s tr x).measLog = s.measLog := rfl
@[simp] theorem setSession_sessions (tr : Transport) (x : Session) : (setSession s tr x).sessions = s.sessions.set (trIdx tr) x := rfl
@[simp] theorem setSession_jobClear (tr : Transport) (x : Session) : (setSession s tr x).jobClear = s.jobClear := rfl
@[simp] theorem setSession_mgmt (tr : Transport) (x : Session) : (setSession s tr x).mgmt = s.mgmt := rfl
@[simp] theorem setSession_cfg (tr : Transport) (x : Session) : (setSession s tr x).cfg = s.cfg := rfl
@[simp] theorem setSession_alert (tr : Transport) (x : Session) : (setSession s tr x).alert = s.alert := rfl
@[simp] theorem setSession_perst (tr : Transport) (x : Session) : (setSession s tr x).perst = s.perst := rfl
@[simp] theorem setSession_pwrEn (tr : Transport) (x : Session) : (setSession s tr x).pwrEn = s.pwrEn := rfl
@[simp] theorem setSession_loopOpen (tr : Transport) (x : Session) : (setSession s tr x).loopOpen = s.loopOpen := rfl
@[simp] theorem setSession_ide (tr : Transport) (x : Session) : (setSession s tr x).ide = s.ide := rfl
@[simp] theorem setSession_msix (tr : Transport) (x : Session) : (setSession s tr x).msix = s.msix := rfl
@[simp] theorem setSession_msixPending (tr : Transport) (x : Session) : (setSession s tr x).msixPending = s.msixPending := rfl
@[simp] theorem setSession_t3key (tr : Transport) (x : Session) : (setSession s tr x).t3key = s.t3key := rfl
@[simp] theorem setSession_outbox (tr : Transport) (x : Session) : (setSession s tr x).outbox = s.outbox := rfl

end Sys2Proof.Machine
end

