-- ==== Sys2Proof/Laws/Queue.lean ====
section
/-! SUPPORT. What a completion record's writing does (R351, R353, R355, R373), and what a change aside leaves. -/
namespace Sys2Proof.Machine

open Sys2Proof.Safety

theorem noted_q : ∀ q : Fin 32, noted (offQcq q) = false ∧ noted (offQctl q) = false ∧ noted (offQsq q) = false := by decide

theorem backed_congr {s t : State} (h : t.regs = s.regs) (a : Nat) : backed t a = backed s a := by
  simp only [backed, t3Limit, regBit, regField, regGet, h]; rfl

theorem backed_aside {s t : State} (h : Aside s t) (hc : Canonical s) (a : Nat) : backed t a = backed s a := by
  simp only [backed, t3Limit, regBit, regField, h.regs hc.2 offT3Base (by decide), h.regs hc.2 offT3Size (by decide)]; rfl

theorem cqBase_aside {s t : State} (h : Aside s t) (hc : Canonical s) (q : Fin 32) : cqBase t q = cqBase s q := by
  simp only [cqBase, regField, h.regs hc.2 _ (noted_q q).1]
theorem cqSize_aside {s t : State} (h : Aside s t) (hc : Canonical s) (q : Fin 32) : cqSize t q = cqSize s q := by
  simp only [cqSize, regField, h.regs hc.2 _ (noted_q q).1]

theorem fatal_aside {s t : State} (h : Aside s t) : t.fatal = s.fatal := by rw [h.form]
theorem queues_aside {s t : State} (h : Aside s t) : t.queues = s.queues := by rw [h.form]
theorem gauge_aside {s t : State} (h : Aside s t) : t.gauge = s.gauge := by rw [h.form]
theorem otp_aside {s t : State} (h : Aside s t) : t.otp = s.otp := by rw [h.form]
theorem ide_aside {s t : State} (h : Aside s t) : t.ide = s.ide := by rw [h.form]
theorem outbox_aside {s t : State} (h : Aside s t) : t.outbox = s.outbox := by rw [h.form]
theorem msix_aside {s t : State} (h : Aside s t) : t.msix = s.msix := by rw [h.form]
theorem msixPending_aside {s t : State} (h : Aside s t) : t.msixPending = s.msixPending := by rw [h.form]
theorem t3key_aside {s t : State} (h : Aside s t) : t.t3key = s.t3key := by rw [h.form]
theorem jobClear_aside {s t : State} (h : Aside s t) : t.jobClear = s.jobClear := by rw [h.form]

theorem accessRefused_aside {s t : State} (h : Aside s t) (hc : Canonical s) (a : Nat) : accessRefused t a = accessRefused s a := by
  have h1 := h.regs hc.2 offT3Base (by decide)
  have h2 := h.regs hc.2 offT3Tag (by decide)
  simp only [accessRefused, accessRefusedFor, backed_aside h hc, keyServes, uioOk, hostOk, lcState, t3Fab, t3TagAddr, regField, h1, h2,
    otp_aside h, ide_aside h, t3key_aside h, jobClear_aside h]
  rfl

/-- Where the records of a queue go, after a change aside. -/
theorem cqSlotOf_aside {s t : State} (h : Aside s t) (hc : Canonical s) (q : Fin 32) : cqSlotOf t q = cqSlotOf s q := by
  simp only [cqSlotOf, cqBase_aside h hc, cqSize_aside h hc, queues_aside h]
theorem cqTailOf_aside {s t : State} (h : Aside s t) (hc : Canonical s) (q : Fin 32) : cqTailOf t q = cqTailOf s q := by
  simp only [cqTailOf, cqBase_aside h hc, cqSize_aside h hc]

theorem updQ_queue (s : State) (q : Fin 32) (f : Queue → Queue) : (updQ s q f).queues[q] = f s.queues[q] := by
  simp [updQ]

theorem updQ_other (s : State) (q k : Fin 32) (f : Queue → Queue) (h : k ≠ q) : (updQ s q f).queues[k] = s.queues[k] := by
  have : q.val ≠ k.val := fun e => h (Fin.ext e.symm)
  simp [updQ, this]

theorem le8_length (n : Nat) : (le8 n).length = 8 := by simp [le8, leBytes]
theorem compRecord_length (s : State) (x : Cmd) (st : Nat) : (compRecord s x st).length = 32 := by
  simp [compRecord, le4, le8, leBytes, padTo]
  omega

/-- A write of no command: a change aside, and then memory, marks and tags. -/
theorem wrNoted_form (s : State) (a : Nat) (bs : List Byte) :
    ∃ v m p t, Aside s v ∧ wrNoted s a bs = { v with mem := m, poison := p, t3 := t } := by
  have h := wrNoted_aside s a bs
  obtain ⟨m, p, t, e, _⟩ := wr_form s a bs
  rw [e] at h
  have hf := h.form
  generalize wrNoted s a bs = u at h hf ⊢
  refine ⟨{ u with mem := s.mem, poison := s.poison, t3 := s.t3 }, u.mem, u.poison, u.t3,
    Aside.of (by rw [hf]) h.twine h.events h.canon h.regs, rfl⟩

/-- Its bytes read back, and the others are as before. -/
theorem rd_wrNoted (s : State) (a : Nat) (bs : List Byte) (hc : Canonical s) (hf : s.fatal = none) (hl : bs.length ≤ 2 ^ 64)
    (hb : BackedAll s a bs.length) : rd (wrNoted s a bs) a bs.length = bs := by
  refine Eq.trans ?_ (rd_wr s a bs hc.1 hf hl hb)
  have h := (wrNoted_aside s a bs).bytes (by obtain ⟨m, p, t, e, _⟩ := wr_form s a bs; rw [e]; exact hc.2)
  simp only [rd, h]

theorem rdByte_wrNoted_out (s : State) (a c : Nat) (bs : List Byte) (hc : Canonical s) (hk : Apart c a bs.length) :
    rdByte (wrNoted s a bs) c = rdByte s c := by
  rw [(wrNoted_aside s a bs).bytes (by obtain ⟨m, p, t, e, _⟩ := wr_form s a bs; rw [e]; exact hc.2)]
  exact rdByte_wr_out s a c bs hc.1 hk

/-- The counts and the oldest index of a queue after a record. -/
def recorded (u : Queue) (r : List Byte) : Queue := { u with cqCount := u.cqCount + 1, oldest := recNext r }

/-- A record written: a change aside, the two writes, the count, the vector. -/
theorem writeRec_form (s : State) (q : Fin 32) (r : List Byte × Bool) :
    ∃ v m p t, Aside s v ∧ writeRec s q r = { v with
      mem := m, poison := p, t3 := t
      queues := s.queues.set q (recorded s.queues[q] r.1)
      outbox := s.outbox ++ (if (r.2 && regBit s (offQctl q) 3) && !s.msix[msixFin q].masked && ioOk s then [.msix q] else [])
      msixPending := if (r.2 && regBit s (offQctl q) 3) && s.msix[msixFin q].masked then s.msixPending.set (msixFin q) true
        else s.msixPending } := by
  obtain ⟨v, m, p, t, hv, e⟩ := wrNoted_form s (cqSlotOf s q) r.1
  obtain ⟨v', m', p', t', hv', e'⟩ := wrNoted_form (updQ (wrNoted s (cqSlotOf s q) r.1) q fun u => recorded u r.1) (cqTailOf s q)
    (le8 (s.queues[q].cqCount + 1))
  have hw : writeRec s q r =
      (if r.2 && regBit s (offQctl q) 3 then
        raise { v' with mem := m', poison := p', t3 := t' } q else { v' with mem := m', poison := p', t3 := t' }) := by
    rw [← e']; rfl
  rw [e] at hv'
  have hf' := hv'.form
  have hf := hv.form
  have hx : Aside s { v' with queues := s.queues, mem := s.mem } := by
    refine Aside.of ?_ (fun c => (hv'.twine c).trans (hv.twine c)) (hv.events.trans hv'.events) (fun k => hv'.canon (hv.canon k))
      fun k off ho => (hv'.regs (hv.canon k) off ho).trans (hv.regs k off ho)
    rw [hf', hf]
    rfl
  refine ⟨{ v' with queues := s.queues, mem := s.mem }, m', p', t', hx, ?_⟩
  rw [hw]
  have hqs : v'.queues = s.queues.set q (recorded s.queues[q] r.1) := by
    rw [hf']
    show (updQ { v with mem := m, poison := p, t3 := t } q fun u => recorded u r.1).queues = _
    simp only [updQ, queues_aside hv]
  have ho : v'.outbox = s.outbox := (congrArg State.outbox hf').trans (outbox_aside hv :)
  have hms : v'.msix = s.msix := (congrArg State.msix hf').trans (msix_aside hv :)
  have hpd : v'.msixPending = s.msixPending := (congrArg State.msixPending hf').trans (msixPending_aside hv :)
  have hi : ioOk { v' with mem := m', poison := p', t3 := t' } = ioOk s := by
    have : v'.ide = s.ide := (congrArg State.ide hf').trans (ide_aside hv :)
    simp only [ioOk, this]
  clear hx hf hf' hv hv' e e' hw
  rw [raise_eq, hi]
  simp only [hms]
  generalize (r.2 && regBit s (offQctl q) 3) = a
  generalize s.msix[msixFin q].masked = b
  generalize ioOk s = c
  cases a <;> cases b <;> cases c <;> simp [hqs, ho, hpd]

theorem leNat_leBytes (n v : Nat) : leNat (leBytes n v) = v % 2 ^ (8 * n) := by
  induction n generalizing v with
  | zero => simp [leNat, leBytes, Nat.mod_one]
  | succ n ih =>
    simp only [leNat, leBytes, ih, BitVec.toNat_ofNat]
    rw [show 8 * (n + 1) = 8 + 8 * n by ring, Nat.pow_add, Nat.mod_mul]

/-- The record of a command names it. -/
theorem recNext_compRecord (s : State) (x : Cmd) (st : Nat) : recNext (compRecord s x st) = x.idx + 1 := by
  have h : fieldAt (compRecord s x st) 4 4 0 32 = x.idx.toNat := by
    simp only [fieldAt, compRecord, le4, leBytes, List.cons_append, List.nil_append, List.drop_succ_cons, List.drop_zero,
      List.take_succ_cons, List.take_zero, leNat, BitVec.toNat_ofNat, bits, Nat.shiftRight_zero]
    have := x.idx.isLt
    omega
  simp [recNext, h]

theorem leNat_le8 (v : Nat) : leNat (le8 v) = v % 2 ^ 64 := leNat_leBytes 8 v

/-- The ring slot and the write-back word do not meet. -/
theorem slot_tail_apart (s : State) (q : Fin 32) (k : Nat) (hk : k < 32) (j : Nat) (hj : j < 8) :
    (cqSlotOf s q + k) % 2 ^ 64 ≠ (cqTailOf s q + j) % 2 ^ 64 := by
  unfold cqSlotOf cqTailOf
  have h1 : 0 < cqSize s q := by unfold cqSize; positivity
  have h2 := Nat.mod_lt s.queues[q].cqCount h1
  have h3 : cqSize s q ≤ 2 ^ 32 := by
    unfold cqSize regField bits
    apply Nat.pow_le_pow_right (by norm_num)
    have := Nat.mod_lt ((regGet s (offQcq q)).toNat >>> 0) (show 0 < 2 ^ 5 by norm_num)
    omega
  omega

/-- The record of a command, from a state whose queue can take it. -/
theorem writeRec_left (s : State) (q : Fin 32) (r : List Byte) (b : Bool) (hc : Canonical s) (hf : s.fatal = none) (hr : r.length = 32) :
    (BackedAll s (cqSlotOf s q) 32 → rd (writeRec s q (r, b)) (cqSlotOf s q) 32 = r) ∧
    (BackedAll s (cqTailOf s q) 8 → rdNat (writeRec s q (r, b)) (cqTailOf s q) 8 = (s.queues[q].cqCount + 1) % 2 ^ 64) ∧
    (∀ a, Apart a (cqSlotOf s q) 32 → Apart a (cqTailOf s q) 8 → rdByte (writeRec s q (r, b)) a = rdByte s a) := by
  have hc1 : Canonical (updQ (wrNoted s (cqSlotOf s q) r) q fun u => recorded u r) := (wrNoted_keep s _ _).1 hc
  obtain ⟨v, m, p, t, hv, e⟩ := wrNoted_form s (cqSlotOf s q) r
  have hf1 : (updQ (wrNoted s (cqSlotOf s q) r) q fun u => recorded u r).fatal = none := by
    rw [e]; exact (fatal_aside hv).trans hf
  have hbk : ∀ a, backed (updQ (wrNoted s (cqSlotOf s q) r) q fun u => recorded u r) a = backed s a := fun a => by
    rw [e]; exact (backed_congr rfl a).trans (backed_aside hv hc a)
  have hrd : ∀ a, rdByte (writeRec s q (r, b)) a =
      rdByte (wrNoted (updQ (wrNoted s (cqSlotOf s q) r) q fun u => recorded u r) (cqTailOf s q) (le8 (s.queues[q].cqCount + 1))) a := by
    intro a
    unfold writeRec
    simp only
    split
    · unfold raise
      split
      · rfl
      · split <;> rfl
    · rfl
  have hout : ∀ a, Apart a (cqTailOf s q) 8 → rdByte (writeRec s q (r, b)) a = rdByte (wrNoted s (cqSlotOf s q) r) a := fun a h => by
    rw [hrd, rdByte_wrNoted_out _ _ _ _ hc1 (by rw [le8_length]; exact h)]
    rfl
  refine ⟨fun hb => ?_, fun hb => ?_, fun a h1 h2 => ?_⟩
  · have h0 := rd_wrNoted s (cqSlotOf s q) r hc hf (by omega) (by rw [hr]; exact hb)
    rw [hr] at h0
    refine Eq.trans ?_ h0
    simp only [rd]
    exact List.map_congr_left fun k hk => hout _ fun j hj => slot_tail_apart s q k (List.mem_range.1 hk) j hj
  · have h1 := rd_wrNoted (updQ (wrNoted s (cqSlotOf s q) r) q fun u => recorded u r) (cqTailOf s q) (le8 (s.queues[q].cqCount + 1)) hc1 hf1
      (by simp [le8_length]) (by intro k hk; rw [hbk]; exact hb k (by simpa [le8_length] using hk))
    rw [le8_length] at h1
    have : rd (writeRec s q (r, b)) (cqTailOf s q) 8 = le8 (s.queues[q].cqCount + 1) := by
      rw [← h1]
      simp only [rd, hrd]
    rw [rdNat, this]
    exact leNat_le8 _
  · rw [hout a h2, rdByte_wrNoted_out _ _ _ _ hc (by rw [hr]; exact h1)]

theorem cqOk_aside {s t : State} (h : Aside s t) (hc : Canonical s) (q : Fin 32) : cqOk t q = cqOk s q := by
  simp only [cqOk, cqSlotOf_aside h hc, cqTailOf_aside h hc, accessRefused_aside h hc]

/-- A completion record formed while the ring takes it and none waits (R351, R355, R373). -/
theorem putRec_left (s : State) (q : Fin 32) (x : Cmd) (st : Nat) (hc : Canonical s) (h : CanRecord s q) :
    RecordLeft q s (putRec s q x st) x st ∧ BytesKept q s (putRec s q x st) [] ∧
    (putRec s q x st).queues = s.queues.set q { s.queues[q] with cqCount := s.queues[q].cqCount + 1, oldest := x.idx + 1 } ∧
    (putRec s q x st).tokens = s.tokens ∧
    Aside { s with queues := (putRec s q x st).queues, mem := (putRec s q x st).mem, poison := (putRec s q x st).poison,
                   t3 := (putRec s q x st).t3, outbox := (putRec s q x st).outbox, msixPending := (putRec s q x st).msixPending }
      (putRec s q x st) := by
  have ha := endWork_aside s x st (whoOf q x.idx x.desc)
  have hrn : s.queues[q].recs = [] := h.2.1
  have e : putRec s q x st = writeRec (endWork s x st (whoOf q x.idx x.desc)) q (compRecord s x st, dIrq x.desc) := by
    have hq := queues_aside ha
    have hok : cqOk (endWork s x st (whoOf q x.idx x.desc)) q = true := by rw [cqOk_aside ha hc]; exact h.1
    unfold putRec flushRecs
    generalize endWork s x st (whoOf q x.idx x.desc) = u at hq hok ⊢
    have hr : u.queues[q].recs = [] := by rw [hq]; exact hrn
    have hok' : cqOk (updQ u q fun k => { k with recs := [(compRecord s x st, dIrq x.desc)] }) q = true := by
      rw [← hok]
      simp only [cqOk, cqSlotOf, cqTailOf, updQ_queue]
      rfl
    have hset : updQ (updQ u q fun k => { k with recs := [(compRecord s x st, dIrq x.desc)] }) q (fun k => { k with recs := [] }) = u := by
      have : u.queues.set q { u.queues[q] with recs := [] } = u.queues := by
        rw [show ({ u.queues[q] with recs := [] } : Queue) = u.queues[q] by rw [← hr]]
        simp
      simp only [updQ, Vector.set_set, Fin.getElem_fin, Vector.getElem_set_self]
      exact congrArg (fun v => ({ u with queues := v } : State)) this
    have he : updQ u q (fun k => { k with recs := k.recs ++ [(compRecord s x st, dIrq x.desc)] }) =
        updQ u q fun k => { k with recs := [(compRecord s x st, dIrq x.desc)] } := by
      simp only [updQ, hr, List.nil_append]
    simp only [he, updQ_queue, List.length_singleton]
    unfold writeRecs
    simp only [updQ_queue, hok', if_true, hset, writeRecs]
  have hl := writeRec_left (endWork s x st (whoOf q x.idx x.desc)) q (compRecord s x st) (dIrq x.desc) (ha.canonical hc)
      ((fatal_aside ha).trans h.2.2) (compRecord_length s x st)
  rw [cqSlotOf_aside ha hc, cqTailOf_aside ha hc, ← e] at hl
  have hb : ∀ a, backed (endWork s x st (whoOf q x.idx x.desc)) a = backed s a := fun a => backed_aside ha hc a
  obtain ⟨v, m, p, t, hv, hw⟩ := writeRec_form (endWork s x st (whoOf q x.idx x.desc)) q (compRecord s x st, dIrq x.desc)
  rw [← e] at hw
  have hctl : regBit (endWork s x st (whoOf q x.idx x.desc)) (offQctl q) 3 = regBit s (offQctl q) 3 := by
    simp only [regBit, ha.regs hc.2 _ (noted_q q).2.1]
  have hio : ioOk (endWork s x st (whoOf q x.idx x.desc)) = ioOk s := by simp only [ioOk, ide_aside ha]
  refine ⟨⟨fun k => hl.1 fun j hj => (hb _).trans (k j hj), fun k => ?_, ?_, ?_⟩, ?_, ?_, ?_, ?_⟩
  · rw [hl.2.1 fun j hj => (hb _).trans (k j hj), queues_aside ha]
  · rw [hw]
    simp only [outbox_aside ha, hctl, hio, msix_aside ha, asksVector]
    rfl
  · rw [hw]
    simp only [hctl, msix_aside ha, msixPending_aside ha, asksVector]
    rfl
  · intro a h1 h2 _
    rw [hl.2.2 a h1 h2]
    exact ha.bytes hc.2 a
  · rw [hw]
    simp [queues_aside ha, recorded, recNext_compRecord]
  · rw [hw]
    show v.tokens = _
    rw [hv.form, ha.form]
  · have hav := ha.trans hv
    have hf := hav.form
    rw [hw]
    refine Aside.of ?_ hav.twine hav.events hav.canon hav.regs
    rw [hf]

end Sys2Proof.Machine
end

