-- ==== Sys2Proof/Tests/Slice0.lean ====
section
/-! SUPPORT. Tests of one step each, ill-formed terms that WellFormed refuses, and for every statement a state that meets its
hypotheses. Expected results are those of the manual. -/
namespace Sys2Proof.Tests

open Sys2Proof.Machine Sys2Proof.Safety

set_option Elab.async false

/-! ### States for tests -/

/-- A module in service. -/
def live : State := { State.reset with phase := .run, perst := false }

def aKey : JobKey := ⟨1, 2, 3, 4⟩

/-- Queue 0 as given. -/
def withQ (s : State) (u : Queue) : State := { s with queues := s.queues.set 0 u }

/-- A running queue with one descriptor submitted. -/
def runQ : Queue := { Queue.reset with state := .running, tail := 1 }

/-- A module with these bytes in T1; the rings of queue 0 start at 0, so bytes below 128 are its next descriptor. -/
def atHead (d : List Host.Cell) : State := { withQ live runQ with mem := d }

/-- A command that runs alone on queue 0. -/
def running (x : Cmd) : State := withQ live { runQ with head := 1, active := [x] }

/-! ### Hypotheses as checks -/

def tameB (s : State) : Bool := Memory.wf s.mem && cellsWf regReset s.regs

theorem tame_of {s : State} (h : tameB s = true) : Canonical s := by
  rwa [tameB, Bool.and_eq_true] at h

theorem live_canonical : Canonical live := by
  unfold Canonical
  decide +kernel

def recordB (s : State) (q : Fin 32) : Bool := cqOk s q && s.queues[q].recs.isEmpty && s.fatal.isNone

theorem record_of {s : State} {q : Fin 32} (h : recordB s q = true) : CanRecord s q := by
  simp only [recordB, Bool.and_eq_true, List.isEmpty_iff, Option.isNone_iff_eq_none] at h
  exact ⟨h.1.1, h.1.2, h.2⟩

/-- The head of the queue may start, and satisfies `p`. -/
def readyB (s : State) (q : Fin 32) (p : Chk → Desc → Bool) : Bool :=
  s.queues[q].active.isEmpty && match fetchHead s q [] with
    | .got c d => descReady c.s d && p c d
    | _ => false

theorem ready_of {s : State} {q : Fin 32} {p : Chk → Desc → Bool} (h : readyB s q p = true) :
    ∃ c d, Ready s q [] c d ∧ p c d = true := by
  unfold readyB at h
  rw [Bool.and_eq_true] at h
  obtain ⟨ha, h⟩ := h
  split at h
  · rename_i c d hc
    rw [Bool.and_eq_true] at h
    exact ⟨c, d, ⟨List.isEmpty_iff.mp ha, hc, h.1⟩, h.2⟩
  · cases h

def lineB (s : State) (w : Who) (a : Nat) : Bool :=
  !backed s a || (accessRefusedFor s (w.q, w.idx) a == 0 && !linePoisoned s (a / 64) &&
    (regionOf a != .t3 || t3Check s (tierOffset a / 256) != .fails))

def readB (s : State) (w : Who) (rs : List (Nat × Nat)) : Bool :=
  rs.all fun r => (linesOf r.1 r.2).all fun l => lineB s w (64 * l % 2 ^ 64)

def writeB (s : State) (w : Who) (rs : List (Nat × Nat)) : Bool :=
  rs.all fun r => (linesOf r.1 r.2).all fun l =>
    !backed s (64 * l % 2 ^ 64) || accessRefusedFor s (w.q, w.idx) (64 * l % 2 ^ 64) == 0

theorem read_of {s : State} {w : Who} {rs : List (Nat × Nat)} (h : readB s w rs = true) : ReadOk s w rs := by
  intro r hr l hl hb
  have h := List.all_eq_true.mp (List.all_eq_true.mp h r hr) l hl
  simp only [lineB, hb, Bool.not_true, Bool.false_or, Bool.and_eq_true, beq_iff_eq, Bool.not_eq_true', Bool.or_eq_true,
    bne_iff_ne, ne_eq] at h
  exact ⟨h.1.1, h.1.2, fun k => h.2.resolve_left fun n => n k⟩

theorem write_of {s : State} {w : Who} {rs : List (Nat × Nat)} (h : writeB s w rs = true) : WriteOk s w rs := by
  intro r hr l hl hb
  have h := List.all_eq_true.mp (List.all_eq_true.mp h r hr) l hl
  rw [hb, Bool.not_true, Bool.false_or, beq_iff_eq] at h
  exact h

theorem clean_nil : CleanEnv [] := by intro f h; cases h

/-- The hypotheses that commands which start share, and `p` of the descriptor at the head. -/
def startB (s : State) (p : Chk → Desc → Bool) : Bool := tameB s && recordB s 0 && readyB s 0 p

theorem start_of {s : State} {p : Chk → Desc → Bool} (h : startB s p = true) :
    ∃ c d, Canonical s ∧ CanRecord s 0 ∧ Ready s 0 [] c d ∧ p c d = true := by
  simp only [startB, Bool.and_eq_true] at h
  obtain ⟨c, d, hr, hp⟩ := ready_of h.2
  exact ⟨c, d, tame_of h.1.1, record_of h.1.2, hr, hp⟩

/-- The same at a command that may complete. -/
def endB (s : State) : Bool :=
  tameB s && recordB s 0 && s.queues[(0 : Fin 32)].state == .running && inService s && !evBlocked s 0

theorem end_of {s : State} (h : endB s = true) :
    Canonical s ∧ CanRecord s 0 ∧ s.queues[(0 : Fin 32)].state = .running ∧ inService s = true ∧ evBlocked s 0 = false := by
  simp only [endB, Bool.and_eq_true, Bool.not_eq_true', beq_iff_eq] at h
  exact ⟨tame_of h.1.1.1.1, record_of h.1.1.1.2, h.1.1.2, h.1.2, h.2⟩

/-- Every slot of the completion ring of queue 0 can be written. -/
def ringB (s : State) : Bool :=
  recordB s 0 && decide (0 < cqSize s 0) && (List.range (cqSize s 0)).all fun n => accessRefused s ((cqBase s 0 + 32 * n) % 2 ^ 64) == 0

theorem ring_of {s : State} (h : ringB s = true) : RingOpen s 0 := by
  simp only [ringB, Bool.and_eq_true, decide_eq_true_eq, List.all_eq_true, List.mem_range, beq_iff_eq] at h
  exact ⟨record_of h.1.1, fun n => h.2 _ (Nat.mod_lt n h.1.2)⟩

/-- This address lies outside the completion ring of queue 0 and its count. -/
def offB (s : State) (a : Nat) : Bool :=
  decide (cqBase s 0 + 32 * cqSize s 0 + 8 ≤ a) && decide (a < 2 ^ 64) && decide (0 < cqSize s 0)

theorem off_of {s : State} {a : Nat} (h : offB s a = true) : OffRing s 0 a := by
  simp only [offB, Bool.and_eq_true, decide_eq_true_eq] at h
  obtain ⟨⟨h1, h2⟩, h3⟩ := h
  refine ⟨fun n k hk => ?_, fun k hk => ?_⟩
  · have := Nat.mod_lt n h3
    unfold ringSlot
    omega
  · unfold cqTailOf
    omega

/-! ### Descriptors that start -/

/-- O4. -/
theorem witness_nop : ∃ c d, Canonical (atHead []) ∧ CanRecord (atHead []) 0 ∧ Ready (atHead []) 0 [] c d ∧
    dKind d = 0 := by
  obtain ⟨c, d, h⟩ := start_of (s := atHead []) (p := fun _ d => dKind d == 0) (by decide +kernel)
  exact ⟨c, d, by simpa using h⟩

/-- O5: ADD with WR_EN, SET with it and without, at an address whose low bits are not zero. -/
theorem witness_signal : ∀ b ∈ [(2 : Byte), 3, 1], ∃ c d,
    let s := atHead [(0, 7), (0x29, b), (0x30, 7), (0x31, 0x10)]
    Canonical s ∧ CanRecord s 0 ∧ Ready s 0 [] c d ∧ dKind d = 7 ∧ signalSetBit d = bitAt b.toNat 0 ∧
    bitAt (fieldAt d 0x28 4 0 32) 9 = bitAt b.toNat 1 ∧ fieldAt d 0x30 8 0 3 ≠ 0 ∧
    (let k := Chk.write (who s 0 d) c (fieldAt d 0x30 8 0 64 / 8 * 8) 8
     k.stop = none ∧ evBlocked k.s 0 = false ∧ evBlocked c.s 0 = false) := by
  intro b hb
  have h : ∀ b ∈ [(2 : Byte), 3, 1], startB (atHead [(0, 7), (0x29, b), (0x30, 7), (0x31, 0x10)]) (fun c d =>
      let k := Chk.write (who (atHead [(0, 7), (0x29, b), (0x30, 7), (0x31, 0x10)]) 0 d) c (fieldAt d 0x30 8 0 64 / 8 * 8) 8
      dKind d == 7 && signalSetBit d == bitAt b.toNat 0 && bitAt (fieldAt d 0x28 4 0 32) 9 == bitAt b.toNat 1 &&
      fieldAt d 0x30 8 0 3 != 0 && k.stop.isNone && !evBlocked k.s 0 && !evBlocked c.s 0) = true := by decide +kernel
  obtain ⟨c, d, h⟩ := start_of (h b hb)
  exact ⟨c, d, by simpa [and_assoc] using h⟩

/-- O5: the line of its write has an error that cannot be corrected, and the holding buffer is full. -/
theorem witness_signal_waits :
    let s : State := { atHead [(0, 7), (0x29, 2), (0x31, 0x10)] with events := List.replicate 512 ⟨0, []⟩ }
    ∃ c d, Canonical s ∧ Ready s 0 [⟨64, .ue, 0⟩] c d ∧ dKind d = 7 ∧
    (let k := Chk.write (who s 0 d) c (fieldAt d 0x30 8 0 64 / 8 * 8) 8
     k.stop = none ∧ evBlocked k.s 0 = true) := by
  intro s
  have h : (match fetchHead s 0 [⟨64, .ue, 0⟩] with
    | .got c d => descReady c.s d && dKind d == 7 &&
        (let k := Chk.write (who s 0 d) c (fieldAt d 0x30 8 0 64 / 8 * 8) 8
         k.stop.isNone && evBlocked k.s 0)
    | _ => false) = true := by decide +kernel
  have ht := tame_of (s := s) (by decide +kernel)
  split at h
  · rename_i c d hc
    simp only [Bool.and_eq_true, beq_iff_eq, Option.isNone_iff_eq_none] at h
    exact ⟨c, d, ht, ⟨rfl, hc, h.1.1⟩, h.1.2, h.2⟩
  · cases h

/-- O6: FENCE, WAIT_GAUGE and SNAP. -/
theorem witness_waits : ∀ k ∈ [(5 : Byte), 6, 10], ∃ c d, Canonical (atHead [(0, k), (0x28, 9)]) ∧
    CanRecord (atHead [(0, k), (0x28, 9)]) 0 ∧ Ready (atHead [(0, k), (0x28, 9)]) 0 [] c d ∧ dKind d = k.toNat ∧
    runningSnaps c.s < 4 := by
  intro k hk
  have h : ∀ k ∈ [(5 : Byte), 6, 10], startB (atHead [(0, k), (0x28, 9)]) (fun c d => dKind d == k.toNat && decide (runningSnaps c.s < 4))
      = true := by decide +kernel
  obtain ⟨c, d, h⟩ := start_of (h k hk)
  exact ⟨c, d, by simpa using h⟩

/-- A MOVE of two rows of three elements from 0x1000 to 0x2000, with byte 0x58 and byte 0x41 as given. -/
def moveAt (flags conv : Byte) : State :=
  atHead [(0, 2), (0x29, 0x10), (0x39, 0x20), (0x40, 4), (0x41, conv), (0x48, 2), (0x4C, 3), (0x58, flags)]

/-- O7: COPY and TRANSPOSE. -/
theorem witness_copy : ∀ f ∈ [(0x10 : Byte), 2], ∃ c d,
    let m := (moveOf d).1
    Canonical (moveAt f 4) ∧ Ready (moveAt f 4) 0 [] c d ∧ dKind d = 2 ∧ isCopyOp d = true ∧ mvConvBit d = false ∧
    mvTrBit d = (f == 2) ∧ m.rows = 2 ∧ m.cols = 3 ∧
    ReadOk (moveAt f 4) (who (moveAt f 4) 0 d) (matRanges m.src.addr m.sstr (fmtWidth (fmtOf m.src.fmt)) m.rows m.cols) ∧
    WriteOk (moveAt f 4) (who (moveAt f 4) 0 d) m.dests := by
  intro f hf
  have h : ∀ f ∈ [(0x10 : Byte), 2], startB (moveAt f 4) (fun _ d =>
      let m := (moveOf d).1
      dKind d == 2 && isCopyOp d && !mvConvBit d && mvTrBit d == (f == 2) && m.rows == 2 && m.cols == 3 &&
      readB (moveAt f 4) (who (moveAt f 4) 0 d) (matRanges m.src.addr m.sstr (fmtWidth (fmtOf m.src.fmt)) m.rows m.cols) &&
      writeB (moveAt f 4) (who (moveAt f 4) 0 d) m.dests) = true := by decide +kernel
  obtain ⟨c, d, h1, _, h4, h⟩ := start_of (h f hf)
  simp only [Bool.and_eq_true, beq_iff_eq, Bool.not_eq_true'] at h
  obtain ⟨⟨⟨⟨⟨⟨⟨a, b⟩, k⟩, e⟩, i⟩, j⟩, l⟩, m⟩ := h
  exact ⟨c, d, h1, h4, a, b, k, e, i, j, read_of l, write_of m⟩

/-- O7: FILL. -/
theorem witness_fill : ∃ c d,
    let dst := ((TRef.parse d 0x38).clampAddr).1
    Canonical (moveAt 4 4) ∧ Ready (moveAt 4 4) 0 [] c d ∧ dKind d = 2 ∧ mvOp d = 1 ∧
    WriteOk (moveAt 4 4) (who (moveAt 4 4) 0 d) (matRanges dst.addr (strideClamp (fieldAt d 0x54 4 0 32)
      (dim24 (fieldAt d 0x4C 4 0 32)).1).1 8 (dim24 (fieldAt d 0x48 4 0 32)).1 (dim24 (fieldAt d 0x4C 4 0 32)).1) := by
  obtain ⟨c, d, h1, _, h4, h⟩ := start_of (s := moveAt 4 4) (p := fun _ d => dKind d == 2 && mvOp d == 1 &&
    writeB (moveAt 4 4) (who (moveAt 4 4) 0 d) (matRanges ((TRef.parse d 0x38).clampAddr).1.addr (strideClamp (fieldAt d 0x54 4 0 32)
      (dim24 (fieldAt d 0x4C 4 0 32)).1).1 8 (dim24 (fieldAt d 0x48 4 0 32)).1 (dim24 (fieldAt d 0x4C 4 0 32)).1)) (by decide +kernel)
  simp only [Bool.and_eq_true, beq_iff_eq] at h
  exact ⟨c, d, h1, h4, h.1.1, h.1.2, write_of h.2⟩

/-- What O8 asks of the descriptor at the head, in two parts. -/
def convertB (f v : Byte) (part : Bool) : Bool := startB (moveAt f v) fun _ d =>
  let m := (moveOf d).1
  let w := who (moveAt f v) 0 d
  if part then dKind d == 2 && isCopyOp d && mvConvBit d && mvTrBit d == (f == 3) && decide (m.dst.scale = 3) == (v == 0x0C) &&
      writeB (moveAt f v) w m.dests
  else readB (moveAt f v) w (scaleRange m.src m.rows m.cols m.rows ::
    (if m.dst.scale = 3 then [] else [scaleRange m.dst m.drows m.dcols m.drows]) ++
    matRanges m.src.addr m.sstr (fmtWidth (fmtOf m.src.fmt)) m.rows m.cols)

theorem convert_plain : convertB 1 4 true = true ∧ convertB 1 4 false = true := by decide +kernel
theorem convert_transposed : convertB 3 4 true = true ∧ convertB 3 4 false = true := by decide +kernel
theorem convert_mx : convertB 1 0x0C true = true ∧ convertB 1 0x0C false = true := by decide +kernel

theorem ready_unique {s : State} {q : Fin 32} {env : List Finding} {c c' : Chk} {d d' : Desc} (h : Ready s q env c d)
    (h' : Ready s q env c' d') : c' = c ∧ d' = d := by
  have := h.2.1.symm.trans h'.2.1
  injection this with h1 h2
  exact ⟨h1.symm, h2.symm⟩

/-- O8: CONVERT, TRANSPOSE with conversion, and an MX destination. -/
theorem witness_convert : ∀ f ∈ [((1 : Byte), (4 : Byte)), (3, 4), (1, 0x0C)], ∃ c d,
    let m := (moveOf d).1
    let w := who (moveAt f.1 f.2) 0 d
    Canonical (moveAt f.1 f.2) ∧ Ready (moveAt f.1 f.2) 0 [] c d ∧ dKind d = 2 ∧ isCopyOp d = true ∧
    mvConvBit d = true ∧ mvTrBit d = (f.1 == 3) ∧ decide (m.dst.scale = 3) = (f.2 == 0x0C) ∧
    ReadOk (moveAt f.1 f.2) w (scaleRange m.src m.rows m.cols m.rows ::
      (if m.dst.scale = 3 then [] else [scaleRange m.dst m.drows m.dcols m.drows]) ++
      matRanges m.src.addr m.sstr (fmtWidth (fmtOf m.src.fmt)) m.rows m.cols) ∧ WriteOk (moveAt f.1 f.2) w m.dests := by
  intro f hf
  have h : convertB f.1 f.2 true = true ∧ convertB f.1 f.2 false = true := by
    simp only [List.mem_cons, List.not_mem_nil, or_false] at hf
    rcases hf with rfl | rfl | rfl
    · exact convert_plain
    · exact convert_transposed
    · exact convert_mx
  obtain ⟨c, d, h1, _, h4, hp⟩ := start_of h.1
  obtain ⟨c', d', _, _, h4', hr⟩ := start_of h.2
  obtain ⟨rfl, rfl⟩ := ready_unique h4 h4'
  simp only [Bool.and_eq_true, beq_iff_eq, if_true] at hp
  obtain ⟨⟨⟨⟨⟨a, b⟩, k⟩, e⟩, i⟩, m⟩ := hp
  exact ⟨c', d', h1, h4, a, b, k, e, i, read_of (by simpa using hr), write_of m⟩

/-- One element from 0x1000 into core scratch, with byte 0x58 as given. -/
def atomicAt (flags : Byte) : State := atHead [(0, 2), (0x29, 0x10), (0x3E, 1), (0x48, 1), (0x4C, 1), (0x58, flags), (0x61, 0x30)]

/-- O9: every atomic. -/
theorem witness_atomics : ∀ code : Fin 7, ∃ c d,
    let s := atomicAt (BitVec.ofNat 8 (8 + 16 * code))
    let a := atomicOf code
    let src := ((TRef.parse d 0x28).clampAddr).1
    let dst := ((TRef.parse d 0x38).clampAddr).1
    let n := if a.pair then 2 * a.size else a.size
    let srcs := atomicSources a src.addr (strideClamp (fieldAt d 0x50 4 0 32) n).1 1 1
    let dsts := atomicTargets a dst.addr (strideClamp (fieldAt d 0x54 4 0 32) a.size).1 1 1
    Canonical s ∧ Ready s 0 [] c d ∧ dKind d = 2 ∧ mvOp d = 2 ∧ mvAtomic d = code ∧
    (dim24 (fieldAt d 0x48 4 0 32)).1 = 1 ∧ (dim24 (fieldAt d 0x4C 4 0 32)).1 = 1 ∧ (∀ t ∈ dsts, regionOf t = .core) ∧
    ReadOk s (who s 0 d) (srcs.map (·, n) ++ dsts.map (·, a.size)) ∧ WriteOk s (who s 0 d) [(mvResult d, a.size)] := by
  intro code
  have h : ∀ code : Fin 7, startB (atomicAt (BitVec.ofNat 8 (8 + 16 * code))) (fun _ d =>
      let s := atomicAt (BitVec.ofNat 8 (8 + 16 * code))
      let a := atomicOf code
      let src := ((TRef.parse d 0x28).clampAddr).1
      let dst := ((TRef.parse d 0x38).clampAddr).1
      let n := if a.pair then 2 * a.size else a.size
      let srcs := atomicSources a src.addr (strideClamp (fieldAt d 0x50 4 0 32) n).1 1 1
      let dsts := atomicTargets a dst.addr (strideClamp (fieldAt d 0x54 4 0 32) a.size).1 1 1
      dKind d == 2 && mvOp d == 2 && mvAtomic d == code.val && (dim24 (fieldAt d 0x48 4 0 32)).1 == 1 &&
      (dim24 (fieldAt d 0x4C 4 0 32)).1 == 1 && decide (∀ t ∈ dsts, regionOf t = .core) &&
      readB s (who s 0 d) (srcs.map (·, n) ++ dsts.map (·, a.size)) && writeB s (who s 0 d) [(mvResult d, a.size)]) = true := by
    decide +kernel
  obtain ⟨c, d, h1, _, h4, h⟩ := start_of (h code)
  simp only [Bool.and_eq_true, beq_iff_eq, decide_eq_true_eq] at h
  obtain ⟨⟨⟨⟨⟨⟨⟨a, b⟩, k⟩, e⟩, i⟩, j⟩, l⟩, m⟩ := h
  exact ⟨c, d, h1, h4, a, b, k, e, i, j, read_of l, write_of m⟩

/-! ### The block as a whole -/

/-- O1: an idle block, one whose trace queue holds a record, and one with a packet to itself. -/
theorem witness_idle : State.reset.pending = [] ∧ State.reset.looped = [] ∧
    (∀ c : Fin 16, State.reset.cores[c].trace.leaving = [] ∧ State.reset.cores[c].trace.undrained = 0 ∧ State.reset.cores[c].trace.dropped = 0) ∧
    (let s := updTrace State.reset 0 fun t => { t with undrained := 1 }
     s.pending = [] ∧ s.looped = [] ∧ s.cores[(0 : Fin 16)].trace.undrained ≠ 0) ∧
    (let s : State := { State.reset with looped := [⟨0, 0, []⟩] }
     s.pending = [] ∧ s.looped = [⟨0, 0, []⟩]) := by decide +kernel

/-- A step that changes nothing: T1_INIT before the boot. -/
theorem quiet_step : step { State.reset with pending := [.t1Init] } = .next State.reset := rfl

/-- O3. -/
theorem witness_canonical_step : step { State.reset with pending := [.t1Init] } = .next State.reset ∧
    Canonical { State.reset with pending := [.t1Init] } := by
  refine ⟨quiet_step, ?_⟩
  unfold Canonical
  decide +kernel

/-! ### Tables, programs and updates -/

/-- O10: a table of 16 entries, and an unknown kind. -/
theorem witness_codebook : ∃ c d,
    let s := atHead [(0, 8), (0x29, 0x10), (0x31, 0x20), (0x3C, 1)]
    Canonical s ∧ Ready s 0 [] c d ∧ dKind d = 8 ∧ tlKind d = 0 ∧ fieldAt d 0x3C 4 0 32 = 1 ∧
    ReadOk s (who s 0 d) [(fieldAt d 0x28 8 0 64, 16)] ∧ WriteOk s (who s 0 d) [(fieldAt d 0x30 8 0 64, 16)] ∧
    ∀ i < 16, Apart ((fieldAt d 0x28 8 0 64 + i) % 2 ^ 64) (fieldAt d 0x30 8 0 64) 16 := by
  obtain ⟨c, d, h1, _, h4, h⟩ := start_of (s := atHead [(0, 8), (0x29, 0x10), (0x31, 0x20), (0x3C, 1)]) (p := fun _ d =>
    let s := atHead [(0, 8), (0x29, 0x10), (0x31, 0x20), (0x3C, 1)]
    dKind d == 8 && tlKind d == 0 && fieldAt d 0x3C 4 0 32 == 1 && readB s (who s 0 d) [(fieldAt d 0x28 8 0 64, 16)] &&
    writeB s (who s 0 d) [(fieldAt d 0x30 8 0 64, 16)] && fieldAt d 0x28 8 0 64 == 0x1000 && fieldAt d 0x30 8 0 64 == 0x2000)
    (by decide +kernel)
  simp only [Bool.and_eq_true, beq_iff_eq] at h
  obtain ⟨⟨⟨⟨⟨⟨a, b⟩, k⟩, e⟩, i⟩, j⟩, l⟩ := h
  refine ⟨c, d, h1, h4, a, b, k, read_of e, write_of i, ?_⟩
  rw [j, l]
  intro i hi k hk
  omega

theorem witness_unknown_table : ∃ c d, Canonical (atHead [(0, 8), (0x38, 3)]) ∧
    Ready (atHead [(0, 8), (0x38, 3)]) 0 [] c d ∧ dKind d = 8 ∧ 3 ≤ tlKind d := by
  obtain ⟨c, d, h1, _, h4, h⟩ := start_of (s := atHead [(0, 8), (0x38, 3)]) (p := fun _ d => dKind d == 8 && decide (3 ≤ tlKind d))
    (by decide +kernel)
  simp only [Bool.and_eq_true, beq_iff_eq, decide_eq_true_eq] at h
  exact ⟨c, d, h1, h4, h⟩

/-- O10: EDDY, PREC_INIT of one block, PROGRAM_LOAD; the source is 0x1000, and so is the block. -/
theorem witness_eddy : ∃ c d,
    let s := atHead [(0, 8), (0x29, 0x10), (0x38, 1)]
    Canonical s ∧ Ready s 0 [] c d ∧ dKind d = 8 ∧ tlKind d = 1 ∧ eddyBound c.s (tlEt d) = false ∧
    ReadOk s (who s 0 d) [(fieldAt d 0x28 8 0 64, 32)] := by
  obtain ⟨c, d, h1, _, h4, h⟩ := start_of (s := atHead [(0, 8), (0x29, 0x10), (0x38, 1)]) (p := fun c d =>
    let s := atHead [(0, 8), (0x29, 0x10), (0x38, 1)]
    dKind d == 8 && tlKind d == 1 && !eddyBound c.s (tlEt d) && readB s (who s 0 d) [(fieldAt d 0x28 8 0 64, 32)]) (by decide +kernel)
  simp only [Bool.and_eq_true, beq_iff_eq, Bool.not_eq_true'] at h
  exact ⟨c, d, h1, h4, h.1.1.1, h.1.1.2, h.1.2, read_of h.2⟩

theorem witness_prec_init : ∃ c d,
    let s := atHead [(0, 8), (0x31, 0x10), (0x38, 2), (0x3C, 1)]
    Canonical s ∧ Ready s 0 [] c d ∧ dKind d = 8 ∧ tlKind d = 2 ∧ fieldAt d 0x3C 4 0 32 = 1 ∧
    WriteOk s (who s 0 d) ((List.range (fieldAt d 0x3C 4 0 32)).map fun j => (fieldAt d 0x30 8 0 64 + j * 0x7000 + 0x40, 64)) := by
  obtain ⟨c, d, h1, _, h4, h⟩ := start_of (s := atHead [(0, 8), (0x31, 0x10), (0x38, 2), (0x3C, 1)]) (p := fun _ d =>
    let s := atHead [(0, 8), (0x31, 0x10), (0x38, 2), (0x3C, 1)]
    dKind d == 8 && tlKind d == 2 && fieldAt d 0x3C 4 0 32 == 1 &&
    writeB s (who s 0 d) ((List.range (fieldAt d 0x3C 4 0 32)).map fun j => (fieldAt d 0x30 8 0 64 + j * 0x7000 + 0x40, 64)))
    (by decide +kernel)
  simp only [Bool.and_eq_true, beq_iff_eq] at h
  exact ⟨c, d, h1, h4, h.1.1.1, h.1.1.2, h.1.2, write_of h.2⟩

theorem witness_program_load : ∃ c d,
    let s := atHead [(0, 9), (0x29, 0x10)]
    Canonical s ∧ Ready s 0 [] c d ∧ dKind d = 9 ∧ programBound c.s (fieldAt d 0x30 4 0 4) = false ∧
    ReadOk s (who s 0 d) [(fieldAt d 0x28 8 0 64, 512)] := by
  obtain ⟨c, d, h1, _, h4, h⟩ := start_of (s := atHead [(0, 9), (0x29, 0x10)]) (p := fun c d =>
    let s := atHead [(0, 9), (0x29, 0x10)]
    dKind d == 9 && !programBound c.s (fieldAt d 0x30 4 0 4) && readB s (who s 0 d) [(fieldAt d 0x28 8 0 64, 512)]) (by decide +kernel)
  simp only [Bool.and_eq_true, beq_iff_eq, Bool.not_eq_true'] at h
  exact ⟨c, d, h1, h4, h.1.1, h.1.2, read_of h.2⟩

/-- An UPDATE of the shard at 0x1000 with COUNT and FREEZE as given, and a program in slot 0. -/
def updateAt (count freeze : List Host.Cell) : State :=
  { atHead ([(0, 4), (0x29, 0x10)] ++ count ++ freeze) with programs := State.reset.programs.set 0 [1] }

/-- O11: FREEZE, nothing to do, and a shard of one element. -/
theorem witness_update : ∀ m ∈ [(([], [(0x1004, 1)]) : List Host.Cell × List Host.Cell), ([], []), ([(0x1000, 1)], [])], ∃ c d,
    let s := updateAt m.1 m.2
    let sh := (shardOf (rd s (udShard d) 256)).1
    let idle := slotImage s (udProg d) = [] ∨ sh.count = 0
    Canonical s ∧ Ready s 0 [] c d ∧ dKind d = 4 ∧ updateReady c.s d = true ∧
    ReadOk s (who s 0 d) [(udShard d, 256)] ∧ sh.freeze = (m.2 != []) ∧ (idle ↔ m.1 = []) ∧ (sh.member 1).addr = 0 ∧ udSched d = 0 ∧
    sh.guardPtr = 0 := by
  intro m hm
  have h : ∀ m ∈ [(([], [(0x1004, 1)]) : List Host.Cell × List Host.Cell), ([], []), ([(0x1000, 1)], [])],
      startB (updateAt m.1 m.2) (fun c d =>
        let s := updateAt m.1 m.2
        let sh := (shardOf (rd s (udShard d) 256)).1
        dKind d == 4 && updateReady c.s d && readB s (who s 0 d) [(udShard d, 256)] && sh.freeze == (m.2 != []) &&
        decide ((slotImage s (udProg d) = [] ∨ sh.count = 0) ↔ m.1 = []) && (sh.member 1).addr == 0 && udSched d == 0 &&
        sh.guardPtr == 0) = true := by
    intro m hm
    simp only [List.mem_cons, List.not_mem_nil, or_false] at hm
    rcases hm with rfl | rfl | rfl <;> decide +kernel
  obtain ⟨c, d, h1, _, h4, h⟩ := start_of (h m hm)
  simp only [Bool.and_eq_true, beq_iff_eq, decide_eq_true_eq] at h
  obtain ⟨⟨⟨⟨⟨⟨⟨a, b⟩, k⟩, e⟩, i⟩, j⟩, l⟩, n⟩ := h
  exact ⟨c, d, h1, h4, a, b, read_of k, e, i, j, l, n⟩

/-! ### Runs -/

/-- The head of the queue can be read and may start, whatever runs before it. -/
def gotB (s : State) (q : Fin 32) (p : Chk → Desc → Bool) : Bool :=
  tameB s && match fetchHead s q [] with
    | .got c d => descReady c.s d && p c d
    | _ => false

theorem got_of {s : State} {q : Fin 32} {p : Chk → Desc → Bool} (h : gotB s q p = true) :
    ∃ c d, Canonical s ∧ fetchHead s q [] = .got c d ∧ descReady c.s d = true ∧ p c d = true := by
  unfold gotB at h
  rw [Bool.and_eq_true] at h
  obtain ⟨ht, h⟩ := h
  split at h
  · rename_i c d hc
    rw [Bool.and_eq_true] at h
    exact ⟨c, d, tame_of ht, hc, h.1, h.2⟩
  · cases h

/-- A LAYER of one element: A at 0x8000, B at 0x9000, C at 0xA000, its precision block at 0x10000. -/
def layerDesc : List Host.Cell :=
  [(0, 1), (0x29, 0x80), (0x30, 6), (0x39, 0x90), (0x40, 6), (0x49, 0xA0), (0x50, 4), (0x5A, 1), (0x60, 1), (0x64, 1), (0x68, 1)]

/-- A run in which such a descriptor, not the last, has run. -/
def oneOp (ev : OpEv) : OpRec :=
  { desc := (List.range 128).map fun i => ((layerDesc.find? fun x => x.1 == i).map fun x => x.2).getD 0
    sa := [], sb := [], sc := [], eddy := [], ev := ev, recs := [], managed := none, errs := [], flagged := []
    conv := false, replayed := false, tiles := [] }
def aRun (ev : OpEv) (ended : Bool) (ops : List OpRec) : Run :=
  { layer := 0, prec := 0x10000, step := 0, pol := List.replicate 64 0, rung := 0, replays := 0, ceil := none, ops := ops.map fun o => { o with ev := ev }
    ended := ended }
def layerCmd : Cmd :=
  { idx := 0, desc := (oneOp OpEv.none).desc, kind := 1, status := 0, clamped := false, cores := 1, result := zeroResult, writes := []
    dests := [], work := .layer }
def runState (r : Run) (q : Queue) (d : List Host.Cell) : State :=
  { withQ live { q with run := some r, active := r.ops.map fun _ => layerCmd } with mem := d }

/-- O12: a fresh run, and a descriptor that joins one. -/
theorem witness_layer_fresh : ∃ c d,
    let s := atHead layerDesc
    let l := (layerOf d).1
    Canonical s ∧ fetchHead s 0 [] = .got c d ∧ descReady c.s d = true ∧ dKind d = 1 ∧ eddyLoading c.s l.eddySel = false ∧
    s.queues[(0 : Fin 32)].run = none ∧ s.queues[(0 : Fin 32)].active = [] ∧ lyPrec d = 0x10000 ∧
    ReadOk s (who s 0 d) ((lyPrec d, precLen) :: layerReads l) ∧ WriteOk s (who s 0 d) (layerWrites (policyOf (padTo 64 (rd s (lyPrec d) precLen))).1 l) ∧
    (l.a.scale = 0 ∧ l.b.scale = 0 ∧ l.c.scale = 0 ∧ l.a.fmt ≠ 0x08 ∧ l.b.fmt ≠ 0x08 ∧ l.c.fmt ≠ 0x08 ∧ l.resid = none ∧ l.splits = 1 ∧ l.ewise = false ∧
     needConv l.opA.fmt false 0 false = false ∧ needConv l.opB.fmt false 0 false = false) := by
  obtain ⟨c, d, h1, h3, h4, h⟩ := got_of (s := atHead layerDesc) (q := 0) (p := fun c d =>
    let s := atHead layerDesc
    let l := (layerOf d).1
    dKind d == 1 && !eddyLoading c.s l.eddySel && lyPrec d == 0x10000 &&
    readB s (who s 0 d) ((lyPrec d, precLen) :: layerReads l) &&
    writeB s (who s 0 d) (layerWrites (policyOf (padTo 64 (rd s (lyPrec d) precLen))).1 l) &&
    decide (l.a.scale = 0 ∧ l.b.scale = 0 ∧ l.c.scale = 0 ∧ l.a.fmt ≠ 0x08 ∧ l.b.fmt ≠ 0x08 ∧ l.c.fmt ≠ 0x08 ∧ l.resid = none ∧ l.splits = 1 ∧ l.ewise = false ∧
     needConv l.opA.fmt false 0 false = false ∧ needConv l.opB.fmt false 0 false = false)) (by decide +kernel)
  simp only [Bool.and_eq_true, beq_iff_eq, Bool.not_eq_true', decide_eq_true_eq] at h
  exact ⟨c, d, h1, h3, h4, h.1.1.1.1.1, h.1.1.1.1.2, rfl, rfl, h.1.1.1.2, read_of h.1.1.2, write_of h.1.2, h.2⟩

theorem witness_layer_joins : ∃ c d r,
    let s := runState (aRun OpEv.none false [oneOp OpEv.none]) runQ layerDesc
    let l := (layerOf d).1
    Canonical s ∧ fetchHead s 0 [] = .got c d ∧ descReady c.s d = true ∧ dKind d = 1 ∧ eddyLoading c.s l.eddySel = false ∧
    s.queues[(0 : Fin 32)].run = some r ∧ r.ended = false ∧ r.marking = none ∧ dLayer d = r.layer ∧
    ReadOk s (who s 0 d) ((r.prec, precLen) :: layerReads l) ∧ WriteOk s (who s 0 d) (layerWrites (policyOf r.pol).1 l) := by
  obtain ⟨c, d, h1, h3, h4, h⟩ := got_of (s := runState (aRun OpEv.none false [oneOp OpEv.none]) runQ layerDesc) (q := 0) (p := fun c d =>
    let s := runState (aRun OpEv.none false [oneOp OpEv.none]) runQ layerDesc
    let l := (layerOf d).1
    dKind d == 1 && !eddyLoading c.s l.eddySel && dLayer d == 0 &&
    readB s (who s 0 d) ((0x10000, precLen) :: layerReads l) && writeB s (who s 0 d) (layerWrites (policyOf (List.replicate 64 0)).1 l)) (by decide +kernel)
  simp only [Bool.and_eq_true, beq_iff_eq, Bool.not_eq_true'] at h
  exact ⟨c, d, aRun OpEv.none false [oneOp OpEv.none], h1, h3, h4, h.1.1.1.1, h.1.1.1.2, rfl, rfl, by decide +kernel, h.1.1.2,
    read_of h.1.2, write_of h.2⟩

theorem refused_same {s : State} {w w' : Nat × Nat} {a : Nat} (h : regionOf a ≠ .t3) :
    accessRefusedFor s w a = accessRefusedFor s w' a := by
  unfold accessRefusedFor
  split
  · rfl
  · split
    · rename_i k; exact absurd k h
    · rfl
    · rfl

def noT3 (rs : List (Nat × Nat)) : Bool := rs.all fun r => (linesOf r.1 r.2).all fun l => regionOf (64 * l % 2 ^ 64) != .t3

/-- Outside T3 it does not matter which command asks. -/
theorem any_read {s : State} {w w' : Who} {rs : List (Nat × Nat)} (h : noT3 rs = true) (hr : ReadOk s w rs) : ReadOk s w' rs := by
  intro r hm l hl hb
  have k := List.all_eq_true.mp (List.all_eq_true.mp h r hm) l hl
  rw [bne_iff_ne] at k
  have x := hr r hm l hl hb
  exact ⟨(refused_same k).symm.trans x.1, x.2⟩

theorem any_write {s : State} {w w' : Who} {rs : List (Nat × Nat)} (h : noT3 rs = true) (hr : WriteOk s w rs) : WriteOk s w' rs := by
  intro r hm l hl hb
  have k := List.all_eq_true.mp (List.all_eq_true.mp h r hm) l hl
  rw [bne_iff_ne] at k
  exact (refused_same k).symm.trans (hr r hm l hl hb)

/-- An attempt in which one conversion overflowed. -/
def markedEv : OpEv := { OpEv.none with convS := 1 }

/-- O13: a marked run of one operator. -/
theorem witness_replay : ∃ r m,
    let s := runState (aRun markedEv true [oneOp markedEv]) { runQ with head := 1 } []
    Canonical s ∧ EvRoom s 1 ∧ s.queues[(0 : Fin 32)].run = some r ∧ r.marking = some m ∧ (r.ops[m]?.map fun o => o.replayed) = some false ∧ s.queues[(0 : Fin 32)].state = .running ∧
    inService s = true ∧ evBlocked s 0 = false ∧ s.jobFatal = false ∧ s.queues[(0 : Fin 32)].active.length = r.ops.length ∧
    ∀ o ∈ r.ops, ∀ w, ReadOk s w ((r.prec, precLen) :: layerReads (layerOf o.desc).1) ∧
      WriteOk s w (layerWrites (policyOf r.pol).1 (layerOf o.desc).1) := by
  refine ⟨aRun markedEv true [oneOp markedEv], 0, tame_of (by decide +kernel), ⟨rfl, by decide⟩, rfl, by decide +kernel,
    rfl, rfl, rfl, rfl, rfl, rfl, ?_⟩
  intro o ho w
  rw [List.mem_singleton.mp ho]
  exact ⟨any_read (by decide +kernel) (read_of (w := Who.none) (by decide +kernel)),
    any_write (by decide +kernel) (write_of (w := Who.none) (by decide +kernel))⟩

/-- O14: a run that has ended, without marks and with one that stands at the top rung. -/
theorem witness_commit : ∀ ev ∈ [OpEv.none, { markedEv with rung := 4 }], ∃ r,
    let s := runState { aRun ev true [oneOp ev] with rung := ev.rung } { runQ with head := 1 } []
    Canonical s ∧ RingOpen s 0 ∧ EvRoom s 1 ∧ s.queues[(0 : Fin 32)].run = some r ∧ r.marking = none ∧ r.ops ≠ [] ∧ r.ended = true ∧
    r.stands = (ev.rung == 4) ∧
    (∀ (k : Nat) (o : OpRec), r.ops[k]? = some o →
      writesRefused s (0, (opIdx s.queues[(0 : Fin 32)].active k).toNat) (opCommitWrites r o) = 0) ∧
    s.queues[(0 : Fin 32)].state = .running ∧ inService s = true ∧ evBlocked s 0 = false := by
  intro ev hev
  refine ⟨{ aRun ev true [oneOp ev] with rung := ev.rung }, ?_⟩
  have h : tameB (runState { aRun ev true [oneOp ev] with rung := ev.rung } { runQ with head := 1 } []) = true ∧
      ringB (runState { aRun ev true [oneOp ev] with rung := ev.rung } { runQ with head := 1 } []) = true ∧
      Run.marking { aRun ev true [oneOp ev] with rung := ev.rung } = none ∧
      Run.stands { aRun ev true [oneOp ev] with rung := ev.rung } = (ev.rung == 4) ∧
      writesRefused (runState { aRun ev true [oneOp ev] with rung := ev.rung } { runQ with head := 1 } []) (0, 0)
        (opCommitWrites { aRun ev true [oneOp ev] with rung := ev.rung } { oneOp ev with ev := ev }) = 0 ∧
      ∀ q, q = (runState { aRun ev true [oneOp ev] with rung := ev.rung } { runQ with head := 1 } []).queues[(0 : Fin 32)] →
        q.run.isSome = true ∧ (opIdx q.active 0).toNat = 0 := by
    simp only [List.mem_cons, List.not_mem_nil, or_false] at hev
    rcases hev with rfl | rfl <;> exact ⟨by decide +kernel, by decide +kernel, by decide +kernel, by decide +kernel, by decide +kernel,
      fun q hq => by subst hq; decide +kernel⟩
  refine ⟨tame_of h.1, ring_of h.2.1, ⟨rfl, by show 0 + 1 ≤ 512; decide⟩, rfl, h.2.2.1, by simp [aRun], rfl, h.2.2.2.1, ?_, rfl, rfl, rfl⟩
  intro k o ho
  have ho : [({ oneOp ev with ev := ev } : OpRec)][k]? = some o := ho
  have hk : k = 0 := by
    have := (List.getElem?_eq_some_iff.mp ho).1
    simpa using this
  rw [List.mem_singleton.mp (List.mem_of_getElem? ho), hk, (h.2.2.2.2.2 _ rfl).2]
  exact h.2.2.2.2.1

theorem witness_commit_cut : ∃ r,
    let s := runState (aRun OpEv.none false [oneOp OpEv.none]) { runQ with head := 1, tail := 2 } []
    Canonical s ∧ RingOpen s 0 ∧ s.queues[(0 : Fin 32)].run = some r ∧ r.marking = none ∧ r.ops ≠ [] ∧
    runCut s 0 r = true ∧ s.queues[(0 : Fin 32)].state = .running ∧ inService s = true ∧ evBlocked s 0 = false := by
  have h := end_of (s := runState (aRun OpEv.none false [oneOp OpEv.none]) { runQ with head := 1, tail := 2 } []) (by decide +kernel)
  exact ⟨_, h.1, ring_of (by decide +kernel), rfl, by decide +kernel, by decide, by decide +kernel, h.2.2⟩

/-! ### Ends of commands -/

/-- A command with this work and status. -/
def cmdOf (work : Work) (kind status : Nat) : Cmd :=
  { idx := 0, desc := List.replicate 128 0, kind := kind, status := status, clamped := false, cores := 1, result := zeroResult, writes := []
    dests := [], work := work }

/-- O6: a FENCE that waits for a command of queue 1 that runs, and one that has completed; and a queue to disable. -/
theorem witness_fence : ∀ i ∈ [(0 : Nat), 1],
    let x := cmdOf (.fence [(1, i)]) 5 0
    let s : State := { running x with queues := (running x).queues.set 1 { runQ with active := [cmdOf .plain 0 0] } }
    Canonical s ∧ CanRecord s 0 ∧ s.queues[(0 : Fin 32)].active = [x] ∧ s.queues[(0 : Fin 32)].state = .running ∧ inService s = true ∧
    ioOk s = true ∧ evBlocked s 0 = false ∧ s.queues[(1 : Fin 32)].state ≠ .disabled ∧
    ((∃ w ∈ [(1, i)], ∃ u : Fin 32, u.val = w.1 % 32 ∧ ∃ y ∈ s.queues[u].active, y.idx.toNat = w.2) ↔ i = 0) := by
  intro i hi
  simp only [List.mem_cons, List.not_mem_nil, or_false] at hi
  unfold Canonical CanRecord
  rcases hi with rfl | rfl <;> decide +kernel

/-- O15: a plain command, a FENCE, a program, a table; the plain one holds a write apart from the completion ring. -/
theorem witness_completion : ∀ w ∈ [Work.plain, .fence [], .program 0 [1], .eddy 0 [1]],
    let x := { cmdOf w 5 0 with writes := [⟨0x1000, [1, 2], .data⟩] }
    Canonical (running x) ∧ CanRecord (running x) 0 ∧ (running x).queues[(0 : Fin 32)].active = [x] ∧
    mayComplete (running x) x = true ∧ x.status = 0 ∧ (running x).queues[(0 : Fin 32)].state = .running ∧ inService (running x) = true ∧
    evBlocked (running x) 0 = false ∧ writesRefused (running x) (0, 0) x.writes = 0 ∧ BackedAll (running x) 0x1000 2 ∧
    ∀ k < 2, Apart ((0x1000 + k) % 2 ^ 64) (cqSlotOf (running x) 0) 32 ∧ Apart ((0x1000 + k) % 2 ^ 64) (cqTailOf (running x) 0) 8 := by
  intro w hw x
  have hc : mayComplete (running x) x = true ∧ endB (running x) = true ∧ (writesRefused (running x) (0, 0) x.writes = 0 ∧
      ∀ k < 2, backed (running x) ((0x1000 + k) % 2 ^ 64) = true) ∧
      cqSlotOf (running x) 0 = 0 ∧ cqTailOf (running x) 0 < 0xF00 := by
    simp only [List.mem_cons, List.not_mem_nil, or_false] at hw
    rcases hw with rfl | rfl | rfl | rfl <;> decide +kernel
  have h := end_of hc.2.1
  refine ⟨h.1, h.2.1, rfl, hc.1, rfl, h.2.2.1, h.2.2.2.1, h.2.2.2.2, hc.2.2.1.1, hc.2.2.1.2, ?_⟩
  have e := hc.2.2.2
  unfold Apart
  intro k hk
  exact ⟨fun i hi => by omega, fun i hi => by omega⟩

/-- O16: a chunk with a write beyond the ring, and NORM_PTR. -/
theorem witness_update_end :
    let x := cmdOf (.update (some 0) [⟨0x2000, [2], .data⟩] [] [([⟨0x1000, [1], .data⟩], 0)] 0 false) 4 0
    let s := running x
    Canonical s ∧ CanRecord s 0 ∧ s.queues[(0 : Fin 32)].active = [x] ∧ x.status = 0 ∧
    x.writes = [] ∧ writesRefused s (0, 0) [⟨0x1000, [1], .data⟩, ⟨0x2000, [2], .data⟩] = 0 ∧ OffRing s 0 0x1000 ∧ BackedAll s 0x1000 1 ∧
    s.queues[(0 : Fin 32)].state = .running ∧ inService s = true ∧ evBlocked s 0 = false := by
  intro x s
  have h := end_of (s := s) (by decide +kernel)
  exact ⟨h.1, h.2.1, rfl, rfl, rfl, by decide +kernel, off_of (by decide +kernel), by unfold BackedAll; decide +kernel, h.2.2⟩

/-- O17: a plain command that ends CONTAINED alone and before another, and a poisoned descriptor. -/
theorem witness_contained : ∀ rest ∈ [[], [cmdOf .plain 0 0]],
    let x := { cmdOf .plain 2 1 with writes := [⟨0x1000, [1], .data⟩] }
    let s := withQ live { runQ with head := 1, active := x :: rest }
    Canonical s ∧ RingOpen s 0 ∧ s.queues[(0 : Fin 32)].active = x :: rest ∧ x.status = 1 ∧
    (∀ y ∈ x :: rest, writesRefused s (0, y.idx.toNat) y.writes = 0) ∧
    s.queues[(0 : Fin 32)].state = .running ∧ inService s = true ∧ evBlocked s 0 = false := by
  intro rest hr x s
  have h : tameB s = true ∧ ringB s = true ∧ (∀ y ∈ x :: rest, writesRefused s (0, y.idx.toNat) y.writes = 0) ∧ inService s = true ∧
      evBlocked s 0 = false := by
    simp only [List.mem_cons, List.not_mem_nil, or_false] at hr
    rcases hr with rfl | rfl <;> decide +kernel
  exact ⟨tame_of h.1, ring_of h.2.1, rfl, rfl, h.2.2.1, rfl, h.2.2.2⟩

theorem witness_bad_descriptor : ∃ c,
    let s := { atHead [] with poison := [0] }
    Canonical s ∧ CanRecord s 0 ∧ s.queues[(0 : Fin 32)].active = [] ∧ fetchHead s 0 [] = .bad c ∧ evBlocked c.s 0 = false := by
  have hb : (match fetchHead { atHead [] with poison := [0] } 0 [] with
    | .bad c => !evBlocked c.s 0
    | _ => false) = true := by decide +kernel
  have ht := tame_of (s := { atHead [] with poison := [0] }) (by decide +kernel)
  have hr := record_of (s := { atHead [] with poison := [0] }) (q := 0) (by decide +kernel)
  split at hb
  · rename_i c hc
    exact ⟨c, ht, hr, rfl, hc, by simpa using hb⟩
  · cases hb

/-- A SNAP that latches at tick `n`, with the gauge at 1. -/
def snapRun (n : Nat) : State := { running (cmdOf (.snap 0x1000 1 n false) 10 0) with gauge := { Gauge.reset with count := 1 } }

/-- O18: a tick that is reached, and a SNAP at once and at its tick. -/
theorem witness_timed :
    (let x := cmdOf (.waitGauge 0) 6 0
     Canonical (running x) ∧ CanRecord (running x) 0 ∧ (running x).queues[(0 : Fin 32)].active = [x] ∧ x.writes = [] ∧
     evBlocked (running x) 0 = false ∧ 0 ≤ (running x).gauge.count) ∧
    (∀ n ∈ [0, 1], let x := cmdOf (.snap 0x1000 1 n false) 10 0
     Canonical (snapRun n) ∧ CanRecord (snapRun n) 0 ∧ EvRoom (snapRun n) 8 ∧ (snapRun n).queues[(0 : Fin 32)].active = [x] ∧ inService (snapRun n) = true ∧ (n = 0 ∨ n ≤ (snapRun n).gauge.count) ∧
     WriteOk (snapRun n) (whoOf 0 x.idx x.desc) [(0x1000, (snapBytes (snapRun n) 1 x.idx.toNat 0 false).length)]) := by
  constructor
  · intro x
    have h := end_of (s := running x) (by decide +kernel)
    exact ⟨h.1, h.2.1, rfl, rfl, h.2.2.2.2, Nat.zero_le _⟩
  · intro n hn x
    have hc : endB (snapRun n) = true ∧ n ≤ (snapRun n).gauge.count ∧ writeB (snapRun n) (whoOf 0 x.idx x.desc)
        [(0x1000, (snapBytes (snapRun n) 1 x.idx.toNat 0 false).length)] = true := by
      simp only [List.mem_cons, List.not_mem_nil, or_false] at hn
      rcases hn with rfl | rfl <;> decide +kernel
    have h := end_of hc.1
    exact ⟨h.1, h.2.1, ⟨rfl, by show 0 + 8 ≤ 512; decide⟩, rfl, h.2.2.2.1, Or.inr hc.2.1, write_of hc.2.2⟩

/-! ### Doorbells, events and HALT -/

/-- A CXL.io stream that is enabled and not active. -/
def ioStream : IdeStream := ⟨1, true, true, 0, 0, 0, false⟩

/-- O19: a module that does not answer; a queue of one slot, a tail it takes and one beyond it; a count of one record, and one beyond; the same
for events. -/
theorem witness_doorbells :
    ioOk { live with ide := [ioStream] } = false ∧ inService State.reset = false ∧ live.queues[(0 : Fin 32)].state = .disabled ∧
    (let s := withQ { live with evTail := 1 } { runQ with tail := 0, cqCount := 1 }
     ioOk s = true ∧ inService s = true ∧ s.queues[(0 : Fin 32)].state ≠ .disabled ∧ 2 ^ regField s (offQsq 0) 0 5 < ((0x10000 : BitVec 32) - 0).toNat ∧
     ¬2 ^ regField s (offQsq 0) 0 5 < ((1 : BitVec 32) - s.queues[(0 : Fin 32)].oldest).toNat ∧
     (BitVec.ofNat 32 s.queues[(0 : Fin 32)].cqCount - s.queues[(0 : Fin 32)].cqHead).toNat = 1 ∧ s.evTail - s.evHead = 1) := by
  decide +kernel

/-- O20: an event ring of 64 entries that is enabled, and one held record. -/
def eventState : State := { live with regs := [(offQev, 0x26)], events := [⟨0xFF, List.replicate 64 1⟩] }

theorem witness_event : ∀ masked ∈ [true, false], ∀ wait ∈ [[], [(⟨0xFF, List.replicate 64 2⟩ : EvRec)]],
    let s : State := { eventState with evWait := wait, msix := eventState.msix.set 32 ⟨0, 0, masked⟩ }
    Canonical s ∧ s.events = [⟨0xFF, List.replicate 64 1⟩] ∧ s.phase = .run ∧ s.fatal = none ∧
    regBit s offQev 5 = true ∧ s.evTail - s.evHead < evSize s ∧ s.msix[32].masked = masked ∧ s.evWait = wait ∧
    accessRefused s ((evBase s + 64 * (s.evTail % evSize s)) % 2 ^ 64) = 0 ∧ accessRefused s ((evBase s + 64 * evSize s) % 2 ^ 64) = 0 ∧
    (List.replicate 64 (1 : Byte)).length = 64 := by
  unfold Canonical
  decide +kernel

/-- Port 0 as given. -/
def withP (s : State) (u : Port) : State := { s with ports := s.ports.set 0 u }

/-- A port in session on four lanes, with all its credits. -/
def activePort : Port := { Port.reset with state := .active, width := 0, lanes := 0xF, order := [0, 1, 2, 3], credits := List.replicate 18 8, shared := 384, partnerAddr := 7 }

/-- A HALT message for queue 0 from origin 7 with identifier 1. -/
def aHalt : List Byte := haltMsg 0 1 1 7

theorem witness_halts :
    (let s := withP live activePort
     inService s = true ∧ ioOk s = true ∧ ioOk { s with ide := [ioStream] } = false ∧ Canonical s ∧ ((1 : BitVec 64).toNat >>> 32) % 16 = 0 ∧
     ((0x100000001 : BitVec 64).toNat >>> 32) % 16 ≠ 0 ∧ Sends s 0 8) ∧
    (let s := { withQ live { runQ with active := [cmdOf .plain 0 0] } with halts := [⟨1, 0, 1⟩] }
     s.halts ≠ [] ∧ inService s = true ∧ bitAt (s.halts.foldl (fun m h => m ||| h.mask.toNat) 0) 0 = true ∧
     s.queues[(0 : Fin 32)].state = .running ∧ (∀ j : Fin 32, j ≠ 0 → s.queues[j].state ≠ .running) ∧ Canonical s ∧ RingOpen s 0 ∧ StopsOffRing s 0) ∧
    (let s := { live with halts := [⟨1, 0, 1⟩] }
     s.halts ≠ [] ∧ inService s = true ∧ OpenRoom s s.halts.length ∧ ∀ j : Fin 32, s.queues[j].state ≠ .running) ∧
    (let s := withP live activePort
     inService s = true ∧ fieldAt aHalt 0 4 0 8 = 1 ∧ (fieldAt aHalt 12 4 0 16, fieldAt aHalt 8 4 0 32) = (7, 1) ∧ ownAddr s 7 = false ∧
     (7, 1) ∉ s.haltSeen ∧ (7, 1) ∈ ({ s with haltSeen := [(7, 1)] } : State).haltSeen ∧ ownAddr s (fieldAt (haltMsg 0 1 1 0) 12 4 0 16) = true ∧
     (∀ j : Fin 32, s.queues[j].state ≠ .running) ∧ OpenRoom s 1 ∧ fieldAt (haltMsg 3 1 1 7) 0 4 8 4 ≠ 0 ∧ (0 : Fin 16) ≠ 1 ∧ Sends s 0 8) ∧
    (withQ live runQ).queues[(0 : Fin 32)].state = .running := by
  have h : tameB { withQ live { runQ with active := [cmdOf .plain 0 0] } with halts := [⟨1, 0, 1⟩] } = true ∧
      ringB { withQ live { runQ with active := [cmdOf .plain 0 0] } with halts := [⟨1, 0, 1⟩] } = true := by decide +kernel
  refine ⟨by unfold Canonical Sends Quiet; decide +kernel, ⟨by decide +kernel, by decide +kernel, by decide +kernel, by decide +kernel, by decide +kernel,
    tame_of h.1, ring_of h.2, fun x hx => ?_⟩, by unfold OpenRoom; decide +kernel, by unfold OpenRoom Sends Quiet; decide +kernel, by decide +kernel⟩
  obtain rfl : x = cmdOf .plain 0 0 := by simpa [withQ] using hx
  exact ⟨by simp [Simple, cmdOf], fun _ hr => absurd hr (List.not_mem_nil)⟩

theorem witness_queue_enable :
    Canonical live ∧ inService live = true ∧ ioOk live = true ∧ lcState live ≠ 3 ∧ live.jobFatal = false ∧
    ({ live with jobFatal := true } : State).jobFatal = true ∧ live.queues[(0 : Fin 32)].state = .disabled ∧ live.jobClear = none ∧
    (let s := withQ live { runQ with active := [cmdOf .plain 0 0] }
     Canonical s ∧ inService s = true ∧ s.queues[(0 : Fin 32)].state ≠ .disabled ∧ RingOpen s 0 ∧ StopsOffRing s 0) ∧
    (let s : State := { live with jobClear := some [(0, 1)] }
     inService s = true ∧ s.jobClear = some [(0, 1)] ∧ s.queues[(0 : Fin 32)].state = .disabled) := by
  have h : tameB (withQ live { runQ with active := [cmdOf .plain 0 0] }) = true ∧
      ringB (withQ live { runQ with active := [cmdOf .plain 0 0] }) = true := by decide +kernel
  refine ⟨live_canonical, by decide +kernel, by decide +kernel, by decide +kernel, by decide +kernel, rfl, by decide +kernel, rfl,
    ⟨tame_of h.1, by decide +kernel, by decide +kernel, ring_of h.2, fun x hx => ?_⟩, by decide +kernel⟩
  obtain rfl : x = cmdOf .plain 0 0 := by simpa [withQ] using hx
  exact ⟨by simp [Simple, cmdOf], fun _ hr => absurd hr (List.not_mem_nil)⟩

/-! ### Resets, power and errors -/

/-- A boot that finds nothing wrong. -/
def goodBoot : BootEnv := { trngOk := true, loopOk := true, pufOk := true, wipeOk := true, selftest := [] }

/-- A module without power, PERST# released. -/
def dark : State := { State.reset with phase := .off, pwrEn := false, perst := false }

theorem identity_good (s : State) (h : s.flash.cert.pub = Config.sm2Public (identityKey s)) : identityOk s goodBoot = true := by
  unfold identityOk
  rw [h]
  simp [goodBoot]

/-- O23: resets in service, and power that comes; a response that cannot be corrected. -/
theorem witness_resets :
    identityOk live goodBoot = true ∧ identityOk dark goodBoot = true ∧ identityOk live { goodBoot with pufOk := false } = false ∧
    goodBoot.wipeOk = true ∧ goodBoot.trngOk = true ∧ goodBoot.loopOk = true ∧ lcState live ≠ 4 ∧ alive live = true ∧
    live.perst = false ∧ live.unlocked = false ∧ bootChoice live = some (Image.factory, false, false) ∧
    (0xD1E5 : BitVec 64).toNat % 2 ^ 16 = 0xD1E5 ∧ ioOk live = true ∧ Canonical live ∧
    live.loopOpen = false ∧ dark.loopOpen = false ∧ dark.pwrEn = false ∧
    dark.phase = .off ∧ dark.perst = false ∧ dark.unlocked = false ∧ lcState dark ≠ 4 ∧ bootChoice dark = some (Image.factory, false, false) := by
  unfold Canonical
  refine ⟨identity_good _ rfl, identity_good _ rfl, rfl, ?_⟩
  decide +kernel

/-- O24: PERST# on a module with and without power, its release at reset, and zeroing. -/
theorem witness_released :
    (let s := State.reset
     identityOk s goodBoot = true ∧ s.perst = true ∧ s.phase = .held ∧ s.loopOpen = false ∧ lcState s ≠ 4 ∧ s.unlocked = false ∧
     bootChoice s = some (Image.factory, false, false)) ∧
    dark.phase = .off ∧ live.phase ≠ .off ∧
    (let s := { State.reset with phase := .zeroing }
     s.phase = .zeroing ∧ s.fatal = none) := by
  refine ⟨⟨identity_good _ rfl, ?_⟩, ?_⟩ <;> decide +kernel

/-- O25, at the first and the last temperature sensor; PWR_EN already high; sensors that are not disabled. -/
theorem witness_power_off : live.pwrEn = true ∧ live.phase ≠ .off ∧ tempSensor 0x10 = true ∧ tempSensor 0x2B = true ∧ firmwareRuns live = true ∧
    0x01 ∉ live.mgmt.disabled ∧ 0x10 ∉ live.mgmt.disabled ∧ live.alert = false := by decide +kernel

/-- O26. -/
theorem witness_gravest :
    firmwareRuns live = true ∧ live.fatal = none ∧ Canonical live ∧ live.phase ≠ .off ∧ inService live = true ∧ live.jobFatal = false ∧
    (deviceFatal live 0x0E true).fatal.isSome = true ∧ firmwareRuns (deviceFatal live 0x0E true) = true ∧ OpenRoom live 1 ∧ live.phase = .run ∧ regionOf (64 * 0) = .t1 ∧ backed live (64 * 0) = true := by
  unfold Canonical OpenRoom
  decide +kernel

/-! ### Groups -/

/-- O27: a table of one rank that is this module, at address 0; the table entry is zero. -/
theorem witness_arm : ∀ v ∈ [(0 : BitVec 64), 0x10],
    let w := (grpCtlClamp (setBits v.toNat 0 1 1)).1
    let ranks := (w >>> 4) % 4096 + 1
    let members := (w >>> 16) % 8192 + 1
    let ms := markMembers ranks ((List.range members).map fun j => ((rd live 0 (8 * members)).drop (8 * j)).take 8) []
    Canonical live ∧ inService live = true ∧ ioOk live = true ∧ cflBusy live = false ∧ groupBusy live (0 : Fin 8) = false ∧
    regField live (offGrpTbl 0) 3 61 * 8 = 0 ∧ (∀ j < members, accessRefused live ((0 + 8 * j) % 2 ^ 64) = 0) ∧
    ReadOk live Who.none [(0, 8 * members)] ∧ (armFault live ms ranks (regField live (offGrpStart 0) 32 13)).1 = (if v = 0 then 0 else 2) := by
  intro v hv
  have h := tame_of (s := live) (by decide +kernel)
  simp only [List.mem_cons, List.not_mem_nil, or_false] at hv
  rcases hv with rfl | rfl <;>
    exact ⟨h, rfl, rfl, by decide +kernel, by decide +kernel, by decide +kernel, by decide +kernel, read_of (by decide +kernel),
      by decide +kernel⟩

/-- O27: DISARM at once, while a REDUCE runs, while a write is held; and the held write. -/
def heldGroup : Group := { Group.reset with armed := true, held := [(offGrpCtl 0, BitVec.ofNat 64 (grpCtlClamp (setBits 0 0 1 0)).1)] }

theorem witness_disarm :
    inService live = true ∧ ioOk live = true ∧ Canonical live ∧ cflBusy live = false ∧ ioOk { live with ide := [ioStream] } = false ∧
    (let s := { live with groups := live.groups.set 0 heldGroup }
     cflBusy s = true ∧ groupBusy s (0 : Fin 8) = false ∧ s.fatal = none ∧ bitAt (grpCtlClamp (setBits 0 0 1 0)).1 0 = false ∧
     s.groups[(0 : Fin 8)].held = [(offGrpCtl 0, BitVec.ofNat 64 (grpCtlClamp (setBits 0 0 1 0)).1)]) := by
  unfold Canonical
  decide +kernel

/-! ### Reductions -/

/-- Group 0, armed: three primaries at link addresses 0, 7 and 8; this module is rank 0. -/
def aGroup : Group :=
  { Group.reset with armed := true, crc := 5, ranks := 3, self := 0, members := [⟨0, 0, false, false⟩, ⟨7, 1, false, false⟩, ⟨8, 2, false, false⟩] }

/-- A REDUCE of three ISUM elements, one in each shard, from 0x1000 to 0x2000. -/
def aReduce : Reduce :=
  { group := 0, scatter := false, elem := 1, bucket := 0, count := 3, step := 0, src := 0x1000, srcFmt := 0, scaleExp := 0, dst := 0x2000
    dstFmt := 0, dstRnd := 0, dstNonSat := false, dstRole := 0, dstQ := 0x3F800000, rstride := 256, indexBase := 0, guardPtr := 0
    deadline := 0, warm := false, bf16 := false, srcPoison := false, dstPoison := false, refused := false, nextW := 0, windows := []
    crcs := [], homeNan := 0, homeOvf := 0, homeNanrank := 0x1000, homePoison := false, badWindow := none, homeDone := false
    subst := [], late := [], mismatch := false, results := [], dones := [], lost := [] }

/-- Its first window, with the copies of these ranks. -/
def aWindow (ranks : List Nat) : Window :=
  { w := 0, shared := false, els := [AccEl.empty], recs := [], taken := ranks.map fun k => ⟨k, false⟩, late := [], poison := false }

def reducing (r : Reduce) : State :=
  { running (cmdOf (.reduce r) 3 0) with groups := live.groups.set 0 aGroup, routes := [(7, 0)], ports := live.ports.set 0 activePort
                                         gauge := { Gauge.reset with count := 5000 } }

/-- The REDUCE of queue 0 can end now. -/
def endsB (s : State) (x : Cmd) (r : Reduce) : Bool :=
  recordB s 0 && s.evWait.isEmpty && decide (s.events.length + 10 ≤ 512) &&
    (r.guardPtr == 0 || writeB s (whoOf 0 x.idx x.desc) [(r.guardPtr, 4)]) && writesRefused s (0, x.idx.toNat) x.writes == 0

theorem ends_of {s : State} {x : Cmd} {r : Reduce} (h : endsB s x r = true) : CanEnd s 0 x r := by
  simp only [endsB, Bool.and_eq_true, List.isEmpty_iff, decide_eq_true_eq, Bool.or_eq_true, beq_iff_eq] at h
  exact ⟨record_of h.1.1.1.1, ⟨h.1.1.1.2, h.1.1.2⟩, fun hg => write_of (h.1.2.resolve_left hg), h.2⟩

/-- A packet of group 0 from rank 1, which is at link address 7. -/
def aPacket (type aux0 : Nat) (payload : List Byte) : List Byte :=
  Pkt.bytes { type := type, group := 0, backup := false, rank := 1, elem := 1, poison := false, degraded := false, crc := 5, step := 0, bucket := 0
              w := 0, fmt := 0, scaleExp := 0, payCrc := 0, aux0 := aux0, aux1 := 0x1000, payload := payload }

/-- A descriptor of such a REDUCE, and a module whose group 0 is as given. -/
def reduceAt (g : Group) (word : Byte) : State :=
  { atHead [(0, 3), (0x29, 0x10), (0x39, 0x20), (0x48, 3), (0x50, word)] with groups := live.groups.set 0 g }

/-- O28: unarmed with no guard word; armed as a home, with either COLL; armed as a backup. -/
theorem witness_reduce_starts : ∀ x ∈ [(Group.reset, (0x10 : Byte)), (aGroup, 0x10), (aGroup, 0x18),
    ({ aGroup with members := [⟨0, 0, true, false⟩, ⟨7, 0, false, false⟩], ranks := 1 }, 0x10)], ∃ c d,
    let s := reduceAt x.1 x.2
    Canonical s ∧ Ready s 0 [] c d ∧ dKind d = 3 ∧ grpFin (fieldAt d 0x50 4 0 3) = 0 ∧ (grpOf s 0).held = [] ∧ s.early = [] ∧
    rdScatter d = (x.2 == 0x18) ∧ fieldAt d 0x60 8 0 64 = 0 ∧ fieldAt d 0x48 4 0 32 = 3 := by
  intro x hx
  have h : startB (reduceAt x.1 x.2) (fun _ d => dKind d == 3 && grpFin (fieldAt d 0x50 4 0 3) == 0 &&
      rdScatter d == (x.2 == 0x18) && fieldAt d 0x60 8 0 64 == 0 && fieldAt d 0x48 4 0 32 == 3) = true := by
    simp only [List.mem_cons, List.not_mem_nil, or_false] at hx
    rcases hx with rfl | rfl | rfl | rfl <;> decide +kernel
  have hh : (grpOf (reduceAt x.1 x.2) 0).held = [] := by
    simp only [List.mem_cons, List.not_mem_nil, or_false] at hx
    rcases hx with rfl | rfl | rfl | rfl <;> rfl
  obtain ⟨c, d, h1, _, h4, h⟩ := start_of h
  simp only [Bool.and_eq_true, beq_iff_eq] at h
  exact ⟨c, d, h1, h4, h.1.1.1.1, h.1.1.1.2, hh, rfl, h.1.1.2, h.1.2, h.2⟩

/-- O28: the member is a backup, or homes a window whatever else the REDUCE holds. -/
theorem witness_reduce_homes :
    (∀ r : Reduce, r.elem = 1 → r.count = 3 → shardWindows r aGroup.ranks (selfMember aGroup).rank ≠ 0) ∧
    (selfMember { aGroup with members := [⟨0, 0, true, false⟩, ⟨7, 0, false, false⟩], ranks := 1 }).backup = true := by
  refine ⟨?_, rfl⟩
  intro r he hc
  unfold shardWindows
  rw [he, hc]
  decide

/-- O29: a home with a window to open. -/
theorem witness_window_open :
    let s := reducing aReduce
    let g := grpOf s 0
    Reducing s 0 (cmdOf (.reduce aReduce) 3 0) aReduce ∧ (selfMember g).backup = false ∧ aReduce.nextW < shardWindows aReduce g.ranks (selfMember g).rank ∧
    freePlace s 0 (aReduce.nextW % 16) = some false ∧ ∃ k < g.ranks, k ≠ (selfMember g).rank := by
  exact ⟨⟨rfl, rfl⟩, by decide +kernel, by decide +kernel, by decide +kernel, 1, by decide +kernel, by decide +kernel⟩

/-- O29: a GRANT that is answered, and one that comes before its REDUCE, with no step ended, with this one ended, with it halted, and with a later one ended. -/
theorem witness_grant :
    (let s := reducing aReduce
     let p := Pkt.parse (aPacket 1 0 [])
     Canonical s ∧ Merging s ∧ p.type = 1 ∧ p.group = 0 ∧ p.rank < (grpOf s 0).ranks ∧ p.w < shardWindows aReduce (grpOf s 0).ranks p.rank ∧
     ownAddr s (7 : BitVec 16).toNat = false ∧ pktOk s (7 : BitVec 16).toNat p = true ∧
     findReduce s p.group p.bucket p.step = some 0 ∧ Reducing s 0 (cmdOf (.reduce aReduce) 3 0) aReduce ∧ routePort s 7 = some 0 ∧ Sends s 0 0) ∧
    (∀ l ∈ [[], [((0 : Nat), (0 : Nat), (0 : Nat))], [(0, 0, 4)], [(0, 1, 0)]],
     let s := { live with groups := live.groups.set 0 { aGroup with lastStep := l } }
     let p := Pkt.parse (aPacket 1 0 [])
     Canonical s ∧ Merging s ∧ pktOk s 7 p = true ∧ findReduce s p.group p.bucket p.step = none ∧ p.step = 0 ∧
     (grpOf s p.group).lastStep.find? (fun y => y.1 == p.bucket) = l.head?) := by
  unfold Canonical Merging Reducing Sends Quiet
  decide +kernel

/-- O30: a first and a second copy of rank 1, while rank 2 is missing. -/
theorem witness_contrib : ∀ ranks ∈ [[0], [0, 1]],
    let r := { aReduce with nextW := 1, windows := [aWindow ranks] }
    let s := reducing r
    let p := Pkt.parse (aPacket 2 0 [1, 0, 0, 0])
    Canonical s ∧ Merging s ∧ p.type = 2 ∧ p.backup = false ∧ pktOk s 7 p = true ∧ findReduce s p.group p.bucket p.step = some 0 ∧
    Reducing s 0 (cmdOf (.reduce r) 3 0) r ∧ r.warm = false ∧ (r.windows.find? fun z => z.w == p.w) = some (aWindow ranks) ∧
    (2 < (grpOf s 0).ranks ∧ 2 ≠ p.rank ∧ ∀ z ∈ (aWindow ranks).taken, z.rank ≠ 2) ∧
    (decide (∃ z ∈ (aWindow ranks).taken, z.rank = p.rank)) = (ranks == [0, 1]) ∧ p.poison = false ∧ r.elem ≠ 4 ∧
    (0 : Fin 16).val = p.w % 16 ∧ (1 : Fin 16).val ≠ p.w % 16 := by
  unfold Canonical Merging Reducing
  intro ranks hr
  simp only [List.mem_cons, List.not_mem_nil, or_false] at hr
  rcases hr with rfl | rfl <;> decide +kernel

/-- O30: the copy that completes the only window of a home of two ranks, under either COLL, and poisoned. -/
theorem witness_completing : ∀ x ∈ [(false, false), (true, false), (false, true)],
    let r := { aReduce with count := 2, scatter := x.1, dstPoison := x.2, nextW := 1, windows := [aWindow [0]] }
    let s := { reducing r with groups := live.groups.set 0 { aGroup with ranks := 2, members := [⟨0, 0, false, false⟩, ⟨7, 1, false, false⟩] } }
    let p := Pkt.parse (aPacket 2 0 [1, 0, 0, 0])
    let g := grpOf s 0
    let rg := winRange r g.ranks (selfMember g).rank 0
    Canonical s ∧ Merging s ∧ p.type = 2 ∧ p.backup = false ∧ pktOk s 7 p = true ∧ findReduce s p.group p.bucket p.step = some 0 ∧
    Reducing s 0 (cmdOf (.reduce r) 3 0) r ∧ r.warm = false ∧ r.elem ≠ 4 ∧ r.homeDone = false ∧ (selfMember g).backup = false ∧ (0 : Fin 16).val = p.w % 16 ∧
    (r.windows.find? fun z => z.w == p.w) = some (aWindow [0]) ∧ (∀ z ∈ (aWindow [0]).taken, z.rank ≠ p.rank) ∧
    (∀ k < g.ranks, k = p.rank ∨ ∃ z ∈ (aWindow [0]).taken, z.rank = k) ∧ (aWindow [0]).els.length = rg.2 ∧
    WriteOk s (whoOf 0 0 (List.replicate 128 0)) [(r.dst + rg.1 * resultBytes r, rg.2 * resultBytes r)] ∧
    (1 < g.ranks ∧ 1 ≠ (selfMember g).rank ∧ ∀ m ∈ r.dones, m.rank ≠ 1) ∧ r.nextW = shardWindows r g.ranks (selfMember g).rank ∧
    otherMembers g = [⟨7, 1, false, false⟩] ∧ memberAt g (selfMember g).rank true = none ∧ ownAddr s 7 = false ∧ routePort s 7 = some 0 ∧
    Sends s 0 0 := by
  unfold Canonical Merging Reducing WriteOk Sends Quiet
  intro x hx
  simp only [List.mem_cons, List.not_mem_nil, or_false] at hx
  rcases hx with rfl | rfl | rfl <;> decide +kernel

theorem witness_result :
    let s := reducing aReduce
    let p := Pkt.parse (aPacket 4 0 [1, 0, 0, 0])
    let rg := winRange aReduce (grpOf s 0).ranks p.rank p.w
    Canonical s ∧ Merging s ∧ p.type = 4 ∧ p.poison = false ∧ pktOk s 7 p = true ∧ findReduce s p.group p.bucket p.step = some 0 ∧
    Reducing s 0 (cmdOf (.reduce aReduce) 3 0) aReduce ∧ aReduce.elem ≠ 4 ∧ aReduce.dstPoison = false ∧ p.rank < (grpOf s 0).ranks ∧
    p.w < resultWindows (grpOf s 0) aReduce p.rank ∧ (p.rank, p.w) ∉ aReduce.results ∧ (0 < (grpOf s 0).ranks ∧ ∀ m ∈ aReduce.dones, m.rank ≠ 0) ∧
    WriteOk s (whoOf 0 0 (List.replicate 128 0)) [(aReduce.dst + rg.1 * resultBytes aReduce, rg.2 * resultBytes aReduce)] ∧
    p.payload.length = rg.2 * resultBytes aReduce := by
  unfold Canonical Merging Reducing WriteOk
  decide +kernel

/-- O31: a DONE with more to come; the last one, plain, with a NaN and a guard word, and poisoned. -/
theorem witness_done : ∀ x ∈ [(([] : List DoneMsg), (0 : Nat)), ([⟨0, 0, 0, 0x1000, false⟩, ⟨2, 0, 0, 0x1000, false⟩], 0),
      ([⟨0, 3, 0, 2, false⟩, ⟨2, 0, 0, 0x1000, false⟩], 0x3000), ([⟨0, 0, 0, 0x1000, true⟩, ⟨2, 0, 0, 0x1000, false⟩], 0)],
    let r := { aReduce with nextW := 1, results := [(1, 0), (2, 0)], dones := x.1, guardPtr := x.2 }
    let s := reducing r
    let p := Pkt.parse (aPacket 5 0 [])
    let r' := { r with dones := r.dones ++ [⟨p.rank, p.aux0, p.payCrc, p.aux1, p.poison⟩] }
    Canonical s ∧ Merging s ∧ CanEnd s 0 (cmdOf (.reduce r) 3 0) r ∧ evBlocked s 0 = false ∧ p.type = 5 ∧ pktOk s 7 p = true ∧
    findReduce s p.group p.bucket p.step = some 0 ∧ Reducing s 0 (cmdOf (.reduce r) 3 0) r ∧ (∀ m ∈ r.dones, m.rank ≠ p.rank) ∧
    (x.1 = [] ↔ ∃ k < (grpOf s 0).ranks, ∀ m ∈ r'.dones, m.rank ≠ k) ∧ resultsDone (grpOf s 0) r' = true ∧ r.refused = false ∧
    r.dstPoison = false ∧ (decide (∃ m ∈ r'.dones, m.poison = true) = x.1.any DoneMsg.poison) := by
  unfold Canonical Merging Reducing
  intro x hx
  simp only [List.mem_cons, List.not_mem_nil, or_false] at hx
  rcases hx with rfl | rfl | rfl | rfl <;>
    exact ⟨by decide +kernel, by decide +kernel, ends_of (by decide +kernel), by decide +kernel⟩

/-- O31: ABORT with each reason, and at a member that POISON has reached. -/
theorem witness_abort : ∀ x ∈ [((1 : Nat), false), (2, false), (3, false), (4, false), (2, true)],
    let r := { aReduce with homePoison := x.2 }
    let s := reducing r
    let p := Pkt.parse (aPacket 6 x.1 [])
    Canonical s ∧ Merging s ∧ CanEnd s 0 (cmdOf (.reduce r) 3 0) r ∧ p.type = 6 ∧ p.aux0 = x.1 ∧ pktOk s 7 p = true ∧
    findReduce s p.group p.bucket p.step = some 0 ∧ Reducing s 0 (cmdOf (.reduce r) 3 0) r ∧ r.poisoned = x.2 := by
  unfold Canonical Merging Reducing
  intro x hx
  simp only [List.mem_cons, List.not_mem_nil, or_false] at hx
  rcases hx with rfl | rfl | rfl | rfl | rfl <;>
    exact ⟨by decide +kernel, by decide +kernel, ends_of (by decide +kernel), by decide +kernel⟩

/-- O31: a REDUCE that has ended, with each STATUS. -/
theorem witness_reduce_ended : ∀ k ∈ [(0 : Nat), 1, 2],
    let s := running (cmdOf (.ended aReduce k) 3 k)
    Canonical s ∧ CanRecord s 0 ∧ s.queues[(0 : Fin 32)].active = [cmdOf (.ended aReduce k) 3 k] ∧
    s.queues[(0 : Fin 32)].state = .running ∧ inService s = true ∧ evBlocked s 0 = false ∧ writesRefused s (0, 0) [] = 0 := by
  unfold Canonical CanRecord
  intro k hk
  simp only [List.mem_cons, List.not_mem_nil, or_false] at hk
  rcases hk with rfl | rfl | rfl <;> decide +kernel

/-- O32: a deadline that is due with a window open and with none, in warm-in and after it. -/
theorem witness_due : ∀ x ∈ [(([] : List Window), false), ([aWindow [0]], false), ([aWindow [0]], true)],
    let r := { aReduce with deadline := 5000, nextW := 1, windows := x.1, warm := x.2 }
    let s := reducing r
    Canonical s ∧ CanEnd s 0 (cmdOf (.reduce r) 3 0) r ∧ Reducing s 0 (cmdOf (.reduce r) 3 0) r ∧ r.deadline ≠ 0 ∧
    r.deadline ≤ s.gauge.count ∧
    (x.2 = true → ∃ z ∈ r.windows, z.w % 16 = (0 : Fin 16).val ∧ ∃ k < (grpOf s 0).ranks, (∀ y ∈ z.taken, y.rank ≠ k) ∧ ∀ l ∈ z.late, l.rank ≠ k) := by
  unfold Canonical Reducing
  intro x hx
  simp only [List.mem_cons, List.not_mem_nil, or_false] at hx
  rcases hx with rfl | rfl | rfl <;> exact ⟨by decide +kernel, ends_of (by decide +kernel), by decide +kernel⟩

/-- O32: a copy and a home lost for 4,096 ticks. -/
theorem witness_late :
    let r := { aReduce with nextW := 1, windows := [{ aWindow [0] with late := [⟨1, 904, false⟩] }], lost := [(1, 904)] }
    let s := reducing r
    Canonical s ∧ CanEnd s 0 (cmdOf (.reduce r) 3 0) r ∧ Reducing s 0 (cmdOf (.reduce r) 3 0) r ∧ r.poisoned = false ∧
    (grpOf s 0).abandon = 0 ∧ 904 + 4096 ≤ s.gauge.count ∧
    (∀ z ∈ (aWindow [0]).taken, z.rank ≠ 1) ∧ (1, 904) ∈ r.lost ∧ ∀ m ∈ r.dones, m.rank ≠ 1 := by
  unfold Canonical Reducing
  exact ⟨by decide +kernel, ends_of (by decide +kernel), by decide +kernel⟩

/-! ### Ports -/

/-- Port 0 in this state, otherwise as at reset. -/
def portIn (k : PState) : State := withP live { Port.reset with state := k }

/-- O33: CTL of a port in DISABLED, in TRAIN, and in QUARANTINE; a route table of zeros at 0x10000. -/
theorem witness_port_control :
    inService (portIn .disabled) = true ∧ ioOk (portIn .disabled) = true ∧ (portIn .disabled).ports[(0 : Fin 16)].state = .disabled ∧
    inService (portIn .train) = true ∧ (portIn .train).ports[(0 : Fin 16)].state ≠ .disabled ∧
    (portIn .train).ports[(0 : Fin 16)].state ≠ .quarantine ∧ hasSession (portIn .train).ports[(0 : Fin 16)] = false ∧
    inService (portIn .quarantine) = true ∧ (portIn .quarantine).ports[(0 : Fin 16)].state = .quarantine ∧ bitAt (1 : BitVec 64).toNat 7 = false := by
  decide +kernel

theorem witness_route_load :
    let addr := (0x10001 : BitVec 64).toNat / 2 ^ 16 * 2 ^ 16
    Canonical live ∧ inService live = true ∧ ioOk live = true ∧ addr = 0x10000 ∧ accessRefused live addr = 0 ∧ ReadOk live Who.none [(addr, 65536)] := by
  have h := tame_of (s := live) (by decide +kernel)
  exact ⟨h, rfl, rfl, by decide +kernel, by decide +kernel, read_of (by decide +kernel)⟩

/-- O34: each state that training passes, four lanes locked and none, ALIGN with and without a session. -/
theorem witness_training :
    (portIn .detect).ports[(0 : Fin 16)].state = .detect ∧ (0xF : BitVec 4) ≠ 0 ∧ (portIn .train).ports[(0 : Fin 16)].state = .train ∧
    widthFor (allowedWidth (portIn .train) 0) (lanesOf 0xF).length ≠ 3 ∧ widthFor (allowedWidth (portIn .train) 0) (lanesOf 0).length = 3 ∧
    (∀ b ∈ [false, true], ∀ x ∈ [([], 3), ([2], 2), ([3, 1, 0], 1), ([3, 2, 1, 0], (0 : Nat))],
      let s := withP live { activePort with state := .align, retraining := b }
      s.ports[(0 : Fin 16)].state = .align ∧ s.ports[(0 : Fin 16)].retraining = b ∧
      widthFor s.ports[(0 : Fin 16)].width (agreedLanes s.ports[(0 : Fin 16)] x.1).length = x.2) ∧
    live.idKey.isSome = false ∧ ({ live with idKey := some 0 } : State).idKey.isSome = true ∧ live.unlocked = false ∧ Quiet live ∧
    (portIn .retrain).ports[(0 : Fin 16)].state = .retrain ∧ (portIn .auth).ports[(0 : Fin 16)].state = .auth ∧
    (portIn .auth).ports[(0 : Fin 16)].state ≠ .disabled ∧ (portIn .auth).ports[(0 : Fin 16)].state ≠ .quarantine := by
  unfold Quiet
  decide +kernel

/-- A port in AUTH at a step, of a module with its identity key. -/
def authAt (n : Nat) : State := { withP live { Port.reset with state := .auth, authStep := n } with idKey := some 0 }

/-- A line unit without an error, and one that does not decode. -/
def goodLine : LineCheck := { e0 := 0, e1 := 0, crcOk := true }
def badLine : LineCheck := { e0 := 5, e1 := 0, crcOk := true }

def aHello : HelloMsg :=
  { line := goodLine, wellFormed := true, root := some State.reset.romRoot, chain := [], nonce := 0, serial := 1, lifecycle := 0, addr := 7, port := 0, bl := 0, digest := 0 }

theorem rejected_root {s : State} {p : Fin 16} {m : HelloMsg} (h : m.root = some s.romRoot) :
    helloRejected s p m = (!m.wellFormed || false || m.serial == s.flash.cert.serial || m.lifecycle.toNat != lcState s
      || !(lcState s == 0 || lcState s == 2) || (regBit s offLnkAddr 16 && m.bl.toNat != s.bl)
      || m.addr.toNat == s.ports[p].myAddr || s.ports[p].authStep != 0) := by
  unfold helloRejected
  rw [h]
  simp

/-- A message of AUTH. -/
def aLinkMsg : LinkMsg := { line := goodLine, body := [1], wellFormed := true, ok := true }

/-- O35: every step of the exchange, a HELLO that is accepted and ones that are rejected, and messages that are not accepted. -/
theorem witness_auth : ∀ n ∈ [0, 1, 2, 3],
    helloRejected (authAt n) 0 aHello = (n != 0) ∧ helloRejected (authAt n) 0 { aHello with serial := 0 } = true ∧
    helloRejected (authAt n) 0 { aHello with root := none } = true ∧
    (authAt n).ports[(0 : Fin 16)].state = .auth ∧ (authAt n).idKey.isSome = true ∧ lineOk goodLine = true ∧ lineOk badLine = false ∧ (authAt n).unlocked = false ∧
    (authAt n).ports[(0 : Fin 16)].authStep = n ∧ Canonical (authAt n) ∧ lineOk aLinkMsg.line = true ∧ aLinkMsg.wellFormed = true ∧
    aLinkMsg.ok = true ∧ ({ aLinkMsg with ok := false } : LinkMsg).ok = false := by
  unfold Canonical
  intro n hn
  have h (s : State) (k : Nat) (hs : s = authAt k) : helloRejected s 0 aHello = _ ∧ helloRejected s 0 { aHello with serial := 0 } = _ :=
    ⟨rejected_root (by rw [hs]; rfl), rejected_root (by rw [hs]; rfl)⟩
  rw [(h _ n rfl).1, (h _ n rfl).2]
  simp only [List.mem_cons, List.not_mem_nil, or_false] at hn
  rcases hn with rfl | rfl | rfl | rfl <;> refine ⟨by decide +kernel, by decide +kernel, by simp [helloRejected], by decide +kernel⟩

/-- A flit that passes its checks at a port that expects SEQ 0. -/
def goodFlit : Flit :=
  { line := goodLine, tagOk := true, ftype := 1, vc := 8, phase := false, first := true, last := false
    keyEpoch := false, crVc := 0, crPhase := false, crCount := 0, seq := 0, ack := 0xFFFF
    payload := [0, 0, 7, 0, 0x40, 2, 0, 1] ++ List.replicate 216 0 }

/-- A DATA flit that holds a whole packet for an address, of a class, with this body. -/
def wholeFlit (dst cls : Nat) (body : List Byte) : Flit :=
  { goodFlit with last := true, payload := padTo 224 (routeHeader dst 7 body.length 0 0 cls ++ body) }

/-- O36: a flit, a first flit of several that opens a packet, CREDIT and KEY_UPDATE. -/
theorem witness_accepted :
    let s := withP live activePort
    Accepted s 0 goodFlit ∧ goodFlit.first = true ∧ goodFlit.last = false ∧
    (s.ports[(0 : Fin 16)].partial_.find? fun x => x.vc == goodFlit.vc.toNat && x.phase == goodFlit.phase) = none ∧
    ((rxBufFor s.ports[(0 : Fin 16)] 0 8 false).bind (firstFlit s 0 goodFlit)).isSome = true ∧ Quiet s ∧ s.ports[(0 : Fin 16)].rxUsed.length = 18 ∧
    Accepted s 0 { goodFlit with ftype := 2 } ∧ Accepted s 0 { goodFlit with ftype := 4 } := by
  unfold Accepted Quiet
  decide +kernel

/-- O36: packets of one flit that arrive here, a HALT and a GRANT, that go on, and that have no route. -/
theorem witness_packets : ∀ x ∈ [((0 : Nat), (2 : Nat), haltMsg 0 1 1 9), (0, 1, aPacket 1 0 []), (7, 2, haltMsg 0 1 1 9), (9, 2, haltMsg 0 1 1 9)],
    let s := { withP live activePort with groups := live.groups.set 0 aGroup, routes := [(7, 0)] }
    let f := wholeFlit x.1 x.2.1 x.2.2
    let b : RxBuf := ⟨0, 8, false⟩
    ∃ y, Accepted s 0 f ∧ f.ftype = 1 ∧ rxBufFor s.ports[(0 : Fin 16)] 0 f.vc.toNat f.phase = some b ∧ Completed s 0 f b y ∧
      y.out = (if x.1 = 0 then 16 else if x.1 = 7 then (0 : Fin 16).val else 17) ∧ inService s = true ∧ Canonical s ∧ Quiet s ∧
      s.ports[(0 : Fin 16)].state = .active ∧ s.ports[(0 : Fin 16)].retryBuf.length < 1024 ∧ s.ports[(0 : Fin 16)].txCount + 1 < 2 ^ 36 ∧
      0 < s.ports[(0 : Fin 16)].credits.getD (crIdx y.vc (y.phase || regBit s (offPctl 0) 6)) 0 ∧ hasSession s.ports[(0 : Fin 16)] = true ∧
      (let bs := y.bytes.take (16 + fieldAt y.bytes 4 4 0 16)
       fieldAt bs 4 4 24 4 = x.2.1 ∧ (x.2.1 = 1 → fieldAt (bs.drop 16) 0 4 0 4 = 1 ∧ pktOk s (fieldAt bs 0 4 16 16) (Pkt.parse (bs.drop 16)) = true)) := by
  unfold Accepted Quiet Completed Canonical
  intro x hx
  simp only [List.mem_cons, List.not_mem_nil, or_false] at hx
  rcases hx with rfl | rfl | rfl | rfl
  · exact ⟨⟨8, false, 16, (wholeFlit 0 2 (haltMsg 0 1 1 9)).payload, 1, 1, [⟨0, 8, false⟩]⟩, by decide +kernel⟩
  · exact ⟨⟨8, false, 16, (wholeFlit 0 1 (aPacket 1 0 [])).payload, 1, 1, [⟨0, 8, false⟩]⟩, by decide +kernel⟩
  · exact ⟨⟨8, false, 0, (wholeFlit 7 2 (haltMsg 0 1 1 9)).payload, 1, 1, [⟨0, 8, false⟩]⟩, by decide +kernel⟩
  · exact ⟨⟨8, false, 17, (wholeFlit 9 2 (haltMsg 0 1 1 9)).payload, 1, 1, [⟨0, 8, false⟩]⟩, by decide +kernel⟩

/-- O36: the second flit of a packet whose port of exit has lost its session. -/
theorem witness_packet_lost :
    let y : PartPkt := ⟨8, false, 1, goodFlit.payload, 2, 1, [⟨0, 8, false⟩]⟩
    let s := withP live { activePort with partial_ := [y] }
    let f := { goodFlit with first := false, last := true }
    let b : RxBuf := ⟨0, 8, false⟩
    Accepted s 0 f ∧ rxBufFor s.ports[(0 : Fin 16)] 0 8 false = some b ∧ Completed s 0 f b { y with bytes := y.bytes ++ f.payload, got := 2, bufs := y.bufs ++ [b] } ∧
    y.out = (1 : Fin 16).val ∧ hasSession s.ports[(1 : Fin 16)] = false := by
  unfold Accepted Completed
  refine ⟨by decide +kernel, by decide +kernel, ⟨rfl, .inr ⟨rfl, _, rfl, rfl, rfl⟩⟩, by decide +kernel⟩

/-- O37: a bad and a good CRC, a port that waits for a SEQ, and a retry of a flit that is kept. -/
theorem witness_lost :
    let x : SentFlit := ⟨⟨3, 0, 0, 0, 0, false, 0, ⟨1, 8, false, true, true, [], none⟩⟩, 0⟩
    let s := withP live { activePort with retryBuf := [x], discarding := true }
    s.ports[(0 : Fin 16)].state = .active ∧ lineOk badLine = false ∧ lineOk goodLine = true ∧ Quiet s ∧
    s.ports[(0 : Fin 16)].discarding = true ∧ Canonical s ∧ s.ports[(0 : Fin 16)].retryBuf.length < 1024 ∧
    1024 ≤ (withP live { activePort with retryBuf := List.replicate 1024 x }).ports[(0 : Fin 16)].retryBuf.length ∧
    findIdx? (fun (y : SentFlit) => y.seq == ({ goodFlit with seq := 3 } : Flit).seq.toNat) s.ports[(0 : Fin 16)].retryBuf 0 = some 0 := by
  unfold Canonical Quiet
  decide +kernel

/-- O38: a lane lost on four, a storm there and on one lane, a channel that waits, and too many malformed flits; the last in the window of a
storm, wherever the value left open says so. -/
theorem witness_link_faults :
    (let s := withP live { activePort with retries := 33, malformed := 17, credits := List.replicate 18 0, shared := 0,
                                           waiting := [⟨1, 0, false, true, true, [], none⟩, ⟨1, 8, false, true, true, [], none⟩] }
     let u := s.ports[(0 : Fin 16)]
     let next := if u.width = 2 then 2 else u.width + 1
     u.state = .active ∧ bitAt u.lanes.toNat (0 : Fin 4).val = true ∧
     widthLanes next ≤ ((lanesOf (0xF : BitVec 4).toNat).filter fun i => i != (0 : Fin 4).val).length ∧ stormTh s 0 < u.retries ∧ u.width ≠ 2 ∧
     Canonical s ∧ malTh s 0 < u.malformed ∧ (u.waiting.any fun f => f.ftype == 1 && f.vc == 8 && !hasCredit u f) = true ∧
     (u.waiting.any fun f => f.ftype == 1 && f.vc == 0 && !hasCredit u f) = true) ∧
    (∀ x ∈ [((0 : Nat), (0xF : BitVec 4)), (2, 1)], let s := withP live { activePort with retries := 33, width := x.1, lanes := x.2 }
     Canonical s ∧ s.ports[(0 : Fin 16)].state = .active ∧ stormTh s 0 < s.ports[(0 : Fin 16)].retries ∧ s.ports[(0 : Fin 16)].width = x.1 ∧
     s.ports[(0 : Fin 16)].malformed ≤ malTh s 0) ∧
    (∀ s : State, s.ports[(0 : Fin 16)].malformed = 0 → windowMalformed s 0 = 0) ∧
    (∀ n, n = Config.freeNat 0 → 16 < n → let s := withP live { activePort with retries := 33, malformed := n }
     Canonical s ∧ s.ports[(0 : Fin 16)].state = .active ∧ stormTh s 0 < s.ports[(0 : Fin 16)].retries ∧ malTh s 0 < windowMalformed s 0) := by
  refine ⟨by unfold Canonical; decide +kernel, by unfold Canonical; decide +kernel, fun s h => ?_, fun n hn h => ?_⟩
  · unfold windowMalformed
    rw [h]
    exact Nat.mod_one _
  · have port : ∀ u : Port, (withP live u).ports[(0 : Fin 16)] = u := fun u => by simp [withP]
    have storm : ∀ u : Port, stormTh (withP live u) 0 = stormTh live 0 := fun _ => rfl
    have mal : ∀ u : Port, malTh (withP live u) 0 = malTh live 0 := fun _ => rfl
    refine ⟨live_canonical, by rw [port]; rfl, ?_, ?_⟩
    · rw [port, storm]
      show stormTh live 0 < 33
      decide +kernel
    · rw [mal, show malTh live 0 = 16 by decide +kernel]
      unfold windowMalformed
      rw [port]
      show 16 < Config.freeNat 0 % (n + 1)
      rw [← hn, Nat.mod_eq_of_lt (Nat.lt_succ_self n)]
      exact h

/-! ### The gauge -/

def aFrame (count : Nat) : GaugeFrame :=
  { sync := 0xF628, count := BitVec.ofNat 64 count, epoch := 0, crc := BitVec.ofNat 16 (gaugeCrc count 0) }

/-- A module with this gauge; its input is enabled from reset (R390). -/
def gaugeAt (g : Gauge) : State := { live with gauge := g }

/-- O39: free running and following; frames before and at the lock, from a count below and above; frames that fail; loss; a count below and above, and an epoch, that two
frames agree on. -/
theorem witness_gauge :
    (let s := gaugeAt Gauge.reset
     alive s = true ∧ Canonical s ∧ s.gauge.locked = false ∧ s.gauge.src ≠ 1 ∧ regBit s offGauCtl 0 = true ∧ frameOk (aFrame 100) = true ∧ s.gauge.prev = none) ∧
    (let s := gaugeAt { Gauge.reset with src := 1 }
     alive s = true ∧ s.gauge.locked = false ∧ s.gauge.src = 1) ∧
    (∀ n ∈ [0, 5000], let s := gaugeAt { Gauge.reset with prev := some ⟨100, 0, 0⟩, refTicks := 1024, count := n }
     alive s = true ∧ Canonical s ∧ regBit s offGauCtl 0 = true ∧ s.gauge.locked = false ∧ frameOk (aFrame 1124) = true ∧
     s.gauge.prev = some ⟨100, 0, 0⟩ ∧ 0 + 1024 = s.gauge.refTicks ∧ 0 + 1024 ≠ Gauge.reset.refTicks ∧ 100 + 1024 = (aFrame 1124).count.toNat ∧ (0 : Nat) = (aFrame 1124).epoch.toNat ∧
     decide (s.gauge.count ≤ ((aFrame 1124).count.toNat + 5) % 2 ^ 64) = (n == 0)) ∧
    (∀ n ∈ [1, 2], let s := gaugeAt { Gauge.reset with locked := true, src := 0, bad := n }
     alive s = true ∧ Canonical s ∧ regBit s offGauCtl 0 = true ∧ s.gauge.locked = true ∧ frameOk { aFrame 0 with crc := 0 } = false ∧
     s.gauge.bad = n ∧ gaugeChoice s = none ∧ OpenRoom s 1) ∧
    (∀ x ∈ [((0 : Nat), (0 : Nat)), (5000, 0), (1129, 1)],
     let s := gaugeAt { Gauge.reset with locked := true, src := 0, count := x.1, epoch := x.2, disagree := some ⟨100, 0, 0⟩, refTicks := 1024 }
     alive s = true ∧ Canonical s ∧ regBit s offGauCtl 0 = true ∧ s.gauge.locked = true ∧ frameOk (aFrame 1124) = true ∧
     (sourceCount s.gauge ≠ ((aFrame 1124).count.toNat + 5) % 2 ^ 64 ∨ s.gauge.epoch ≠ (aFrame 1124).epoch.toNat) ∧
     100 + 1024 * (s.gauge.bad + 1) = (aFrame 1124).count.toNat ∧ (0 : Nat) = (aFrame 1124).epoch.toNat ∧
     0 + 1024 * (s.gauge.bad + 1) = s.gauge.refTicks ∧ OpenRoom s 1) := by
  unfold Canonical OpenRoom
  decide +kernel

/-- O40: TX_EN 0 and 1 with an ACTIVE port; sets that fail and pass at a locked module and at one that follows. -/
theorem witness_gauge_sets :
    regBit { live with regs := [(offGctl, 0)] } offGctl 0 = false ∧
    (let s := { withP live activePort with regs := [(offGctl, 3)] }
     regBit s offGctl 0 = true ∧ regBit s offGctl 1 = true ∧ s.ports[(0 : Fin 16)].state = .active ∧ Canonical s ∧ s.gauge.locked = false ∧
     fecDecodes badLine = false ∧ fecDecodes { goodLine with crcOk := false } = true ∧ lineOk { goodLine with crcOk := false } = false ∧
     lineOk goodLine = true ∧ s.ports[(0 : Fin 16)].rxEpoch % 2 = 0 ∧
     ∀ k : Fin 16, k ≠ 0 → gaugeSourceOk s.ports[k] = true → (0 : BitVec 3).toNat < s.ports[k].gDepth) ∧
    (let s := { withP live activePort with gauge := { Gauge.reset with locked := true } }
     s.ports[(0 : Fin 16)].state = .active ∧ Canonical s ∧ s.gauge.locked = true) := by
  unfold Canonical
  decide +kernel

/-! ### Array engines -/

/-- INT8 × INT8 at rung 2 on the splice path. -/
def anInsn : ArrayInsn :=
  { tag := 1, slot := 0, count := 0, src := 0, stride := 0, path := .splice, rung := 2, fa := 0xA, fb := 0xA, group := 0, eddy := 0, first := true
    kvalid := 16, rowScale := [], colScale := [], mxa := [], mxb := [], env := [] }

/-- Engine 0 with its two buffers as given. -/
def engAt (a b : StatBuf) : State :=
  { live with engines := live.engines.set 0 { Engine.reset with cfg := insnCfg anInsn .splice, bufA := a, bufB := b } }

def fullBuf (tag : Nat) (poison : Bool) : StatBuf := { StatBuf.reset with tag := tag, valid := true, poison := poison }

/-- O41: a free buffer, and two that are held and not released. -/
theorem witness_buffers :
    inService live = true ∧ live.inService[(0 : Fin 96)] = true ∧ insnAccepted anInsn .splice = true ∧ insnAccepted { anInsn with fa := 1 } .splice = false ∧ insnAccepted anInsn .log = false ∧
    insnAccepted anInsn .ewise = true ∧
    live.engines[(0 : Fin 96)].waitLoads = [] ∧ live.engines[(0 : Fin 96)].waitSteps = [] ∧
    loadsA (configured live (engAt StatBuf.reset StatBuf.reset).engines[(0 : Fin 96)] (insnCfg anInsn anInsn.path)) = some true ∧
    loadsA (configured live (engAt (fullBuf 0 false) (fullBuf 1 false)).engines[(0 : Fin 96)] (insnCfg anInsn anInsn.path)) = none ∧
    inService (engAt (fullBuf 0 false) (fullBuf 1 false)) = true ∧ (engAt (fullBuf 0 false) (fullBuf 1 false)).inService[(0 : Fin 96)] = true ∧
    ScratchClean live 0 0 (blockBytes (insnCfg anInsn anInsn.path)) := by
  unfold ScratchClean
  decide +kernel

/-- O42: no buffer with the tag, a poisoned one, a clean one; and an engine for products. -/
theorem witness_steps :
    (let s := engAt StatBuf.reset StatBuf.reset
     inService s = true ∧ s.inService[(0 : Fin 96)] = true ∧ s.engines[(0 : Fin 96)].cfg = insnCfg anInsn anInsn.path ∧
     live.engines[(0 : Fin 96)].cfg ≠ insnCfg anInsn anInsn.path ∧ anInsn.path ≠ .table ∧
     bufOf s.engines[(0 : Fin 96)] anInsn.tag.toNat = none) ∧
    (∀ bad ∈ [true, false], let s := engAt (fullBuf 1 bad) StatBuf.reset
     inService s = true ∧ s.inService[(0 : Fin 96)] = true ∧ s.engines[(0 : Fin 96)].cfg = insnCfg anInsn anInsn.path ∧
     live.engines[(0 : Fin 96)].cfg ≠ insnCfg anInsn anInsn.path ∧ anInsn.path ≠ .table ∧
     bufOf s.engines[(0 : Fin 96)] anInsn.tag.toNat = some (true, fullBuf 1 bad) ∧ EngOk s 0 ∧
     ScratchClean s 0 0 (32 * ceilDiv (kBlock (insnCfg anInsn .splice) * fmtWidth (fmtOf 0xA)) 8) ∧ anInsn.count = 0 ∧ anInsn.first = true) ∧
    (EngOk live 0 ∧ ScratchClean live 0 0 (256 * 8 + 256 * 8) ∧ (insnCfg anInsn .ewise).rung ≠ 0) := by
  unfold EngOk ScratchClean
  decide +kernel

/-! ### The vector engine -/

/-- Operands with this destination, and the same V or S source throughout. -/
def ops (d src : BitVec 5) : TwineOps := { p := false, d := d, a := src, b := src, c := src, rm := 0, chunk := none, ctx := 0, env := [] }

/-- O43: every opcode into V0 from V0, and into S0 from S0. -/
theorem witness_twine : ∀ r ∈ [(0 : BitVec 5), 0x10], ∀ op ∈ (List.range 0x1A).map (· + 1) ++ [0x1C, 0x1D],
    let t := issueContext (ops r r) live.cores[(0 : Fin 16)].twine
    (issuedInsn (ops r r) op t).op = op ∧ t.v.length = 16 ∧ t.sreg.length = 8 ∧ ((1 ≤ op ∧ op ≤ 0x1A) ∨ op = 0x1C ∨ op = 0x1D) := by
  decide +kernel

/-- A shard of one element with member 0 at 0x1000, member 2 at 0x3000, member 5 at 0x5000, bound to core 0. -/
def aShard : List Byte :=
  (List.range 256).map fun i => if i = 0 then 1 else if i = 0x41 then 0x10 else if i = 0x61 then 0x30 else if i = 0x91 then 0x50 else 0

def boundAt (pass2 : Bool) : State :=
  updCore live 0 fun k => { k with twine := { bindTwine ⟨0, 0, List.replicate 128 0, aShard, none, [0, 0, 0, 0], [1]⟩ with pass2 := pass2 } }

/-- O44: IDX, RED in either pass, an opcode that is replaced, BINV, LD of member 2, ST of member 5 in either pass. -/
theorem witness_twine_members : ∀ pass2 ∈ [false, true],
    let s := boundAt pass2
    let t := issueContext (ops 0 2) s.cores[(0 : Fin 16)].twine
    let u := issueContext (ops 0 5) s.cores[(0 : Fin 16)].twine
    (issuedInsn (ops 0 2) 0x1B t).op = 0x1B ∧ t.v.length = 16 ∧ (issuedInsn (ops 0 2) 0x22 t).op = 0x22 ∧ (ops 0 2).d.toNat < t.acc.length ∧
    t.pass2 = pass2 ∧ (t.acc.getD 0 RedAcc.reset).kind = none ∧ (issuedInsn (ops 0 7) 0x20 t).op = 0 ∧ t.lanes = 1 ∧
    (issuedInsn (ops 0 2) 0x20 t).op = 0x20 ∧ (issuedInsn (ops 0 5) 0x21 u).op = 0x21 ∧ Canonical s ∧
    ReadOk s t.who [t.place 0x3000 32] ∧
    match u.shard with
    | some sh => (sh.member 2).addr = 0x3000 ∧ WriteOk s u.who (((u.storeWrites s (issuedInsn (ops 0 5) 0x21 u) sh).1).map fun r => (r.addr, r.bytes.length))
    | none => False := by
  intro pass2 hp
  simp only [List.mem_cons, List.not_mem_nil, or_false] at hp
  have h : tameB (boundAt pass2) = true := by rcases hp with rfl | rfl <;> decide +kernel
  refine ⟨?_, ?_, ?_, ?_, ?_, ?_, ?_, ?_, ?_, ?_, tame_of h, ?_, ?_⟩
  case refine_11 => rcases hp with rfl | rfl <;> exact read_of (by decide +kernel)
  case refine_12 => rcases hp with rfl | rfl <;> exact ⟨by decide +kernel, write_of (by decide +kernel)⟩
  all_goals rcases hp with rfl | rfl <;> decide +kernel

/-! ### Observation, registers, power -/

/-- O45: zeroing and running; the mailbox free and pending; a snapshot due at once, at its tick, and not yet. -/
theorem witness_mailbox :
    live.phase = .run ∧ ioOk live = true ∧ Canonical live ∧ live.mbx.pend = false ∧ ({ live with phase := .zeroing } : State).phase = .zeroing ∧
    ({ live with mbx := { Mailbox.reset with pend := true } } : State).mbx.pend = true ∧
    (∀ tick ∈ [0, 1, 2], let s : State := { live with gauge := { Gauge.reset with count := 1 }, snap := { live.snap with armed := some (tick, 1, false) } }
      s.snap.armed = some (tick, 1, false) ∧ s.phase = .run ∧ decide (tick = 0 ∨ tick ≤ s.gauge.count) = (tick != 2) ∧
      decide (tick ≠ 0 ∧ s.gauge.count < tick) = (tick == 2)) := by
  unfold Canonical
  decide +kernel

/-- O46: a buffer that is not enabled, one that takes a MARK, and one that is frozen; a trigger that is armed, and one that is not; POST_COUNT zero and
not. -/
theorem witness_trace :
    live.phase = .run ∧ ioOk live = true ∧ Canonical live ∧ bitAt (1#64 <<< 55).toNat 55 = true ∧ bitAt (0 : BitVec 64).toNat 55 = false ∧
    regBit live (offTctl 0) 16 = false ∧ live.cores[(0 : Fin 16)].trace.frozen = false ∧ live.cores[(0 : Fin 16)].trace.post = none ∧
    live.cores[(0 : Fin 16)].trace.leaving = [] ∧ live.cores[(0 : Fin 16)].trace.undrained = 0 ∧ live.cores[(0 : Fin 16)].trace.dropped = 0 ∧
    (updTrace live 0 fun t => { t with frozen := true }).cores[(0 : Fin 16)].trace.frozen = true ∧
    (∀ x ∈ [((0x10000 : BitVec 64), (0 : Nat)), (0x1000000010000, 1)], let s := { live with regs := [(offTctl 0, x.1)] }
     s.phase = .run ∧ ioOk s = true ∧ Canonical s ∧ regField s (offTctl 0) 48 16 = x.2 ∧ regBit s (offTctl 0) 16 = true ∧
     regBit s (offTrig 0) 55 = false ∧ s.cores[(0 : Fin 16)].trace.frozen = false ∧ s.cores[(0 : Fin 16)].trace.dropped = 0 ∧
     s.cores[(0 : Fin 16)].trace.staged < 64 ∧ s.cores[(0 : Fin 16)].trace.undrained < 65536 ∧
     cellsWf (fun _ => List.replicate 32 (0 : Byte)) s.cores[(0 : Fin 16)].trace.slots = true) := by
  unfold Canonical
  decide +kernel

/-- O47: a block that does not answer and one that does; a size and an offset that are refused; each kind of register. -/
theorem witness_registers :
    blockAnswers State.reset 0 = false ∧ blockAnswers { live with ide := [ioStream] } 0 = false ∧ ioOk live = true ∧
    ioOk { live with ide := [ioStream] } = false ∧ live.fuses[(0 : Fin 96)] < 32 ∧ (suMask offT3Base).isSome = true ∧ blockAnswers live 0 = true ∧ (4 : Nat) ≠ 8 ∧ 4 % 8 ≠ 0 ∧ live.phase = .run ∧ Canonical live ∧
    w1cFlags offErrStat = some 0x1F ∧ w1cFlags 0 = none ∧ qosClamp 0 ≠ 0 ∧ qosClamp 0x0D0D1A264040 = 0x0D0D1A264040 ∧
    hdmClamp (3724 * 2 ^ 16 + 1 * 2 ^ 32) = 3724 * 2 ^ 16 + 1 * 2 ^ 32 ∧ hdmClamp (3724 * 2 ^ 16 + 2 * 2 ^ 32) ≠ 3724 * 2 ^ 16 + 2 * 2 ^ 32 ∧
    t3SizeClamp 59604 = 59604 ∧ t3SizeClamp 59605 ≠ 59605 := by
  unfold Canonical
  decide +kernel

/-- A CRC whose state is settled byte by byte, for evaluation. -/
def crcForced (poly : Nat) : Nat → List Byte → Nat
  | c, [] => c
  | c, b :: bs =>
    let d := (List.range 8).foldl (fun c _ => crcStepR poly c) (c ^^^ b.toNat)
    if d = 0 then crcForced poly 0 bs else crcForced poly d bs

theorem crc_forced (poly : Nat) (bs : List Byte) : ∀ c, crcR poly c bs = crcForced poly c bs := by
  induction bs with
  | nil => intro c; rfl
  | cons b bs ih =>
    intro c
    unfold crcForced
    simp only [crcR, List.foldl_cons] at ih ⊢
    split
    · rename_i h; rw [h]; exact ih 0
    · exact ih _

/-- A module whose check has this CTL and reference, with a run of mismatches or none. -/
def sweepAt (ctl : BitVec 64) (ref : Nat) (run : Bool) : State :=
  { live with regs := if ctl = 0 then [] else [(offCfgCtl, ctl)] ++ (if ref = 0 then [] else [(offCfgRef, BitVec.ofNat 64 ref)])
              cfg := { live.cfg with drifting := run } }

theorem sweep_bytes : ∀ x ∈ [((1 : BitVec 64), 3377053149), (1, 0), (3, 0)], sweepCrc (sweepAt x.1 x.2 true) = 3377053149 := by
  intro x hx
  unfold sweepCrc crc32c
  rw [crc_forced]
  simp only [List.mem_cons, List.not_mem_nil, or_false] at hx
  rcases hx with rfl | rfl | rfl <;> decide +kernel

/-- O48: no check; a match; a mismatch, the first and a later one, with and without HALT_EN. -/
theorem witness_sweeps :
    (alive live = true ∧ cflBusy live = false ∧ Canonical live ∧ regBit live offCfgCtl 0 = false) ∧
    (let s := sweepAt 1 3377053149 true
     alive s = true ∧ cflBusy s = false ∧ Canonical s ∧ regBit s offCfgCtl 0 = true ∧ sweepCrc s = regField s offCfgRef 0 32) ∧
    (∀ ctl ∈ [(1 : BitVec 64), 3], ∀ run ∈ [true, false], let s := sweepAt ctl 0 run
     alive s = true ∧ cflBusy s = false ∧ Canonical s ∧ OpenRoom s 2 ∧ (∀ q : Fin 32, s.queues[q].state ≠ .running) ∧ regBit s offCfgCtl 0 = true ∧
     sweepCrc s ≠ regField s offCfgRef 0 32 ∧ s.cfg.drifting = run ∧ regBit s offCfgCtl 1 = (ctl == 3)) := by
  have e (x : BitVec 64 × Nat) (hx : x ∈ [((1 : BitVec 64), 3377053149), (1, 0), (3, 0)]) (run : Bool) :
      sweepCrc (sweepAt x.1 x.2 run) = 3377053149 := sweep_bytes x hx
  unfold Canonical OpenRoom
  refine ⟨by decide +kernel, ⟨by decide +kernel, by decide +kernel, by decide +kernel, by decide +kernel, ?_⟩, ?_⟩
  · rw [e (1, 3377053149) (by decide)]; decide +kernel
  · intro ctl hc run hr
    have hm : (ctl, 0) ∈ [((1 : BitVec 64), 3377053149), (1, 0), (3, 0)] := by
      simp only [List.mem_cons, List.not_mem_nil, or_false] at hc
      rcases hc with rfl | rfl <;> decide
    have h := e (ctl, 0) hm run
    intro s
    simp only at h
    rw [show sweepCrc s = 3377053149 from h]
    show alive (sweepAt ctl 0 run) = true ∧ _
    simp only [List.mem_cons, List.not_mem_nil, or_false] at hc hr
    rcases hc with rfl | rfl <;> rcases hr with rfl | rfl <;> (clear h hm e; revert s; decide +kernel)

def measured (watts millivolts : Nat) (t : Int) : PowerMeasure :=
  { watts := watts, millivolts := millivolts, milliamps := 0, temps := List.replicate 20 t }

/-- O49: above, below and between the limits; the hundredth calm window and one before; a step in force that changes. -/
theorem witness_power :
    firmwareRuns live = true ∧ 2000 - 8 * regField live offStepreq 8 7 < (measured 2001 54000 0).watts ∧
    (measured 0 44000 0).watts + 100 < 2000 - 8 * regField live offStepreq 8 7 ∧
    (∀ i < 20, (measured 0 44000 0).temps.getD i 0 + 5 ≤ stepDownAt i) ∧ ¬(∃ i < 20, stepDownAt i ≤ (measured 2001 54000 0).temps.getD i 0) ∧
    ¬(measured 1950 54000 0).watts + 100 < 2000 - 8 * regField live offStepreq 8 7 ∧ live.power.calm < 99 ∧
    99 ≤ ({ live.power with calm := 99 } : Power).calm ∧ OpenRoom live 1 ∧ live.power.inForce ≠ 3 ∧
    (44000 ≤ (measured 0 44000 0).millivolts ∧ (measured 0 44000 0).millivolts < 46000) ∧
    (crossings live.power.meas (measured 0 44000 90)).isEmpty = false := by
  unfold OpenRoom
  decide +kernel

/-! ### The host link -/

/-- A module with one gibibyte of HDM from the start of T2, and its cachemem stream. -/
def hdmState : State := { live with regs := [(offHdm, 0x100000001)], ide := [⟨0, false, true, 0, 0, 0, true⟩], t1Init := true }

/-- O50: outside the window, in it, and a poisoned line. -/
theorem witness_hdm :
    alive hdmState = true ∧ Canonical hdmState ∧ hdmAddr live 0 = none ∧ hdmAddr hdmState 0 = some t2Start ∧
    LineOk hdmState Who.none t2Start ∧ backed hdmState t2Start = true ∧
    linePoisoned { hdmState with poison := [t2Start / 64] } (t2Start / 64) = true ∧ BackedAll hdmState t2Start 64 := by
  unfold Canonical LineOk BackedAll
  decide +kernel

/-- O50: scrubs of the first line of T1 and of T2; the DOE session of IDE_KM. -/
theorem witness_scrub :
    inService live = true ∧ Canonical live ∧ (∀ l ∈ [0, t2Start / 64], (regionOf (64 * l) = .t1 ∨ regionOf (64 * l) = .t2) ∧
      backed live (64 * l) = true ∧ linePoisoned live l = false) ∧
    (let s := { live with sessions := live.sessions.set 0 (.established 0) }
     firmwareRuns s = true ∧ s.fatal = none ∧ established s .doe = true) := by
  unfold Canonical
  decide +kernel

/-! ### Management -/

/-- O51: a transport that answers and one that does not; identifiers at the ends of their range; events held and none. -/
theorem witness_management :
    mctpUp live .i3c = true ∧ mctpUp dark .i3c = false ∧ pldmUp live .vdm = true ∧ pldmUp dark .vdm = false ∧
    ((1 : Byte) ≠ 0 ∧ (1 : Byte) ≠ 0xFF ∧ (0xFE : Byte) ≠ 0 ∧ (0xFE : Byte) ≠ 0xFF) ∧ (0x10 ∈ numericIds ∧ 0x10 ∉ live.mgmt.disabled) ∧
    live.mgmt.events = [] ∧ ({ live.mgmt with events := [(0x10, true)] } : Mgmt).events = (0x10, true) :: [] := by
  decide +kernel

/-- O52: every state of an update in service and while the boot ROM holds the module, and a transferred image that is valid and one that
is not. -/
theorem witness_update_states : ∀ st ∈ [FwState.idle, .requested, .table, .transfer, .transferred, .verified, .applied],
    let s : State := { live with mgmt := { live.mgmt with fw := st, fwImage := some Image.factory } }
    let r : State := { s with phase := .romHeld }
    mctpUp s .i3c = true ∧ s.phase ≠ .romHeld ∧ s.mgmt.fw = st ∧ s.mgmt.fwImage.isSome = true ∧ s.perst = false ∧
    imageValid s Image.factory = true ∧ imageValid s { Image.factory with sigOk := false } = false ∧ 60 * 2 ^ 20 ≤ 60 * 2 ^ 20 ∧
    mctpUp r .i3c = true ∧ r.phase = .romHeld ∧ r.mgmt.fw = st := by
  intro st hs
  have h : imageValid live Image.factory = true ∧ imageValid live { Image.factory with sigOk := false } = false := by decide +kernel
  simp only [List.mem_cons, List.not_mem_nil, or_false] at hs
  rcases hs with rfl | rfl | rfl | rfl | rfl | rfl | rfl <;>
    exact ⟨by decide +kernel, by decide +kernel, rfl, rfl, rfl, h.1, h.2, by decide +kernel, by decide +kernel, rfl, rfl⟩

def good : SpdmReq := { wellFormed := true, secured := true, sign := false, bank := none, pciSig := true, vendorId := 0x1FD7, code := 1 }

/-- A module in this lifecycle state, with this DOE session. -/
def sessionAt (lc : List (Nat × Nat)) (x : Session) : State :=
  { live with idKey := some 0, sessions := live.sessions.set 0 x, otp := { live.otp with lc := lc }
              boot := { live.boot with image := some Image.factory } }

/-- O53: the responder up and down; a session in handshake and established. -/
theorem witness_spdm :
    spdmUp live = true ∧ spdmUp dark = false ∧ good.wellFormed = true ∧ good.sign = false ∧ 1 ≤ (7 : Byte).toNat ∧ (7 : Byte).toNat ≤ 7 ∧
    (let s := sessionAt [] (.handshake 3)
     s.unlocked = false ∧ s.idKey = some 0 ∧ ({ good with sign := true } : SpdmReq).sign = true ∧ live.idKey = none ∧ spdmUp s = true ∧ sessionOf s .doe = .handshake 3 ∧ good.secured = true) ∧
    (let b : BankFind := ⟨0, 0, false, true⟩
     ({ good with bank := some b } : SpdmReq).bank = some b ∧ b.ue = false ∧ Canonical live) ∧
    Secure (sessionAt [] (.established 3)) .doe good := by
  unfold Secure InSession Canonical
  decide +kernel

/-- An owner's signature over these bytes, for the module `s` and its next entry. -/
def signedBy (s : State) (key : BitVec 256) (covers : List Byte) : Auth := ⟨true, false, key, covers, s.serial, s.otp.lc.length⟩

/-- A Jokarek token for this target state. -/
def tokenTo (s : State) (target : Byte) : Auth := ⟨true, true, 0, [target], s.serial, s.otp.lc.length⟩

/-- A JOBBED module whose owner slot 0 is active with key 7. -/
def ownedAt : State :=
  let s := sessionAt [(2, 5)] (.established 3)
  { s with otp := { s.otp with owners := s.otp.owners.set 0 ⟨some 7, false⟩ } }

/-- O54: outside and inside a session, a key installed and none, a floor that is raised with and without an owner, and a key that is
cleared. -/
theorem witness_vendor :
    (spdmUp live = true ∧ established live .doe = false ∧ good.bank = none) ∧
    (let s := sessionAt [] (.established 3)
     Secure s .doe good ∧ lcState s = 0 ∧ s.t3key = none ∧ ({ s with t3key := some aKey } : State).t3key.isSome = true ∧ s.jobClear = none) ∧
    (let s := sessionAt [(1, 6)] (.established 3)
     Secure s .doe good ∧ lcState s ≠ 0 ∧ lcState s ≠ 2) ∧
    (let s := sessionAt [(2, 5)] (.established 3)
     Secure s .doe good ∧ lcState s = 2 ∧ ownerActive s = none ∧ s.boot.image = some Image.factory ∧ (0 : BitVec 16).toNat ≤ imgSvn Image.factory ∧
     s.otp.svnFloor ≤ (0 : BitVec 16).toNat) ∧
    (Secure ownedAt .doe good ∧ lcState ownedAt = 2 ∧ ownerActive ownedAt = some 0 ∧
      ((ownedAt.otp.owners[0]?).bind OwnerSlot.digest) = some (signedBy ownedAt 7 []).key) ∧
    (let s : State := { running (cmdOf .plain 0 0) with jobClear := some [(0, 0)] }
     s.jobClear = some [(0, 0)] ∧ cmdOf .plain 0 0 ∈ s.queues[(0 : Fin 32)].active ∧ ((0 : Nat), 0) = ((0 : Fin 32).val, (cmdOf .plain 0 0).idx.toNat)) ∧
    (let s : State := { live with jobClear := some [] }
     s.jobClear = some [] ∧ ∀ w ∈ ([] : List (Nat × Nat)), w ≠ w) := by
  unfold Secure InSession
  decide +kernel

/-- O55: transitions allowed and not, with a token, an owner and neither, and the unlock of RETURNED. -/
theorem witness_lifecycle :
    (let s := sessionAt [(2, 5)] (.established 3)
     Secure s .doe good ∧ lcState s = 2 ∧ ownerActive s = none ∧ s.otp.lc.length ≤ 13 ∧ goodBoot.wipeOk = true ∧ s.perst = false ∧
     lcAllowed s 4 0 none = true ∧ lcAllowed s 3 0 none = true ∧ lcAllowed s 0 0 none = false) ∧
    (let s := sessionAt [] (.established 3)
     Secure s .doe good ∧ lcAllowed s 1 0 (some (tokenTo s 1)) = true ∧ lcAllowed s 1 0 (some (tokenTo s 2)) = false ∧ lcAllowed s 1 0 none = false) ∧
    (let x := signedBy ownedAt 7 (unsigned (3 :: leBytes 32 0))
     Secure ownedAt .doe good ∧ lcAllowed ownedAt 3 0 (some x) = true ∧ lcAllowed ownedAt 3 0 (some { x with key := 8 }) = false ∧
     lcAllowed ownedAt 3 0 (some { x with used := 9 }) = false) ∧
    (let s := sessionAt [(3, 4)] (.established 3)
     Secure s .doe good ∧ lcState s = 3 ∧ authFits s (tokenTo s 1) = true ∧ (tokenTo s 1).jokarek = true ∧
     authFits s { tokenTo s 1 with serial := s.serial + 1 } = false) := by
  unfold Secure InSession
  decide +kernel

/-- O56, with the lists and counts at their ends. -/
theorem witness_otp :
    let s : State := { State.reset with pending := [.t1Init] }
    step s = .next State.reset ∧ s.otp.lc.length ≤ 15 ∧ (15 : Nat) ≤ 15 ∧ s.otp.tamper ≤ 15 := by
  refine ⟨quiet_step, ?_⟩
  decide +kernel

/-- O57: JOB_KEY_SET installs a key. -/
theorem witness_key :
    exec (.jobKeySet .doe good 1 1) (sessionAt [] (.established 3)) = .next { sessionAt [] (.established 3) with
      t3key := some (jobKeyOf 1 1), outbox := [.reply "JOB_KEY_SET" 0 []] } ∧ (sessionAt [] (.established 3)).t3key ≠ some (jobKeyOf 1 1) := by
  exact ⟨rfl, by decide⟩

/-- O58, O59: codes at the ends of a format, and a value to convert. -/
theorem witness_formats : (Fmt.int4, 4) ∈ [(Fmt.int4, 4), (.int8, 8), (.int16, 16), (.int32, 32)] ∧ (7 : Nat) < 2 ^ 4 ∧ (-2 ^ (4 - 1) : Int) ≤ -8 := by
  decide +kernel

/-- O60: an image in the preferred slot, in the other alone, and in none; each of the four reasons to hold before any key. -/
theorem witness_boot :
    identityOk dark goodBoot = true ∧ dark.phase = .off ∧ dark.pwrEn = false ∧ dark.perst = false ∧ dark.unlocked = false ∧ lcState dark ≠ 4 ∧ goodBoot.wipeOk = true ∧
    goodBoot.trngOk = true ∧ goodBoot.loopOk = true ∧ dark.loopOpen = false ∧ identityOk dark { goodBoot with pufOk := false } = false ∧
    dark.flash.a = some Image.factory ∧ dark.flash.preferB = false ∧ imageValid dark Image.factory = true ∧
    (let s : State := { dark with flash := ⟨dark.flash.inter, some { Image.factory with header := [] }, some Image.factory, false, dark.flash.cert⟩ }
     imageValid s { Image.factory with header := [] } = false ∧ imageValid s Image.factory = true) ∧
    (let s : State := { dark with flash := ⟨dark.flash.inter, none, none, false, dark.flash.cert⟩ }
     s.flash.a = none ∧ s.flash.b = none) ∧
    (({ goodBoot with trngOk := false } : BootEnv).trngOk = false ∧ ({ dark with loopOpen := true } : State).loopOpen = true ∧
      (let s : State := { State.reset with unlocked := true }
       s.phase = .held ∧ s.perst = true ∧ s.loopOpen = false ∧ lcState s ≠ 4 ∧ s.unlocked = true) ∧ lcState { dark with otp := { dark.otp with lc := [(4, 3)] } } = 4) := by
  refine ⟨identity_good _ rfl, ?_⟩
  decide +kernel

/-! ### Ill-formed commands -/

def lineTooHigh : List Finding := [⟨0x400000000000000, .ce, 0⟩]
def shortFlit : Flit := { goodFlit with payload := [] }
def nineFlit : Flit := { goodFlit with line := { goodLine with e0 := 137 } }
def badColumn : BootEnv := { goodBoot with selftest := [(0, 0x11)] }
def longBlock : ArrayInsn := { anInsn with kvalid := 65 }
def badOps : TwineOps := { ops 0 0 with env := lineTooHigh }
def badImages : List Image := [{ Image.factory with header := List.replicate 4097 0 }, { Image.factory with stageDigests := [] }]

/-- Every check of WellFormed refuses a term, and accepts one at its limit. -/
theorem smoke_wellformed :
    (∀ i ∈ [Instr.nop 0 lineTooHigh, .nop 0 [⟨0, .flitUe true, 0⟩], .layer 0 lineTooHigh [], .load 0 longBlock, .load 0 { anInsn with env := lineTooHigh }, .copy 0 lineTooHigh,
        .update 0 lineTooHigh, .replay 0 lineTooHigh [], .add 0 badOps, .haltMessage 0 [], .glbRst 0 badColumn, .lnkRtLoad 0 lineTooHigh,
        .arm 0 0 lineTooHigh, .heldWriteTakesEffect 0 lineTooHigh, .w1cClear 0x1000000 0, .w1cClear 4 0, .suWrite 0x1000000 8 0, .suWrite 0 3 0,
        .powerControllerWindow { measured 0 0 0 with temps := [] }, .patrolScrub ⟨0x400000000000000, .ce, 0⟩, .criticalTemperature 65536 true,
        .ideKm (.keyProg 1 false 5 4 0), .hdmRead 1 [], .hdmRead 0 lineTooHigh, .hdmWrite 1 (List.replicate 64 0) 0 [], .hdmWrite 0 [] 0 [], .hdmWrite 0 (List.replicate 64 0) 0 lineTooHigh,
        .dataFlit 0 shortFlit [] false, .dataFlit 0 goodFlit lineTooHigh false, .hello 0 { aHello with line := { goodLine with e1 := 137 } }, .creditFlit 0 nineFlit, .retryStorm 0 [], .windowOpen 0 lineTooHigh false,
        .grant 0 0 [] [], .grant 0 0 (aPacket 1 0 []) lineTooHigh, .contrib 0 0 (List.replicate 4129 0) false, .getPdr .vdm (2 ^ 32),
        .getSensorReading .vdm 65536, .getStateSensorReadings .vdm 65536, .setNumericSensorEnable .vdm 65536 0, .eventMessageBufferSize .vdm 65536,
        .updateComponent .vdm (2 ^ 32), .getCertificate .doe good 8, .getVersion .doe { good with bank := some ⟨0, 16384, true, true⟩ }] ++ badImages.map (Instr.requestFirmwareData .vdm true),
      WellFormed i = false) ∧
    (∀ i ∈ [Instr.nop 0 [⟨0x3FFFFFFFFFFFFFF, .ce, 0⟩], .load 0 { anInsn with kvalid := 64 }, .haltMessage 0 aHalt, .glbRst 0 goodBoot,
        .w1cClear 0xFFFFF8 0, .suWrite 0 1 0, .powerControllerWindow (measured 0 0 0), .ideKm (.keyProg 1 false 4 4 0), .dataFlit 0 { goodFlit with line := { goodLine with e0 := 136 } } [] false,
        .retryStorm 0 [0, 0, 0, 0], .contrib 0 0 (List.replicate 4128 0) false, .getCertificate .doe good 7, .getVersion .doe { good with bank := some ⟨3, 16383, true, true⟩ },
        .requestFirmwareData .vdm true { Image.factory with header := List.replicate 4096 0 }],
      WellFormed i = true) := by
  decide +kernel

/-! ### Examples of the manual -/

/-- The four elements of R75. -/
theorem test_braid : [0x104, 0x105, 0x106, 0x107].map (braid16 0x0123456789ABCDEF 0x64 0x17 2 3) = [0x6033, 0x4FDA, 0xAD40, 0x301E] := by
  decide +kernel

/-- Stochastic rounding of the same elements from FP32 into E5M2, under R69. -/
theorem test_stochastic : [(0x3EB80000, 0x6033), (0x3EA80000, 0x4FDA), (0xBEB00000, 0xAD40), (0x3EA00000, 0x301E)].map
    (fun x => (convertTo .e5m2 [] (.stoch x.2) false (elemVal .fp32 [] x.1)).1) = [0x36, 0x35, 0xB5, 0x35] := by decide +kernel

/-- Rows of the table of worked conversions: input, target, OVF_MODE, result, OVF, UFL, INV, NX. -/
theorem test_conversions : ∀ x ∈ [((0x3F808000, Fmt.bf16, false), (0x3F80, false, false, false, true)), ((0x3F818000, .bf16, false), (0x3F82, false, false, false, true)),
    ((0x43E80000, .e4m3, false), (0x7E, false, false, false, true)), ((0x43F00000, .e4m3, false), (0x7E, true, false, false, true)),
    ((0x43F00000, .e4m3, true), (0x7F, true, false, false, true)), ((0x47700000, .e5m2, false), (0x7B, true, false, false, true)),
    ((0x47700000, .e5m2, true), (0x7C, true, false, false, true)), ((0x3A000000, .e4m3, false), (0x00, false, true, false, true)),
    ((0xBA800000, .e4m3, false), (0x80, false, true, false, true)), ((0xFF800000, .e4m3, false), (0xFE, false, false, true, false)),
    ((0x7FA00001, .bf16, false), (0x7FC0, false, false, true, false)), ((0x40A00000, .e2m1, false), (0x6, false, false, false, true)),
    ((0x40B00000, .e2m1, false), (0x7, false, false, false, true)), ((0x40E00000, .e2m1, false), (0x7, true, false, false, true)),
    ((0x43010000, .int8, false), (0x7F, true, false, false, true)), ((0x3FC00000, .lns4, false), (0x5, false, false, false, true)),
    ((0x7FC00000, .e2m1, false), (0x0, false, false, true, false))],
    let c := convertTo x.1.2.1 [] .rne x.1.2.2 (elemVal .fp32 [] x.1.1)
    (c.1, c.2.ovf, c.2.ufl, c.2.inv, c.2.nx) = x.2 := by decide +kernel

/-- The block of R59 whose largest magnitude is 500, and the one of 300. -/
theorem test_mx_block :
    (mxBlock .e4m3 [elemVal .fp32 [] 0x43FA0000]).1 = 0x80 ∧ (mxBlock .e4m3 [elemVal .fp32 [] 0x43960000]).1 = 0x7F := by decide +kernel

/-- The group of four on the log path with the default eddy table: 2,274 × 2^−10. -/
theorem test_log_group : (logGroup eddyDefault 4 [(5, 4), (6, 3), (4, 2), (0xB, 5)]).fin = (0x8E2, -10) := by decide +kernel

/-! ### One step -/

def stepOf (c : Instr) (s : State) : Option State :=
  match step { s with pending := [c] } with
  | .next t => some t
  | _ => none

/-- R352, R373: a NOP completes, its record says DONE with ring index 0, and the count is 1. -/
theorem test_nop : (stepOf (.nop 0 []) (atHead [])).map (fun t => (t.queues[(0 : Fin 32)].cqCount, t.queues[(0 : Fin 32)].head, t.pending.length)) =
    some (1, 1, 0) := by decide +kernel

/-- R367: a counter at its largest value wraps. -/
theorem test_signal_add : (stepOf (.signalAdd 0 []) { atHead [(0, 7), (0x2C, 2)] with tokens := live.tokens.set 0 0xFFFFFFFF }).map
    (fun t => t.tokens[(0 : Fin 256)]) = some 1 := by decide +kernel

/-- R260: IADD32 wraps at 32 bits, CAS32 keeps a word that differs from its comparand, and SWAP64 takes the new one. -/
theorem test_atomics : atomicWord 0 0xFFFFFFFF 2 0 = 1 ∧ atomicWord 4 7 6 5 = 7 ∧ atomicWord 3 7 9 0 = 9 := by decide +kernel

/-- R476: a write of 4 bytes is ignored and counted. -/
theorem test_short_write : (stepOf (.suWrite offErrCtl 4 1) live).map (fun t => (t.rclamp, regGet t offErrCtl)) = some (1, 0x10) := by decide +kernel

/-- R379: the second good frame loads its count plus 5 with sub-tick 3. -/
theorem test_gauge_lock : (stepOf (.gaugeFrame (aFrame 1124)) (gaugeAt { Gauge.reset with prev := some ⟨100, 0, 0⟩, refTicks := 1024 })).map
    (fun t => (t.gauge.count, t.gauge.subtick, t.gauge.locked)) = some (1129, 3, true) := by decide +kernel

/-- R505: one window above the limit lowers the clock by one step. -/
theorem test_power_step : (stepOf (.powerControllerWindow (measured 2001 54000 0)) live).map (fun t => t.power.step) = some 1 := by decide +kernel

/-- R33, R103, R474: engines 0 to 5 of every core in service, the fuses of core 1, half a register, and zero from 0x500000 on. -/
theorem test_reads : bar0Read live 0x100 8 = 0x003F003F003F003F ∧ bar0Read live 0x140200 8 = 0x21084210 ∧
    bar0Read live (offErrCtl + 4) 4 = 0 ∧ bar0Read live offErrCtl 4 = 0x10 ∧ bar0Read live 0x500000 8 = 0 ∧
    bar0Read { live with phase := .romHeld } offErrCtl 8 = 0 := by decide +kernel

/-- R356, R386: HALT_STAT names queue 0, with no HALT waiting, and reads zero before READY (R494); doorbells read zero, and a write of 2 bytes is no command. -/
theorem test_bar2 : bar2Read (withQ live { runQ with state := .halted }) 0x20008 8 = 0x100000001 ∧ bar2Read live 0 4 = 0 ∧
    bar2Read { live with phase := .zeroing } 0x20008 8 = 0 ∧
    bar2Command 0x1000 4 5 = some (.sqTail 1 5) ∧ bar2Command 0x1000 2 5 = none := by decide +kernel

/-- R293, R295: a CONTRIB brought to a unit that does not hold its window is discarded and flagged. -/
theorem test_wrong_unit :
    let s := reducing { aReduce with nextW := 1, windows := [aWindow [0]] }
    (stepOf (.contrib 7 1 (aPacket 2 0 [1, 0, 0, 0]) false) s).map (fun t => (t.queues == s.queues, regBit t offCflEvstat 6)) = some (true, true) := by
  decide +kernel

/-- R339: a port whose last lane has lost its signal has no partner in DETECT. -/
theorem test_no_signal : (stepOf (.laneLoss 0 0 0) (withP live { activePort with present := true })).map
    (fun t => (t.ports[(0 : Fin 16)].state, t.ports[(0 : Fin 16)].present)) = some (.detect, false) := by decide +kernel

/-- R341: a flit of a packet that is already malformed is discarded without being counted. -/
theorem test_malformed_once :
    (stepOf (.dataFlit 0 { goodFlit with first := false } [] false) (withP live { activePort with malformed := 1, partial_ := [malformedRest goodFlit] })).map
      (fun t => (t.ports[(0 : Fin 16)].malformed, t.ports[(0 : Fin 16)].rxSeq)) = some (1, 1) := by decide +kernel

/-- R135, R361: an element-wise LAYER binds no eddy table, so a load of table 0 does not hold it back. -/
theorem test_ewise_binds_no_eddy :
    let s := running { mkCmd 0 (List.replicate 128 0) false with kind := 8, work := .eddy 0 [] }
    eddyLoading s 0 = true ∧ eddyFree s (List.replicate 128 0) = false ∧ eddyFree s ((List.replicate 128 0).set 0x6C 0x40) = true := by
  decide +kernel

/-- R326, R327: a line unit has 272 bytes, spread over four lanes in turn. -/
theorem test_line_unit : (lineUnit (List.replicate 256 0)).length = 272 ∧
    (onLanes activePort (List.replicate 272 0)).map (fun x => x.2.length) = [68, 68, 68, 68] := by decide +kernel

/-- R438: a second key is refused. -/
theorem test_second_key : (stepOf (.jobKeySet .doe good 1 1) { sessionAt [] (.established 3) with t3key := some aKey }).map
    (fun t => (t.t3key, t.outbox)) = some (some aKey, [.reply "UnexpectedRequest" 1 []]) := by decide +kernel

/-- R385: a module ignores its own HALT. -/
theorem test_own_halt : (stepOf (.haltMessage 0 (haltMsg 0 1 1 0)) (withQ live runQ)).map (fun t => t.queues[(0 : Fin 32)].state) = some .running := by
  decide +kernel

/-- R493: both tiers written as zero make the module ready. -/
theorem test_ready : (stepOf .t2Init { State.reset with phase := .zeroing, t1Init := true }).map (fun t => t.phase) = some .run := by decide +kernel

/-- The table gives no row bits, so no word spells a command. -/
theorem test_no_words : decodeTableWord 32 0 = none := rfl

end Sys2Proof.Tests
end

section
/-! The module at reset: nothing is listed in memory or in the register file, so both read as their defaults (R16, R493). -/
namespace Sys2Proof.Safety

open Sys2Proof.Machine

/-- A cell list without entries is canonical, whatever its unlisted keys read as. -/
@[simp] theorem cellsWf_nil {α : Type} [DecidableEq α] (d : Nat → α) : cellsWf d [] = true := rfl

@[simp] theorem reset_mem : State.reset.mem = [] := rfl
@[simp] theorem reset_regs : State.reset.regs = [] := rfl

/-- A state that lists no byte of memory and no register is canonical. -/
theorem canonical_of_unlisted {s : State} (hmem : s.mem = []) (hregs : s.regs = []) : Canonical s := by
  constructor
  · rw [hmem]
    exact cellsWf_nil memDefault
  · rw [hregs]
    exact cellsWf_nil regReset

/-- Settles O2: reset lists neither bytes nor registers (log entry 2). -/
theorem resetIsCanonical : Obligations.ResetIsCanonical :=
  canonical_of_unlisted reset_mem reset_regs

end Sys2Proof.Safety
end

section
/-! HALT_STAT before READY: R494 leaves it reading zero, and bit 32 of zero does not say that no HALT is waiting (R386). -/
namespace Sys2Proof.Safety

open Sys2Proof.Machine

/-- R494: nothing in BAR2 answers before the module is READY. -/
theorem bar2Read_of_not_run {s : State} (h : s.phase ≠ .run) (off size : Nat) : bar2Read s off size = 0 := by
  simp [bar2Read, h]

/-- R511: with no IDE stream configured, register traffic crosses in clear. -/
theorem ioOk_of_no_stream {s : State} (h : s.ide = []) : ioOk s = true := by
  simp [ioOk, h]

/-- No bit of a register that reads zero is set. -/
@[simp] theorem bitAt_zero (i : Nat) : bitAt 0 i = false := by
  simp [bitAt, bits]

/-- The module after stage 1, while its tiers are still being zeroed: not yet READY, nothing enabled, no HALT waiting. -/
def zeroingState : State := { State.reset with phase := .zeroing }

theorem zeroingState_not_run : zeroingState.phase ≠ .run := by decide

theorem zeroingState_no_stream : zeroingState.ide = [] := rfl

theorem zeroingState_no_halt : zeroingState.halts = [] := rfl

/-- Refutes O47: its BAR2 clause asks only that CXL.io crosses, not that the module is READY. In `zeroingState` CXL.io crosses and
no HALT waits, so the clause wants bit 32 of HALT_STAT set, while the read is zero (R494). -/
theorem not_registerWritesTakeEffect : ¬ Obligations.RegisterWritesTakeEffect := by
  unfold Obligations.RegisterWritesTakeEffect
  intro h
  obtain ⟨-, -, hbar2, -⟩ := h 0 8 0 zeroingState
  obtain ⟨-, hbit⟩ := hbar2 (ioOk_of_no_stream zeroingState_no_stream) 0
  rw [bar2Read_of_not_run zeroingState_not_run, zeroingState_no_halt] at hbit
  simp at hbit

end Sys2Proof.Safety
end

section
/-! The integer formats, TERNARY and BINARY (R48, R49, R66): what their codes mean, and which codes a conversion writes. -/
namespace Sys2Proof.Machine

/-! ### Two's complement -/

/-- A code within its width carries no bits above the sign bit. -/
theorem sext_of_lt {w x : Nat} (hx : x < 2 ^ w) :
    sext w x = if x < 2 ^ (w - 1) then (x : Int) else (x : Int) - 2 ^ w := by
  simp [sext, Nat.mod_eq_of_lt hx]

/-- The range of a two's-complement field. -/
theorem sext_range {w : Nat} (hw : 0 < w) (x : Nat) : -2 ^ (w - 1) ≤ sext w x ∧ sext w x ≤ 2 ^ (w - 1) - 1 := by
  obtain ⟨k, rfl⟩ := Nat.exists_eq_add_of_lt hw
  have hlt := Nat.mod_lt x (Nat.two_pow_pos (k + 1))
  simp only [sext, Nat.zero_add, Nat.add_sub_cancel, pow_succ] at hlt ⊢
  generalize x % (2 ^ k * 2) = v at hlt
  split <;> push_cast <;> zify at * <;> omega

theorem twos_lt (w : Nat) (v : Int) : twos w v < 2 ^ w := by
  have hpos : (0 : Int) < (2 ^ w : Nat) := by positivity
  have hlt := Int.emod_lt_of_pos v hpos
  have hnonneg := Int.emod_nonneg v hpos.ne'
  unfold twos
  omega

/-- Two's complement reaches every value of its range: `twos` gives the code. -/
theorem sext_twos {w : Nat} (hw : 0 < w) {v : Int} (hlo : -2 ^ (w - 1) ≤ v) (hhi : v ≤ 2 ^ (w - 1) - 1) :
    sext w (twos w v) = v := by
  obtain ⟨k, rfl⟩ := Nat.exists_eq_add_of_lt hw
  have hpow : (2 : Int) ^ (k + 1) = 2 ^ k * 2 := pow_succ 2 k
  simp only [Nat.zero_add, Nat.add_sub_cancel] at hlo hhi ⊢
  rw [sext_of_lt (twos_lt _ v), Nat.add_sub_cancel]
  unfold twos
  zify
  rcases le_or_gt 0 v with hv | hv
  · have hmod : v % 2 ^ (k + 1) = v := Int.emod_eq_of_lt hv (by omega)
    rw [hmod, Int.toNat_of_nonneg hv, if_pos (by omega)]
  · have hmod : v % 2 ^ (k + 1) = v + 2 ^ (k + 1) := by
      rw [← Int.add_emod_right, Int.emod_eq_of_lt (by omega) (by omega)]
    rw [hmod, Int.toNat_of_nonneg (by omega), if_neg (by omega)]
    omega

/-- A format whose codes are read in two's complement of its width: their values, their range, and that they fill it (R48). -/
theorem twosComplement_of_sext {f : Fmt} {w : Nat} (hw : 0 < w) (hcode : ∀ x, intOfCode f x = sext w x) :
    (∀ x < 2 ^ w, intOfCode f x = (if x < 2 ^ (w - 1) then (x : Int) else (x : Int) - 2 ^ w) ∧
      -2 ^ (w - 1) ≤ intOfCode f x ∧ intOfCode f x ≤ 2 ^ (w - 1) - 1) ∧
    (∀ v : Int, -2 ^ (w - 1) ≤ v → v ≤ 2 ^ (w - 1) - 1 → ∃ x < 2 ^ w, intOfCode f x = v) := by
  refine ⟨fun x hx => ?_, fun v hlo hhi => ⟨twos w v, twos_lt w v, ?_⟩⟩
  · rw [hcode]
    exact ⟨sext_of_lt hx, sext_range hw x⟩
  · rw [hcode]
    exact sext_twos hw hlo hhi

/-! ### TERNARY and BINARY -/

/-- The code that a finite value takes in TERNARY reads as its rounding, clamped to −1 and +1 (R66). -/
theorem intOfCode_convTernary (neg : Bool) (x : Mag) :
    intOfCode .ternary (convTernary neg x).1 =
      max (-1) (min 1 (if neg then -(x.roundAt neg 0 .rne : Int) else x.roundAt neg 0 .rne)) := by
  unfold convTernary
  generalize x.roundAt neg 0 .rne = n
  cases n with
  | zero => cases neg <;> rfl
  | succ n => cases neg <;> simp [intOfCode]

/-- The code that a finite value takes in BINARY reads as its sign, that of a zero too (R66). -/
theorem intOfCode_convBinary (neg : Bool) (x : Mag) :
    intOfCode .binary (convBinary neg x).1 = if neg then -1 else 1 := by
  cases neg <;> rfl

/-- No conversion writes the TERNARY code 0b10 (R49, R66). -/
theorem convertTo_ternary_code (cb : List Nat) (mode : Rnd) (ns : Bool) (v : EVal) :
    (convertTo .ternary cb mode ns v).1 = 0 ∨ (convertTo .ternary cb mode ns v).1 = 1 ∨ (convertTo .ternary cb mode ns v).1 = 3 := by
  cases v with
  | nan => exact .inl rfl
  | inf neg => cases neg <;> simp [convertTo]
  | fin neg x =>
    simp only [convertTo, convTernary]
    split
    · exact .inl rfl
    · cases neg <;> simp

theorem convertTo_binary_code (cb : List Nat) (mode : Rnd) (ns : Bool) (v : EVal) : (convertTo .binary cb mode ns v).1 < 2 := by
  cases v with
  | nan => exact Nat.one_lt_two
  | inf neg => cases neg <;> simp [convertTo]
  | fin neg x => cases neg <;> simp [convertTo, convBinary]

end Sys2Proof.Machine

namespace Sys2Proof.Safety

open Sys2Proof.Machine

/-- Settles O58: each of the four formats reads its codes by `sext` of its own width. -/
theorem integerFormatsAreTwosComplement : Obligations.IntegerFormatsAreTwosComplement := by
  have four : ∀ p ∈ [(Fmt.int4, 4), (.int8, 8), (.int16, 16), (.int32, 32)],
      fmtWidth p.1 = p.2 ∧ 0 < p.2 ∧ ∀ x, intOfCode p.1 x = sext p.2 x := by
    simp [fmtWidth, intOfCode]
  intro p hp
  obtain ⟨hwidth, hpos, hcode⟩ := four p hp
  exact ⟨hwidth, twosComplement_of_sext hpos hcode⟩

/-- Settles O59: the codes by evaluation, the conversions by their clamps; no branch of either sets OVF or UFL. -/
theorem ternaryAndBinaryClip : Obligations.TernaryAndBinaryClip := by
  refine ⟨rfl, rfl, rfl, rfl, rfl, rfl, rfl, rfl, fun cb mode ns v => ?_, fun cb mode ns neg x => ?_⟩
  · have hcode := convertTo_ternary_code cb mode ns v
    exact ⟨by omega, by omega, convertTo_binary_code cb mode ns v⟩
  · refine ⟨(intOfCode_convTernary neg x).trans ?_, intOfCode_convBinary neg x, rfl, rfl, rfl, rfl⟩
    cases neg <;> rfl

end Sys2Proof.Safety
end

section
/-! What a command's checks of lines leave (R244 to R250, R512) where no error is uncorrectable: no mark of poison, and every T3 unit whose
tag was good. So a range that could be read or written when the command started still can. -/
namespace Sys2Proof.Machine

open Sys2Proof.Safety

/-! ### Operations that leave the marks of poison and the tags of T3 alone -/

/-- The marks of poisoned lines and the list of T3 units are the same. -/
structure SameMarks (s t : State) : Prop where
  poison : t.poison = s.poison
  t3 : t.t3 = s.t3

theorem SameMarks.refl (s : State) : SameMarks s s := ⟨rfl, rfl⟩

theorem SameMarks.trans {s t u : State} (h : SameMarks s t) (k : SameMarks t u) : SameMarks s u :=
  ⟨k.poison.trans h.poison, k.t3.trans h.t3⟩

theorem SameMarks.ite {s t u : State} {c : Prop} [Decidable c] (ht : SameMarks s t) (hu : SameMarks s u) :
    SameMarks s (if c then t else u) := by
  split
  · exact ht
  · exact hu

theorem SameMarks.foldlBy {α β : Type} (g : α → State) {f : α → β → α} (hf : ∀ x b, SameMarks (g x) (g (f x b))) (l : List β) (x : α) :
    SameMarks (g x) (g (l.foldl f x)) := by
  induction l generalizing x with
  | nil => exact SameMarks.refl _
  | cons b l ih => exact (hf x b).trans (ih _)

theorem regPutField_sameMarks (s : State) (off lo w v : Nat) : SameMarks s (regPutField s off lo w v) := ⟨rfl, rfl⟩

theorem setFlag_sameMarks (s : State) (off bit cnt : Nat) : SameMarks s (setFlag s off bit cnt) := ⟨rfl, rfl⟩

theorem setFlagOnly_sameMarks (s : State) (off bit : Nat) : SameMarks s (setFlagOnly s off bit) := ⟨rfl, rfl⟩

theorem lastSrc_sameMarks (s : State) (c : Nat) : SameMarks s (lastSrc s c) := ⟨rfl, rfl⟩

theorem updTrace_sameMarks (s : State) (c : Fin 16) (f : Trace → Trace) : SameMarks s (updTrace s c f) := ⟨rfl, rfl⟩

theorem countPost_sameMarks (s : State) (c : Fin 16) : SameMarks s (countPost s c) := updTrace_sameMarks s c _

theorem dropTrace_sameMarks (s : State) (c : Fin 16) : SameMarks s (dropTrace s c) := ⟨rfl, rfl⟩

theorem placeTrace_sameMarks (s : State) (c : Fin 16) (bytes : List Byte) : SameMarks s (placeTrace s c bytes).1 := by
  unfold placeTrace
  simp only
  split
  · exact ⟨rfl, rfl⟩
  · split <;> exact ⟨rfl, rfl⟩

theorem fireTrigger_sameMarks (s : State) (c : Fin 16) (info : Nat) : SameMarks s (fireTrigger s c info) := by
  have counted : ∀ x : State × Bool, SameMarks s x.1 → SameMarks s (if x.2 then countPost x.1 c else dropTrace x.1 c) := fun x hx =>
    .ite (hx.trans (countPost_sameMarks _ _)) (hx.trans (dropTrace_sameMarks _ _))
  have disarmed := regPutField_sameMarks s (offTrig c) 55 1 0
  unfold fireTrigger
  refine .ite (.refl s) ((counted _ ?_).trans (updTrace_sameMarks _ _ _))
  split
  · exact disarmed.trans (placeTrace_sameMarks _ _ _)
  · exact disarmed

theorem broadcast_sameMarks (x : State × Bool) : SameMarks x.1 (broadcast x) :=
  .ite (.foldlBy id (fun t c => fireTrigger_sameMarks t c 5) _ _) (.refl _)

theorem triggerAll_sameMarks (s : State) (bit info : Nat) : SameMarks s (triggerAll s bit info) := by
  refine SameMarks.trans (SameMarks.foldlBy Prod.fst (fun x c => ?_) (List.finRange 16) (s, false)) (broadcast_sameMarks _)
  split
  · exact fireTrigger_sameMarks _ _ _
  · exact .refl _

theorem evPush_sameMarks (s : State) (q : Nat) (bytes : List Byte) : SameMarks s (evPush s q bytes) := by
  unfold evPush
  split <;> split <;> exact ⟨rfl, rfl⟩

theorem errEvent_sameMarks (s : State) (w : Who) (cause cls unit index count addr : Nat) :
    SameMarks s (errEvent s w cause cls unit index count addr) := by
  unfold errEvent
  refine ((evPush_sameMarks s _ _).trans (.ite (setFlag_sameMarks _ _ _ _) ?_)).trans (triggerAll_sameMarks _ _ _)
  exact .ite (setFlagOnly_sameMarks _ _ _) (.refl _)

theorem eccRecord_sameMarks (s : State) (w : Who) (a : Nat) : SameMarks s (eccRecord s w a) := by
  have named : SameMarks s { s with ueAddr := BitVec.ofNat 64 (ueImage a) } := ⟨rfl, rfl⟩
  exact named.trans (errEvent_sameMarks _ _ _ _ _ _ _ _)

theorem eccHostPoison_sameMarks (s : State) (w : Who) (a : Nat) : SameMarks s (eccHostPoison s w a) :=
  ((setFlag_sameMarks s _ _ _).trans (lastSrc_sameMarks _ _)).trans (eccRecord_sameMarks _ _ _)

theorem eccFound_sameMarks (s : State) (a : Nat) : SameMarks s (eccFound s a) := by
  unfold eccFound
  split <;> exact ⟨rfl, rfl⟩

/-! ### What a line's check reads, after a change aside -/

theorem regField_aside {s t : State} (h : Aside s t) (hc : Canonical s) {off : Nat} (ho : noted off = false) (lo w : Nat) :
    regField t off lo w = regField s off lo w := by
  simp only [regField, h.regs hc.2 off ho]

theorem t3Fab_aside {s t : State} (h : Aside s t) (hc : Canonical s) (off : Nat) : t3Fab t off = t3Fab s off := by
  simp only [t3Fab, regField_aside h hc (off := offT3Base) (by decide)]

theorem t3TagAddr_aside {s t : State} (h : Aside s t) (hc : Canonical s) (u : Nat) : t3TagAddr t u = t3TagAddr s u := by
  simp only [t3TagAddr, regField_aside h hc (off := offT3Tag) (by decide)]

theorem accessRefusedFor_aside {s t : State} (h : Aside s t) (hc : Canonical s) (w : Nat × Nat) (a : Nat) :
    accessRefusedFor t w a = accessRefusedFor s w a := by
  simp only [accessRefusedFor, backed_aside h hc, keyServes, uioOk, hostOk, lcState, t3Fab_aside h hc, t3TagAddr_aside h hc,
    otp_aside h, ide_aside h, t3key_aside h, jobClear_aside h]
  rfl

theorem t3Check_sameMarks {s t : State} (h : Aside s t) (hc : Canonical s) (hm : SameMarks s t) (u : Nat) :
    t3Check t u = t3Check s u := by
  simp only [t3Check, t3Find, t3Fab_aside h hc, t3TagAddr_aside h hc, t3key_aside h, hm.t3]

theorem linePoisoned_sameMarks {s t : State} (h : Aside s t) (hc : Canonical s) (hm : SameMarks s t) (l : Nat) :
    linePoisoned t l = linePoisoned s l := by
  simp only [linePoisoned, t3Check_sameMarks h hc hm, hm.poison]

/-! ### Changes that spare what is sound -/

/-- The units of T3, by number (R232, R244). -/
def t3Units : Nat := 2 ^ 38

/-- A change aside that poisons no line outside T3 and no unit of T3 whose tag is good. -/
structure Spares (s t : State) : Prop where
  aside : Aside s t
  poison : t.poison = s.poison
  good : Canonical s → ∀ u < t3Units, t3Check s u = .good → t3Check t u = .good

theorem Spares.refl (s : State) : Spares s s := ⟨Aside.refl s, rfl, fun _ _ _ h => h⟩

theorem Spares.trans {s t u : State} (h : Spares s t) (k : Spares t u) : Spares s u :=
  ⟨h.aside.trans k.aside, k.poison.trans h.poison, fun hc n hn hg => k.good (h.aside.canonical hc) n hn (h.good hc n hn hg)⟩

theorem SameMarks.spares {s t : State} (hm : SameMarks s t) (h : Aside s t) : Spares s t :=
  ⟨h, hm.poison, fun hc u _ hg => (t3Check_sameMarks h hc hm u).trans hg⟩

/-- Two units of T3 share neither a place nor a tag (R236, R244). -/
theorem t3_places_ne (s : State) {u v : Nat} (hu : u < t3Units) (hv : v < t3Units) (h : u ≠ v) :
    t3Fab s (256 * u) ≠ t3Fab s (256 * v) ∧ t3TagAddr s u ≠ t3TagAddr s v := by
  unfold t3Units at hu hv
  unfold t3Fab t3TagAddr
  constructor <;> omega

/-- A unit with a good tag is listed under its place and its tag. -/
theorem t3Check_good_iff {s : State} {u : Nat} :
    t3Check s u = .good ↔ ∃ x, t3Find s (t3Fab s (256 * u)) = some x ∧ x.unit = u ∧ x.tagAddr = t3TagAddr s u ∧
      s.t3key.map JobKey.mac = some x.mac ∧ x.poison = false := by
  unfold t3Check
  cases t3Find s (t3Fab s (256 * u)) with
  | none => simp
  | some x =>
    cases hp : x.poison
    · simp [hp, and_assoc]
    · simp only [hp, if_true, Option.some.injEq, exists_eq_left', Bool.true_eq_false, and_false, iff_false]
      split <;> simp

/-- What a search finds it finds again when only other entries are dropped. -/
theorem find?_filter_of_pos {α : Type} {p q : α → Bool} {l : List α} {x : α} (h : l.find? q = some x) (hp : p x = true) :
    (l.filter p).find? q = some x := by
  rw [List.find?_filter]
  obtain ⟨hq, before, after, hl, hbefore⟩ := List.find?_eq_some_iff_append.1 h
  exact List.find?_eq_some_iff_append.2 ⟨by simp [hp, hq], before, after, hl, fun a ha => by simp [hbefore a ha]⟩

/-- A tag written over one unit leaves the good tag of another. -/
theorem t3Stamp_good_other (s : State) {u v : Nat} (bad : Bool) (hu : u < t3Units) (hv : v < t3Units) (h : u ≠ v)
    (hg : t3Check s u = .good) : t3Check (t3Stamp s v bad) u = .good := by
  obtain ⟨x, hfind, hunit, htag, hmac, hpoison⟩ := t3Check_good_iff.1 hg
  obtain ⟨hfab, haddr⟩ := t3_places_ne s hu hv h
  have hx : x.fab = t3Fab s (256 * u) := by simpa using List.find?_some hfind
  unfold t3Stamp
  split
  · exact hg
  next k hk =>
    refine t3Check_good_iff.2 ⟨x, ?_, hunit, htag, hmac, hpoison⟩
    change List.find? (fun y => y.fab == t3Fab s (256 * u)) (_ :: _) = some x
    rw [List.find?_cons_of_neg (by simpa using hfab.symm)]
    exact find?_filter_of_pos hfind (by simp [hx, hfab, htag, haddr])

theorem t3Unit_lt {a : Nat} (h : regionOf a = .t3) : tierOffset a / 256 < t3Units := by
  have hrange : t3Start ≤ a ∧ a < t3Start + 2 ^ 46 := by
    unfold regionOf t2Start t3Start coreStart hostStart at *
    split_ifs at h
    omega
  simp only [tierOffset, h, t3Units]
  omega

/-- Poison in a T3 unit whose tag was not good spares what is sound. -/
theorem poisonLine_spares {s : State} {l : Nat} (hregion : regionOf (64 * l) = .t3)
    (hbad : t3Check s (tierOffset (64 * l) / 256) ≠ .good) : Spares s (poisonLine s l) := by
  refine ⟨poisonLine_aside s l, ?_, fun _ u hu hg => ?_⟩
  · unfold poisonLine
    split
    · rfl
    · obtain ⟨t, ht⟩ := t3Stamp_form s (tierOffset (64 * l) / 256) true
      simp only [hregion, ht]
  · unfold poisonLine
    split
    · exact hg
    · simp only [hregion]
      exact t3Stamp_good_other s true hu (t3Unit_lt hregion) (fun e => hbad (e ▸ hg)) hg

/-- An uncorrectable finding in a T3 unit whose tag was not good spares what is sound. -/
theorem eccUncorrected_spares {s : State} (hc : Canonical s) (w : Who) {l : Nat} (hregion : regionOf (64 * l) = .t3)
    (hbad : t3Check s (tierOffset (64 * l) / 256) ≠ .good) : Spares s (eccUncorrected s w (64 * l)) := by
  have hflag : Aside s (lastSrc (setFlag s offEccstat 1 32) (srcCode (64 * l))) :=
    (setFlag_aside s _ _ _ (by decide)).trans (lastSrc_aside _ _)
  have hmarks : SameMarks s (lastSrc (setFlag s offEccstat 1 32) (srcCode (64 * l))) :=
    (setFlag_sameMarks s _ _ _).trans (lastSrc_sameMarks _ _)
  have hpoison := poisonLine_spares hregion (s := lastSrc (setFlag s offEccstat 1 32) (srcCode (64 * l)))
    (by rwa [t3Check_sameMarks hflag hc hmarks])
  unfold eccUncorrected
  rw [Nat.mul_div_cancel_left l (by decide)]
  exact ((hmarks.spares hflag).trans hpoison).trans ((eccRecord_sameMarks _ _ _).spares (eccRecord_aside _ _ _))

/-- The line that a check looks at stands at a multiple of 64 (R232). -/
theorem line_addr (l : Nat) : ∃ k, 64 * l % 2 ^ 64 = 64 * k := ⟨l % 2 ^ 58, by omega⟩

/-! ### Checks of lines where findings are corrected errors alone -/

/-- A finding taken from corrected errors is one, if there is one, and leaves corrected errors. -/
theorem takeFinding_clean {env : List Finding} (h : CleanEnv env) (l : Nat) :
    ((takeFinding l env).1 = none ∨ (takeFinding l env).1 = some .ce) ∧ CleanEnv (takeFinding l env).2 := by
  induction env with
  | nil => exact ⟨.inl rfl, h⟩
  | cons f r ih =>
    obtain ⟨hf, hr⟩ := List.forall_mem_cons.1 h
    obtain ⟨hfound, hleft⟩ := ih hr
    unfold takeFinding
    split
    · split
      · exact ⟨.inr (congrArg some hf), hr⟩
      · exact ⟨hfound, List.forall_mem_cons.2 ⟨hf, hleft⟩⟩
    · exact ⟨hfound, List.forall_mem_cons.2 ⟨hf, hleft⟩⟩

/-- What the read of line `l` leaves where it meets at most a corrected error (`ce`): the host's own poison, a T3 tag that fails, or the
count of the error (R249, R250). -/
def lineNotes (w : Who) (s : State) (l : Nat) (ce : Bool) : State :=
  if regionOf (64 * l) = .host then (if linePoisoned s l then eccHostPoison s w (64 * l) else s)
  else if regionOf (64 * l) = .t3 ∧ t3Check s (tierOffset (64 * l) / 256) = .fails then eccUncorrected s w (64 * l)
  else if ce then eccFound s (64 * l) else s

theorem lineNotes_spares {s : State} (hc : Canonical s) (w : Who) (l : Nat) (ce : Bool) : Spares s (lineNotes w s l ce) := by
  unfold lineNotes
  split
  · split
    · exact (eccHostPoison_sameMarks _ _ _).spares (eccHostPoison_aside _ _ _)
    · exact .refl s
  split
  next hbad => exact eccUncorrected_spares hc w hbad.1 (by rw [hbad.2]; decide)
  split
  · exact (eccFound_sameMarks _ _).spares (eccFound_aside _ _)
  · exact .refl s

/-- A sound line is not found poisoned. -/
theorem linePoisoned_lineNotes {s : State} (hc : Canonical s) (w : Who) {l : Nat} (ce : Bool) (hp : linePoisoned s l = false)
    (ht : regionOf (64 * l) = .t3 → t3Check s (tierOffset (64 * l) / 256) ≠ .fails) : linePoisoned (lineNotes w s l ce) l = false := by
  unfold lineNotes
  split
  · rwa [if_neg (by simp [hp])]
  · rw [if_neg fun hbad => ht hbad.1 hbad.2]
    split
    · rwa [linePoisoned_sameMarks (eccFound_aside _ _) hc (eccFound_sameMarks _ _)]
    · exact hp

/-- The finding that a check of line `l` meets, where it can only be a corrected error. -/
def correctedAt (c : Chk) (l : Nat) : Bool := (takeFinding l c.env).1 == some .ce

/-- A read that is not refused, of line `l` at device line `k`. -/
theorem Chk.readLine_eq (w : Who) {c : Chk} {l k : Nat} (he : CleanEnv c.env) (hk : 64 * l % 2 ^ 64 = 64 * k) (hstop : c.stop = none)
    (hb : backed c.s (64 * k) = true) (hr : accessRefusedFor c.s (w.q, w.idx) (64 * k) = 0) :
    Chk.readLine w c l = { c with
      s := lineNotes w c.s k (correctedAt c k), env := (takeFinding k c.env).2,
      stop := if linePoisoned (lineNotes w c.s k (correctedAt c k)) k then some (.poisoned k) else none } := by
  obtain ⟨hfound, -⟩ := takeFinding_clean he k
  unfold Chk.readLine correctedAt lineNotes
  simp only [hk, Nat.mul_div_cancel_left k (show 0 < 64 by decide), hb, hr, hstop]
  rcases hfound with e | e <;> simp [e]

/-- The read before a merge that takes place. -/
theorem Chk.mergeLine_eq (w : Who) {c : Chk} {l : Nat} (he : CleanEnv c.env)
    (h : (c.stop.isSome || !backed c.s (64 * l) || decide (regionOf (64 * l) = .host) || accessRefusedFor c.s (w.q, w.idx) (64 * l) != 0) = false) :
    Chk.mergeLine w c l = { c with s := lineNotes w c.s l (correctedAt c l), env := (takeFinding l c.env).2 } := by
  obtain ⟨hfound, -⟩ := takeFinding_clean he l
  have hregion : regionOf (64 * l) ≠ .host := fun e => by simp [e] at h
  unfold Chk.mergeLine correctedAt lineNotes
  dsimp only
  rw [h, if_neg Bool.false_ne_true, if_neg hregion]
  rcases hfound with e | e <;> simp [e]

/-- What a check leaves, from findings that are corrected errors alone: what is sound, and again such findings. -/
structure CleanStep (c k : Chk) : Prop where
  spares : Spares c.s k.s
  env : CleanEnv k.env

theorem CleanStep.refl {c : Chk} (h : CleanEnv c.env) : CleanStep c c := ⟨.refl c.s, h⟩

theorem CleanStep.foldl {β : Type} {f : Chk → β → Chk} (hf : ∀ {c} b, Canonical c.s → CleanEnv c.env → CleanStep c (f c b)) (l : List β)
    {c : Chk} (hc : Canonical c.s) (he : CleanEnv c.env) : CleanStep c (l.foldl f c) := by
  induction l generalizing c with
  | nil => exact .refl he
  | cons b l ih =>
    have first := hf b hc he
    have rest := ih (first.spares.aside.canonical hc) first.env
    exact ⟨first.spares.trans rest.spares, rest.env⟩

theorem Chk.readLine_cleanStep (w : Who) (l : Nat) {c : Chk} (hc : Canonical c.s) (he : CleanEnv c.env) :
    CleanStep c (Chk.readLine w c l) := by
  obtain ⟨k, hk⟩ := line_addr l
  by_cases hread : c.stop = none ∧ backed c.s (64 * k) = true ∧ accessRefusedFor c.s (w.q, w.idx) (64 * k) = 0
  · obtain ⟨hstop, hb, hr⟩ := hread
    rw [Chk.readLine_eq w he hk hstop hb hr]
    exact ⟨lineNotes_spares hc w k _, (takeFinding_clean he k).2⟩
  · unfold Chk.readLine
    simp only [hk]
    split
    · exact .refl he
    split
    · exact ⟨.refl c.s, he⟩
    split
    · exact ⟨(errEvent_sameMarks _ _ _ _ _ _ _ _).spares (errEvent_aside _ _ _ _ _ _ _ _), he⟩
    · simp_all

theorem Chk.mergeLine_cleanStep (w : Who) (l : Nat) {c : Chk} (hc : Canonical c.s) (he : CleanEnv c.env) :
    CleanStep c (Chk.mergeLine w c l) := by
  by_cases h : (c.stop.isSome || !backed c.s (64 * l) || decide (regionOf (64 * l) = .host) ||
      accessRefusedFor c.s (w.q, w.idx) (64 * l) != 0) = true
  · simp only [Chk.mergeLine, h, if_true]
    exact .refl he
  · rw [Chk.mergeLine_eq w he (by simpa using h)]
    exact ⟨lineNotes_spares hc w l _, (takeFinding_clean he l).2⟩

theorem Chk.read_cleanStep (w : Who) (a n : Nat) {c : Chk} (hc : Canonical c.s) (he : CleanEnv c.env) :
    CleanStep c (Chk.read w c a n) := CleanStep.foldl (fun l => Chk.readLine_cleanStep w l) (linesOf a n) hc he

/-! ### Reads and writes that go through -/

/-- The checks of a command go on: nothing has stopped it, and what was sound when it started at `s` still is. -/
structure Going (s : State) (c : Chk) : Prop where
  canon : Canonical s
  spares : Spares s c.s
  env : CleanEnv c.env
  stop : c.stop = none

namespace Going

variable {s : State} {c : Chk}

theorem canonical (h : Going s c) : Canonical c.s := h.spares.aside.canonical h.canon

theorem step (h : Going s c) {k : Chk} (hk : CleanStep c k) (hstop : k.stop = none) : Going s k :=
  ⟨h.canon, h.spares.trans hk.spares, hk.env, hstop⟩

theorem foldl {β : Type} {f : Chk → β → Chk} {l : List β} (hf : ∀ {c}, Going s c → ∀ b ∈ l, Going s (f c b)) (h : Going s c) :
    Going s (l.foldl f c) := by
  induction l generalizing c with
  | nil => exact h
  | cons b l ih => exact ih (fun hk x hx => hf hk x (List.mem_cons_of_mem b hx)) (hf h b List.mem_cons_self)

/-- A line that the command could read at its start it still can. -/
theorem lineOk (h : Going s c) {w : Who} {k : Nat} (hl : LineOk s w (64 * k)) : LineOk c.s w (64 * k) := by
  intro hb
  have haside := h.spares.aside
  obtain ⟨hr, hp, ht⟩ := hl ((backed_aside haside h.canon _).symm.trans hb)
  rw [Nat.mul_div_cancel_left k (by decide)] at hp ⊢
  refine ⟨(accessRefusedFor_aside haside h.canon _ _).trans hr, ?_⟩
  by_cases hregion : regionOf (64 * k) = .t3
  · have hgood : t3Check s (tierOffset (64 * k) / 256) = .good := by
      have hsound := ht hregion
      simp only [linePoisoned, hregion, beq_eq_false_iff_ne] at hp
      cases hcheck : t3Check s (tierOffset (64 * k) / 256) <;> simp_all
    have hstill := h.spares.good h.canon _ (t3Unit_lt hregion) hgood
    simp [linePoisoned, hregion, hstill]
  · refine ⟨?_, fun e => absurd e hregion⟩
    rw [← hp]
    unfold linePoisoned
    rw [h.spares.poison]
    split
    · contradiction
    · rfl

/-- A read of a line without faults goes through. -/
theorem readLine (h : Going s c) {w : Who} {l : Nat} (hl : LineOk s w (64 * l % 2 ^ 64)) : Going s (Chk.readLine w c l) := by
  refine h.step (Chk.readLine_cleanStep w l h.canonical h.env) ?_
  obtain ⟨k, hk⟩ := line_addr l
  rw [hk] at hl
  by_cases hb : backed c.s (64 * k) = true
  · obtain ⟨hr, hp, ht⟩ := h.lineOk hl hb
    rw [Nat.mul_div_cancel_left k (by decide)] at hp
    rw [Chk.readLine_eq w h.env hk h.stop hb hr]
    simp only [linePoisoned_lineNotes h.canonical w _ hp ht, Bool.false_eq_true, if_false]
  · unfold Chk.readLine
    simp only [hk, h.stop, Bool.eq_false_iff.2 hb, Option.isSome_none, Bool.false_eq_true, if_false, Bool.not_false, if_true]

theorem read (h : Going s c) {w : Who} {a n : Nat} (hr : ReadOk s w [(a, n)]) : Going s (Chk.read w c a n) :=
  h.foldl fun hk l hl => hk.readLine (hr (a, n) List.mem_cons_self l hl)

/-- The check of a write goes through where the line takes it. -/
theorem writeLine (h : Going s c) {w : Who} {l : Nat}
    (hl : backed s (64 * l % 2 ^ 64) = true → accessRefusedFor s (w.q, w.idx) (64 * l % 2 ^ 64) = 0) : Going s (Chk.writeLine w c l) := by
  rw [← backed_aside h.spares.aside h.canon, ← accessRefusedFor_aside h.spares.aside h.canon] at hl
  unfold Chk.writeLine
  dsimp only
  rw [h.stop, if_neg (by simp)]
  split
  · exact ⟨h.canon, h.spares, h.env, rfl⟩
  next hb =>
    rw [hl (by simpa using hb), if_neg (by simp)]
    exact h

/-- The read before a merge stops nothing. -/
theorem mergeLine (h : Going s c) (w : Who) (l : Nat) : Going s (Chk.mergeLine w c l) := by
  refine h.step (Chk.mergeLine_cleanStep w l h.canonical h.env) ?_
  unfold Chk.mergeLine
  dsimp only
  split
  · exact h.stop
  · exact h.stop

theorem write (h : Going s c) {w : Who} {a n : Nat} (hw : WriteOk s w [(a, n)]) : Going s (Chk.write w c a n) :=
  foldl (fun hk l _ => hk.mergeLine w l) (h.foldl fun hk l hl => hk.writeLine (hw (a, n) List.mem_cons_self l hl))

/-- Reads of ranges, one after another. -/
theorem reads (h : Going s c) {w : Who} {rs : List (Nat × Nat)} (hr : ReadOk s w rs) :
    Going s (rs.foldl (fun c r => Chk.read w c r.1 r.2) c) :=
  h.foldl fun hk r hmem => hk.read fun x hx => hr x (by rw [List.mem_singleton.1 hx]; exact hmem)

/-- Checks of ranges about to be written, one after another. -/
theorem writes (h : Going s c) {w : Who} {rs : List (Nat × Nat)} (hw : WriteOk s w rs) :
    Going s (rs.foldl (fun c r => Chk.write w c r.1 r.2) c) :=
  h.foldl fun hk r hmem => hk.write fun x hx => hw x (by rw [List.mem_singleton.1 hx]; exact hmem)

theorem rdByte (h : Going s c) (a : Nat) : rdByte c.s a = rdByte s a := h.spares.aside.bytes h.canon.2 a

theorem rd (h : Going s c) (a n : Nat) : rd c.s a n = rd s a n := by
  simp only [Machine.rd, h.rdByte]

theorem queues (h : Going s c) : c.s.queues = s.queues := queues_aside h.spares.aside

end Going

/-- A descriptor fetched with findings that are corrected errors alone: the checks of its command can begin. -/
theorem going_of_ready {s : State} {q : Fin 32} {env : List Finding} {c : Chk} {d : Desc} (hc : Canonical s) (he : CleanEnv env)
    (hready : Ready s q env c d) : Going s c := by
  obtain ⟨-, h, -⟩ := hready
  have hread := Chk.read_cleanStep ⟨q, s.queues[q].head.toNat, 0, 0⟩ (sqSlot s q s.queues[q].head) 128 (c := Chk.init s env) hc he
  unfold fetchHead at h
  simp only at h
  split at h
  · cases h
  split at h
  · cases h
  split at h
  · cases h
  next hstop =>
    cases h
    exact ⟨hc, hread.spares, hread.env, hstop⟩

end Sys2Proof.Machine
end

section
/-! How a descriptor that may start comes to run (R368): the row's own effect, and the command that it leaves on the queue. -/
namespace Sys2Proof.Machine

open Sys2Proof.Safety

/-- A row that takes the descriptor at the head goes on with its own effect. -/
theorem startAlone_of_ready {s : State} {q : Fin 32} {env : List Finding} {c : Chk} {d : Desc} (h : Ready s q env c d)
    {isRow : State → Desc → Bool} (hrow : isRow s d = true) (body : Chk → Desc → Nat → State) :
    startAlone s q env isRow body = body c d (b2n (decide (0x0B ≤ dKindRaw d))) := by
  obtain ⟨hidle, hfetch, hready⟩ := h
  simp only [startAlone, hidle, List.isEmpty_nil, if_true, startRow, hfetch, hrow, hready, Bool.and_self]

/-- A command put on its queue after a change aside has started. -/
theorem pushCmd_starts {s u : State} (h : Aside s u) (q : Fin 32) (n : Nat) (x : Cmd) (hidx : x.idx = s.queues[q].head) :
    Starts q s (pushCmd (addClamps u q n) q x) x.desc x := by
  have hq := queues_aside h
  have hform := h.form
  refine ⟨?_, hidx, rfl, fun k hk => ?_, ?_⟩
  · simp [pushCmd, addClamps, hq]
  · rw [pushCmd, updQ_other _ _ _ _ hk, addClamps, updQ_other _ _ _ _ hk, hq]
  · exact Aside.of (by rw [hform]; rfl) h.twine h.events h.canon h.regs

/-- The command that a descriptor starts as, on the cores of a mask, with clamps counted or none. -/
def startedCmd (s : State) (q : Fin 32) (d : Desc) (clamped : Bool) (mask : Nat) : Cmd :=
  { mkCmd s.queues[q].head d clamped with cores := mask }

/-- From `s` to `t` the descriptor at the head of queue `q` has started, as a command with the effect `f` of its kind. -/
def StartsAs (q : Fin 32) (s : State) (d : Desc) (f : Cmd → Cmd) (t : State) : Prop :=
  ∃ clamped mask, Starts q s t d (f (startedCmd s q d clamped mask))

/-- A start after a change aside. -/
theorem startCmd_startsAs {s u : State} (h : Aside s u) {q : Fin 32} {d : Desc} {n : Nat} {f : Cmd → Cmd}
    (hidx : ∀ x, (f x).idx = x.idx) (hdesc : ∀ x, (f x).desc = x.desc) : StartsAs q s d f (startCmd u q d n f) := by
  let mask := coresOf u (dKind d) (oneMover d)
  have hwork := h.trans (startWork_aside u (whoOf q u.queues[q].head d) d mask)
  have hstart := pushCmd_starts hwork q n (f (startedCmd s q d (decide (0 < n)) mask)) (hidx _)
  have heq : startCmd u q d n f =
      pushCmd (addClamps (startWork u (whoOf q u.queues[q].head d) d mask) q n) q (f (startedCmd s q d (decide (0 < n)) mask)) := by
    simp only [startCmd, startCmdOn, startedCmd, queues_aside h, mask]
  rw [hdesc, ← heq] at hstart
  exact ⟨decide (0 < n), mask, hstart⟩

/-- Records aside do not undo a start. -/
theorem StartsAs.aside {q : Fin 32} {s t u : State} {d : Desc} {f : Cmd → Cmd} (h : StartsAs q s d f t) (k : Aside t u) :
    StartsAs q s d f u := by
  obtain ⟨clamped, mask, hstart⟩ := h
  have hq := queues_aside k
  refine ⟨clamped, mask, by rw [hq]; exact hstart.head, hstart.idx, hstart.desc, fun i hi => by rw [hq]; exact hstart.others i hi, ?_⟩
  rw [hq]
  exact hstart.aside.trans k

end Sys2Proof.Machine
end

section
/-! TABLE_LOAD and PROGRAM_LOAD (R133, R135, R210, R365, R366): what each holds when its reads and checks go through. -/
namespace Sys2Proof.Machine

open Sys2Proof.Safety

/-! ### Codebooks (R47) -/

/-- An entry of a codebook as it is written: 0x00 where it is a NaN of E4M3. -/
def cleanEntry (b : Byte) : Byte := if b = 0x7F ∨ b = 0xFF then 0 else b

/-- A codebook copied takes its entries but for the NaN. -/
theorem codebook_entries (bs : List Byte) : (codebook bs).1.map (BitVec.ofNat 8) = bs.map cleanEntry := by
  simp only [codebook, List.map_map]
  refine List.map_congr_left fun b _ => ?_
  have h7F : b.toNat = 0x7F ↔ b = 0x7F := by rw [← BitVec.toNat_inj]; rfl
  have hFF : b.toNat = 0xFF ↔ b = 0xFF := by rw [← BitVec.toNat_inj]; rfl
  simp only [Function.comp_apply, cleanEntry, Bool.or_eq_true, beq_iff_eq, h7F, hFF]
  split
  · rfl
  · simp

/-- An address is taken modulo 2^64 (R232). -/
theorem rd_mod (s : State) (a n : Nat) : rd s (a % 2 ^ 64) n = rd s a n := by
  simp only [rd, Nat.mod_add_mod]

/-- The write of codebook `j`. -/
def codebookWrite (s : State) (src dst j : Nat) : MemWrite := ⟨dst + 16 * j, (rd s (src + 16 * j) 16).map cleanEntry, .data⟩

/-- A copy of `n` codebooks from `src` to `dst` that has gone through so far: the writes held, and the source still as at the start. -/
structure Copying (s : State) (src n : Nat) (ws : List MemWrite) (x : CbCopy) : Prop where
  going : Going s x.c
  writes : x.writes = ws
  wf : Memory.wf x.s.mem = true
  source : ∀ i < 16 * n, rdByte x.s ((src + i) % 2 ^ 64) = rdByte s ((src + i) % 2 ^ 64)

namespace Copying

variable {s : State} {src dst n : Nat} {w : Who}

theorem init {c : Chk} (h : Going s c) : Copying s src n [] ⟨c, c.s, [], 0⟩ :=
  ⟨h, rfl, h.canonical.1, fun _ _ => h.rdByte _⟩

/-- A source byte that no copy so far has overwritten gives its entry. -/
theorem rd_source {ws : List MemWrite} {x : CbCopy} (h : Copying s src n ws x) {j : Nat} (hj : j < n) :
    rd x.s (src + 16 * j) 16 = rd s (src + 16 * j) 16 := by
  refine List.map_congr_left fun i hi => ?_
  have hlt := List.mem_range.1 hi
  rw [Nat.add_assoc]
  exact h.source (16 * j + i) (by omega)

theorem next {ws : List MemWrite} {x : CbCopy} (h : Copying s src n ws x) {j : Nat} (hj : j < n)
    (hr : ReadOk s w [(src + 16 * j, 16)]) (hw : WriteOk s w [(dst + 16 * j, 16)])
    (hapart : ∀ i < 16 * n, Apart ((src + i) % 2 ^ 64) dst (16 * n)) :
    Copying s src n (ws ++ [codebookWrite s src dst j]) (x.next w src dst j) := by
  have hread := h.going.read hr
  have hwrite := hread.write hw
  have hbytes : ((codebook (rd x.s ((src + 16 * j) % 2 ^ 64) 16)).1.map (BitVec.ofNat 8)) = (codebookWrite s src dst j).bytes := by
    rw [codebook_entries, rd_mod, h.rd_source hj]
    rfl
  have heq : x.next w src dst j = ⟨Chk.write w (Chk.read w x.c (src + 16 * j) 16) (dst + 16 * j) 16,
      wr x.s ((dst + 16 * j) % 2 ^ 64) (codebookWrite s src dst j).bytes, x.writes ++ [codebookWrite s src dst j],
      x.clamps + (codebook (rd x.s ((src + 16 * j) % 2 ^ 64) 16)).2⟩ := by
    unfold CbCopy.next
    simp only [h.going.stop, hread.stop, hwrite.stop, hbytes, Option.isSome_none, Bool.false_eq_true, if_false]
    rfl
  have hlength : (codebookWrite s src dst j).bytes.length = 16 := by simp [codebookWrite, rd]
  rw [heq]
  refine ⟨hwrite, by rw [h.writes], ?_, fun i hi => ?_⟩
  · obtain ⟨m, p, t, hform, hwf⟩ := wr_form x.s ((dst + 16 * j) % 2 ^ 64) (codebookWrite s src dst j).bytes
    rw [hform]
    exact hwf h.wf
  · rw [rdByte_wr_out _ _ _ _ h.wf, h.source i hi]
    intro k hk
    rw [hlength] at hk
    rw [Nat.mod_add_mod, Nat.add_assoc]
    exact hapart i hi (16 * j + k) (by omega)

theorem foldl {js : List Nat} (hjs : ∀ j ∈ js, j < n)
    (hr : ReadOk s w (js.map fun j => (src + 16 * j, 16))) (hw : WriteOk s w (js.map fun j => (dst + 16 * j, 16)))
    (hapart : ∀ i < 16 * n, Apart ((src + i) % 2 ^ 64) dst (16 * n)) {ws : List MemWrite} {x : CbCopy} (h : Copying s src n ws x) :
    Copying s src n (ws ++ js.map (codebookWrite s src dst)) (js.foldl (CbCopy.next w src dst) x) := by
  induction js generalizing ws x with
  | nil => simpa using h
  | cons j js ih =>
    have first := h.next (hjs j List.mem_cons_self) (w := w) (dst := dst)
      (fun r hm => hr r (by simp_all)) (fun r hm => hw r (by simp_all)) hapart
    have rest := ih (fun k hk => hjs k (List.mem_cons_of_mem j hk)) (fun r hm => hr r (List.mem_cons_of_mem _ hm))
      (fun r hm => hw r (List.mem_cons_of_mem _ hm)) first
    simpa using rest

end Copying

/-! ### The rows as they start -/

section Rows

variable {q : Fin 32} {env : List Finding} {s : State} {c : Chk} {d : Desc}

theorem exec_codebook : exec (.codebook q env) s = execCodebook q env s := rfl
theorem exec_eddy : exec (.eddy q env) s = execEddy q env s := rfl
theorem exec_precInit : exec (.precInit q env) s = execPrecInit q env s := rfl
theorem exec_programLoad : exec (.programLoad q env) s = execProgramLoad q env s := rfl

/-- A command is named alike before and after the checks of its fetch. -/
theorem Going.whoOf_eq (h : Going s c) : whoOf q c.s.queues[q].head d = who s q d := by
  rw [h.queues]
  rfl

/-- A TABLE_LOAD of an unknown kind holds nothing (R365, R387). -/
theorem codebookBody_unknown (hgo : Going s c) (htl : 3 ≤ tlKind d) (n : Nat) : StartsAs q s d id (codebookBody q c d n) := by
  rw [codebookBody, if_pos htl]
  exact startCmd_startsAs hgo.spares.aside (fun _ => rfl) (fun _ => rfl)

/-- CODEBOOK holds the write of each table (R47, R133). -/
theorem codebookBody_copies (hgo : Going s c) (htl : tlKind d = 0)
    (hr : ReadOk s (who s q d) ((List.range (tlCount d)).map fun j => (tlSrc d + 16 * j, 16)))
    (hw : WriteOk s (who s q d) ((List.range (tlCount d)).map fun j => (tlDst d + 16 * j, 16)))
    (hapart : ∀ i < 16 * tlCount d, Apart ((tlSrc d + i) % 2 ^ 64) (tlDst d) (16 * tlCount d)) (n : Nat) :
    StartsAs q s d (fun y =>
      { y with status := 0, writes := (List.range (tlCount d)).map (codebookWrite s (tlSrc d) (tlDst d))
               dests := [(tlDst d, 16 * tlCount d)] }) (codebookBody q c d n) := by
  have hcopied := Copying.foldl (w := who s q d) (fun _ => List.mem_range.1) hr hw hapart (Copying.init hgo)
  rw [codebookBody, if_neg (by omega)]
  simp only [hgo.whoOf_eq, hcopied.going.stop, hcopied.writes, List.nil_append, Option.isSome_none, b2n, Bool.false_eq_true, if_false]
  exact startCmd_startsAs hcopied.going.spares.aside (fun _ => rfl) (fun _ => rfl)

/-- EDDY holds the image that it reads (R133, R135). -/
theorem eddyBody_reads (hgo : Going s c) (hr : ReadOk s (who s q d) [(tlSrc d, 32)]) (n : Nat) :
    StartsAs q s d (fun y => { y with status := 0, work := .eddy (tlEt d) (rd s (tlSrc d) 32) }) (eddyBody q c d n) := by
  have hread := hgo.read hr
  simp only [eddyBody, hgo.whoOf_eq, hread.stop, hread.rd, Option.isSome_none, b2n, Bool.false_eq_true, if_false]
  exact startCmd_startsAs hread.spares.aside (fun _ => rfl) (fun _ => rfl)

/-- PREC_INIT holds the zeros of the state of each block (R366). -/
theorem precInitBody_zeroes (hgo : Going s c)
    (hw : WriteOk s (who s q d) ((List.range (tlCount d)).map fun j => (tlDst d + j * 0x7000 + 0x40, 64))) (n : Nat) :
    StartsAs q s d (fun y =>
      { y with
        status := 0
        dests := (List.range (tlCount d)).map fun j => (tlDst d + j * 0x7000 + 0x40, 64)
        writes := ((List.range (tlCount d)).map fun j => (tlDst d + j * 0x7000 + 0x40, 64)).map fun r => ⟨r.1, List.replicate 64 0, .data⟩ }) (precInitBody q c d n) := by
  have hwrite := hgo.writes hw
  simp only [precInitBody, hgo.whoOf_eq, hwrite.stop, Option.isSome_none, b2n, Bool.false_eq_true, if_false]
  exact startCmd_startsAs hwrite.spares.aside (fun _ => rfl) (fun _ => rfl)

/-- PROGRAM_LOAD holds the image that it reads (R210). -/
theorem programBody_reads (hgo : Going s c) (hr : ReadOk s (who s q d) [(tlSrc d, 512)]) (n : Nat) :
    StartsAs q s d (fun y =>
      { y with status := 0, work := .program (plSlot d) (rd s (tlSrc d) 512) }) (programBody q c d n) := by
  have hread := hgo.read hr
  simp only [programBody, hgo.whoOf_eq, hread.stop, hread.rd, Option.isSome_none, b2n, Bool.false_eq_true, if_false]
  exact startCmd_startsAs hread.spares.aside (fun _ => rfl) (fun _ => rfl)

theorem Going.eddyBound_eq (h : Going s c) (t : Nat) : eddyBound c.s t = eddyBound s t := by
  simp only [eddyBound, h.queues]

theorem Going.programBound_eq (h : Going s c) (n : Nat) : programBound c.s n = programBound s n := by
  simp only [programBound, h.queues]

end Rows

end Sys2Proof.Machine

namespace Sys2Proof.Safety

open Sys2Proof.Machine

/-- Settles O10: every read and check goes through, so the row holds what its body computes from memory as it was at the start. -/
theorem tablesAndProgramsAreRead : Obligations.TablesAndProgramsAreRead := by
  refine ⟨fun q env s c d => ?_, fun q env s c d row k => ?_⟩
  · intro src dst n js hc he h hkind hcase
    have hgo := going_of_ready hc he h
    have hrow : (dKind d == 8 && (tlKind d == 0 || decide (3 ≤ tlKind d))) = true := by
      rcases hcase with ⟨htl, -⟩ | htl <;> simp [hkind, htl]
    rw [exec_codebook, execCodebook, startAlone_of_ready h hrow]
    rcases hcase with ⟨htl, hr, hw, hapart⟩ | htl
    · obtain ⟨clamped, mask, hstart⟩ := codebookBody_copies hgo htl hr hw hapart (b2n (decide (0x0B ≤ dKindRaw d)))
      exact ⟨_, _, rfl, hstart, hkind, rfl, rfl, by rw [if_pos htl]; rfl⟩
    · obtain ⟨clamped, mask, hstart⟩ := codebookBody_unknown (q := q) hgo htl (b2n (decide (0x0B ≤ dKindRaw d)))
      exact ⟨_, _, rfl, hstart, hkind, rfl, rfl, by rw [if_neg (by omega)]; rfl⟩
  · intro src rs eddy prec prog hc he h hcase
    have hgo := going_of_ready hc he h
    rcases hcase with ⟨rfl, rfl, hkind, htl, hfree, hr⟩ | ⟨rfl, rfl, hkind, htl, hw⟩ | ⟨rfl, rfl, hkind, hfree, hr⟩
    · obtain ⟨clamped, mask, hstart⟩ := eddyBody_reads hgo hr (b2n (decide (0x0B ≤ dKindRaw d)))
      rw [hgo.eddyBound_eq] at hfree
      rw [exec_eddy, execEddy, startAlone_of_ready h (by simp [hkind, htl, hfree])]
      exact ⟨_, _, rfl, hstart, rfl, rfl, fun _ => ⟨rfl, rfl⟩, by simp, by simp⟩
    · obtain ⟨clamped, mask, hstart⟩ := precInitBody_zeroes hgo hw (b2n (decide (0x0B ≤ dKindRaw d)))
      rw [exec_precInit, execPrecInit, startAlone_of_ready h (by simp [hkind, htl])]
      exact ⟨_, _, rfl, hstart, rfl, rfl, by simp, fun _ => ⟨rfl, rfl⟩, by simp⟩
    · obtain ⟨clamped, mask, hstart⟩ := programBody_reads hgo hr (b2n (decide (0x0B ≤ dKindRaw d)))
      rw [hgo.programBound_eq] at hfree
      rw [exec_programLoad, execProgramLoad, startAlone_of_ready h (by simp [hkind, plSlot, hfree])]
      exact ⟨_, _, rfl, hstart, rfl, rfl, by simp, by simp, fun _ => ⟨rfl, rfl⟩⟩

end Sys2Proof.Safety
end

section
/-! A converting MOVE (R60, R265 to R268): scales and codebooks, then the source, then the destination. -/
namespace Sys2Proof.Machine

open Sys2Proof.Safety

/-! ### What a MOVE computes depends on the bytes of memory and the job seed alone -/

section Congruence

variable {s t : State} (hbytes : ∀ a, rdByte t a = rdByte s a) (hseed : regGet t offJobseed = regGet s offJobseed)

include hbytes

theorem matElem_congr (addr stride w cols i j : Nat) : matElem t addr stride w cols i j = matElem s addr stride w cols i j := by
  simp only [matElem, hbytes]

theorem MoveD.real_congr (m : MoveD) (ss : Scales) (i j : Nat) : m.real t ss i j = m.real s ss i j := by
  simp only [MoveD.real, matElem_congr hbytes]

theorem MoveD.block_congr (m : MoveD) (ss : Scales) (i b : Nat) : m.block t ss i b = m.block s ss i b := by
  simp only [MoveD.block, MoveD.real_congr hbytes]

include hseed

theorem MoveD.convPair_congr (m : MoveD) (d : Desc) (ss ds : Scales) (i j : Nat) : m.convPair t d ss ds i j = m.convPair s d ss ds i j := by
  simp only [MoveD.convPair, moveBraid, matElem_congr hbytes, MoveD.real_congr hbytes, hseed]

theorem MoveD.mxPair_congr (m : MoveD) (d : Desc) (ss : Scales) (i j : Nat) : m.mxPair t d ss i j = m.mxPair s d ss i j := by
  simp only [MoveD.mxPair, moveBraid, MoveD.block_congr hbytes, MoveD.real_congr hbytes, hseed]

theorem MoveD.writes_congr (m : MoveD) (d : Desc) (ss ds : Scales) : m.writes t d ss ds = m.writes s d ss ds := by
  have hconv : m.convElem t d ss ds = m.convElem s d ss ds := by
    funext i j
    rw [MoveD.convElem, MoveD.convElem, MoveD.convPair_congr hbytes hseed]
  have hmx : m.mxElem t d ss = m.mxElem s d ss := by
    funext i j
    rw [MoveD.mxElem, MoveD.mxElem, MoveD.mxPair_congr hbytes hseed]
  simp only [MoveD.writes, hconv, hmx, matElem_congr hbytes, MoveD.block_congr hbytes]

end Congruence

theorem Going.writes_eq {s : State} {c : Chk} (h : Going s c) (m : MoveD) (d : Desc) (ss ds : Scales) :
    m.writes c.s d ss ds = m.writes s d ss ds :=
  m.writes_congr h.rdByte (h.spares.aside.regs h.canon.2 offJobseed (by decide)) d ss ds

/-! ### The command that starts -/

/-- The bytes that a converting MOVE reads before its elements: the scale data of SRC, and of DST but for MX blocks, which it writes
(R58, R60). -/
def MoveD.srcScaleRange (m : MoveD) : Nat × Nat := scaleRange m.src m.rows m.cols m.rows
def MoveD.dstScaleRange (m : MoveD) : Nat × Nat := scaleRange m.dst m.drows m.dcols m.drows

/-- The scale data of both sides as read from `s`. -/
def MoveD.srcScales (m : MoveD) (s : State) : Scales := (scalesOf m.src m.cols m.rows (rd s m.srcScaleRange.1 m.srcScaleRange.2)).1
def MoveD.dstScales (m : MoveD) (s : State) : Scales :=
  if m.dst.scale = 3 then ⟨0, [], [], []⟩ else (scalesOf m.dst m.dcols m.drows (rd s m.dstScaleRange.1 m.dstScaleRange.2)).1

/-- All that it reads, in order. -/
def MoveD.convReads (m : MoveD) : List (Nat × Nat) :=
  m.srcScaleRange :: (if m.dst.scale = 3 then [] else [m.dstScaleRange]) ++
    matRanges m.src.addr m.sstr (fmtWidth (fmtOf m.src.fmt)) m.rows m.cols

theorem moveOf_conv (d : Desc) : (moveOf d).1.conv = mvConvBit d := rfl

/-- The view of memory once the scale data has been read, then the source, and then the destination checked. -/
def MoveD.scalesRead (m : MoveD) (w : Who) (c : Chk) : Chk :=
  let c := Chk.read w c m.srcScaleRange.1 m.srcScaleRange.2
  if m.dst.scale != 3 then Chk.read w c m.dstScaleRange.1 m.dstScaleRange.2 else c
def MoveD.sourceRead (m : MoveD) (w : Who) (c : Chk) : Chk :=
  (matRanges m.src.addr m.sstr (fmtWidth (fmtOf m.src.fmt)) m.rows m.cols).foldl (fun c r => Chk.read w c r.1 r.2) (m.scalesRead w c)
def MoveD.destChecked (m : MoveD) (w : Who) (c : Chk) : Chk := m.dests.foldl (fun c r => Chk.write w c r.1 r.2) (m.sourceRead w c)

section Start

variable {q : Fin 32} {env : List Finding} {s : State} {c : Chk} {d : Desc}

theorem Going.scalesRead (h : Going s c) (m : MoveD) {w : Who}
    (hr : ReadOk s w (m.srcScaleRange :: if m.dst.scale = 3 then [] else [m.dstScaleRange])) : Going s (m.scalesRead w c) := by
  obtain ⟨hsrc, hdst⟩ := List.forall_mem_cons.1 hr
  have hread := h.read (w := w) (List.forall_mem_singleton.2 hsrc)
  unfold MoveD.scalesRead
  split
  next hmx =>
    rw [if_neg (by simpa using hmx)] at hdst
    exact hread.read hdst
  · exact hread

/-- The scale data are those of the start. -/
theorem Going.srcScales_eq (h : Going s c) (m : MoveD) :
    (scalesOf m.src m.cols m.rows (Machine.rd c.s m.srcScaleRange.1 m.srcScaleRange.2)).1 = m.srcScales s := by
  rw [h.rd, MoveD.srcScales]

theorem Going.dstScales_eq (h : Going s c) (m : MoveD) :
    (if m.dst.scale != 3 then scalesOf m.dst m.dcols m.drows (Machine.rd c.s m.dstScaleRange.1 m.dstScaleRange.2)
      else (⟨0, [], [], []⟩, 0)).1 = m.dstScales s := by
  rw [h.rd, MoveD.dstScales]
  by_cases hmx : m.dst.scale = 3 <;> simp [hmx]

/-- A converting MOVE of which every read and check goes through holds its converted elements (R60, R265 to R268). -/
theorem copyBody_converts (hgo : Going s c) (hconv : mvConvBit d = true) (hr : ReadOk s (who s q d) (moveOf d).1.convReads)
    (hw : WriteOk s (who s q d) (moveOf d).1.dests) (n : Nat) :
    StartsAs q s d (fun x => { x with
      writes := (moveOf d).1.writes s d ((moveOf d).1.srcScales s) ((moveOf d).1.dstScales s)
      dests := (moveOf d).1.dests }) (copyBody q c d n) := by
  obtain ⟨hscale, helem⟩ := List.forall_mem_append.1 hr
  have hscales := hgo.scalesRead _ hscale
  have hsource : Going s ((moveOf d).1.sourceRead (who s q d) c) := hscales.reads helem
  have hdest : Going s ((moveOf d).1.destChecked (who s q d) c) := hsource.writes hw
  have hss := hscales.srcScales_eq (moveOf d).1
  have hds := hscales.dstScales_eq (moveOf d).1
  simp only [MoveD.destChecked, MoveD.sourceRead, MoveD.scalesRead, MoveD.srcScaleRange, MoveD.dstScaleRange] at hscales hsource hdest hss hds
  unfold copyBody
  simp only [moveOf_conv, hconv, if_true, Bool.true_and, hgo.whoOf_eq, hscales.stop, hsource.stop, hdest.stop, hdest.writes_eq, hss, hds]
  refine StartsAs.aside ?_ (countShared_aside _ _ _ _)
  exact startCmd_startsAs hdest.spares.aside (fun _ => rfl) (fun _ => rfl)

theorem MoveD.writes_of_conv {m : MoveD} (hconv : m.conv = true) (d : Desc) (ss ds : Scales) :
    m.writes s d ss ds =
      if m.dst.scale = 3 then
        matWrites m.dst.addr m.dstr (fmtWidth (fmtOf m.dst.fmt)) m.drows m.dcols (m.mxElem s d ss) ++
          [⟨m.dst.scaleAddr, (List.range m.drows).flatMap fun i => (List.range (ceilDiv m.dcols 32)).map fun b =>
            BitVec.ofNat 8 (mxBlock (fmtOf m.dst.fmt) (m.block s ss i b)).1, .data⟩]
      else matWrites m.dst.addr m.dstr (fmtWidth (fmtOf m.dst.fmt)) m.drows m.dcols (m.convElem s d ss ds) := by
  simp [MoveD.writes, hconv]

theorem exec_convert : exec (.convert q env) s = execConvert q env s := rfl
theorem exec_transpose : exec (.transpose q env) s = execTranspose q env s := rfl

/-- Either row of a converting MOVE starts it, TRANSPOSE where its bit is set (R265, R266). -/
theorem exec_convertRow {row : Instr} (h : Ready s q env c d) (hkind : dKind d = 2) (hcopy : isCopyOp d = true)
    (hconv : mvConvBit d = true) (hrow : row = .convert q env ∨ (row = .transpose q env ∧ mvTrBit d = true)) :
    exec row s = .next (copyBody q c d (b2n (decide (0x0B ≤ dKindRaw d)))) := by
  rcases hrow with rfl | ⟨rfl, htr⟩
  · rw [exec_convert, execConvert, startAlone_of_ready h (by simp [hkind, hcopy, hconv])]
  · rw [exec_transpose, execTranspose, startAlone_of_ready h (by simp [hkind, hcopy, htr])]

end Start

end Sys2Proof.Machine

namespace Sys2Proof.Safety

open Sys2Proof.Machine

/-- Settles O8: nothing stops the reads of scales, codebooks and source, nor the checks of the destination, so what is held is computed
from memory as it was at the start. -/
theorem convertConvertsElements : Obligations.ConvertConvertsElements := by
  intro q env s c d row m sr dr ss ds hc he h hkind hcopy hconv hr hw hrow
  have hgo := going_of_ready hc he h
  obtain ⟨clamped, mask, hstart⟩ := copyBody_converts hgo hconv hr hw (b2n (decide (0x0B ≤ dKindRaw d)))
  exact ⟨_, _, exec_convertRow h hkind hcopy hconv hrow, hstart, hkind, rfl, rfl, rfl, MoveD.writes_of_conv hconv d _ _⟩

end Sys2Proof.Safety
end

section
/-! ## What the die holds for good (O56)

`dieOf s` is what no command but three may change: the fuses, one-time-programmable memory and the response of the PUF. Each function of
the model that carries a state has one lemma, `<name>_dieOf`, and each proof cites those of the functions it calls. A proof that holds by
unfolding is written `(rfl)`, in brackets, so that `simp` rewrites with the lemma and does not unfold the function instead. -/

namespace Sys2Proof.Machine

open Sys2Proof.Safety

/-- What the die holds for good: the fuses, one-time-programmable memory and the PUF's response (R102, R422, R443, R496). -/
def dieOf (s : State) : (BitVec 64 × Byte × Vector Nat 96) × Otp × BitVec 256 := (fusesOf s, s.otp, s.puf)

/-- Event records, traces and counters leave it. -/
theorem dieOf_aside {s t : State} (h : Aside s t) : dieOf t = dieOf s := by
  rw [h.form]
  rfl

/-- A record update of other fields. -/
@[simp] theorem dieOf_update (s : State) (pending : List Instr) (phase : Phase) (fresh : Nat) (regs : List (Nat × BitVec 64))
    (mem : List Host.Cell) (poison : List Nat) (t3 : List T3Unit) (queues : Vector Queue 32) (tokens : Vector (BitVec 32) 256)
    (events evWait : List EvRec) (evTail evHead evLost rclamp : Nat) (halts : List HaltReq) (haltCount : BitVec 32)
    (haltSeen : List (Nat × Nat)) (gauge : Gauge) (ports : Vector Port 16) (routes : List (Nat × Nat)) (groups : Vector Group 8)
    (early looped : List HeldPkt) (resetCause bl : Nat) (t1Init t2Init : Bool) (ueAddr : BitVec 64) (jobFatal : Bool)
    (fatal : Option Fatal) (mbx : Mailbox) (inService : Vector Bool 96) (engines : Vector Engine 96) (eddies : Vector (List Byte) 4)
    (eddyCrc : Vector Nat 4) (eddyLoaded : Vector Bool 4) (bist : Vector Nat 96) (programs : Vector (List Byte) 16)
    (progCrc : Vector Nat 16) (cores : Vector Core 16) (snap : SnapBuf) (power : Power) (flash : Flash) (boot : Boot) (romRoot : Nat)
    (idKey t1key t2key : Option Nat) (unlocked : Bool) (measLog : List (Nat × Nat)) (sessions : Vector Session 3)
    (jobClear : Option (List (Nat × Nat))) (mgmt : Mgmt) (cfg : CfgCheck) (alert perst pwrEn loopOpen : Bool) (ide : List IdeStream)
    (msix : Vector MsixEntry 34) (msixPending : Vector Bool 34) (t3key : Option JobKey) (outbox : List OutMsg) :
    dieOf ⟨pending, phase, fresh, regs, mem, poison, t3, queues, tokens, events, evWait, evTail, evHead, evLost, rclamp, halts, haltCount,
      haltSeen, gauge, ports, routes, groups, early, looped, resetCause, bl, t1Init, t2Init, ueAddr, jobFatal, fatal, mbx, inService,
      engines, s.fuses, eddies, eddyCrc, eddyLoaded, bist, programs, progCrc, cores, snap, power, s.serial, s.stepping, s.otp, flash, boot,
      s.puf, romRoot, idKey, t1key, t2key, unlocked, measLog, sessions, jobClear, mgmt, cfg, alert, perst, pwrEn, loopOpen, ide, msix,
      msixPending, t3key, outbox⟩ = dieOf s := (rfl)

/-! ### Branches and folds, over the state and over what carries one -/

section

variable {α β : Type} {p : Prop} [Decidable p]

@[simp] theorem dieOf_ite (s t : State) : dieOf (if p then s else t) = if p then dieOf s else dieOf t :=
  apply_ite dieOf p s t

@[simp] theorem dieOf_fst_ite (x y : State × α) : dieOf (if p then x else y).1 = if p then dieOf x.1 else dieOf y.1 :=
  apply_ite (fun x : State × α => dieOf x.1) p x y

@[simp] theorem Chk.dieOf_ite (x y : Chk) : dieOf (if p then x else y).s = if p then dieOf x.s else dieOf y.s :=
  apply_ite (fun x : Chk => dieOf x.s) p x y

@[simp] theorem Over.dieOf_ite (x y : Over) : dieOf (if p then x else y).c.s = if p then dieOf x.c.s else dieOf y.c.s :=
  apply_ite (fun x : Over => dieOf x.c.s) p x y

theorem dieOf_foldlBy (g : α → State) {f : α → β → α} (hf : ∀ x b, dieOf (g (f x b)) = dieOf (g x)) (l : List β) (x : α) :
    dieOf (g (l.foldl f x)) = dieOf (g x) := by
  induction l generalizing x with
  | nil => rfl
  | cons b l ih => exact (ih _).trans (hf x b)

@[simp] theorem dieOf_foldl {f : State → β → State} (hf : ∀ s b, dieOf (f s b) = dieOf s) (l : List β) (s : State) :
    dieOf (l.foldl f s) = dieOf s := dieOf_foldlBy id hf l s

@[simp] theorem dieOf_foldl_fst {f : State × α → β → State × α} (hf : ∀ x b, dieOf (f x b).1 = dieOf x.1) (l : List β)
    (x : State × α) : dieOf (l.foldl f x).1 = dieOf x.1 := dieOf_foldlBy Prod.fst hf l x

@[simp] theorem Chk.dieOf_foldl {f : Chk → β → Chk} (hf : ∀ x b, dieOf (f x b).s = dieOf x.s) (l : List β) (x : Chk) :
    dieOf (l.foldl f x).s = dieOf x.s := dieOf_foldlBy (fun x => x.s) hf l x

@[simp] theorem Over.dieOf_foldl {f : Over → β → Over} (hf : ∀ x b, dieOf (f x b).c.s = dieOf x.c.s) (l : List β) (x : Over) :
    dieOf (l.foldl f x).c.s = dieOf x.c.s := dieOf_foldlBy (fun x => x.c.s) hf l x

@[simp] theorem Rerun.dieOf_foldl {f : Rerun → β → Rerun} (hf : ∀ x b, dieOf (f x b).c.s = dieOf x.c.s) (l : List β) (x : Rerun) :
    dieOf (l.foldl f x).c.s = dieOf x.c.s := dieOf_foldlBy (fun x => x.c.s) hf l x

@[simp] theorem EChk.dieOf_foldl {f : EChk → β → EChk} (hf : ∀ x b, dieOf (f x b).s = dieOf x.s) (l : List β) (x : EChk) :
    dieOf (l.foldl f x).s = dieOf x.s := dieOf_foldlBy (fun x => x.s) hf l x

@[simp] theorem StepEv.dieOf_foldl {f : StepEv → β → StepEv} (hf : ∀ x b, dieOf (f x b).c.s = dieOf x.c.s) (l : List β) (x : StepEv) :
    dieOf (l.foldl f x).c.s = dieOf x.c.s := dieOf_foldlBy (fun x => x.c.s) hf l x

@[simp] theorem TX.dieOf_foldl {f : TX → β → TX} (hf : ∀ x b, dieOf (f x b).c.s = dieOf x.c.s) (l : List β) (x : TX) :
    dieOf (l.foldl f x).c.s = dieOf x.c.s := dieOf_foldlBy (fun x => x.c.s) hf l x

@[simp] theorem Pass.dieOf_foldl {f : Pass → β → Pass} (hf : ∀ x b, dieOf (f x b).x.c.s = dieOf x.x.c.s) (l : List β) (x : Pass) :
    dieOf (l.foldl f x).x.c.s = dieOf x.x.c.s := dieOf_foldlBy (fun x => x.x.c.s) hf l x

@[simp] theorem Blocks.dieOf_foldl {f : Blocks → β → Blocks} (hf : ∀ x b, dieOf (f x b).c.s = dieOf x.c.s) (l : List β) (x : Blocks) :
    dieOf (l.foldl f x).c.s = dieOf x.c.s := dieOf_foldlBy (fun x => x.c.s) hf l x

@[simp] theorem CbCopy.dieOf_foldl {f : CbCopy → β → CbCopy} (hf : ∀ x b, dieOf (f x b).c.s = dieOf x.c.s) (l : List β) (x : CbCopy) :
    dieOf (l.foldl f x).c.s = dieOf x.c.s := dieOf_foldlBy (fun x => x.c.s) hf l x

end

/-! ### Registers -/

@[simp] theorem regPut_dieOf (s : State) (off : Nat) (v : BitVec 64) : dieOf (regPut s off v) = dieOf s := (rfl)
@[simp] theorem regPutField_dieOf (s : State) (off lo w v : Nat) : dieOf (regPutField s off lo w v) = dieOf s := (rfl)
@[simp] theorem cntInc_dieOf (s : State) (off lo w : Nat) : dieOf (cntInc s off lo w) = dieOf s := (rfl)
@[simp] theorem setFlag_dieOf (s : State) (off bit cnt : Nat) : dieOf (setFlag s off bit cnt) = dieOf s := (rfl)
@[simp] theorem setFlagOnly_dieOf (s : State) (off bit : Nat) : dieOf (setFlagOnly s off bit) = dieOf s := (rfl)
@[simp] theorem rclampInc_dieOf (s : State) : dieOf (rclampInc s) = dieOf s := (rfl)
@[simp] theorem freshen_dieOf (s : State) : dieOf (freshen s) = dieOf s := (rfl)

/-! ### Memory -/

@[simp] theorem t3Stamp_dieOf (s : State) (u : Nat) (bad : Bool) : dieOf (t3Stamp s u bad) = dieOf s := by
  unfold t3Stamp
  split <;> simp

@[simp] theorem poisonLine_dieOf (s : State) (l : Nat) : dieOf (poisonLine s l) = dieOf s := dieOf_aside (poisonLine_aside s l)
@[simp] theorem wrByte_dieOf (s : State) (a : Nat) (b : Byte) : dieOf (wrByte s a b) = dieOf s := by simp [wrByte]

@[simp] theorem wrBytes_dieOf (s : State) (a : Nat) (bs : List Byte) : dieOf (wrBytes s a bs) = dieOf s := by
  induction bs generalizing s a with
  | nil => rfl
  | cons b bs ih => simp [wrBytes, ih]

@[simp] theorem cleanLines_dieOf (s : State) (a n : Nat) : dieOf (cleanLines s a n) = dieOf s := (rfl)
@[simp] theorem t3Tag_dieOf (a n : Nat) (s : State) (b : Nat) : dieOf (t3Tag a n s b) = dieOf s := by simp [t3Tag]
@[simp] theorem t3Tags_dieOf (s : State) (a n : Nat) : dieOf (t3Tags s a n) = dieOf s := by simp [t3Tags]
@[simp] theorem wr_dieOf (s : State) (a : Nat) (bs : List Byte) : dieOf (wr s a bs) = dieOf s := by simp [wr]
@[simp] theorem wrPoison_dieOf (s : State) (a n : Nat) : dieOf (wrPoison s a n) = dieOf s := by simp [wrPoison]

@[simp] theorem applyWrite_dieOf (w : Nat × Nat) (s : State) (x : MemWrite) : dieOf (applyWrite w s x) = dieOf s := by
  dsimp only [applyWrite]
  repeat' split
  all_goals simp

@[simp] theorem applyWrites_dieOf (w : Nat × Nat) (s : State) (ws : List MemWrite) : dieOf (applyWrites w s ws) = dieOf s := by
  simp [applyWrites]

@[simp] theorem freeRanges_dieOf (w : Nat × Nat) (s : State) (rs : List (Nat × Nat)) : dieOf (freeRanges w s rs) = dieOf s := by
  simp [freeRanges]

/-! ### Traces and counter banks -/

@[simp] theorem updCore_dieOf (s : State) (c : Fin 16) (f : Core → Core) : dieOf (updCore s c f) = dieOf s := (rfl)
@[simp] theorem updTrace_dieOf (s : State) (c : Fin 16) (f : Trace → Trace) : dieOf (updTrace s c f) = dieOf s := (rfl)
@[simp] theorem countEv_dieOf (s : State) (c : Fin 16) (code n : Nat) : dieOf (countEv s c code n) = dieOf s := (rfl)

@[simp] theorem matchFire_dieOf (s : State) (c : Fin 16) (kind : Nat) (w : Who) : dieOf (matchFire s c kind w).1 = dieOf s :=
  dieOf_aside (matchFire_aside s c kind w)

@[simp] theorem putDrops_dieOf (s : State) (c : Fin 16) : dieOf (putDrops s c).1 = dieOf s := dieOf_aside (putDrops_aside s c)
@[simp] theorem broadcast_dieOf (x : State × Bool) : dieOf (broadcast x) = dieOf x.1 := dieOf_aside (broadcast_aside x)

@[simp] theorem triggerAll_dieOf (s : State) (bit info : Nat) : dieOf (triggerAll s bit info) = dieOf s :=
  dieOf_aside (triggerAll_aside s bit info)

@[simp] theorem triggerSw_dieOf (s : State) (c : Fin 16) : dieOf (triggerSw s c) = dieOf s := dieOf_aside (triggerSw_aside s c)

@[simp] theorem traceRec_dieOf (s : State) (c : Fin 16) (kind unit index info : Nat) (w : Who) (data : Nat) :
    dieOf (traceRec s c kind unit index info w data) = dieOf s := dieOf_aside (traceRec_aside s c kind unit index info w data)

@[simp] theorem traceAll_dieOf (s : State) (kind unit info : Nat) (w : Who) (data : Nat) :
    dieOf (traceAll s kind unit info w data) = dieOf s := dieOf_aside (traceAll_aside s kind unit info w data)

@[simp] theorem traceCores_dieOf (s : State) (mask kind unit info : Nat) (w : Who) (data : Nat) :
    dieOf (traceCores s mask kind unit info w data) = dieOf s := dieOf_aside (traceCores_aside s mask kind unit info w data)

@[simp] theorem shareEnds_dieOf (s : State) (mask : Nat) (w : Who) : dieOf (shareEnds s mask w) = dieOf s := (rfl)

@[simp] theorem countShared_dieOf (s : State) (mask code n : Nat) : dieOf (countShared s mask code n) = dieOf s :=
  dieOf_aside (countShared_aside s mask code n)

/-! ### Event records and line checks -/

@[simp] theorem evPush_dieOf (s : State) (q : Nat) (bytes : List Byte) : dieOf (evPush s q bytes) = dieOf s :=
  dieOf_aside (evPush_aside s q bytes)

@[simp] theorem errEvent_dieOf (s : State) (w : Who) (cause cls unit index count addr : Nat) :
    dieOf (errEvent s w cause cls unit index count addr) = dieOf s := dieOf_aside (errEvent_aside s w cause cls unit index count addr)

@[simp] theorem queueEvent_dieOf (s : State) (cause : Nat) (w : Who) : dieOf (queueEvent s cause w) = dieOf s :=
  dieOf_aside (queueEvent_aside s cause w)

@[simp] theorem gaugeEvent_dieOf (s : State) (cause old new : Nat) : dieOf (gaugeEvent s cause old new) = dieOf s :=
  dieOf_aside (gaugeEvent_aside s cause old new)

@[simp] theorem haltEvent_dieOf (s : State) (cause mask id origin hops : Nat) :
    dieOf (haltEvent s cause mask id origin hops) = dieOf s :=
  dieOf_aside (haltEvent_aside s cause mask id origin hops)

@[simp] theorem clockEvent_dieOf (s : State) (cause old new : Nat) : dieOf (clockEvent s cause old new) = dieOf s :=
  dieOf_aside (clockEvent_aside s cause old new)

@[simp] theorem lastSrc_dieOf (s : State) (c : Nat) : dieOf (lastSrc s c) = dieOf s := (rfl)
@[simp] theorem eccCorrected_dieOf (s : State) (a : Nat) : dieOf (eccCorrected s a) = dieOf s := (rfl)

@[simp] theorem eccUncorrected_dieOf (s : State) (w : Who) (a : Nat) : dieOf (eccUncorrected s w a) = dieOf s :=
  dieOf_aside (eccUncorrected_aside s w a)

@[simp] theorem Chk.init_dieOf (s : State) (env : List Finding) : dieOf (Chk.init s env).s = dieOf s := (rfl)

@[simp] theorem Chk.readLine_dieOf (w : Who) (c : Chk) (l : Nat) : dieOf (Chk.readLine w c l).s = dieOf c.s :=
  dieOf_aside (Chk.readLine_aside w c l)

@[simp] theorem Chk.read_dieOf (w : Who) (c : Chk) (a n : Nat) : dieOf (Chk.read w c a n).s = dieOf c.s :=
  dieOf_aside (Chk.read_aside w c a n)

@[simp] theorem Chk.mergeLine_dieOf (w : Who) (c : Chk) (l : Nat) : dieOf (Chk.mergeLine w c l).s = dieOf c.s :=
  dieOf_aside (Chk.mergeLine_aside w c l)

@[simp] theorem Chk.write_dieOf (w : Who) (c : Chk) (a n : Nat) : dieOf (Chk.write w c a n).s = dieOf c.s :=
  dieOf_aside (Chk.write_aside w c a n)

@[simp] theorem leaveNotes_dieOf (s t : State) : dieOf (leaveNotes s t) = dieOf s := (rfl)

@[simp] theorem Chk.writeOpen_dieOf (w : Who) (s : State) (rs : List (Nat × Nat)) : dieOf (Chk.writeOpen w s rs).s = dieOf s :=
  dieOf_aside (Chk.writeOpen_aside w s rs)

@[simp] theorem wrNoted_dieOf (s : State) (a : Nat) (bs : List Byte) : dieOf (wrNoted s a bs) = dieOf s := by simp [wrNoted]
@[simp] theorem spillRec_dieOf (s : State) (c : Fin 16) (r : List Byte) : dieOf (spillRec s c r) = dieOf s := by simp [spillRec]

@[simp] theorem drain_dieOf (n : Nat) (s : State) (c : Fin 16) : dieOf (drain n s c) = dieOf s := by
  induction n generalizing s with
  | zero => rfl
  | succ n ih =>
    unfold drain
    dsimp only
    repeat' split
    all_goals simp [ih]

@[simp] theorem settleTrace_dieOf (s : State) (c : Fin 16) : dieOf (settleTrace s c) = dieOf s := by simp [settleTrace]
@[simp] theorem settleTraces_dieOf (s : State) : dieOf (settleTraces s) = dieOf s := by simp [settleTraces]
@[simp] theorem Chk.go_dieOf (c : Chk) : dieOf (Chk.go c).s = dieOf c.s := (rfl)

/-! ### Commands of a queue -/

@[simp] theorem updQ_dieOf (s : State) (q : Fin 32) (f : Queue → Queue) : dieOf (updQ s q f) = dieOf s := (rfl)
@[simp] theorem addClamps_dieOf (s : State) (q : Fin 32) (n : Nat) : dieOf (addClamps s q n) = dieOf s := (rfl)
@[simp] theorem pushCmd_dieOf (s : State) (q : Fin 32) (c : Cmd) : dieOf (pushCmd s q c) = dieOf s := (rfl)
@[simp] theorem updE_dieOf (s : State) (e : Fin 96) (f : Engine → Engine) : dieOf (updE s e f) = dieOf s := (rfl)
@[simp] theorem abortEngine_dieOf (s : State) (e : Fin 96) : dieOf (abortEngine s e) = dieOf s := (rfl)
@[simp] theorem abortSome_dieOf (s : State) (es : List Nat) : dieOf (abortSome s es) = dieOf s := by simp [abortSome]
@[simp] theorem raise_dieOf (s : State) (v : Nat) : dieOf (raise s v) = dieOf s := by simp [raise]

@[simp] theorem fromHost_dieOf (s : State) {go : State → State} (hgo : ∀ s, dieOf (go s) = dieOf s) :
    dieOf (fromHost s go) = dieOf s := by
  simp [fromHost, hgo]

@[simp] theorem writeRec_dieOf (s : State) (q : Fin 32) (r : List Byte × Bool) :
    dieOf (writeRec s q r) = dieOf s := by simp [writeRec]

@[simp] theorem writeRecs_dieOf (q : Fin 32) (n : Nat) (s : State) : dieOf (writeRecs q n s) = dieOf s := by
  induction n generalizing s with
  | zero => rfl
  | succ n ih => unfold writeRecs; split <;> simp [ih]

@[simp] theorem flushRecs_dieOf (s : State) (q : Fin 32) : dieOf (flushRecs s q) = dieOf s := by simp [flushRecs]

@[simp] theorem endWork_dieOf (s : State) (c : Cmd) (status : Nat) (w : Who) : dieOf (endWork s c status w) = dieOf s :=
  dieOf_aside (endWork_aside s c status w)

@[simp] theorem putRec_dieOf (s : State) (q : Fin 32) (c : Cmd) (status : Nat) :
    dieOf (putRec s q c status) = dieOf s := by simp [putRec]
@[simp] theorem tokenMap_dieOf (s : State) (t : Nat) (f : BitVec 32 → BitVec 32) : dieOf (tokenMap s t f) = dieOf s := (rfl)
@[simp] theorem leaveRunning_dieOf (s : State) (q : Fin 32) (st : QState) : dieOf (leaveRunning s q st) = dieOf s := (rfl)
@[simp] theorem containCmd_dieOf (s : State) (q : Fin 32) (c : Cmd) : dieOf (containCmd s q c) = dieOf s := by simp [containCmd]

@[simp] theorem containAll_dieOf (s : State) (q : Fin 32) : dieOf (containAll s q) = dieOf s := by
  dsimp only [containAll]
  repeat' split
  all_goals simp

@[simp] theorem containHead_dieOf (s : State) (q : Fin 32) : dieOf (containHead s q) = dieOf s := by simp [containHead]

@[simp] theorem signalEffect_dieOf (s : State) (w : Work) : dieOf (signalEffect s w) = dieOf s := by
  unfold signalEffect
  split <;> simp

@[simp] theorem finishCmd_dieOf (s : State) (q : Fin 32) (c : Cmd) : dieOf (finishCmd s q c) = dieOf s := by simp [finishCmd]
@[simp] theorem doneCmd_dieOf (s : State) (q : Fin 32) (c : Cmd) : dieOf (doneCmd s q c) = dieOf s := by simp [doneCmd]
@[simp] theorem popCmd_dieOf (s : State) (q : Fin 32) : dieOf (popCmd s q) = dieOf s := (rfl)
@[simp] theorem setCmd_dieOf (s : State) (q : Fin 32) (c : Cmd) : dieOf (setCmd s q c) = dieOf s := (rfl)

theorem fetchHead_got_dieOf {s : State} {q : Fin 32} {env : List Finding} {c : Chk} {d : Desc} (h : fetchHead s q env = .got c d) :
    dieOf c.s = dieOf s := dieOf_aside (fetchHead_got h).1

theorem fetchHead_bad_dieOf {s : State} {q : Fin 32} {env : List Finding} {c : Chk} (h : fetchHead s q env = .bad c) :
    dieOf c.s = dieOf s := dieOf_aside (fetchHead_bad h)

@[simp] theorem startRow_dieOf (s : State) (q : Fin 32) (env : List Finding) (isRow : State → Desc → Bool)
    {body : Chk → Desc → Nat → State}
    (hb : ∀ c d n, dieOf (body c d n) = dieOf c.s) : dieOf (startRow s q env isRow body) = dieOf s := by
  unfold startRow
  split
  · rfl
  next c hc => simp [fetchHead_bad_dieOf hc]
  next c d hc => simp [hb, fetchHead_got_dieOf hc]

@[simp] theorem startAlone_dieOf (s : State) (q : Fin 32) (env : List Finding) (isRow : State → Desc → Bool)
    {body : Chk → Desc → Nat → State}
    (hb : ∀ c d n, dieOf (body c d n) = dieOf c.s) : dieOf (startAlone s q env isRow body) = dieOf s := by
  simp [startAlone, startRow_dieOf s q env isRow hb]

@[simp] theorem startWork_dieOf (s : State) (w : Who) (d : Desc) (mask : Nat) : dieOf (startWork s w d mask) = dieOf s :=
  dieOf_aside (startWork_aside s w d mask)

@[simp] theorem startCmdOn_dieOf (mask : Nat) (s : State) (q : Fin 32) (d : Desc) (clamps : Nat) (f : Cmd → Cmd) :
    dieOf (startCmdOn mask s q d clamps f) = dieOf s := by simp [startCmdOn]

@[simp] theorem joinCores_dieOf (s : State) (q : Fin 32) (idx : BitVec 32) (d : Desc) (mask : Nat) :
    dieOf (joinCores s q idx d mask) = dieOf s := by simp [joinCores]

@[simp] theorem startCmd_dieOf (s : State) (q : Fin 32) (d : Desc) (clamps : Nat) (f : Cmd → Cmd) :
    dieOf (startCmd s q d clamps f) = dieOf s := by simp [startCmd]

/-! ### Ports: sending and receiving -/

@[simp] theorem updP_dieOf (s : State) (p : Fin 16) (f : Port → Port) : dieOf (updP s p f) = dieOf s := (rfl)
@[simp] theorem outMsg_dieOf (s : State) (m : OutMsg) : dieOf (outMsg s m) = dieOf s := (rfl)
@[simp] theorem portMalformed_dieOf (s : State) (p : Fin 16) : dieOf (portMalformed s p) = dieOf s := (rfl)
@[simp] theorem portDrop_dieOf (s : State) (p : Fin 16) : dieOf (portDrop s p) = dieOf s := (rfl)
@[simp] theorem outFlit_dieOf (s : State) (p : Fin 16) (x : SentFlit) : dieOf (outFlit s p x) = dieOf s := (rfl)
@[simp] theorem outRetryReq_dieOf (s : State) (p : Fin 16) : dieOf (outRetryReq s p) = dieOf s := (rfl)

@[simp] theorem traceLink_dieOf (s : State) (p : Fin 16) (kind info vc : Nat) (phase : Bool) (seq : Nat) (payload : List Byte) :
    dieOf (traceLink s p kind info vc phase seq payload) = dieOf s := by simp [traceLink]

@[simp] theorem freeBuf_dieOf (s : State) (b : RxBuf) : dieOf (freeBuf s b) = dieOf s := (rfl)
@[simp] theorem freeBufs_dieOf (s : State) (bs : List RxBuf) : dieOf (freeBufs s bs) = dieOf s := dieOf_foldl freeBuf_dieOf bs s
@[simp] theorem emitFlit_dieOf (s : State) (p : Fin 16) (f : OutFlit) : dieOf (emitFlit s p f) = dieOf s := by simp [emitFlit]

@[simp] theorem flushPort_dieOf (n : Nat) (s : State) (p : Fin 16) : dieOf (flushPort n s p) = dieOf s := by
  induction n generalizing s with
  | zero => rfl
  | succ n ih =>
    unfold flushPort
    repeat' split
    all_goals simp [ih]

@[simp] theorem sendOwed_dieOf (n : Nat) (s : State) (p : Fin 16) : dieOf (sendOwed n s p) = dieOf s := by
  induction n generalizing s with
  | zero => rfl
  | succ n ih =>
    unfold sendOwed
    repeat' split
    all_goals simp [ih]

@[simp] theorem returnCredits_dieOf (s : State) : dieOf (returnCredits s) = dieOf s := by simp [returnCredits]
@[simp] theorem flush_dieOf (s : State) (p : Fin 16) : dieOf (flush s p) = dieOf s := by simp [flush]
@[simp] theorem enqueue_dieOf (s : State) (p : Fin 16) (fs : List OutFlit) : dieOf (enqueue s p fs) = dieOf s := by simp [enqueue]

@[simp] theorem transmit_dieOf (s : State) (out : Fin 16) (vc : Nat) (phase : Bool) (bs : List Byte) (bufs : List RxBuf) :
    dieOf (transmit s out vc phase bs bufs) = dieOf s := by simp [transmit]

@[simp] theorem sendPacket_dieOf (s : State) (dst dport cls vc : Nat) (body : List Byte) :
    dieOf (sendPacket s dst dport cls vc body) = dieOf s := by
  dsimp only [sendPacket]
  repeat' split
  all_goals simp

@[simp] theorem askRetry_dieOf (s : State) (p : Fin 16) : dieOf (askRetry s p) = dieOf s := by simp [askRetry]
@[simp] theorem fecCount_dieOf (s : State) (p : Fin 16) (l : LineCheck) : dieOf (fecCount s p l) = dieOf s := (rfl)

theorem notFlit_dieOf {s t : State} {p : Fin 16} {f : Flit} {n : Nat} (h : notFlit s p f n = some t) : dieOf t = dieOf s := by
  unfold notFlit at h
  split at h
  · cases h
  · split at h <;> cases h <;> simp

@[simp] theorem dropPart_dieOf (s : State) (p : Fin 16) (x : PartPkt) : dieOf (dropPart s p x) = dieOf s := by simp [dropPart]

@[simp] theorem finishPacket_dieOf (s : State) (p : Fin 16) (x : PartPkt) : dieOf (finishPacket s p x).1 = dieOf s := by
  dsimp only [finishPacket]
  repeat' split
  all_goals simp

@[simp] theorem malformedData_dieOf (s : State) (p : Fin 16) (f : Flit) :
    dieOf (malformedData s p f) = dieOf s := by simp [malformedData]

@[simp] theorem takeData_dieOf (s : State) (p : Fin 16) (f : Flit) (b : RxBuf) : dieOf (takeData s p f b).1 = dieOf s := by
  dsimp only [takeData]
  repeat' split
  all_goals simp

/-- The state that the checks of a received flit leave, whether it is taken or dropped. -/
def Rx.state : Rx → State
  | .drop s => s
  | .accept s => s

@[simp] theorem Rx.state_drop (s : State) : (Rx.drop s).state = s := rfl
@[simp] theorem Rx.state_accept (s : State) : (Rx.accept s).state = s := rfl

@[simp] theorem rxSequenced_dieOf (s : State) (p : Fin 16) (f : Flit) (room : Bool) :
    dieOf (rxSequenced s p f room).state = dieOf s := by
  simp [rxSequenced, apply_ite Rx.state]

@[simp] theorem rxData_dieOf (s : State) (p : Fin 16) (f : Flit) : dieOf (rxData s p f).1 = dieOf s := by
  unfold rxData
  split
  next t h => exact notFlit_dieOf h
  next =>
    have hseq := rxSequenced_dieOf s p f ((rxBufFor s.ports[p] p.val f.vc.toNat f.phase).isSome || decide (9 ≤ f.vc.toNat))
    dsimp only
    split
    next t h => rw [h] at hseq; exact hseq
    next t h =>
      rw [h, Rx.state_accept] at hseq
      split <;> simp [hseq]

/-! ### MOVE -/

@[simp] theorem copyBody_dieOf (q : Fin 32) (c : Chk) (d : Desc) (n : Nat) : dieOf (copyBody q c d n) = dieOf c.s := by
  dsimp only [copyBody]
  repeat' split
  all_goals simp

@[simp] theorem fillBody_dieOf (q : Fin 32) (c : Chk) (d : Desc) (n : Nat) : dieOf (fillBody q c d n) = dieOf c.s := by
  dsimp only [fillBody]
  repeat' split
  all_goals simp

@[simp] theorem atomicStep_dieOf (w : Who) (code : Nat) (a : Atomic) (x : Chk × List Nat) (p : Nat × Nat) :
    dieOf (atomicStep w code a x p).1.s = dieOf x.1.s := by
  dsimp only [atomicStep]
  repeat' split
  all_goals simp

/-- A fold of atomic steps. -/
@[simp] theorem atomicSteps_dieOf (w : Who) (code : Nat) (a : Atomic) (ps : List (Nat × Nat)) (x : Chk × List Nat) :
    dieOf (ps.foldl (atomicStep w code a) x).1.s = dieOf x.1.s :=
  dieOf_foldlBy (fun x : Chk × List Nat => x.1.s) (atomicStep_dieOf w code a) ps x

@[simp] theorem atomicBody_dieOf (code : Nat) (q : Fin 32) (c : Chk) (d : Desc) (n : Nat) :
    dieOf (atomicBody code q c d n) = dieOf c.s := by
  dsimp only [atomicBody]
  split
  · simp
  · split <;> simp

@[simp] theorem startAtomic_dieOf (code : Nat) (q : Fin 32) (env : List Finding) (s : State) :
    dieOf (startAtomic code q env s) = dieOf s := by simp [startAtomic]

/-! ### Reductions -/

@[simp] theorem updG_dieOf (s : State) (n : Nat) (f : Group → Group) : dieOf (updG s n f) = dieOf s := (rfl)
@[simp] theorem setReduce_dieOf (s : State) (q : Fin 32) (r : Reduce) : dieOf (setReduce s q r) = dieOf s := (rfl)
@[simp] theorem sendPkt_dieOf (s : State) (addr dport : Nat) (p : Pkt) :
    dieOf (sendPkt s addr dport p) = dieOf s := by simp [sendPkt]
@[simp] theorem sendAll_dieOf (s : State) (ms : List Member) (p : Pkt) : dieOf (sendAll s ms p) = dieOf s := by simp [sendAll]

@[simp] theorem cflEvent_dieOf (s : State) (q : Fin 32) (r : Reduce) (cause : Nat) (rank? : Option Nat) (count : Nat)
    (window? addr? : Option Nat) :
    dieOf (cflEvent s q r cause rank? count window? addr?) = dieOf s := by simp [cflEvent]

@[simp] theorem cflStale_dieOf (s : State) : dieOf (cflStale s) = dieOf s := (rfl)
@[simp] theorem holdWrites_dieOf (s : State) (q : Fin 32) (ws : List MemWrite) : dieOf (holdWrites s q ws) = dieOf s := (rfl)

@[simp] theorem writeResult_dieOf (s : State) (q : Fin 32) (r : Reduce) (i n : Nat) (payload : List Byte) (poison : Bool) :
    dieOf (writeResult s q r i n payload poison) = dieOf s := by simp [writeResult]

@[simp] theorem guardWrite_dieOf (s : State) (q : Fin 32) (r : Reduce) (v : Nat) : dieOf (guardWrite s q r v).1 = dieOf s := by
  simp [guardWrite]

@[simp] theorem writeGuard_dieOf (s : State) (q : Fin 32) (r : Reduce) (v : Nat) : dieOf (writeGuard s q r v).1 = dieOf s := by
  simp [writeGuard]

@[simp] theorem markEnded_dieOf (s : State) (r : Reduce) (outcome : Nat) :
    dieOf (markEnded s r outcome) = dieOf s := by simp [markEnded]

@[simp] theorem completeReduce_dieOf (s : State) (q : Fin 32) (c : Cmd) (status : Nat) :
    dieOf (completeReduce s q c status) = dieOf s := by
  simp [completeReduce]

@[simp] theorem finishReduce_dieOf (s : State) (q : Fin 32) (r : Reduce) (outcome rank nan ovf : Nat) :
    dieOf (finishReduce s q r outcome rank nan ovf) = dieOf s := by
  unfold finishReduce
  split <;> simp

@[simp] theorem endGuarded_dieOf (s : State) (q : Fin 32) (r : Reduce) (outcome rank : Nat) (win : Option Nat) :
    dieOf (endGuarded s q r outcome rank win) = dieOf s := by
  dsimp only [endGuarded]
  repeat' split
  all_goals simp

@[simp] theorem endReduce_dieOf (s : State) (q : Fin 32) (r : Reduce) (outcome rank : Nat) (win : Option Nat) :
    dieOf (endReduce s q r outcome rank win) = dieOf s := by simp [endReduce]

@[simp] theorem homeEnds_dieOf (s : State) (q : Fin 32) (r : Reduce) (why rank : Nat) (win : Option Nat) :
    dieOf (homeEnds s q r why rank win) = dieOf s := by simp [homeEnds]

@[simp] theorem tryFinish_dieOf (s : State) (q : Fin 32) : dieOf (tryFinish s q) = dieOf s := by
  unfold tryFinish
  split <;> simp

@[simp] theorem homeDone_dieOf (s : State) (q : Fin 32) : dieOf (homeDone s q) = dieOf s := by
  unfold homeDone
  split <;> simp

@[simp] theorem completeWindow_dieOf (s : State) (q : Fin 32) (r : Reduce) (x : Window) :
    dieOf (completeWindow s q r x) = dieOf s := by
  simp [completeWindow]

@[simp] theorem putWindow_dieOf (s : State) (q : Fin 32) (r : Reduce) (x : Window) : dieOf (putWindow s q r x) = dieOf s := by
  simp [putWindow]

@[simp] theorem compareCopies_dieOf (s : State) (q : Fin 32) (r : Reduce) (c : CopyCrc) :
    dieOf (compareCopies s q r c).1 = dieOf s := by
  dsimp only [compareCopies]
  repeat' split
  all_goals simp

@[simp] theorem readPart_dieOf (s : State) (q : Fin 32) (env : List Finding) (r : Reduce) (i n : Nat) :
    dieOf (readPart s q env r i n).1 = dieOf s := by simp [readPart]

@[simp] theorem sendGrants_dieOf (s : State) (g : Group) (r : Reduce) (w : Nat) (ms : List Member) :
    dieOf (sendGrants s g r w ms) = dieOf s := by simp [sendGrants]

@[simp] theorem substEvents_dieOf (s : State) (q : Fin 32) (ranks : List Nat) : dieOf (substEvents s q ranks) = dieOf s := by
  refine dieOf_foldl (fun s k => ?_) ranks s
  dsimp only
  repeat' split
  all_goals simp

@[simp] theorem ranksLate_dieOf (s : State) (q : Fin 32) (ahead : List Nat) (hit : Window → Nat → Bool) :
    dieOf (ranksLate s q ahead hit) = dieOf s := by
  unfold ranksLate
  split <;> simp

@[simp] theorem routesGone_dieOf (s : State) (q : Fin 32) (gone : Nat → Bool) : dieOf (routesGone s q gone) = dieOf s := by
  unfold routesGone
  split <;> simp

@[simp] theorem routesLost_dieOf (s : State) (p : Fin 16) : dieOf (routesLost s p) = dieOf s := by simp [routesLost]

@[simp] theorem holdOrStale_dieOf (s : State) (src port : Nat) (p : Pkt) (bytes : List Byte) :
    dieOf (holdOrStale s src port p bytes) = dieOf s := by simp [holdOrStale]

@[simp] theorem answerGrant_dieOf (s : State) (q : Fin 32) (src : Nat) (p : Pkt) (env : List Finding) :
    dieOf (answerGrant s q src p env) = dieOf s := by
  unfold answerGrant
  split <;> simp

@[simp] theorem takeContrib_dieOf (s : State) (q : Fin 32) (p : Pkt) (accBad : Bool) :
    dieOf (takeContrib s q p accBad) = dieOf s := by
  dsimp only [takeContrib]
  repeat' split
  all_goals simp

@[simp] theorem takeResult_dieOf (s : State) (q : Fin 32) (p : Pkt) : dieOf (takeResult s q p) = dieOf s := by
  unfold takeResult
  split <;> simp

@[simp] theorem takeDone_dieOf (s : State) (q : Fin 32) (p : Pkt) : dieOf (takeDone s q p) = dieOf s := by
  unfold takeDone
  split <;> simp

@[simp] theorem takeAbort_dieOf (s : State) (q : Fin 32) (p : Pkt) : dieOf (takeAbort s q p) = dieOf s := by
  unfold takeAbort
  split <;> simp

@[simp] theorem deliverPkt_dieOf (s : State) (src port : Nat) (bytes : List Byte) (env : List Finding) (accBad : Bool) :
    dieOf (deliverPkt s src port bytes env accBad) = dieOf s := by
  dsimp only [deliverPkt]
  repeat' split
  all_goals simp

@[simp] theorem deliverReduction_dieOf (s : State) (p : Fin 16) (src port : Nat) (bytes : List Byte) (env : List Finding)
    (accBad : Bool) :
    dieOf (deliverReduction s p src port bytes env accBad) = dieOf s := by simp [deliverReduction]

@[simp] theorem deliverAs_dieOf (type : Nat) (src : BitVec 16) (port : Fin 16) (pkt : List Byte) (env : List Finding)
    (accBad : Bool) (s : State) :
    dieOf (deliverAs type src port pkt env accBad s) = dieOf s := by simp [deliverAs]

/-! ### Groups -/

@[simp] theorem takeEarly_dieOf (s : State) (env : List Finding) (group bucket step : Nat) :
    dieOf (takeEarly s env group bucket step) = dieOf s := by simp [takeEarly]

@[simp] theorem unarmedBody_dieOf (q : Fin 32) (c : Chk) (d : Desc) (n guard : Nat) :
    dieOf (unarmedBody q c d n guard) = dieOf c.s := by
  simp [unarmedBody]

@[simp] theorem reduceBody_dieOf (q : Fin 32) (c : Chk) (d : Desc) (n : Nat) : dieOf (reduceBody q c d n) = dieOf c.s := by
  simp [reduceBody]

@[simp] theorem readEntries_dieOf (addr k j : Nat) (c : Chk) : dieOf (readEntries addr k j c).1.s = dieOf c.s := by
  induction k generalizing j c with
  | zero => rfl
  | succ k ih =>
    dsimp only [readEntries]
    repeat' split
    all_goals simp [ih]

@[simp] theorem readTable_dieOf (s : State) (env : List Finding) (addr n : Nat) : dieOf (readTable s env addr n).1 = dieOf s :=
  readEntries_dieOf _ _ _ _

@[simp] theorem armGroup_dieOf (s : State) (n : Fin 8) (env : List Finding) : dieOf (armGroup s n env) = dieOf s := by
  dsimp only [armGroup]
  repeat' split
  all_goals simp

@[simp] theorem grpCtlEffect_dieOf (s : State) (n : Fin 8) (v : Nat) (env : List Finding) :
    dieOf (grpCtlEffect s n v env) = dieOf s := by
  simp [grpCtlEffect]

@[simp] theorem grpWrite_dieOf (s : State) (n : Fin 8) (off v : Nat) (clamped : Bool) (env : List Finding) :
    dieOf (grpWrite s n off v clamped env) = dieOf s := by simp [grpWrite]

@[simp] theorem grpCtlWrite_dieOf (s : State) (n : Fin 8) (v : Nat) (env : List Finding) :
    dieOf (grpCtlWrite s n v env) = dieOf s := by
  simp [grpCtlWrite]

/-! ### HALT, enabling and disabling, job-fatal errors -/

@[simp] theorem updPart_dieOf (s : State) : dieOf (updPart s) = dieOf s := (rfl)

@[simp] theorem tracePhases_dieOf (s : State) (c : Cmd) (w : Who) (ps : List Nat) : dieOf (tracePhases s c w ps) = dieOf s := by
  simp [tracePhases]

@[simp] theorem stopUpdate_dieOf (s : State) (w : Who) (cmd : Cmd) (blocks : List (List MemWrite × Bool))
    (chunks : List (List MemWrite × Nat)) (guarded : Nat) (tripped : Bool) :
    dieOf (stopUpdate s w cmd blocks chunks guarded tripped).1 = dieOf s := by simp [stopUpdate]

@[simp] theorem stopReduce_dieOf (s : State) (q : Fin 32) (r : Reduce) (held : List MemWrite) (quiet : Bool) :
    dieOf (stopReduce s q r held quiet).1 = dieOf s := by simp [stopReduce]

@[simp] theorem stopOne_dieOf (s : State) (q : Fin 32) (c : Cmd) (status : Nat) (quiet : Bool) :
    dieOf (stopOne s q c status quiet) = dieOf s := by
  unfold stopOne
  split <;> simp

@[simp] theorem stopQueue_dieOf (s : State) (q : Fin 32) (st : QState) (status cause : Nat) (quiet : Bool) :
    dieOf (stopQueue s q st status cause quiet) = dieOf s := by simp [stopQueue]

@[simp] theorem haltMask_dieOf (s : State) (mask : Nat) (quiet : Bool) :
    dieOf (haltMask s mask quiet) = dieOf s := by simp [haltMask]

@[simp] theorem sendHalt_dieOf (s : State) (except : Option (Fin 16)) (msg : Nat → List Byte) :
    dieOf (sendHalt s except msg) = dieOf s := by
  simp [sendHalt]

@[simp] theorem haltRequest_dieOf (s : State) (v : Nat) : dieOf (haltRequest s v) = dieOf s := by simp [haltRequest]

@[simp] theorem applyHaltMsg_dieOf (s : State) (p : Fin 16) (msg : List Byte) : dieOf (applyHaltMsg s p msg) = dieOf s := by
  simp [applyHaltMsg]

@[simp] theorem queueEnable_dieOf (s : State) (q : Fin 32) (v : Nat) : dieOf (queueEnable s q v) = dieOf s := by simp [queueEnable]
@[simp] theorem queueDisable_dieOf (s : State) (q : Fin 32) (v : Nat) :
    dieOf (queueDisable s q v) = dieOf s := by simp [queueDisable]
@[simp] theorem queueCtlWrite_dieOf (s : State) (q : Fin 32) (v : Nat) :
    dieOf (queueCtlWrite s q v) = dieOf s := by simp [queueCtlWrite]
@[simp] theorem abortMissing_dieOf (s : State) (n : Nat) (b : LiveBucket) :
    dieOf (abortMissing s n b) = dieOf s := by simp [abortMissing]

@[simp] theorem jobFatalSteps_dieOf (s : State) : dieOf (jobFatalSteps s) = dieOf s := by
  simp [jobFatalSteps]

@[simp] theorem jobFatalError_dieOf (s : State) (w : Who) (cause unit index count : Nat) :
    dieOf (jobFatalError s w cause unit index count) = dieOf s := by simp [jobFatalError]

/-! ### Runs of LAYER descriptors -/

@[simp] theorem retireEngine_dieOf (s : State) (w : Who) (e : Fin 96) :
    dieOf (retireEngine s w e) = dieOf s := by simp [retireEngine]

@[simp] theorem engUncorrected_dieOf (s : State) (w : Who) (e : Fin 96) (l : Nat) : dieOf (engUncorrected s w e l) = dieOf s := by
  simp [engUncorrected]

@[simp] theorem stageUncorrected_dieOf (s : State) (w : Who) (c : Fin 16) (l : Nat) :
    dieOf (stageUncorrected s w c l) = dieOf s := by
  simp [stageUncorrected]

@[simp] theorem layerEcc_dieOf (w : Who) (s : State) (f : EngFault) : dieOf (layerEcc w s f) = dieOf s := by
  unfold layerEcc
  split <;> simp

@[simp] theorem reconfig_dieOf (s : State) (w : Who) (e : Fin 96) (c : SpliceCfg) : dieOf (reconfig s w e c) = dieOf s := by
  simp [reconfig]

@[simp] theorem tracePass_dieOf (s : State) (w : Who) (e : Fin 96) (tag tile steps : Nat) :
    dieOf (tracePass s w e tag tile steps) = dieOf s := by simp [tracePass]

@[simp] theorem layerPass_dieOf (w : Who) (e : Fin 96) (cfg : SpliceCfg) (psn : Bool) (ts : List Nat) (s : State) :
    dieOf (layerPass w e cfg psn ts s) = dieOf s := by simp [layerPass]

@[simp] theorem dealTiles_dieOf (s : State) (w : Who) (l : LayerD) (cfg : SpliceCfg) (psn : Bool) (tiles : List Nat)
    (mine : Nat → Bool) :
    dieOf (dealTiles s w l cfg psn tiles mine) = dieOf s := by
  unfold dealTiles
  refine dieOf_foldl (fun s x => ?_) _ s
  dsimp only
  generalize List.filter _ _ = ts
  split <;> simp

@[simp] theorem engFault_dieOf (w : Who) (x : State × List EngErr) (f : EngFault) : dieOf (engFault w x f).1 = dieOf x.1 := by
  unfold engFault
  split <;> simp

@[simp] theorem accFlag_dieOf (x : State × List (Nat × Nat)) (e bit : Nat) :
    dieOf (accFlag x e bit).1 = dieOf x.1 := by simp [accFlag]

@[simp] theorem countTiles_dieOf (s : State) (tiles : List Nat) (ev : TileEv) : dieOf (countTiles s tiles ev) = dieOf s := by
  simp [countTiles]

@[simp] theorem accFlags_dieOf (s : State) (tiles : List Nat) (flagged : List (Nat × Nat)) (ev : TileEv) :
    dieOf (accFlags s tiles flagged ev).1 = dieOf s := by simp [accFlags]

@[simp] theorem Over.line_dieOf (w : Who) (x : Over) (l : Nat) : dieOf (Over.line w x l).c.s = dieOf x.c.s := by
  dsimp only [Over.line]
  repeat' split
  all_goals simp

@[simp] theorem Over.read_dieOf (w : Who) (x : Over) (r : Nat × Nat) :
    dieOf (Over.read w x r).c.s = dieOf x.c.s := by simp [Over.read]

@[simp] theorem readTensors_dieOf (w : Who) (x : Over) (l : LayerD) (p : Policy) (hs : List (List Nat)) (hidx r : Nat)
    (replay : Bool) :
    dieOf (readTensors w x l p hs hidx r replay).c.s = dieOf x.c.s := by
  dsimp only [readTensors]
  repeat' split
  all_goals simp

@[simp] theorem containRun_dieOf (s : State) (q : Fin 32) (before : List Cmd) (c : Cmd) (all : Bool) (res : List Byte) :
    dieOf (containRun s q before c all res) = dieOf s := by simp [containRun]

@[simp] theorem stopRun_dieOf (s : State) (q : Fin 32) (before : List Cmd) (c : Cmd) (poison all : Bool) :
    dieOf (stopRun s q before c poison all) = dieOf s := by simp [stopRun]

@[simp] theorem degraded_dieOf (s : State) (ceil : Option Nat) : dieOf (degraded s ceil) = dieOf s := by simp [degraded]
@[simp] theorem usedEngines_dieOf (s : State) (psn : Bool) (tiles : List Nat) : dieOf (usedEngines s psn tiles) = dieOf s := (rfl)
@[simp] theorem poisonSlots_dieOf (s : State) (e : Fin 96) : dieOf (poisonSlots s e) = dieOf s := (rfl)

@[simp] theorem runOp_dieOf (s : State) (w : Who) (r : Run) (o : OpRec) (block : List Byte) (bad : Over) :
    dieOf (runOp s w r o block bad).1 = dieOf s := by simp [runOp]

@[simp] theorem dealAgain_dieOf (q : Fin 32) (idx : BitVec 32) (r : Run) (ev : TileEv) (e : Fin 96) (x : State × OpRec) :
    dieOf (dealAgain q idx r ev e x).1 = dieOf x.1 := by simp [dealAgain]

@[simp] theorem opFault_dieOf (q : Fin 32) (idx : BitVec 32) (r : Run) (ev : TileEv) (x : State × OpRec) (f : EngFault) :
    dieOf (opFault q idx r ev x f).1 = dieOf x.1 := by simp [opFault]

@[simp] theorem runFaults_dieOf (s : State) (q : Fin 32) (idx : BitVec 32) (k : Nat) (r : Run) (o : OpRec) (ev : TileEv)
    (faults : List EngFault) :
    dieOf (runFaults s q idx k r o ev faults).1 = dieOf s := by simp [runFaults]

@[simp] theorem beginBlock_dieOf (w : Nat × Nat) (s : State) (p : Policy) (ceil : Option Nat) (addr step : Nat) (b : List Byte) :
    dieOf (beginBlock w s p ceil addr step b) = dieOf s := by simp [beginBlock]

@[simp] theorem beginRun_dieOf (w : Nat × Nat) (s : State) (d : Desc) (b : List Byte) : dieOf (beginRun w s d b).1 = dieOf s := by
  simp [beginRun]

@[simp] theorem stopLayer_dieOf (s : State) (q : Fin 32) (d : Desc) (n mask : Nat) (all : Bool) (res : List Byte) :
    dieOf (stopLayer s q d n mask all res) = dieOf s := by
  dsimp only [stopLayer]
  repeat' split
  all_goals simp

@[simp] theorem layerBody_dieOf (q : Fin 32) (faults : List EngFault) (c : Chk) (d : Desc) (n : Nat) (r : Run) :
    dieOf (layerBody q faults c d n r) = dieOf c.s := by
  unfold layerBody
  extract_lets idx w ly l p man block hidx rs x seen sa sb sc eddy n₁ x₁ n₂ s tiles mask s₁ before k z s₂ bad y s₃
  have hstart : dieOf s₁ = dieOf c.s := by simp [s₁, s, x₁, x]
  have hrun : dieOf s₃ = dieOf c.s := by simp [s₃, y, s₂, z, hstart]
  split
  · simp [hstart]
  · split <;> simp [hrun]

@[simp] theorem stoppedAtBlock_dieOf (q : Fin 32) (c : Chk) (d : Desc) (n : Nat) (ceil : Option Nat) (st : Stop) (res : List Byte) :
    dieOf (stoppedAtBlock q c d n ceil st res) = dieOf c.s := by simp [stoppedAtBlock]

@[simp] theorem firstLayer_dieOf (q : Fin 32) (faults : List EngFault) (c : Chk) (d : Desc) (n : Nat) :
    dieOf (firstLayer q faults c d n) = dieOf c.s := by
  dsimp only [firstLayer]
  repeat' split
  all_goals simp

@[simp] theorem nextLayer_dieOf (q : Fin 32) (faults : List EngFault) (c : Chk) (d : Desc) (n : Nat) (r : Run) :
    dieOf (nextLayer q faults c d n r) = dieOf c.s := by
  dsimp only [nextLayer]
  repeat' split
  all_goals simp

@[simp] theorem replayEvent_dieOf (s : State) (q : Fin 32) (idx : BitVec 32) (r : Run) (o : OpRec) (stands : Bool) :
    dieOf (replayEvent s q idx r o stands) = dieOf s := by simp [replayEvent]

@[simp] theorem rerunOp_dieOf (q : Fin 32) (r : Run) (faults : List EngFault) (idx : Nat → BitVec 32) (x : Rerun) (o : OpRec) :
    dieOf (rerunOp q r faults idx x o).c.s = dieOf x.c.s := by
  dsimp only [rerunOp]
  repeat' split
  all_goals simp

@[simp] theorem stopAt_dieOf (s : State) (q : Fin 32) (cmds : List Cmd) (k : Nat) (poison all : Bool) :
    dieOf (stopAt s q cmds k poison all) = dieOf s := by
  unfold stopAt
  split <;> simp

@[simp] theorem startReplay_dieOf (q : Fin 32) (s : State) (r : Run) (m : Nat) (o : OpRec) :
    dieOf (startReplay q s r m o) = dieOf s := by
  simp [startReplay]

@[simp] theorem replayRun_dieOf (q : Fin 32) (env : List Finding) (faults : List EngFault) (s : State) (r : Run) (m : Nat) :
    dieOf (replayRun q env faults s r m) = dieOf s := by
  dsimp only [replayRun]
  repeat' split
  all_goals simp

@[simp] theorem standsRecord_dieOf (s : State) (q : Fin 32) (r : Run) (cmds : List Cmd) :
    dieOf (standsRecord s q r cmds) = dieOf s := by
  dsimp only [standsRecord]
  repeat' split
  all_goals simp

@[simp] theorem commitRun_dieOf (s : State) (q : Fin 32) (r : Run) : dieOf (commitRun s q r) = dieOf s := by
  dsimp only [commitRun]
  repeat' split
  all_goals simp

/-! ### Array engines -/

@[simp] theorem scrWrite_dieOf (s : State) (e : Fin 96) (off : Nat) (bs : List Byte) :
    dieOf (scrWrite s e off bs) = dieOf s := (rfl)

@[simp] theorem EChk.readLine_dieOf (e : Fin 96) (c : EChk) (l : Nat) : dieOf (EChk.readLine e c l).s = dieOf c.s := by
  dsimp only [EChk.readLine]
  repeat' split
  all_goals simp

@[simp] theorem EChk.read_dieOf (e : Fin 96) (c : EChk) (off n : Nat) :
    dieOf (EChk.read e c off n).s = dieOf c.s := by simp [EChk.read]

@[simp] theorem loadEffect_dieOf (e : Fin 96) (i : ArrayInsn) (a : Bool) (s : State) : dieOf (loadEffect e i a s) = dieOf s := by
  dsimp only [loadEffect]
  repeat' split
  all_goals simp

@[simp] theorem engFlag_dieOf (s : State) (e : Fin 96) (bit : Nat) : dieOf (engFlag s e bit) = dieOf s := (rfl)
@[simp] theorem engPoison_dieOf (s : State) (e : Fin 96) : dieOf (engPoison s e) = dieOf s := (rfl)

@[simp] theorem slotStep_dieOf (e : Fin 96) (q : Nat) (first psn float : Bool) (rs cs : Nat → Nat)
    (f : Nat → Nat → Int × Int → Acc → Acc)
    (x : StepEv) : dieOf (slotStep e q first psn float rs cs f x).c.s = dieOf x.c.s := by
  unfold slotStep
  extract_lets found src c₀ c₁ c₂ sideBad new acc flags all ok as tag s₀ s₁ s₂
  have hread : dieOf c₂.s = dieOf x.c.s := by
    have hslot : dieOf c₁.s = dieOf x.c.s := by
      unfold c₁
      split <;> simp [c₀, src]
    unfold c₂
    split <;> simp [hslot]
  have hflags : ∀ c as psn, dieOf (flags c as psn).c.s = dieOf c.s := by
    intro c as psn
    simp [flags]
  split
  · exact hread
  split
  · simp [hflags, hread]
  · rw [hflags]
    simp [s₂, s₁, s₀, hread]

@[simp] theorem StepEv.flags_dieOf (e : Fin 96) (x : StepEv) : dieOf (StepEv.flags e x) = dieOf x.c.s := by simp [StepEv.flags]

@[simp] theorem oneStep_dieOf (e : Fin 96) (i : ArrayInsn) (cfg : SpliceCfg) (b : StatBuf) (x : StepEv) (t : Nat) :
    dieOf (oneStep e i cfg b x t).c.s = dieOf x.c.s := by simp [oneStep]

@[simp] theorem stepsEffect_dieOf (e : Fin 96) (i : ArrayInsn) (a : Bool) (b : StatBuf) (s : State) :
    dieOf (stepsEffect e i a b s) = dieOf s := by simp [stepsEffect]

@[simp] theorem ewiseBlock_dieOf (e : Fin 96) (i : ArrayInsn) (x : StepEv) (j : Nat) :
    dieOf (ewiseBlock e i x j).c.s = dieOf x.c.s := by
  simp [ewiseBlock]

@[simp] theorem ewiseEffect_dieOf (e : Fin 96) (i : ArrayInsn) (s : State) :
    dieOf (ewiseEffect e i s) = dieOf s := by simp [ewiseEffect]

theorem tryLoad_dieOf {e : Fin 96} {s t : State} (h : tryLoad e s = some t) : dieOf t = dieOf s := by
  unfold tryLoad at h
  split at h
  · cases h
  · dsimp only at h
    split at h
    · cases h
    · obtain ⟨a, -, rfl⟩ := Option.map_eq_some_iff.1 h
      simp

theorem tryStep_dieOf {e : Fin 96} {s t : State} (h : tryStep e s = some t) : dieOf t = dieOf s := by
  unfold tryStep at h
  split at h
  · cases h
  · split at h
    · cases h
    · obtain ⟨b, -, rfl⟩ := Option.map_eq_some_iff.1 h
      simp
  · cases h
    simp
  · cases h
    simp

@[simp] theorem engAdvance_dieOf (e : Fin 96) (n : Nat) (s : State) : dieOf (engAdvance e n s) = dieOf s := by
  induction n generalizing s with
  | zero => rfl
  | succ n ih =>
    unfold engAdvance
    split
    next t h => rw [ih, tryStep_dieOf h]
    next =>
      split
      next t h => rw [ih, tryLoad_dieOf h]
      next => rfl

@[simp] theorem engRun_dieOf (e : Fin 96) (s : State) : dieOf (engRun e s) = dieOf s := by simp [engRun]
@[simp] theorem inject_dieOf (e : Fin 96) (i : ArrayInsn) (o : ArrayOp) (s : State) :
    dieOf (inject e i o s) = dieOf s := by simp [inject]

/-! ### The gauge -/

@[simp] theorem updGauge_dieOf (s : State) (f : Gauge → Gauge) : dieOf (updGauge s f) = dieOf s := (rfl)
@[simp] theorem jumpTo_dieOf (s : State) (new : Nat) : dieOf (jumpTo s new) = dieOf s := (rfl)
@[simp] theorem adopt_dieOf (s : State) (new : Nat) : dieOf (adopt s new) = dieOf s := by simp [adopt]
@[simp] theorem tick_dieOf (s : State) : dieOf (tick s) = dieOf s := (rfl)
@[simp] theorem freeRun_dieOf (s : State) : dieOf (freeRun s) = dieOf s := (rfl)

@[simp] theorem adoptSource_dieOf (s : State) (count sub epoch : Nat) : dieOf (adoptSource s count sub epoch) = dieOf s := by
  simp [adoptSource]

@[simp] theorem relink_dieOf (s : State) (now : Option (Fin 16)) : dieOf (relink s now) = dieOf s := by
  dsimp only [relink]
  repeat' split
  all_goals simp

@[simp] theorem gaugePortLeft_dieOf (s : State) (p : Fin 16) : dieOf (gaugePortLeft s p) = dieOf s := by simp [gaugePortLeft]
@[simp] theorem gaugeLost_dieOf (s : State) : dieOf (gaugeLost s) = dieOf s := by simp [gaugeLost]
@[simp] theorem gaugeLock_dieOf (s : State) (t epoch : Nat) : dieOf (gaugeLock s t epoch) = dieOf s := by simp [gaugeLock]
@[simp] theorem gaugeAdopt_dieOf (s : State) (t epoch : Nat) : dieOf (gaugeAdopt s t epoch) = dieOf s := by simp [gaugeAdopt]

/-! ### The life of a port -/

@[simp] theorem linkEvent_dieOf (s : State) (p : Fin 16) (cause old : Nat) : dieOf (linkEvent s p cause old) = dieOf s := by
  simp [linkEvent]

@[simp] theorem portDrops_dieOf (n : Nat) (s : State) (p : Fin 16) : dieOf (portDrops n s p) = dieOf s := by
  induction n generalizing s with
  | zero => rfl
  | succ n ih =>
    unfold portDrops
    simp [ih]

@[simp] theorem forgetBufs_dieOf (s : State) (p : Fin 16) : dieOf (forgetBufs s p) = dieOf s := (rfl)
@[simp] theorem portLeave_dieOf (s : State) (p : Fin 16) (st : PState) : dieOf (portLeave s p st) = dieOf s := by simp [portLeave]
@[simp] theorem portDown_dieOf (s : State) (p : Fin 16) : dieOf (portDown s p) = dieOf s := by simp [portDown]

@[simp] theorem portQuarantine_dieOf (s : State) (p : Fin 16) (reason : Nat) : dieOf (portQuarantine s p reason) = dieOf s := by
  simp [portQuarantine]

@[simp] theorem portCtlWrite_dieOf (s : State) (p : Fin 16) (v : Nat) :
    dieOf (portCtlWrite s p v) = dieOf s := by simp [portCtlWrite]

@[simp] theorem routeLoad_dieOf (s : State) (addr : Nat) (env : List Finding) : dieOf (routeLoad s addr env) = dieOf s := by
  dsimp only [routeLoad]
  repeat' split
  all_goals simp

@[simp] theorem routeWrite_dieOf (s : State) (v : Nat) (env : List Finding) :
    dieOf (routeWrite s v env) = dieOf s := by simp [routeWrite]
@[simp] theorem joinTranscript_dieOf (s : State) (p : Fin 16) (bytes : List Byte) :
    dieOf (joinTranscript s p bytes) = dieOf s := (rfl)
@[simp] theorem enterAuth_dieOf (s : State) (p : Fin 16) : dieOf (enterAuth s p) = dieOf s := by simp [enterAuth]
@[simp] theorem backActive_dieOf (s : State) (p : Fin 16) : dieOf (backActive s p) = dieOf s := by simp [backActive]

@[simp] theorem sendAuth_dieOf (s : State) (p : Fin 16) (name : String) (body : List Byte) :
    dieOf (sendAuth s p name body) = dieOf s := by
  simp [sendAuth]

@[simp] theorem authLine_dieOf (s : State) (p : Fin 16) (l : LineCheck) {go : State → State} (hgo : ∀ s, dieOf (go s) = dieOf s) :
    dieOf (authLine s p l go) = dieOf s := by
  simp [authLine, hgo]

@[simp] theorem takeHello_dieOf (s : State) (p : Fin 16) (m : HelloMsg) : dieOf (takeHello s p m) = dieOf s := by simp [takeHello]

@[simp] theorem authMsg_dieOf (s : State) (p : Fin 16) (m : LinkMsg) (step : Nat) {go : State → State}
    (hgo : ∀ s, dieOf (go s) = dieOf s) : dieOf (authMsg s p m step go) = dieOf s := by
  simp [authMsg, hgo]

@[simp] theorem goActive_dieOf (s : State) (p : Fin 16) : dieOf (goActive s p) = dieOf s := by simp [goActive]

@[simp] theorem retrainAt_dieOf (s : State) (p : Fin 16) (w : Nat) (ls : List Nat) : dieOf (retrainAt s p w ls) = dieOf s := by
  simp [retrainAt]

@[simp] theorem laneDown_dieOf (s : State) (p : Fin 16) (ok : List Nat) : dieOf (laneDown s p ok) = dieOf s := by simp [laneDown]

@[simp] theorem deliver_dieOf (s : State) (d : Delivered) (env : List Finding) (accBad : Bool) :
    dieOf (deliver s d env accBad) = dieOf s := by simp [deliver]

@[simp] theorem deliverLooped_dieOf (s : State) : dieOf (deliverLooped s) = dieOf s := by
  unfold deliverLooped
  split <;> simp

@[simp] theorem idle_dieOf (s : State) : dieOf (idle s) = dieOf s := by simp [idle]

/-! ### Snapshots, traces and the mailbox -/

@[simp] theorem snapselWrite_dieOf (s : State) (v : Nat) : dieOf (snapselWrite s v) = dieOf s := by simp [snapselWrite]
@[simp] theorem suStore_dieOf (s : State) (off v : Nat) : dieOf (suStore s off v) = dieOf s := (rfl)
@[simp] theorem tctlWrite_dieOf (s : State) (c : Fin 16) (v : Nat) : dieOf (tctlWrite s c v) = dieOf s := by simp [tctlWrite]
@[simp] theorem trigWrite_dieOf (s : State) (c : Fin 16) (v : Nat) : dieOf (trigWrite s c v) = dieOf s := by simp [trigWrite]
@[simp] theorem markWrite_dieOf (s : State) (v : Nat) : dieOf (markWrite s v) = dieOf s := by simp [markWrite]
@[simp] theorem evselWrite_dieOf (s : State) (c : Fin 16) (v : Nat) : dieOf (evselWrite s c v) = dieOf s := (rfl)
@[simp] theorem mbxSelWrite_dieOf (s : State) (v : Nat) : dieOf (mbxSelWrite s v) = dieOf s := by simp [mbxSelWrite]
@[simp] theorem mbxReqWrite_dieOf (s : State) (v : Nat) : dieOf (mbxReqWrite s v) = dieOf s := by simp [mbxReqWrite]

/-! ### Queues -/

@[simp] theorem startDone_dieOf (s : State) (q : Fin 32) (d : Desc) (clamps : Nat) (f : Cmd → Cmd) :
    dieOf (startDone s q d clamps f) = dieOf s := by simp [startDone]

@[simp] theorem signalBody_dieOf (q : Fin 32) (c : Chk) (d : Desc) (n : Nat) : dieOf (signalBody q c d n) = dieOf c.s := by
  dsimp only [signalBody]
  repeat' split
  all_goals simp

@[simp] theorem evAdmit_dieOf (s : State) : dieOf (evAdmit s) = dieOf s := by
  unfold evAdmit
  split <;> simp

@[simp] theorem writeEvent_dieOf (s : State) : dieOf (writeEvent s) = dieOf s := by
  unfold writeEvent
  split <;> simp

/-! ### Wipes and device-fatal errors -/

@[simp] theorem clearBanks_dieOf (s : State) : dieOf (clearBanks s) = dieOf s := (rfl)
@[simp] theorem wipeBanks_dieOf (s : State) : dieOf (wipeBanks s) = dieOf s := (rfl)
@[simp] theorem wipe_dieOf (ok : Bool) (s : State) : dieOf (wipe ok s) = dieOf s := by simp [wipe]

@[simp] theorem flushEvents_dieOf (n : Nat) (s : State) : dieOf (flushEvents n s) = dieOf s := by
  induction n generalizing s with
  | zero => rfl
  | succ n ih =>
    unfold flushEvents
    simp [ih]

@[simp] theorem fatalRecord_dieOf (s : State) (cause unit index : Nat) : dieOf (fatalRecord s cause unit index) = dieOf s := by
  simp [fatalRecord]

@[simp] theorem fatalQueues_dieOf (s : State) : dieOf (fatalQueues s) = dieOf s := by
  simp [fatalQueues]

@[simp] theorem fatalPorts_dieOf (s : State) : dieOf (fatalPorts s) = dieOf s := by simp [fatalPorts]

@[simp] theorem deviceFatalAt_dieOf (s : State) (cause unit index : Nat) (wipeOk : Bool) :
    dieOf (deviceFatalAt s cause unit index wipeOk) = dieOf s := by simp [deviceFatalAt]

@[simp] theorem deviceFatal_dieOf (s : State) (cause : Nat) (wipeOk : Bool) : dieOf (deviceFatal s cause wipeOk) = dieOf s := by
  simp [deviceFatal]

@[simp] theorem zeroKeys_dieOf (s : State) : dieOf (zeroKeys s) = dieOf s := (rfl)

/-! ### Resets, boot and power -/

@[simp] theorem heldState_dieOf (s : State) (cause : Nat) : dieOf (heldState s cause) = dieOf s := (rfl)
@[simp] theorem romHold_dieOf (s : State) (status : Nat) : dieOf (romHold s status) = dieOf s := (rfl)

@[simp] theorem selfTest_dieOf (s : State) (found : List (Fin 96 × BitVec 5)) : dieOf (selfTest s found) = dieOf s := by
  unfold selfTest
  refine dieOf_foldl (fun s e => ?_) (List.finRange 96) s
  dsimp only
  split
  · rfl
  · split <;> simp

@[simp] theorem bootImage_dieOf (s : State) (env : BootEnv) (m : Image) (slotB fallback : Bool) :
    dieOf (bootImage s env m slotB fallback) = dieOf s := by simp [bootImage]

@[simp] theorem boot_dieOf (s : State) (env : BootEnv) : dieOf (boot s env) = dieOf s := by
  dsimp only [boot]
  repeat' split
  all_goals simp

@[simp] theorem moduleReset_dieOf (s : State) (cause : Nat) (env : BootEnv) : dieOf (moduleReset s cause env) = dieOf s := by
  simp [moduleReset]

@[simp] theorem glbRstWrite_dieOf (s : State) (v : Nat) (env : BootEnv) :
    dieOf (glbRstWrite s v env) = dieOf s := by simp [glbRstWrite]
@[simp] theorem readyCheck_dieOf (s : State) : dieOf (readyCheck s) = dieOf s := by simp [readyCheck]
@[simp] theorem powerOff_dieOf (s : State) : dieOf (powerOff s) = dieOf s := (rfl)
@[simp] theorem raiseEvents_dieOf (s : State) (es : List (Nat × Bool)) : dieOf (raiseEvents s es) = dieOf s := by simp [raiseEvents]

@[simp] theorem criticalShutdown_dieOf (s : State) (sensor : Nat) (rose wipeOk : Bool) :
    dieOf (criticalShutdown s sensor rose wipeOk) = dieOf s := by simp [criticalShutdown]

/-! ### The host link -/

@[simp] theorem maskedBytes_dieOf (s : State) (a mask i : Nat) (bs : List Byte) : dieOf (maskedBytes s a mask i bs) = dieOf s := by
  induction bs generalizing s i with
  | nil => rfl
  | cons b bs ih => simp [maskedBytes, ih]

/-! ### Management -/

@[simp] theorem mreply_dieOf (s : State) (name : String) (code : Nat) (data : List Byte) :
    dieOf (mreply s name code data) = dieOf s :=
  (rfl)

@[simp] theorem collectEvent_dieOf (s : State) (name : String) : dieOf (collectEvent s name) = dieOf s := by
  unfold collectEvent
  split <;> simp

@[simp] theorem setFw_dieOf (s : State) (f : FwState) : dieOf (setFw s f) = dieOf s := (rfl)
@[simp] theorem putFlash_dieOf (s : State) (b : Bool) (m : Option Image) : dieOf (putFlash s b m) = dieOf s := (rfl)

@[simp] theorem fwStep_dieOf (s : State) (tr : Transport) (name : String) (ok : FwState → Bool) {go : State → State}
    (hgo : ∀ s, dieOf (go s) = dieOf s) : dieOf (fwStep s tr name ok go) = dieOf s := by
  simp [fwStep, hgo]

/-! ### Register writes -/

@[simp] theorem suStoreClamped_dieOf (s : State) (off v c : Nat) :
    dieOf (suStoreClamped s off v c) = dieOf s := by simp [suStoreClamped]
@[simp] theorem ringWrite_dieOf (s : State) (q : Fin 32) (off v : Nat) :
    dieOf (ringWrite s q off v) = dieOf s := by simp [ringWrite]
@[simp] theorem evWrite_dieOf (s : State) (v : Nat) : dieOf (evWrite s v) = dieOf s := by simp [evWrite]
@[simp] theorem jobseedWrite_dieOf (s : State) (v : Nat) : dieOf (jobseedWrite s v) = dieOf s := by simp [jobseedWrite]
@[simp] theorem gauCtlWrite_dieOf (s : State) (v : Nat) : dieOf (gauCtlWrite s v) = dieOf s := by simp [gauCtlWrite]
@[simp] theorem cfgCtlWrite_dieOf (s : State) (v : Nat) : dieOf (cfgCtlWrite s v) = dieOf s := by simp [cfgCtlWrite]
@[simp] theorem cfgRefWrite_dieOf (s : State) (v : Nat) : dieOf (cfgRefWrite s v) = dieOf s := (rfl)

@[simp] theorem w1cWrite_dieOf (s : State) (off v : Nat) : dieOf (w1cWrite s off v) = dieOf s := by
  unfold w1cWrite
  split <;> simp

@[simp] theorem writeQue_dieOf (s : State) (off v : Nat) : dieOf (writeQue s off v) = dieOf s := by
  dsimp only [writeQue]
  repeat' split
  all_goals simp

@[simp] theorem writeMem_dieOf (s : State) (off v : Nat) : dieOf (writeMem s off v) = dieOf s := by simp [writeMem]
@[simp] theorem writeLnk_dieOf (s : State) (off v : Nat) : dieOf (writeLnk s off v) = dieOf s := by simp [writeLnk]

@[simp] theorem writeCfl_dieOf (s : State) (off v : Nat) : dieOf (writeCfl s off v) = dieOf s := by
  dsimp only [writeCfl]
  repeat' split
  all_goals simp

@[simp] theorem writeObs_dieOf (s : State) (off v : Nat) : dieOf (writeObs s off v) = dieOf s := by simp [writeObs]
@[simp] theorem writeMbx_dieOf (s : State) (off v : Nat) : dieOf (writeMbx s off v) = dieOf s := by simp [writeMbx]
@[simp] theorem writeCfg_dieOf (s : State) (off v : Nat) : dieOf (writeCfg s off v) = dieOf s := by simp [writeCfg]

@[simp] theorem writeCore_dieOf (s : State) (off v : Nat) : dieOf (writeCore s off v) = dieOf s := by
  unfold writeCore
  split <;> simp

@[simp] theorem bar0Write_dieOf (s : State) (off v : Nat) : dieOf (bar0Write s off v) = dieOf s := by
  dsimp only [bar0Write]
  repeat' split
  all_goals simp

@[simp] theorem drift_dieOf (s : State) : dieOf (drift s) = dieOf s := by simp [drift]

/-! ### SPDM -/

@[simp] theorem reply_dieOf (s : State) (name : String) (data : List Byte) : dieOf (reply s name data) = dieOf s := (rfl)
@[simp] theorem spdmError_dieOf (s : State) (code : String) : dieOf (spdmError s code) = dieOf s := (rfl)
@[simp] theorem bankRead_dieOf (s : State) (f : BankFind) : dieOf (bankRead s f) = dieOf s := by simp [bankRead]

@[simp] theorem spdmServe_dieOf (s : State) (rq : SpdmReq) {go : State → State} (hgo : ∀ s, dieOf (go s) = dieOf s) :
    dieOf (spdmServe s rq go) = dieOf s := by
  unfold spdmServe
  split
  · rfl
  · split <;> simp [hgo]

@[simp] theorem spdm_dieOf (s : State) (rq : SpdmReq) {go : State → State} (hgo : ∀ s, dieOf (go s) = dieOf s) :
    dieOf (spdm s rq go) = dieOf s := by
  simp [spdm, hgo]

@[simp] theorem signed_dieOf (s : State) (name : String) (data : List Byte) :
    dieOf (signed s name data) = dieOf s := by simp [signed]
@[simp] theorem setSession_dieOf (s : State) (tr : Transport) (x : Session) : dieOf (setSession s tr x) = dieOf s := (rfl)

@[simp] theorem vendor_dieOf (s : State) (tr : Transport) (rq : SpdmReq) (code : Nat) {go : State → State}
    (hgo : ∀ s, dieOf (go s) = dieOf s) : dieOf (vendor s tr rq code go) = dieOf s := by
  simp [vendor, hgo]

@[simp] theorem endSessions_dieOf (s : State) : dieOf (endSessions s) = dieOf s := by simp [endSessions]

/-! ### The vector engine -/

@[simp] theorem TX.load_dieOf (w : Who) (i : Insn) (sh : ShardD) (x : TX) : dieOf (TX.load w i sh x).c.s = dieOf x.c.s := by
  dsimp only [TX.load]
  repeat' split
  all_goals simp

@[simp] theorem TX.store_dieOf (w : Who) (i : Insn) (sh : ShardD) (x : TX) : dieOf (TX.store w i sh x).c.s = dieOf x.c.s := by
  unfold TX.store
  split <;> simp

@[simp] theorem TX.exec_dieOf (w : Who) (i : Insn) (x : TX) : dieOf (TX.exec w i x).c.s = dieOf x.c.s := by
  dsimp only [TX.exec]
  repeat' split
  all_goals simp

@[simp] theorem issue_dieOf (op : Nat) (c : Fin 16) (o : TwineOps) (s : State) : dieOf (issue op c o s) = dieOf s := by simp [issue]

/-! ### UPDATE -/

@[simp] theorem Pass.chunk_dieOf (w : Who) (is : List Insn) (pass2 : Bool) (p : Pass) (j : Nat) :
    dieOf (Pass.chunk w is pass2 p j).x.c.s = dieOf p.x.c.s := by
  dsimp only [Pass.chunk]
  repeat' split
  all_goals simp

@[simp] theorem runPass_dieOf (w : Who) (is : List Insn) (pass2 : Bool) (count : Nat) (x : TX) :
    dieOf (runPass w is pass2 count x).x.c.s = dieOf x.c.s := by simp [runPass]

@[simp] theorem Blocks.next_dieOf (w : Who) (sh : ShardD) (b : Blocks) (k : Nat) :
    dieOf (Blocks.next w sh b k).c.s = dieOf b.c.s := by
  dsimp only [Blocks.next]
  repeat' split
  all_goals simp

@[simp] theorem UpdOut.early_dieOf (x : TX) (poison : Bool) : dieOf (UpdOut.early x poison).x.c.s = dieOf x.c.s := (rfl)

@[simp] theorem UpdOut.close_dieOf (w : Who) (sh : ShardD) (o : UpdOut) : dieOf (UpdOut.close w sh o).x.c.s = dieOf o.x.c.s := by
  dsimp only [UpdOut.close]
  repeat' split
  all_goals simp

@[simp] theorem updPass2_dieOf (w : Who) (sh : ShardD) (is : List Insn) (x : TX) (bs : List (List MemWrite × Bool)) :
    dieOf (updPass2 w sh is x bs).x.c.s = dieOf x.c.s := by
  dsimp only [updPass2]
  repeat' split
  all_goals simp

@[simp] theorem updPhases_dieOf (w : Who) (sh : ShardD) (is : List Insn) (word : Nat) (x : TX) :
    dieOf (updPhases w sh is word x).x.c.s = dieOf x.c.s := by
  dsimp only [updPhases]
  repeat' split
  all_goals simp

@[simp] theorem putUpdate_dieOf (q : Fin 32) (d : Desc) (n : Nat) (slot : Option Nat) (o : UpdOut) :
    dieOf (putUpdate q d n slot o) = dieOf o.x.c.s := by
  dsimp only [putUpdate]
  repeat' split
  all_goals simp

@[simp] theorem updateBody_dieOf (q : Fin 32) (c : Chk) (d : Desc) (n : Nat) : dieOf (updateBody q c d n) = dieOf c.s := by
  simp [updateBody]

@[simp] theorem updFlags_dieOf (s : State) (c : Cmd) : dieOf (updFlags s c) = dieOf s := by simp [updFlags]

@[simp] theorem countChunks_dieOf (s : State) (q : Fin 32) (c : Cmd) (chunks : Nat) :
    dieOf (countChunks s q c chunks) = dieOf s := by
  simp [countChunks]

@[simp] theorem updEffect_dieOf (s : State) (q : Fin 32) (c : Cmd) (norm : List MemWrite) (blocks : List (List MemWrite × Bool))
    (chunks : List (List MemWrite × Nat)) (tripped : Bool) :
    dieOf (updEffect s q c norm blocks chunks tripped) = dieOf s := by simp [updEffect]

/-! ### TABLE_LOAD, PROGRAM_LOAD and completion -/

@[simp] theorem CbCopy.next_dieOf (w : Who) (src dst : Nat) (x : CbCopy) (j : Nat) :
    dieOf (CbCopy.next w src dst x j).c.s = dieOf x.c.s := by
  dsimp only [CbCopy.next]
  repeat' split
  all_goals simp

@[simp] theorem codebookBody_dieOf (q : Fin 32) (c : Chk) (d : Desc) (n : Nat) : dieOf (codebookBody q c d n) = dieOf c.s := by
  simp [codebookBody]

@[simp] theorem eddyBody_dieOf (q : Fin 32) (c : Chk) (d : Desc) (n : Nat) :
    dieOf (eddyBody q c d n) = dieOf c.s := by simp [eddyBody]
@[simp] theorem eddyEffect_dieOf (s : State) (t : Nat) (image : List Byte) : dieOf (eddyEffect s t image) = dieOf s := (rfl)

@[simp] theorem precInitBody_dieOf (q : Fin 32) (c : Chk) (d : Desc) (n : Nat) : dieOf (precInitBody q c d n) = dieOf c.s := by
  simp [precInitBody]

@[simp] theorem programBody_dieOf (q : Fin 32) (c : Chk) (d : Desc) (n : Nat) : dieOf (programBody q c d n) = dieOf c.s := by
  simp [programBody]

@[simp] theorem programEffect_dieOf (s : State) (n : Nat) (image : List Byte) : dieOf (programEffect s n image) = dieOf s := (rfl)

@[simp] theorem doneEffect_dieOf (s : State) (q : Fin 32) (c : Cmd) : dieOf (doneEffect s q c) = dieOf s := by
  unfold doneEffect
  split <;> simp

@[simp] theorem containDone_dieOf (s : State) (q : Fin 32) (c : Cmd) : dieOf (containDone s q c) = dieOf s := by
  unfold containDone
  split <;> simp

@[simp] theorem updateDone_dieOf (s : State) (q : Fin 32) (c : Cmd) : dieOf (updateDone s q c) = dieOf s := by simp [updateDone]

/-! ### Commands -/

/-- Where a command goes on, it leaves what the die holds for good. -/
def KeepsDie (s : State) (o : Res) : Prop := ∀ t, o = .next t → dieOf t = dieOf s

@[simp] theorem keepsDie_next {s t : State} : KeepsDie s (.next t) ↔ dieOf t = dieOf s :=
  ⟨fun h => h t rfl, fun h u hu => by cases hu; exact h⟩

@[simp] theorem keepsDie_ite {s : State} {p : Prop} [Decidable p] {a b : Res} :
    KeepsDie s (if p then a else b) ↔ if p then KeepsDie s a else KeepsDie s b := by
  split <;> rfl

/-- A flit that is not the row's own has been counted; another is dropped or accepted by its checks. -/
theorem execCreditFlit_keepsDie (p : Fin 16) (f : Flit) (s : State) : KeepsDie s (execCreditFlit p f s) := by
  have hseq := rxSequenced_dieOf s p f true
  unfold execCreditFlit
  split
  next t h => simp [notFlit_dieOf h]
  next =>
    split
    next t h => simpa [h] using hseq
    next t h =>
      rw [h, Rx.state_accept] at hseq
      simp [hseq]

theorem execKeyUpdate_keepsDie (p : Fin 16) (f : Flit) (s : State) : KeepsDie s (execKeyUpdate p f s) := by
  have hseq := rxSequenced_dieOf s p f true
  unfold execKeyUpdate
  split
  next t h => simp [notFlit_dieOf h]
  next =>
    split
    · simp
    · split
      next t h => simpa [h] using hseq
      next t h =>
        rw [h, Rx.state_accept] at hseq
        simp [hseq]

theorem execRetryReq_keepsDie (p : Fin 16) (f : Flit) (s : State) : KeepsDie s (execRetryReq p f s) := by
  unfold execRetryReq
  split
  next t h => simp [notFlit_dieOf h]
  next =>
    dsimp only
    repeat' split
    all_goals simp

theorem execConfigurationSweep_keepsDie (disturbed : Bool) (s : State) : KeepsDie s (execConfigurationSweep disturbed s) := by
  unfold execConfigurationSweep
  split
  · simp
  · extract_lets crc old u now
    have hu : dieOf u = dieOf s := by simp [u]
    simp [hu]

theorem execFinish_keepsDie (tr : Transport) (rq : SpdmReq) (ok : Bool) (s : State) : KeepsDie s (execFinish tr rq ok s) := by
  refine keepsDie_next.2 (spdm_dieOf s rq fun s => ?_)
  split <;> simp

theorem execDeadlineDue_keepsDie (q : Fin 32) (u : Fin 16) (s : State) : KeepsDie s (execDeadlineDue q u s) := by
  unfold execDeadlineDue
  split <;> simp

theorem execLayer_keepsDie (q : Fin 32) (env : List Finding) (faults : List EngFault) (s : State) :
    KeepsDie s (execLayer q env faults s) := by
  unfold execLayer
  split <;> simp

theorem execCommit_keepsDie (q : Fin 32) (s : State) : KeepsDie s (execCommit q s) := by
  unfold execCommit
  split <;> simp

theorem execMailboxSnapshotLatch_keepsDie (s : State) : KeepsDie s (execMailboxSnapshotLatch s) := by
  unfold execMailboxSnapshotLatch
  split <;> simp

theorem execHdmWrite_keepsDie (x : Nat) (data : List Byte) (mask : BitVec 64) (env : List Finding) (s : State) :
    KeepsDie s (execHdmWrite x data mask env s) := by
  unfold execHdmWrite
  split <;> simp

theorem execPatrolScrub_keepsDie (f : Finding) (s : State) : KeepsDie s (execPatrolScrub f s) := by
  unfold execPatrolScrub
  split <;> simp

theorem execGetMeasurements_keepsDie (_tr : Transport) (rq : SpdmReq) (index : Byte) (s : State) :
    KeepsDie s (execGetMeasurements _tr rq index s) := by
  unfold execGetMeasurements
  split <;> simp

theorem execJobKeyClearTakesEffect_keepsDie (s : State) : KeepsDie s (execJobKeyClearTakesEffect s) := by
  unfold execJobKeyClearTakesEffect
  split <;> simp

theorem execWindowOpen_keepsDie (q : Fin 32) (env : List Finding) (accBad : Bool) (s : State) :
    KeepsDie s (execWindowOpen q env accBad s) := by
  dsimp only [execWindowOpen]
  repeat' split
  all_goals simp

theorem execAbandon_keepsDie (q : Fin 32) (s : State) : KeepsDie s (execAbandon q s) := by
  dsimp only [execAbandon]
  repeat' split
  all_goals simp

theorem execRouteLossAbandon_keepsDie (q : Fin 32) (s : State) : KeepsDie s (execRouteLossAbandon q s) := by
  dsimp only [execRouteLossAbandon]
  repeat' split
  all_goals simp

theorem execReplay_keepsDie (q : Fin 32) (env : List Finding) (faults : List EngFault) (s : State) :
    KeepsDie s (execReplay q env faults s) := by
  dsimp only [execReplay]
  repeat' split
  all_goals simp

theorem execGaugeFrame_keepsDie (f : GaugeFrame) (s : State) : KeepsDie s (execGaugeFrame f s) := by
  dsimp only [execGaugeFrame]
  repeat' split
  all_goals simp

theorem execGaugeTick_keepsDie (s : State) : KeepsDie s (execGaugeTick s) := by
  dsimp only [execGaugeTick]
  repeat' split
  all_goals simp

theorem execDataFlit_keepsDie (p : Fin 16) (f : Flit) (env : List Finding) (accBad : Bool) (s : State) :
    KeepsDie s (execDataFlit p f env accBad s) := by
  dsimp only [execDataFlit]
  repeat' split
  all_goals simp

theorem execSnapLatch_keepsDie (q : Fin 32) (s : State) : KeepsDie s (execSnapLatch q s) := by
  dsimp only [execSnapLatch]
  repeat' split
  all_goals simp

theorem execWaitGaugeTick_keepsDie (q : Fin 32) (s : State) : KeepsDie s (execWaitGaugeTick q s) := by
  dsimp only [execWaitGaugeTick]
  repeat' split
  all_goals simp

theorem execHdmRead_keepsDie (x : Nat) (env : List Finding) (s : State) : KeepsDie s (execHdmRead x env s) := by
  dsimp only [execHdmRead]
  repeat' split
  all_goals simp

theorem execIdeKm_keepsDie (m : IdeMsg) (s : State) : KeepsDie s (execIdeKm m s) := by
  dsimp only [execIdeKm]
  repeat' split
  all_goals simp

theorem execGetPldmCommands_keepsDie (tr : Transport) (ty : Byte) (s : State) : KeepsDie s (execGetPldmCommands tr ty s) := by
  dsimp only [execGetPldmCommands]
  repeat' split
  all_goals simp

theorem execGetPdr_keepsDie (tr : Transport) (h : Nat) (s : State) : KeepsDie s (execGetPdr tr h s) := by
  dsimp only [execGetPdr]
  repeat' split
  all_goals simp

theorem execCommandCompletion_keepsDie (q : Fin 32) (s : State) : KeepsDie s (execCommandCompletion q s) := by
  dsimp only [execCommandCompletion]
  repeat' split
  all_goals simp

theorem execGaugeSet_keepsDie (p : Fin 16) (m : GaugeSet) (s : State) : KeepsDie s (execGaugeSet p m s) := by
  simp [execGaugeSet]


/-- The commands that program one-time-programmable memory (R442 to R444). -/
def programsOtp : Instr → Bool
  | .tamperEvent .. | .lcAdvance .. | .svnCommit .. => true
  | _ => false

/-- Every other command leaves it as it is, and no command changes the fuses or the response of the die. -/
theorem exec_keepsDie {i : Instr} (hi : programsOtp i = false) (s : State) : KeepsDie s (exec i s) := by
  cases i with
  | tamperEvent | lcAdvance | svnCommit => cases hi
  | creditFlit p f => exact execCreditFlit_keepsDie p f s
  | keyUpdate p f => exact execKeyUpdate_keepsDie p f s
  | retryReq p f => exact execRetryReq_keepsDie p f s
  | configurationSweep d => exact execConfigurationSweep_keepsDie d s
  | finish tr rq ok => exact execFinish_keepsDie tr rq ok s
  | deadlineDue q u => exact execDeadlineDue_keepsDie q u s
  | layer q env faults => exact execLayer_keepsDie q env faults s
  | commit q => exact execCommit_keepsDie q s
  | mailboxSnapshotLatch => exact execMailboxSnapshotLatch_keepsDie s
  | hdmWrite x data mask env => exact execHdmWrite_keepsDie x data mask env s
  | patrolScrub f => exact execPatrolScrub_keepsDie f s
  | getMeasurements tr rq index => exact execGetMeasurements_keepsDie tr rq index s
  | jobKeyClearTakesEffect => exact execJobKeyClearTakesEffect_keepsDie s
  | windowOpen q env accBad => exact execWindowOpen_keepsDie q env accBad s
  | abandon q => exact execAbandon_keepsDie q s
  | routeLossAbandon q => exact execRouteLossAbandon_keepsDie q s
  | replay q env faults => exact execReplay_keepsDie q env faults s
  | gaugeFrame f => exact execGaugeFrame_keepsDie f s
  | gaugeTick => exact execGaugeTick_keepsDie s
  | dataFlit p f env accBad => exact execDataFlit_keepsDie p f env accBad s
  | snapLatch q => exact execSnapLatch_keepsDie q s
  | waitGaugeTick q => exact execWaitGaugeTick_keepsDie q s
  | hdmRead x env => exact execHdmRead_keepsDie x env s
  | ideKm m => exact execIdeKm_keepsDie m s
  | getPldmCommands tr ty => exact execGetPldmCommands_keepsDie tr ty s
  | getPdr tr h => exact execGetPdr_keepsDie tr h s
  | commandCompletion q => exact execCommandCompletion_keepsDie q s
  | gaugeSet p m => exact execGaugeSet_keepsDie p m s
  | sqTail => simp [exec, execSqTail]
  | cqHead => simp [exec, execCqHead]
  | evHead => simp [exec, execEvHead]
  | haltTakesEffect => simp [exec, execHaltTakesEffect]
  | heldWriteTakesEffect => simp [exec, execHeldWriteTakesEffect]
  | suWrite => simp [exec, execSuWrite]
  | powerControllerWindow => simp [exec, execPowerControllerWindow]
  | trainComplete => simp [exec, execTrainComplete]
  | alignComplete => simp [exec, execAlignComplete]
  | retrainComplete => simp [exec, execRetrainComplete]
  | laneLoss => simp [exec, execLaneLoss]
  | signalLoss => simp [exec, execSignalLoss]
  | retryStorm => simp [exec, execRetryStorm]
  | creditStarvation => simp [exec, execCreditStarvation]
  | _ => exact keepsDie_next.2 (by simp)

end Sys2Proof.Machine

namespace Sys2Proof.Safety

open Sys2Proof.Machine

/-- One-time-programmable memory grows within its fields, and the rest of what the die holds stays. The tamper count saturates, so that
it grows from a count within its field (R442). -/
structure LifeGrows (s t : State) : Prop where
  otp : s.otp.tamper ≤ 15 → OtpGrows s.otp t.otp
  entries : s.otp.lc.length ≤ 15 → t.otp.lc.length ≤ 15
  tamper : s.otp.tamper ≤ 15 → t.otp.tamper ≤ 15
  fuses : fusesOf t = fusesOf s
  puf : t.puf = s.puf

theorem OtpGrows.refl (a : Otp) : OtpGrows a a :=
  ⟨rfl, rfl, List.prefix_rfl, le_rfl, le_rfl, rfl, fun _ o h => ⟨o, h, id, fun _ => rfl⟩⟩

theorem fusesOf_eq {s t : State} (h : dieOf t = dieOf s) : fusesOf t = fusesOf s := congrArg Prod.fst h
theorem otp_eq {s t : State} (h : dieOf t = dieOf s) : t.otp = s.otp := congrArg (fun x => x.2.1) h
theorem puf_eq {s t : State} (h : dieOf t = dieOf s) : t.puf = s.puf := congrArg (fun x => x.2.2) h

/-- The same memory programmed over what the die held. -/
theorem dieOf_programmed {s t : State} (h : dieOf t = dieOf s) (otp : Otp) :
    dieOf { t with otp := otp } = dieOf { s with otp := otp } := by
  change (fusesOf t, otp, t.puf) = (fusesOf s, otp, s.puf)
  rw [fusesOf_eq h, puf_eq h]

theorem LifeGrows.of_dieOf {s t : State} (h : dieOf t = dieOf s) : LifeGrows s t := by
  have hotp := otp_eq h
  exact ⟨fun _ => hotp ▸ OtpGrows.refl _, fun hl => hotp ▸ hl, fun hl => hotp ▸ hl, fusesOf_eq h, puf_eq h⟩

/-- What the die holds is all that it speaks of. -/
theorem LifeGrows.congr {s t s' t' : State} (h : LifeGrows s' t') (hs : dieOf s' = dieOf s) (ht : dieOf t = dieOf t') :
    LifeGrows s t := by
  obtain ⟨hotp, hentries, htamper, hfuses, hpuf⟩ := h
  have es := otp_eq hs
  have et := otp_eq ht
  rw [es] at hotp hentries htamper
  rw [← et] at hotp hentries htamper
  exact ⟨hotp, hentries, htamper, (fusesOf_eq ht).trans (hfuses.trans (fusesOf_eq hs)), (puf_eq ht).trans (hpuf.trans (puf_eq hs))⟩

/-! ### Tamper fuses (R442) -/

theorem tamper_lifeGrows (s : State) (k : TamperKind) (wipeOk : Bool) : LifeGrows s (tamper s k wipeOk) := by
  unfold tamper
  extract_lets s₁ s₂ s₃ s₄ old
  have h : dieOf s₄ = dieOf s := by simp [s₄, s₃, s₂, s₁]
  refine LifeGrows.congr (s' := s₄) (t' := { s₄ with otp := { old with tamper := min 15 (s₄.otp.tamper + 1) } })
    ⟨fun hfits => ?_, id, fun _ => min_le_left _ _, rfl, rfl⟩ h rfl
  exact { OtpGrows.refl s₄.otp with tamper := le_min hfits (Nat.le_succ _) }

/-! ### Lifecycle entries and owner keys (R443, R446, R447) -/

/-- The next free slot takes the digest, and no other slot changes. -/
theorem ownerPut_kept (digest : BitVec 256) {l : List OwnerSlot} {i : Nat} {o : OwnerSlot} (h : l[i]? = some o) :
    ∃ o', (ownerPut digest l)[i]? = some o' ∧ o'.revoked = o.revoked ∧ (o.digest.isSome = true → o'.digest = o.digest) := by
  induction l generalizing i with
  | nil => cases h
  | cons a l ih =>
    unfold ownerPut
    cases i with
    | zero =>
      cases h
      split
      next hfree => exact ⟨_, rfl, rfl, fun hsome => by simp_all⟩
      next => exact ⟨_, rfl, rfl, fun _ => rfl⟩
    | succ i =>
      split
      · exact ⟨o, h, rfl, fun _ => rfl⟩
      · exact ih h

theorem ownerPut_length (digest : BitVec 256) (l : List OwnerSlot) : (ownerPut digest l).length = l.length := by
  induction l with
  | nil => rfl
  | cons a l ih => unfold ownerPut; split <;> simp [ih]

/-- A slot revoked keeps its digest, and the others stay. -/
theorem revoke_kept {l : List OwnerSlot} {i j : Nat} {o : OwnerSlot} (h : l[i]? = some o) :
    ∃ o', (updAt (fun o => { o with revoked := true }) l j)[i]? = some o' ∧ (o.revoked = true → o'.revoked = true) ∧
      o'.digest = o.digest := by
  induction l generalizing i j with
  | nil => cases h
  | cons a l ih =>
    cases j with
    | zero =>
      cases i with
      | zero => cases h; exact ⟨_, rfl, fun _ => rfl, rfl⟩
      | succ i => exact ⟨o, h, id, rfl⟩
    | succ j =>
      cases i with
      | zero => exact ⟨o, h, id, rfl⟩
      | succ i => exact ih h

theorem updAt_length {α : Type} (f : α → α) (l : List α) (i : Nat) : (updAt f l i).length = l.length := by
  induction l generalizing i with
  | nil => rfl
  | cons a l ih => cases i <;> simp [updAt, ih]

theorem lcFuses_grows (s : State) (target : Nat) (digest : BitVec 256) : OtpGrows s.otp (lcFuses s target digest) := by
  have put : OtpGrows s.otp { s.otp with lc := s.otp.lc ++ [(target, 7 - target)], owners := ownerPut digest s.otp.owners } := by
    refine ⟨rfl, rfl, List.prefix_append _ _, le_rfl, le_rfl, ownerPut_length _ _, fun i o h => ?_⟩
    obtain ⟨o', hget, hrevoked, hdigest⟩ := ownerPut_kept digest h
    exact ⟨o', hget, fun hr => hrevoked.trans hr, hdigest⟩
  have revoke : ∀ j, OtpGrows s.otp { s.otp with
      lc := s.otp.lc ++ [(target, 7 - target)], owners := updAt (fun o => { o with revoked := true }) s.otp.owners j } := by
    refine fun j => ⟨rfl, rfl, List.prefix_append _ _, le_rfl, le_rfl, updAt_length _ _ _, fun i o h => ?_⟩
    obtain ⟨o', hget, hrevoked, hdigest⟩ := revoke_kept (j := j) h
    exact ⟨o', hget, hrevoked, fun _ => hdigest⟩
  have entry : OtpGrows s.otp { s.otp with lc := s.otp.lc ++ [(target, 7 - target)], owners := s.otp.owners } :=
    { OtpGrows.refl s.otp with lc := List.prefix_append _ _ }
  unfold lcFuses
  dsimp only
  split
  · exact put
  split
  · split
    · exact revoke _
    · exact entry
  · exact entry

theorem lcFuses_lc (s : State) (target : Nat) (digest : BitVec 256) :
    (lcFuses s target digest).lc = s.otp.lc ++ [(target, 7 - target)] := rfl

theorem lcFuses_tamper (s : State) (target : Nat) (digest : BitVec 256) : (lcFuses s target digest).tamper = s.otp.tamper := rfl

/-- An allowed transition has an entry left (R443, R446). -/
theorem lcLeft_of_allowed {s : State} {target : Nat} {digest : BitVec 256} {auth : Option Auth}
    (h : lcAllowed s target digest auth = true) :
    1 ≤ lcLeft s := by
  unfold lcAllowed at h
  simp only [Bool.and_eq_true, Bool.or_eq_true, decide_eq_true_eq, beq_iff_eq] at h
  omega

theorem lcAdvance_lifeGrows {s : State} {target : Nat} {digest : BitVec 256} {auth : Option Auth}
    (h : lcAllowed s target digest auth = true)
    (wipeOk : Bool) (boot : BootEnv) : LifeGrows s (lcAdvance s target digest wipeOk boot) := by
  have hleft := lcLeft_of_allowed h
  unfold lcAdvance
  extract_lets otp u
  have hu : dieOf u = dieOf s := by simp [u]
  split
  · exact LifeGrows.of_dieOf (by simp [hu])
  · refine LifeGrows.congr (s' := s) (t' := { s with otp := otp })
      ⟨fun _ => lcFuses_grows s target digest, fun _ => ?_, id, rfl, rfl⟩ rfl ?_
    · simp only [otp, lcFuses_lc, List.length_append, List.length_singleton]
      unfold lcLeft at hleft
      omega
    · have hw : dieOf (wipeBanks u) = dieOf s := by simp [hu]
      exact (moduleReset_dieOf _ _ _).trans (dieOf_programmed hw otp)

/-! ### The security version floor (R434, R444) -/

theorem floor_grows {a : Otp} {n : Nat} (h : a.svnFloor ≤ n) : OtpGrows a { a with svnFloor := n } :=
  { OtpGrows.refl a with floor := h }

/-! ### Every step -/

/-- A request served from what its transport brings (R436, R450, R451). -/
theorem vendor_lifeGrows {s : State} (tr : Transport) (rq : SpdmReq) (code : Nat) {go : State → State}
    (hgo : ∀ s, LifeGrows s (go s)) :
    LifeGrows s (vendor s tr rq code go) := by
  have served : ∀ u, dieOf u = dieOf s → LifeGrows s
      (if !rq.wellFormed || !vendorHead rq code || !inSession u tr rq then spdmError u "InvalidRequest" else go u) := by
    intro u hu
    split
    · exact LifeGrows.of_dieOf (by simp [hu])
    · exact (hgo u).congr hu rfl
  unfold vendor spdmServe
  split
  · exact LifeGrows.of_dieOf rfl
  · split
    · exact served s rfl
    · split
      · exact LifeGrows.of_dieOf (by simp)
      · exact served _ (by simp)

theorem exec_lifeGrows {i : Instr} {s t : State} (h : exec i s = .next t) : LifeGrows s t := by
  by_cases hi : programsOtp i = false
  · exact LifeGrows.of_dieOf (exec_keepsDie hi s t h)
  cases i with
  | tamperEvent k wipeOk =>
    obtain rfl := Host.Outcome.next.inj h
    split
    · exact LifeGrows.of_dieOf rfl
    · exact tamper_lifeGrows s k wipeOk
  | lcAdvance tr rq target digest auth wipeOk boot =>
    obtain rfl := Host.Outcome.next.inj h
    refine vendor_lifeGrows tr rq 3 fun s => ?_
    split
    next hok => exact lcAdvance_lifeGrows hok wipeOk boot
    next => exact LifeGrows.of_dieOf (by simp)
  | svnCommit tr rq floor auth =>
    obtain rfl := Host.Outcome.next.inj h
    refine vendor_lifeGrows tr rq 4 fun s => ?_
    dsimp only
    split
    next => exact LifeGrows.of_dieOf (by simp)
    next hok =>
      have hfloor : s.otp.svnFloor ≤ floor.toNat := by simp_all
      exact ⟨fun _ => floor_grows hfloor, id, id, rfl, rfl⟩
  | _ => exact absurd rfl hi

/-- Settles O56: three commands program one-time-programmable memory, each within its field; nothing else touches it, nor the rest of
what the die holds. -/
theorem everyStepOnlyGrowsTheOtp : Obligations.EveryStepOnlyGrowsTheOtp := by
  intro s t h hentries htamper
  have hgrows : LifeGrows s t := by
    unfold step at h
    split at h
    · obtain rfl := Host.Outcome.next.inj h
      exact LifeGrows.of_dieOf (idle_dieOf s)
    · exact (exec_lifeGrows h).congr (by simp) rfl
  exact ⟨hgrows.otp htamper, hgrows.entries hentries, hgrows.tamper htamper, hgrows.fuses, hgrows.puf⟩

end Sys2Proof.Safety
end

section
/-! ## Work of one engine (O41, O42)

What the functions of an array engine leave alone (`EngWork`), and what a read of its scratch does (`Reads`): the engine's poison marks
grow, and with corrected errors alone nothing of an engine changes. -/

namespace Sys2Proof.Machine

open Sys2Proof.Safety

variable {e : Fin 96} {s t u : State}

/-! ### Engines -/

theorem updE_engine (s : State) (e : Fin 96) (f : Engine → Engine) : (updE s e f).engines[e] = f s.engines[e] := by simp [updE]

theorem updE_others (s : State) (e : Fin 96) (f : Engine → Engine) : EnginesSame e s (updE s e f) := by
  intro k hk
  have : e.val ≠ k.val := fun h => hk (Fin.ext h.symm)
  simp [updE, this]

theorem engines_aside (h : Aside s t) : t.engines = s.engines := by rw [h.form]

/-- What observers are left does not depend on the engines. -/
theorem withEngines_aside (h : Aside s t) (es : Vector Engine 96) : Aside { s with engines := es } { t with engines := es } :=
  Aside.of (congrArg (fun x : State => { x with engines := es }) h.form) h.twine h.events h.canon h.regs

/-- From `s` to `t` engine `e` worked: no other engine changed, and beyond the engines only what observers are left. -/
structure EngWork (e : Fin 96) (s t : State) : Prop where
  aside : Aside { s with engines := t.engines } t
  others : EnginesSame e s t

namespace EngWork

theorem of_aside (h : Aside s t) : EngWork e s t := by
  have hsame := engines_aside h
  exact ⟨by rw [hsame]; exact h, fun k _ => by rw [hsame]⟩

theorem refl (e : Fin 96) (s : State) : EngWork e s s := of_aside (Aside.refl s)

theorem trans (h : EngWork e s t) (k : EngWork e t u) : EngWork e s u :=
  ⟨(withEngines_aside h.aside u.engines).trans k.aside, fun j hj => (k.others j hj).trans (h.others j hj)⟩

theorem updE (s : State) (e : Fin 96) (f : Engine → Engine) : EngWork e s (updE s e f) := ⟨Aside.refl _, updE_others s e f⟩

theorem canonical (h : EngWork e s t) (x : Canonical s) : Canonical t := h.aside.canonical x

end EngWork

/-! ### Reads of engine scratch (R250, R255) -/

/-- From `s` to `t` engine `e` has read its scratch: beyond the marks of lines found bad it is as before. -/
structure Reads (e : Fin 96) (s t : State) : Prop where
  work : EngWork e s t
  engine : t.engines[e] = { s.engines[e] with poison := t.engines[e].poison }

namespace Reads

theorem of_aside (h : Aside s t) : Reads e s t := ⟨.of_aside h, by rw [engines_aside h]⟩

theorem updE_reads (s : State) (e : Fin 96) (f : Engine → Engine)
    (hf : f s.engines[e] = { s.engines[e] with poison := (f s.engines[e]).poison }) : Reads e s (updE s e f) :=
  ⟨EngWork.updE s e f, by rw [updE_engine]; exact hf⟩

theorem refl (e : Fin 96) (s : State) : Reads e s s := of_aside (Aside.refl s)

theorem trans (h : Reads e s t) (k : Reads e t u) : Reads e s u := ⟨h.work.trans k.work, by rw [k.engine, h.engine]⟩

end Reads

theorem ueAddr_aside (s : State) (a : BitVec 64) : Aside s { s with ueAddr := a } :=
  marks_aside s.cores s.fresh s.events s.evWait s.evLost s.poison s.t3 a (fun _ => rfl) (List.prefix_refl _)

theorem engUncorrected_reads (s : State) (w : Who) (e : Fin 96) (l : Nat) : Reads e s (engUncorrected s w e l) := by
  unfold engUncorrected
  split
  · exact Reads.refl e s
  · extract_lets a src v
    have hv : Aside s v := ((setFlag_aside s offEccstat 1 32 (by decide)).trans (lastSrc_aside _ 3)).trans (ueAddr_aside _ _)
    have hrec := hv.trans (errEvent_aside v w 0x04 1 0 e 0 a)
    clear_value v
    exact (Reads.of_aside hrec).trans (Reads.updE_reads _ e _ rfl)

/-- The count of a corrected error (R249). -/
theorem corrected_aside (s : State) (e : Fin 96) : Aside s (countEv (lastSrc (setFlag s offEccstat 0 16) 3) (engCore e) 0x30 1) :=
  ((setFlag_aside s _ _ _ (by decide)).trans (lastSrc_aside _ _)).trans (countEv_aside _ _ _ _)

theorem EChk.readLine_reads (e : Fin 96) (c : EChk) (l : Nat) : Reads e c.s (EChk.readLine e c l).s := by
  unfold EChk.readLine
  dsimp only
  split
  · exact .of_aside (corrected_aside c.s e)
  · exact .refl e c.s
  · exact .refl e c.s
  · exact engUncorrected_reads c.s _ e _

theorem EChk.read_reads (e : Fin 96) (c : EChk) (off n : Nat) : Reads e c.s (EChk.read e c off n).s :=
  List.foldlRecOn (motive := fun k : EChk => Reads e c.s k.s) _ _ (Reads.refl e c.s) fun k h l _ => h.trans (EChk.readLine_reads e k l)

/-- Nothing read so far was poisoned, and only corrected errors are to come; engine `e` is still as in `s`. -/
structure EChk.Clean (s : State) (e : Fin 96) (c : EChk) : Prop where
  engine : c.s.engines[e] = s.engines[e]
  env : CleanEnv c.env
  poisoned : c.poisoned = false

theorem EChk.Clean.readLine {c : EChk} (h : EChk.Clean s e c) {l : Nat} (hl : l % (scrSize / 64) ∉ s.engines[e].poison) :
    EChk.Clean s e (EChk.readLine e c l) := by
  obtain ⟨hfound, henv⟩ := takeFinding_clean h.env (l % (scrSize / 64))
  have hnot : ∀ v : State, v.engines[e] = s.engines[e] → (c.poisoned || v.engines[e].poison.contains (l % (scrSize / 64))) = false := by
    intro v hv
    rw [hv, h.poisoned, Bool.false_or]
    simpa using hl
  have hcount : (countEv (lastSrc (setFlag c.s offEccstat 0 16) 3) (engCore e) 0x30 1).engines[e] = s.engines[e] :=
    (congrArg (·[e]) (engines_aside (corrected_aside c.s e))).trans h.engine
  unfold EChk.readLine
  dsimp only
  rcases hfound with hfound | hfound
  · rw [hfound]
    exact ⟨h.engine, henv, hnot _ h.engine⟩
  · rw [hfound]
    exact ⟨hcount, henv, hnot _ hcount⟩

theorem EChk.Clean.read {c : EChk} (h : EChk.Clean s e c) {off n : Nat} (hclean : ScratchClean s e off n) :
    EChk.Clean s e (EChk.read e c off n) :=
  List.foldlRecOn (motive := EChk.Clean s e) _ _ h fun _ hk l hl => hk.readLine (hclean l hl)

/-- A read that begins finds as much. -/
theorem EChk.Clean.begin {env : List Finding} (h : t.engines[e] = s.engines[e]) (henv : CleanEnv env) :
    EChk.Clean s e ⟨t, env, false⟩ := ⟨h, henv, rfl⟩
end Sys2Proof.Machine
end

section
/-! ## Slots (O42)

A step into a slot by cases (`slotStep_cases`): what it finds POISON stays, a poisoned operand makes it POISON, and otherwise its elements
are stored. Each leaves everything outside its slot and sidecar (`InSlots`). -/

namespace Sys2Proof.Machine

open Sys2Proof.Safety

/-! ### Lists of cells and of bytes -/

section

variable {α β : Type}

/-- A read of another key, of a list in any form: the frame of a step speaks of engines that need not be canonical. -/
theorem getCell_putCell_ne [DecidableEq α] (d : Nat → α) {k j : Nat} (v : α) (l : List (Nat × α)) (hj : j ≠ k) :
    getCell d j (putCell d k v l) = getCell d j l := by
  induction l with
  | nil => unfold putCell; split <;> simp [getCell, hj]
  | cons a r ih =>
    obtain ⟨k', v'⟩ := a
    unfold putCell
    split
    · split <;> simp [getCell, hj]
    · split
      next h => subst h; split <;> simp [getCell, hj]
      next => simp [getCell, ih]

/-- Entry `n * i + j` of blocks of `n` entries. -/
theorem getElem?_flatMap_block {n : Nat} {f : α → List β} (hn : ∀ a, (f a).length = n) (l : List α) (i : Nat) {j : Nat} (hj : j < n) :
    (l.flatMap f)[n * i + j]? = l[i]?.bind fun a => (f a)[j]? := by
  induction l generalizing i with
  | nil => rfl
  | cons a l ih =>
    rw [List.flatMap_cons]
    cases i with
    | zero => rw [List.getElem?_append_left (by rw [hn]; omega)]; simp
    | succ i =>
      have hpast : n * (i + 1) + j = (f a).length + (n * i + j) := by rw [hn]; ring
      rw [hpast, List.getElem?_append_right (Nat.le_add_right _ _), Nat.add_sub_cancel_left, ih]
      rfl

/-- Entry `(i, j)` of a matrix listed row by row. -/
theorem getElem?_rows (g : Nat → Nat → β) {m n i j : Nat} (hi : i < m) (hj : j < n) :
    ((List.range m).flatMap fun r => (List.range n).map (g r))[n * i + j]? = some (g i j) := by
  rw [getElem?_flatMap_block (fun _ => by simp) _ _ hj]
  simp [hi, hj]

end

theorem le4_length (n : Nat) : (le4 n).length = 4 := rfl

theorem leNat_le4 (v : Nat) : leNat (le4 v) = v % 2 ^ 32 := leNat_leBytes 4 v

/-! ### Slot tags (R141) -/

/-- The tag that an entry of the slot table stands for. -/
def STag.ofCode : Nat → STag
  | 1 => .int32
  | 2 => .fp32
  | 3 => .poison
  | _ => .empty

theorem STag.ofCode_tagCode (t : STag) : STag.ofCode (tagCode t) = t := by cases t <;> rfl

theorem slotTag_eq (g : Engine) (q : Nat) : slotTag g q = STag.ofCode (getCell (fun _ => 0) q g.slots) := by
  unfold slotTag
  induction g.slots with
  | nil => rfl
  | cons a r ih =>
    obtain ⟨k, v⟩ := a
    by_cases h : q = k
    · subst h
      simp only [List.find?_cons, getCell, BEq.rfl, if_true]
      rcases v with _ | _ | _ | _ | v <;> rfl
    · have : (k == q) = false := by simpa using Ne.symm h
      simpa only [List.find?_cons, getCell, this, if_neg h] using ih

theorem slotTag_putSlot_same {g : Engine} (h : cellsWf (fun _ => (0 : Nat)) g.slots = true) (q : Nat) (t : STag) :
    slotTag (putSlot g q t) q = t := by
  rw [slotTag_eq, putSlot, getCell_putCell_same _ _ _ _ h, STag.ofCode_tagCode]

theorem slotTag_putSlot_other (g : Engine) {q k : Nat} (t : STag) (h : k ≠ q) : slotTag (putSlot g q t) k = slotTag g k := by
  rw [slotTag_eq, slotTag_eq, putSlot, getCell_putCell_ne _ _ _ h]

/-! ### Bytes written to scratch (R255) -/

/-- Bytes placed one after another into the cells of scratch. -/
def placed (d : Nat → Byte) (off : Nat) (bs : List Byte) (m : List Host.Cell) : List Host.Cell :=
  (bs.zip (List.range bs.length)).foldl (fun m b => putCell d ((off + b.2) % scrSize) b.1 m) m

theorem placed_append (d : Nat → Byte) (off : Nat) (bs : List Byte) (b : Byte) (m : List Host.Cell) :
    placed d off (bs ++ [b]) m = putCell d ((off + bs.length) % scrSize) b (placed d off bs m) := by
  simp [placed, List.range_succ, List.zip_append]

theorem placed_wf {d : Nat → Byte} {m : List Host.Cell} (h : cellsWf d m = true) (off : Nat) (bs : List Byte) :
    cellsWf d (placed d off bs m) = true :=
  List.foldlRecOn (motive := fun m => cellsWf d m = true) _ _ h fun m hm _ _ => putCell_wf d _ _ m hm

theorem getCell_placed_out (d : Nat → Byte) {off o : Nat} (bs : List Byte) (m : List Host.Cell)
    (h : ∀ k < bs.length, o ≠ (off + k) % scrSize) : getCell d o (placed d off bs m) = getCell d o m := by
  induction bs using List.reverseRecOn with
  | nil => rfl
  | append_singleton bs b ih =>
    rw [placed_append, getCell_putCell_ne _ _ _ (h bs.length (by simp))]
    exact ih fun k hk => h k (by simp; omega)

theorem getCell_placed_in {d : Nat → Byte} {m : List Host.Cell} (hm : cellsWf d m = true) {off k : Nat} {bs : List Byte} {b : Byte}
    (hfit : off + bs.length ≤ scrSize) (hb : bs[k]? = some b) : getCell d (off + k) (placed d off bs m) = b := by
  induction bs using List.reverseRecOn with
  | nil => cases hb
  | append_singleton bs c ih =>
    simp only [List.length_append, List.length_singleton] at hfit
    rw [placed_append, Nat.mod_eq_of_lt (by omega)]
    rcases Nat.lt_trichotomy k bs.length with hk | rfl | hk
    · rw [getCell_putCell_ne _ _ _ (by omega)]
      exact ih (by omega) (by simpa [List.getElem?_append_left hk] using hb)
    · rw [getCell_putCell_same _ _ _ _ (placed_wf hm off bs)]
      simpa using hb
    · simp [List.getElem?_eq_none (l := bs ++ [c]) (i := k) (by simp; omega)] at hb

theorem scrWrite_engine (s : State) (e : Fin 96) (off : Nat) (bs : List Byte) :
    (scrWrite s e off bs).engines[e] = { s.engines[e] with
      scratch := placed (scrDefault s.engines[e].gen e) off bs s.engines[e].scratch
      poison := (scrWrite s e off bs).engines[e].poison } := by
  unfold scrWrite
  rw [updE_engine]
  rfl

theorem scrByte_scrWrite_out {s : State} {e : Fin 96} {off o : Nat} {bs : List Byte} (ho : o < scrSize)
    (h : ∀ k < bs.length, o ≠ (off + k) % scrSize) : scrByte (scrWrite s e off bs) e o = scrByte s e o := by
  unfold scrByte
  rw [scrWrite_engine, Nat.mod_eq_of_lt ho]
  exact getCell_placed_out _ bs _ h

theorem scrByte_scrWrite_in {s : State} {e : Fin 96} {off k : Nat} {bs : List Byte} {b : Byte} (hok : EngOk s e)
    (hfit : off + bs.length ≤ scrSize) (hb : bs[k]? = some b) : scrByte (scrWrite s e off bs) e (off + k) = b := by
  obtain ⟨hk, -⟩ := List.getElem?_eq_some_iff.1 hb
  unfold scrByte
  rw [scrWrite_engine, Nat.mod_eq_of_lt (by omega)]
  exact getCell_placed_in hok.1 hfit hb

theorem scr32_eq {s : State} {e : Fin 96} {off v : Nat} (h : ∀ i < 4, some (scrByte s e (off + i)) = (le4 v)[i]?) :
    scr32 s e off = v % 2 ^ 32 := by
  have hbytes : ((List.range 4).map fun i => scrByte s e (off + i)) = le4 v := by
    refine List.ext_getElem? fun i => ?_
    by_cases hi : i < 4
    · simpa [hi] using h i hi
    · rw [List.getElem?_eq_none (by simpa using hi), List.getElem?_eq_none (by simpa [le4_length] using hi)]
  rw [scr32, hbytes, leNat_le4]

theorem slotTag_congr {g g' : Engine} (h : g'.slots = g.slots) (q : Nat) : slotTag g' q = slotTag g q := by
  rw [slotTag_eq, slotTag_eq, h]

/-- The slots and the scratch of engine `e` are the same in both states. -/
structure SameSlots (e : Fin 96) (s t : State) : Prop where
  gen : t.engines[e].gen = s.engines[e].gen
  slots : t.engines[e].slots = s.engines[e].slots
  scratch : t.engines[e].scratch = s.engines[e].scratch

namespace SameSlots

variable {e : Fin 96} {s t u : State}

theorem of_engines (h : t.engines = s.engines) : SameSlots e s t := by constructor <;> rw [h]

theorem trans (h : SameSlots e s t) (k : SameSlots e t u) : SameSlots e s u :=
  ⟨k.gen.trans h.gen, k.slots.trans h.slots, k.scratch.trans h.scratch⟩

theorem updE (s : State) {f : Engine → Engine} (hgen : ∀ g, (f g).gen = g.gen) (hslots : ∀ g, (f g).slots = g.slots)
    (hscratch : ∀ g, (f g).scratch = g.scratch) : SameSlots e s (updE s e f) := by
  constructor <;> rw [updE_engine]
  exacts [hgen _, hslots _, hscratch _]

theorem scrByte_eq (h : SameSlots e s t) (off : Nat) : scrByte t e off = scrByte s e off := by
  unfold scrByte
  rw [h.gen, h.scratch]

theorem slotTag_eq (h : SameSlots e s t) (q : Nat) : slotTag t.engines[e] q = slotTag s.engines[e] q := slotTag_congr h.slots q

theorem engOk (h : SameSlots e s t) (hok : EngOk s e) : EngOk t e := by
  unfold EngOk
  rw [h.gen, h.slots, h.scratch]
  exact hok

theorem scr32_eq (h : SameSlots e s t) (off : Nat) : scr32 t e off = scr32 s e off := by simp only [scr32, h.scrByte_eq]

theorem sideScale_eq (h : SameSlots e s t) (q r k : Nat) : sideScale t e q r k = sideScale s e q r k := by
  simp only [sideScale, h.scr32_eq]

theorem slotHolds (h : SameSlots e s t) {q : Nat} {acc : Nat → Nat → Acc} (hs : SlotHolds s e q acc) : SlotHolds t e q acc := by
  unfold SlotHolds
  simp only [h.slotTag_eq, h.scr32_eq]
  exact hs

end SameSlots

theorem Reads.sameSlots {e : Fin 96} {s t : State} (h : Reads e s t) : SameSlots e s t := by constructor <;> rw [h.engine]

/-! ### Steps into slots -/

/-- From `s` to `t` engine `e` worked on the slots in `S`: its configuration, its buffers and what waits are as before, and so are the
other slots and the scratch outside of those in `S`. -/
structure InSlots (S : Nat → Prop) (e : Fin 96) (s t : State) : Prop where
  work : EngWork e s t
  engine : t.engines[e] = { s.engines[e] with
    slots := t.engines[e].slots, scratch := t.engines[e].scratch, poison := t.engines[e].poison }
  scratch : ∀ off < scrSize, (∀ q, S q → ¬ofSlot q off) → scrByte t e off = scrByte s e off
  tags : ∀ q, ¬S q → slotTag t.engines[e] q = slotTag s.engines[e] q
  ok : EngOk s e → EngOk t e

namespace InSlots

variable {S : Nat → Prop} {e : Fin 96} {s t u : State}

theorem of_reads (h : Reads e s t) : InSlots S e s t where
  work := h.work
  engine := by rw [h.engine]
  scratch off _ _ := h.sameSlots.scrByte_eq off
  tags q _ := h.sameSlots.slotTag_eq q
  ok := h.sameSlots.engOk

theorem of_aside (h : Aside s t) : InSlots S e s t := of_reads (Reads.of_aside h)

theorem refl (s : State) : InSlots S e s s := of_reads (Reads.refl e s)

theorem trans (h : InSlots S e s t) (k : InSlots S e t u) : InSlots S e s u where
  work := h.work.trans k.work
  engine := by rw [k.engine, h.engine]
  scratch off ho hq := (k.scratch off ho hq).trans (h.scratch off ho hq)
  tags q hq := (k.tags q hq).trans (h.tags q hq)
  ok hok := k.ok (h.ok hok)

theorem putSlot {q : Nat} (hq : S q) (s : State) (t : STag) : InSlots S e s (updE s e fun g => putSlot g q t) where
  work := EngWork.updE s e _
  engine := by rw [updE_engine]; rfl
  scratch off _ _ := by unfold scrByte; rw [updE_engine]; rfl
  tags k hk := by
    rw [updE_engine]
    exact slotTag_putSlot_other _ t fun h => hk (h ▸ hq)
  ok hok := by
    obtain ⟨hscratch, hslots⟩ := hok
    unfold EngOk
    rw [updE_engine]
    exact ⟨hscratch, putCell_wf _ _ _ _ hslots⟩

theorem scrWrite {off : Nat} {bs : List Byte} (hin : ∀ k < bs.length, ∃ q, S q ∧ ofSlot q ((off + k) % scrSize)) (s : State) :
    InSlots S e s (scrWrite s e off bs) where
  work := EngWork.updE s e _
  engine := by rw [scrWrite_engine]
  scratch o ho hout := by
    refine scrByte_scrWrite_out ho fun k hk heq => ?_
    obtain ⟨q, hq, hof⟩ := hin k hk
    exact hout q hq (heq ▸ hof)
  tags q _ := slotTag_congr (by rw [scrWrite_engine]) q
  ok hok := by
    obtain ⟨hscratch, hslots⟩ := hok
    unfold EngOk
    rw [scrWrite_engine]
    exact ⟨placed_wf hscratch off bs, hslots⟩

end InSlots

theorem length_flatMap_le4 {α : Type} (f : α → Nat) (l : List α) : (l.flatMap fun a => le4 (f a)).length = 4 * l.length := by
  simp [List.length_flatMap, le4_length, Nat.mul_comm]

/-- The 32 rows of 64 elements of a slot fill it. -/
theorem slotBytes_inSlots {S : Nat → Prop} {e : Fin 96} {q : Nat} (hS : S q) (hq : q < 256) {as : List Acc} (has : as.length = 2048)
    (s : State) : InSlots S e s (scrWrite s e (q * 0x2000) (as.flatMap fun a => le4 a.x)) := by
  refine InSlots.scrWrite (fun k hk => ⟨q, hS, .inl ?_⟩) s
  rw [length_flatMap_le4, has] at hk
  unfold scrSize
  omega

/-- The scales of 32 rows and 64 columns fill its sidecar. -/
theorem sideBytes_inSlots {S : Nat → Prop} {e : Fin 96} {q : Nat} (hS : S q) (hq : q < 256) (rs cs : Nat → Nat) (s : State) :
    InSlots S e s (scrWrite s e (sideAddr q)
      ((List.range 32).flatMap (fun r => le4 (rs r)) ++ (List.range 64).flatMap fun k => le4 (cs k))) := by
  refine InSlots.scrWrite (fun k hk => ⟨q, hS, .inr ?_⟩) s
  rw [List.length_append, length_flatMap_le4, length_flatMap_le4, List.length_range, List.length_range] at hk
  unfold scrSize sideAddr
  omega

/-- The reads of a step into a slot: its elements where it holds any, and its sidecar where a float group meets INT32 (R144, R146). -/
def slotRead (e : Fin 96) (q : Nat) (found : STag) (float : Bool) (c : EChk) : EChk :=
  let c := if found == .int32 || found == .fp32 then EChk.read e c (q * 0x2000) 0x2000 else c
  if found == .int32 && float then EChk.read e c (sideAddr q) 0x180 else c

theorem slotRead_reads (e : Fin 96) (q : Nat) (found : STag) (float : Bool) (c : EChk) : Reads e c.s (slotRead e q found float c).s := by
  have hif : ∀ (b : Bool) (c : EChk) (off n : Nat), Reads e c.s (if b = true then EChk.read e c off n else c).s := by
    intro b c off n
    split
    · exact EChk.read_reads e c off n
    · exact Reads.refl e c.s
  exact (hif _ c _ _).trans (hif _ _ _ _)

/-- The elements of a slot, row by row. -/
def slotAccs (acc : Nat → Nat → Acc) : List Acc :=
  ((List.range 32).flatMap fun r => (List.range 64).map fun k => (r, k)).map fun p => acc p.1 p.2

theorem slotAccs_length (acc : Nat → Nat → Acc) : (slotAccs acc).length = 2048 := by simp [slotAccs]

theorem slotAccs_getElem? (acc : Nat → Nat → Acc) {r k : Nat} (hr : r < 32) (hk : k < 64) :
    (slotAccs acc)[64 * r + k]? = some (acc r k) := by
  rw [slotAccs, List.getElem?_map, getElem?_rows Prod.mk hr hk]
  rfl

theorem slotAccs_headD (acc : Nat → Nat → Acc) (a : Acc) : (slotAccs acc).headD a = acc 0 0 := by
  rw [List.headD_eq_head?_getD, List.head?_eq_getElem?, slotAccs_getElem? acc (r := 0) (k := 0) (by decide) (by decide)]
  rfl

/-- What a step that is free of poison stores: the elements `acc` under their tag `t`, and with the first INT32 the scales of its sidecar
(R141, R142, R146). -/
def slotStored (e : Fin 96) (q : Nat) (found t : STag) (rs cs : Nat → Nat) (acc : Nat → Nat → Acc) (s : State) : State :=
  let s := updE s e fun g => putSlot g q t
  let s := if t == .empty then s else scrWrite s e (q * 0x2000) ((slotAccs acc).flatMap fun a => le4 a.x)
  if found == .empty && t == .int32 then
    scrWrite s e (sideAddr q) ((List.range 32).flatMap (fun r => le4 (rs r)) ++ (List.range 64).flatMap fun k => le4 (cs k))
  else s

/-- The element (r, k) that a step into a slot meets (R142). -/
def slotElem (s : State) (e : Fin 96) (q : Nat) (found : STag) (r k : Nat) : Acc :=
  { Acc.new with tag := found, x := if found == .empty then 0 else scr32 s e (q * 0x2000 + 4 * (64 * r + k)) }

/-- What a step into a slot does, by what it finds there and reads, but for what observers are left (R142 to R146, R160). -/
theorem slotStep_cases (e : Fin 96) (q : Nat) (first psn float : Bool) (rs cs : Nat → Nat) (f : Nat → Nat → Int × Int → Acc → Acc)
    (x : StepEv) :
    let found := if first then STag.empty else slotTag x.c.s.engines[e] q
    let c := slotRead e q found float ⟨x.c.s, x.c.env, false⟩
    let acc := fun r k => f r k (sideScale c.s e q r k) (slotElem c.s e q found r k)
    let s := (slotStep e q first psn float rs cs f x).c.s
    if found = .poison then Aside c.s s
    else if psn = true ∨ c.poisoned = true then Aside (updE c.s e fun g => putSlot g q .poison) s
    else Aside (slotStored e q found (acc 0 0).tag rs cs acc c.s) s := by
  intro found c acc' s
  unfold s slotStep
  extract_lets found' src c₀ c₁ c₂ sideBad new acc flags all ok as t s₁ s₂ s₃
  have hflags : ∀ (c : EChk) (as : List Acc) (p : Bool), Aside c.s (flags c as p).c.s := fun c as p =>
    Aside.ite (countEv_aside c.s _ _ _) (Aside.refl c.s)
  by_cases hfound : found = .poison
  · have hfound' : (found' == .poison) = true := beq_iff_eq.2 hfound
    rw [if_pos hfound, if_pos hfound']
    exact Aside.refl c.s
  · have hfound' : ¬(found' == .poison) = true := fun h => hfound (beq_iff_eq.1 h)
    rw [if_neg hfound, if_neg hfound']
    by_cases hpsn : psn = true ∨ c.poisoned = true
    · have hpsn' : (psn || c₂.poisoned) = true := (Bool.or_eq_true _ _).mpr hpsn
      rw [if_pos hpsn, if_pos hpsn']
      exact hflags ⟨_, c₂.env, false⟩ _ true
    · have hpsn' : ¬(psn || c₂.poisoned) = true := fun h => hpsn ((Bool.or_eq_true _ _).mp h)
      rw [if_neg hpsn, if_neg hpsn', ← slotAccs_headD acc' Acc.new]
      exact hflags ⟨s₃, c₂.env, c₂.poisoned⟩ as false

section Slot

variable {S : Nat → Prop} {e : Fin 96} {q : Nat} {x : StepEv}

theorem slotStored_inSlots (hS : S q) (hq : q < 256) (found t : STag) (rs cs : Nat → Nat) (acc : Nat → Nat → Acc) (s : State) :
    InSlots S e s (slotStored e q found t rs cs acc s) := by
  unfold slotStored
  extract_lets s₁ s₂
  have hslot : InSlots S e s₁ s₂ := by
    unfold s₂
    split
    · exact .refl s₁
    · exact slotBytes_inSlots hS hq (slotAccs_length acc) s₁
  refine ((InSlots.putSlot hS s t).trans hslot).trans ?_
  split
  · exact sideBytes_inSlots hS hq rs cs s₂
  · exact .refl s₂

theorem slotStep_inSlots (hS : S q) (hq : q < 256) (first psn float : Bool) (rs cs : Nat → Nat)
    (f : Nat → Nat → Int × Int → Acc → Acc) (x : StepEv) :
    InSlots S e x.c.s (slotStep e q first psn float rs cs f x).c.s := by
  have h := slotStep_cases e q first psn float rs cs f x
  extract_lets found c acc s at h
  have hread : InSlots S e x.c.s c.s := .of_reads (slotRead_reads e q found float ⟨x.c.s, x.c.env, false⟩)
  split at h
  · exact hread.trans (.of_aside h)
  · split at h
    · exact (hread.trans (.putSlot hS _ _)).trans (.of_aside h)
    · exact (hread.trans (slotStored_inSlots hS hq _ _ _ _ _ _)).trans (.of_aside h)

/-- A poisoned operand makes the slot POISON, and a POISON slot stays so (R160). -/
theorem slotStep_poisons (hok : EngOk x.c.s e) (first float : Bool) (rs cs : Nat → Nat) (f : Nat → Nat → Int × Int → Acc → Acc) :
    slotTag (slotStep e q first true float rs cs f x).c.s.engines[e] q = .poison := by
  have h := slotStep_cases e q first true float rs cs f x
  extract_lets found c acc s at h
  have hread : InSlots (fun _ => False) e x.c.s c.s := .of_reads (slotRead_reads e q found float ⟨x.c.s, x.c.env, false⟩)
  split at h
  next hfound =>
    have hheld : slotTag x.c.s.engines[e] q = .poison := by
      unfold found at hfound
      split at hfound
      · cases hfound
      · exact hfound
    rw [engines_aside h]
    exact (hread.tags q id).trans hheld
  next =>
    rw [if_pos (.inl rfl)] at h
    rw [engines_aside h, updE_engine]
    exact slotTag_putSlot_same (hread.ok hok).2 q _

theorem slotStored_tag {s : State} (hok : EngOk s e) (q : Nat) (found t : STag) (rs cs : Nat → Nat) (acc : Nat → Nat → Acc) :
    slotTag (slotStored e q found t rs cs acc s).engines[e] q = t := by
  have hput : slotTag (updE s e fun g => putSlot g q t).engines[e] q = t := by
    rw [updE_engine]
    exact slotTag_putSlot_same hok.2 q t
  have hwrite : ∀ s off bs, slotTag (scrWrite s e off bs).engines[e] q = slotTag s.engines[e] q := fun s off bs =>
    slotTag_congr (by rw [scrWrite_engine]) q
  unfold slotStored
  dsimp only
  split <;> split <;> simp only [hwrite, hput]

/-- Every element that a step stores stands in its slot. -/
theorem slotStored_elem {s : State} (hok : EngOk s e) (hq : q < 256) {found t : STag} {rs cs : Nat → Nat} {acc : Nat → Nat → Acc}
    (ht : t ≠ .empty) {r k : Nat} (hr : r < 32) (hk : k < 64) :
    scr32 (slotStored e q found t rs cs acc s) e (q * 0x2000 + 4 * (64 * r + k)) = (acc r k).x % 2 ^ 32 := by
  refine scr32_eq fun i hi => ?_
  have hlen : ((slotAccs acc).flatMap fun a => le4 a.x).length = 0x2000 := by rw [length_flatMap_le4, slotAccs_length]
  have hbyte : ((slotAccs acc).flatMap fun a => le4 a.x)[4 * (64 * r + k) + i]? = (le4 (acc r k).x)[i]? := by
    rw [getElem?_flatMap_block (f := fun a : Acc => le4 a.x) (fun a => le4_length a.x) _ _ hi, slotAccs_getElem? acc hr hk]
    rfl
  obtain ⟨b, hb⟩ : ∃ b, (le4 (acc r k).x)[i]? = some b := ⟨_, List.getElem?_eq_getElem hi⟩
  unfold slotStored
  extract_lets s₁ s₂
  have hslot : scrByte s₂ e (q * 0x2000 + 4 * (64 * r + k) + i) = b := by
    unfold s₂
    rw [if_neg (by simpa using ht), Nat.add_assoc]
    exact scrByte_scrWrite_in (((InSlots.putSlot (S := fun _ => True) trivial s t).ok hok)) (by unfold scrSize; omega) (hbyte.trans hb)
  rw [hb, ← hslot]
  congr 1
  split
  · refine scrByte_scrWrite_out (by unfold scrSize; omega) fun j hj => ?_
    rw [List.length_append, length_flatMap_le4, length_flatMap_le4, List.length_range, List.length_range] at hj
    unfold sideAddr
    rw [Nat.mod_eq_of_lt (by unfold scrSize; omega)]
    omega
  · rfl

/-- The first step into a slot, with no poison among its operands, starts from the empty slot (R141, R142). -/
theorem slotStep_first (hok : EngOk x.c.s e) (hq : q < 256) (float : Bool) (rs cs : Nat → Nat) (f : Nat → Nat → Int × Int → Acc → Acc) :
    SlotHolds (slotStep e q true false float rs cs f x).c.s e q fun r k => f r k (sideScale x.c.s e q r k) Acc.new := by
  have h := slotStep_cases e q true false float rs cs f x
  extract_lets found c acc s at h
  have hfound : found = .empty := if_pos rfl
  have hc : c = ⟨x.c.s, x.c.env, false⟩ := by unfold c; rw [hfound]; rfl
  have hacc : acc = fun r k => f r k (sideScale x.c.s e q r k) Acc.new := by unfold acc; rw [hc, hfound]; rfl
  rw [if_neg (by rw [hfound]; decide), if_neg (by simp [hc]), hc] at h
  rw [← hacc]
  exact SameSlots.slotHolds (.of_engines (engines_aside h))
    ⟨slotStored_tag hok q _ _ rs cs acc, fun ht r hr k hk => slotStored_elem hok hq ht hr hk⟩

end Slot
end Sys2Proof.Machine
end

section
/-! ## Steps (O42)

The steps of STEPS and the blocks of ELEMENTWISE as steps into their slots, the values that a first one leaves, and the flags of the
instruction. -/

namespace Sys2Proof.Machine

open Sys2Proof.Safety

/-! ### Steps of an instruction (R88, R107, R120) -/

/-- Slots of one step: four on the table path (R120). -/
def stepSlots (cfg : SpliceCfg) : Nat := if cfg.path == .table then 4 else 1

/-- The `n` slots from `slot`, from slot 255 on to slot 0. -/
def slotRange (slot n q : Nat) : Prop := ∃ j < n, q = (slot + j) % 256

theorem mul_add_lt_mul {n m t h : Nat} (ht : t < m) (hh : h < n) : n * t + h < n * m :=
  calc n * t + h < n * (t + 1) := by rw [Nat.mul_succ]; omega
    _ ≤ n * m := Nat.mul_le_mul_left n ht

theorem mod_slots (q : Nat) : q % 256 < 256 := Nat.mod_lt q (by decide)

/-- Step `t` reads its 32 rows (R92). -/
def stepRead (e : Fin 96) (i : ArrayInsn) (cfg : SpliceCfg) (c : EChk) (t : Nat) : EChk :=
  EChk.read e ⟨c.s, c.env, false⟩ (i.src.toNat + t * i.stride.toNat) (32 * ceilDiv (kBlock cfg * fmtWidth (fmtOf cfg.fa)) 8)

/-- Element `k` of staged row `r` of step `t`: its code, and the element with its block scale (R79, R80). -/
def stepRow (s : State) (e : Fin 96) (i : ArrayInsn) (cfg : SpliceCfg) (t r k : Nat) : Nat × AEl :=
  let w := fmtWidth (fmtOf cfg.fa)
  let code := unpackAt w (fun y => scrByte s e (i.src.toNat + t * i.stride.toNat + r * ceilDiv (kBlock cfg * w) 8 + y)) k
  (code, mxEl (splitElem (fmtOf cfg.fa) [] code) i.mxa ((32 * t + r) * kBlock cfg + k))

/-- The row scales of step `t`, and the column scales from column 0 of its first quarter (R142). -/
def rowScaleAt (i : ArrayInsn) (t r : Nat) : Nat := (i.rowScale.getD (32 * t + r) one32).toNat
def colScaleAt (i : ArrayInsn) (k : Nat) : Nat := (i.colScale.getD k one32).toNat

/-- An operand of element (r, col) at k was read poisoned (R160). -/
def stepBad (e : Fin 96) (i : ArrayInsn) (cfg : SpliceCfg) (b : StatBuf) (c : EChk) (t r col k : Nat) : Bool :=
  let w := fmtWidth (fmtOf cfg.fa)
  (c.poisoned && elBad c.s e (i.src.toNat + t * i.stride.toNat + r * ceilDiv (kBlock cfg * w) 8) w k) ||
    b.bad.contains (k * blockCols cfg + col)

/-- The groups that step `t` enters into element (r, k) of its quarter `h`. -/
def stepSum (e : Fin 96) (i : ArrayInsn) (cfg : SpliceCfg) (b : StatBuf) (c : EChk) (t h r k : Nat) (side : Int × Int) (a : Acc) : Acc :=
  cleanGroups (stepBad e i cfg b c t r (64 * h + k)) cfg c.s.engines[e].eddy b i.kvalid h k (stepRow c.s e i cfg t r)
    (mulDy (scaleDy (rowScaleAt i t r)) (scaleDy (colScaleAt i (64 * h + k)))) side a

/-- Quarter `h` of step `t`, over the checks `c` of the step's reads. -/
def stepQuarter (e : Fin 96) (i : ArrayInsn) (cfg : SpliceCfg) (b : StatBuf) (c : EChk) (t : Nat) (x : StepEv) (h : Nat) : StepEv :=
  slotStep e ((i.slot.toNat + stepSlots cfg * t + h) % 256) i.first (b.poison || c.poisoned) (!intMode cfg) (rowScaleAt i t)
    (fun k => colScaleAt i (64 * h + k)) (stepSum e i cfg b c t h) x

theorem oneStep_eq (e : Fin 96) (i : ArrayInsn) (cfg : SpliceCfg) (b : StatBuf) (x : StepEv) (t : Nat) :
    oneStep e i cfg b x t =
      (List.range (stepSlots cfg)).foldl (stepQuarter e i cfg b (stepRead e i cfg x.c t) t) { x with c := stepRead e i cfg x.c t } := rfl

/-- Element (r, k) of a staged block of format `f`, its bytes from `base`, with its block scale (R107). -/
def ewiseEl (s : State) (e : Fin 96) (j f base : Nat) (mx : List Byte) (r k : Nat) : AEl :=
  mxEl (splitElem (fmtOf f) [] (unpackAt (fmtWidth (fmtOf f)) (fun y => scrByte s e (base + y)) (64 * r + k))) mx ((32 * j + r) * 64 + k)

/-- Where block `j` of X lies, and its bytes with those of its Y. -/
def ewiseSrc (i : ArrayInsn) (j : Nat) : Nat :=
  let n := ewiseSlots (insnCfg i .ewise).rung
  i.src.toNat + j / n * i.stride.toNat + j % n * (256 * fmtWidth (fmtOf i.fa.toNat) + 256 * fmtWidth (fmtOf i.fb.toNat))

def ewiseRead (e : Fin 96) (i : ArrayInsn) (c : EChk) (j : Nat) : EChk :=
  EChk.read e ⟨c.s, c.env, false⟩ (ewiseSrc i j) (256 * fmtWidth (fmtOf i.fa.toNat) + 256 * fmtWidth (fmtOf i.fb.toNat))

/-- The product of blocks `j` that enters element (r, k), a group of one (R107). -/
def ewiseProduct (s : State) (e : Fin 96) (i : ArrayInsn) (j r k : Nat) (side : Int × Int) (a : Acc) : Acc :=
  let p := [(ewiseEl s e j i.fa.toNat (ewiseSrc i j) i.mxa r k,
    ewiseEl s e j i.fb.toNat (ewiseSrc i j + 256 * fmtWidth (fmtOf i.fa.toNat)) i.mxb r k)]
  let sg := mulDy (scaleDy (rowScaleAt i j r)) (scaleDy (colScaleAt i k))
  if isIntFmt i.fa.toNat && isIntFmt i.fb.toNat then a.intIn true (intGroup p) sg else a.floatIn side (floatGroup p) sg

/-- The same, where neither operand was read poisoned (R160). -/
def ewiseSum (e : Fin 96) (i : ArrayInsn) (c : EChk) (j r k : Nat) (side : Int × Int) (a : Acc) : Acc :=
  let wx := fmtWidth (fmtOf i.fa.toNat)
  if c.poisoned && (elBad c.s e (ewiseSrc i j) wx (64 * r + k) ||
    elBad c.s e (ewiseSrc i j + 256 * wx) (fmtWidth (fmtOf i.fb.toNat)) (64 * r + k)) then a
  else ewiseProduct c.s e i j r k side a

theorem ewiseBlock_eq (e : Fin 96) (i : ArrayInsn) (x : StepEv) (j : Nat) :
    ewiseBlock e i x j = slotStep e ((i.slot.toNat + j) % 256) i.first (ewiseRead e i x.c j).poisoned
      (!(isIntFmt i.fa.toNat && isIntFmt i.fb.toNat)) (rowScaleAt i j) (colScaleAt i) (ewiseSum e i (ewiseRead e i x.c j) j)
      { x with c := ewiseRead e i x.c j } := rfl

section

variable {S : Nat → Prop} {e : Fin 96} {i : ArrayInsn} {cfg : SpliceCfg} {b : StatBuf} {x : StepEv}

theorem stepRead_reads (e : Fin 96) (i : ArrayInsn) (cfg : SpliceCfg) (c : EChk) (t : Nat) : Reads e c.s (stepRead e i cfg c t).s :=
  EChk.read_reads e ⟨c.s, c.env, false⟩ _ _

theorem ewiseRead_reads (e : Fin 96) (i : ArrayInsn) (c : EChk) (j : Nat) : Reads e c.s (ewiseRead e i c j).s :=
  EChk.read_reads e ⟨c.s, c.env, false⟩ _ _

theorem oneStep_inSlots {t : Nat} (hS : ∀ h < stepSlots cfg, S ((i.slot.toNat + stepSlots cfg * t + h) % 256)) :
    InSlots S e x.c.s (oneStep e i cfg b x t).c.s := by
  rw [oneStep_eq]
  refine List.foldlRecOn (motive := fun z : StepEv => InSlots S e x.c.s z.c.s) _ _ (.of_reads (stepRead_reads e i cfg x.c t)) ?_
  intro z hz h hh
  exact hz.trans (slotStep_inSlots (hS h (List.mem_range.1 hh)) (mod_slots _) _ _ _ _ _ _ _)

theorem steps_inSlots (count : Nat) :
    InSlots (slotRange i.slot.toNat (stepSlots cfg * count)) e x.c.s ((List.range count).foldl (oneStep e i cfg b) x).c.s := by
  refine List.foldlRecOn (motive := fun z : StepEv => InSlots _ e x.c.s z.c.s) _ _ (.refl _) fun z hz t ht => ?_
  refine hz.trans (oneStep_inSlots fun h hh => ⟨stepSlots cfg * t + h, mul_add_lt_mul (List.mem_range.1 ht) hh, ?_⟩)
  rw [Nat.add_assoc]

theorem ewiseBlock_inSlots {j : Nat} (hS : S ((i.slot.toNat + j) % 256)) : InSlots S e x.c.s (ewiseBlock e i x j).c.s := by
  rw [ewiseBlock_eq]
  exact (InSlots.of_reads (ewiseRead_reads e i x.c j)).trans
    (slotStep_inSlots hS (mod_slots _) _ _ _ _ _ _ { x with c := ewiseRead e i x.c j })

theorem ewise_inSlots (count : Nat) :
    InSlots (slotRange i.slot.toNat count) e x.c.s ((List.range count).foldl (ewiseBlock e i) x).c.s :=
  List.foldlRecOn (motive := fun z : StepEv => InSlots _ e x.c.s z.c.s) _ _ (.refl _) fun _ hz j hj =>
    hz.trans (ewiseBlock_inSlots ⟨j, List.mem_range.1 hj, rfl⟩)

/-! ### Poison (R160) -/

/-- What every element of a fold brings about, and every later one keeps, holds of them all at its end. -/
theorem foldl_reaches {α β : Type} {f : α → β → α} {I : α → Prop} {P : α → β → Prop} (hI : ∀ x b, I x → I (f x b))
    (hnew : ∀ x b, I x → P (f x b) b) (hkeep : ∀ x b c, I x → P x c → P (f x b) c) (l : List β) {x : α} (hx : I x) :
    ∀ b ∈ l, P (l.foldl f x) b := by
  induction l using List.reverseRecOn with
  | nil => simp
  | append_singleton l c ih =>
    have hl : I (l.foldl f x) := List.foldlRecOn (motive := I) l f hx fun x hx b _ => hI x b hx
    intro b hb
    rw [List.foldl_concat]
    rcases List.mem_append.1 hb with hb | hb
    · exact hkeep _ c b hl (ih b hb)
    · rw [List.mem_singleton.1 hb]
      exact hnew _ c hl

theorem slotStep_keepsPoison (hok : EngOk x.c.s e) {q p : Nat} (hq : q < 256) (hp : slotTag x.c.s.engines[e] p = .poison)
    (first float : Bool) (rs cs : Nat → Nat) (f : Nat → Nat → Int × Int → Acc → Acc) :
    slotTag (slotStep e q first true float rs cs f x).c.s.engines[e] p = .poison := by
  by_cases h : p = q
  · rw [h]
    exact slotStep_poisons hok first float rs cs f
  · exact ((slotStep_inSlots (S := (· = q)) rfl hq _ _ _ _ _ _ x).tags p h).trans hp

theorem stepQuarter_poisoned (hb : b.poison = true) (c : EChk) (t h : Nat) (x : StepEv) : stepQuarter e i cfg b c t x h =
    slotStep e ((i.slot.toNat + stepSlots cfg * t + h) % 256) i.first true (!intMode cfg) (rowScaleAt i t)
      (fun k => colScaleAt i (64 * h + k)) (stepSum e i cfg b c t h) x := by
  rw [stepQuarter, hb, Bool.true_or]

theorem oneStep_keepsPoison (hb : b.poison = true) (hok : EngOk x.c.s e) {p : Nat} (hp : slotTag x.c.s.engines[e] p = .poison) (t : Nat) :
    EngOk (oneStep e i cfg b x t).c.s e ∧ slotTag (oneStep e i cfg b x t).c.s.engines[e] p = .poison := by
  have hread := (stepRead_reads e i cfg x.c t).sameSlots
  rw [oneStep_eq]
  refine List.foldlRecOn (motive := fun z : StepEv => EngOk z.c.s e ∧ slotTag z.c.s.engines[e] p = .poison) _ _
    ⟨hread.engOk hok, (hread.slotTag_eq p).trans hp⟩ fun z hz h _ => ?_
  obtain ⟨hzok, hzp⟩ := hz
  have hin := slotStep_inSlots (S := fun _ => True) (e := e) trivial (mod_slots (i.slot.toNat + stepSlots cfg * t + h))
  rw [stepQuarter_poisoned hb]
  exact ⟨(hin _ _ _ _ _ _ z).ok hzok, slotStep_keepsPoison hzok (mod_slots _) hzp _ _ _ _ _⟩

theorem oneStep_poisons (hb : b.poison = true) (hok : EngOk x.c.s e) (t : Nat) {h : Nat} (hh : h < stepSlots cfg) :
    slotTag (oneStep e i cfg b x t).c.s.engines[e] ((i.slot.toNat + stepSlots cfg * t + h) % 256) = .poison := by
  rw [oneStep_eq]
  refine foldl_reaches (I := fun z : StepEv => EngOk z.c.s e)
    (P := fun z h => slotTag z.c.s.engines[e] ((i.slot.toNat + stepSlots cfg * t + h) % 256) = .poison)
    (fun z h hz => ?_) (fun z h hz => ?_) (fun z h k hz hp => ?_) _
    ((stepRead_reads e i cfg x.c t).sameSlots.engOk hok) h (List.mem_range.2 hh)
  · exact (slotStep_inSlots (S := fun _ => True) trivial (mod_slots _) _ _ _ _ _ _ z).ok hz
  · rw [stepQuarter_poisoned hb]
    exact slotStep_poisons hz _ _ _ _ _
  · rw [stepQuarter_poisoned hb]
    exact slotStep_keepsPoison hz (mod_slots _) hp _ _ _ _ _

/-- Every slot of an instruction whose buffer is poisoned becomes POISON (R160). -/
theorem steps_poison (hb : b.poison = true) (hok : EngOk x.c.s e) {count j : Nat} (hj : j < stepSlots cfg * count) :
    slotTag ((List.range count).foldl (oneStep e i cfg b) x).c.s.engines[e] ((i.slot.toNat + j) % 256) = .poison := by
  have hpos : 0 < stepSlots cfg := by unfold stepSlots; split <;> decide
  have hsplit : i.slot.toNat + j = i.slot.toNat + stepSlots cfg * (j / stepSlots cfg) + j % stepSlots cfg := by
    rw [Nat.add_assoc, Nat.div_add_mod]
  rw [hsplit]
  refine foldl_reaches (I := fun z : StepEv => EngOk z.c.s e)
    (P := fun z t => slotTag z.c.s.engines[e] ((i.slot.toNat + stepSlots cfg * t + j % stepSlots cfg) % 256) = .poison)
    (fun z t hz => (oneStep_inSlots (S := fun _ => True) fun _ _ => trivial).ok hz)
    (fun z t hz => oneStep_poisons hb hz t (Nat.mod_lt j hpos)) (fun z t u hz hp => (oneStep_keepsPoison hb hz hp t).2) _ hok _
    (List.mem_range.2 (Nat.div_lt_of_lt_mul hj))

end

/-! ### Values of a first step (R141 to R160) -/

section

variable {e : Fin 96} {i : ArrayInsn} {cfg : SpliceCfg} {b : StatBuf} {x : StepEv}

/-- The groups of a first STEPS of one slot, none of its operands poisoned (R142 to R151). -/
theorem oneStep_first (hok : EngOk x.c.s e) (henv : CleanEnv x.c.env) (hb : b.poison = false) (hbad : b.bad = [])
    (hfirst : i.first = true) (hpath : cfg.path ≠ .table)
    (hclean : ScratchClean x.c.s e i.src.toNat (32 * ceilDiv (kBlock cfg * fmtWidth (fmtOf cfg.fa)) 8)) :
    SlotHolds (oneStep e i cfg b x 0).c.s e i.slot.toNat fun r k =>
      rowGroups cfg x.c.s.engines[e].eddy b i.kvalid 0 k (stepRow x.c.s e i cfg 0 r)
        (mulDy (scaleDy (rowScaleAt i 0 r)) (scaleDy (colScaleAt i k))) (sideScale x.c.s e i.slot.toNat r k) Acc.new := by
  have hslots : stepSlots cfg = 1 := by simp [stepSlots, hpath]
  have hq : i.slot.toNat < 256 := i.slot.isLt
  set c := stepRead e i cfg x.c 0 with hc
  have hread : Reads e x.c.s c.s := stepRead_reads e i cfg x.c 0
  have hcalm : EChk.Clean x.c.s e c := (EChk.Clean.begin rfl henv).read (by simpa using hclean)
  have hsum : stepSum e i cfg b c 0 0 = fun r k side a =>
      rowGroups cfg x.c.s.engines[e].eddy b i.kvalid 0 k (stepRow x.c.s e i cfg 0 r)
        (mulDy (scaleDy (rowScaleAt i 0 r)) (scaleDy (colScaleAt i k))) side a := by
    funext r k side a
    have hbad' : ∀ col, stepBad e i cfg b c 0 r col = fun _ => false := fun col => by
      funext k; simp [stepBad, hcalm.poisoned, hbad]
    have hrow : stepRow c.s e i cfg 0 r = stepRow x.c.s e i cfg 0 r := by
      funext k; simp only [stepRow, hread.sameSlots.scrByte_eq]
    simp only [stepSum, rowGroups, hbad', hrow, hcalm.engine, Nat.mul_zero, Nat.zero_add]
  have hstep : oneStep e i cfg b x 0 = slotStep e i.slot.toNat true false (!intMode cfg) (rowScaleAt i 0)
      (fun k => colScaleAt i (64 * 0 + k)) (stepSum e i cfg b c 0 0) { x with c := c } := by
    rw [oneStep_eq, hslots, ← hc]
    simp only [List.range_one, List.foldl_cons, List.foldl_nil, stepQuarter, hb, hcalm.poisoned, hfirst, Bool.or_false, Nat.mul_zero,
      Nat.add_zero, Nat.mod_eq_of_lt hq]
  rw [hstep, hsum]
  have h := slotStep_first (x := { x with c := c }) (hread.sameSlots.engOk hok) hq (!intMode cfg) (rowScaleAt i 0)
    (fun k => colScaleAt i (64 * 0 + k)) (stepSum e i cfg b c 0 0)
  rw [hsum] at h
  simpa only [hread.sameSlots.sideScale_eq] using h

/-- The products of a first element-wise step of one slot, none of its operands poisoned (R107). -/
theorem ewiseBlock_first (hok : EngOk x.c.s e) (henv : CleanEnv x.c.env) (hfirst : i.first = true)
    (hclean : ScratchClean x.c.s e (ewiseSrc i 0) (256 * fmtWidth (fmtOf i.fa.toNat) + 256 * fmtWidth (fmtOf i.fb.toNat))) :
    SlotHolds (ewiseBlock e i x 0).c.s e i.slot.toNat fun r k =>
      ewiseProduct x.c.s e i 0 r k (sideScale x.c.s e i.slot.toNat r k) Acc.new := by
  have hq : i.slot.toNat < 256 := i.slot.isLt
  set c := ewiseRead e i x.c 0 with hc
  have hread : Reads e x.c.s c.s := ewiseRead_reads e i x.c 0
  have hcalm : EChk.Clean x.c.s e c := (EChk.Clean.begin rfl henv).read hclean
  have hsum : ewiseSum e i c 0 = ewiseProduct x.c.s e i 0 := by
    funext r k side a
    simp only [ewiseSum, hcalm.poisoned, Bool.false_and, Bool.false_eq_true, if_false, ewiseProduct, ewiseEl, hread.sameSlots.scrByte_eq]
  rw [ewiseBlock_eq, ← hc, hcalm.poisoned, hfirst, Nat.add_zero, Nat.mod_eq_of_lt hq, hsum]
  have h := slotStep_first (x := { x with c := c }) (hread.sameSlots.engOk hok) hq (!(isIntFmt i.fa.toNat && isIntFmt i.fb.toNat))
    (rowScaleAt i 0) (colScaleAt i) (ewiseProduct x.c.s e i 0)
  simpa only [hread.sameSlots.sideScale_eq] using h

end

/-! ### Flags of an instruction (R163) -/

/-- Registers that the flags of engine `e` are held in. -/
def engFlagReg (e : Fin 96) (off : Nat) : Prop := off = offAccstat (e / 6) ∨ off = offAccpsn (e / 6)

/-- From `s` to `t` nothing differs but what observers are left, the flags of engine `e` among it; no engine changed. -/
structure EngNotes (e : Fin 96) (s t : State) : Prop where
  form : t = { s with cores := t.cores, fresh := t.fresh, regs := t.regs, poison := t.poison, t3 := t.t3,
                      events := t.events, evWait := t.evWait, evLost := t.evLost, ueAddr := t.ueAddr }
  canon : cellsWf regReset s.regs = true → cellsWf regReset t.regs = true
  regs : cellsWf regReset s.regs = true → ∀ off, noted off = false → ¬engFlagReg e off → regGet t off = regGet s off

namespace EngNotes

variable {e : Fin 96} {s t u : State}

theorem of_aside (h : Aside s t) : EngNotes e s t := ⟨h.form, h.canon, fun hc off ho _ => h.regs hc off ho⟩

theorem trans (h : EngNotes e s t) (k : EngNotes e t u) : EngNotes e s u :=
  ⟨by rw [k.form, h.form], fun hc => k.canon (h.canon hc), fun hc off ho hf =>
    (k.regs (h.canon hc) off ho hf).trans (h.regs hc off ho hf)⟩

theorem regPut {off : Nat} (ho : engFlagReg e off) (s : State) (v : BitVec 64) : EngNotes e s (regPut s off v) :=
  ⟨rfl, putCell_wf regReset off v s.regs, fun hc o _ hf => regGet_regPut_other s off o v hc fun h => hf (h ▸ ho)⟩

theorem ite {c : Prop} [Decidable c] (h : EngNotes e s t) (k : EngNotes e s u) : EngNotes e s (if c then t else u) := by
  split
  · exact h
  · exact k

theorem refl (s : State) : EngNotes e s s := of_aside (Aside.refl s)

theorem engines (h : EngNotes e s t) : t.engines = s.engines := by rw [h.form]

end EngNotes

theorem engFlag_notes (s : State) (e : Fin 96) (bit : Nat) : EngNotes e s (engFlag s e bit) :=
  ((EngNotes.regPut (.inl rfl) s _).trans (.regPut (.inl rfl) _ _)).trans (.regPut (.inl rfl) _ _)

theorem engPoison_notes (s : State) (e : Fin 96) : EngNotes e s (engPoison s e) :=
  ((EngNotes.regPut (.inl rfl) s _).trans (.regPut (.inl rfl) _ _)).trans (.regPut (.inr rfl) _ _)

theorem flags_notes (e : Fin 96) (x : StepEv) : EngNotes e x.c.s (x.flags e) := by
  unfold StepEv.flags
  extract_lets s s₁ s₂ s₃
  have hovf : EngNotes e s s₁ := .ite
    ((engFlag_notes s e 0).trans (.of_aside ((freshen_aside _).trans (countEv_aside _ _ _ _)))) (.refl s)
  have hinv : EngNotes e s₁ s₂ := .ite (engFlag_notes s₁ e 1) (.refl s₁)
  have hconv : EngNotes e s₂ s₃ := .ite (engFlag_notes s₂ e 2) (.refl s₂)
  exact ((hovf.trans hinv).trans hconv).trans (.ite (engPoison_notes s₃ e) (.refl s₃))

/-- Memory is read over these two registers alone. -/
theorem rdByte_eq_of_regs {s t : State} (hm : t.mem = s.mem) (hbase : regGet t offT3Base = regGet s offT3Base)
    (hsize : regGet t offT3Size = regGet s offT3Size) (a : Nat) : rdByte t a = rdByte s a := by
  simp only [rdByte, backed, memKey, t3Fab, t3Limit, regBit, regField, hbase, hsize, hm]
  rfl

theorem t3_not_engFlagReg (e : Fin 96) : ¬engFlagReg e offT3Base ∧ ¬engFlagReg e offT3Size := by
  unfold engFlagReg offAccstat offAccpsn offCore offT3Base offT3Size
  omega

/-- An instruction is steps into its slots, between work of its engine that leaves the slots alone. -/
theorem slotsOnly_of {e : Fin 96} {slot n : Nat} {r s t u v : State} (hbefore : EngWork e r s) (hsame : SameSlots e r s)
    (hin : InSlots (slotRange slot n) e s t) (hflags : EngNotes e t u) (hafter : EngWork e u v) (hkept : SameSlots e u v) :
    SlotsOnly e slot n r v := by
  have hflagged : SameSlots e t u := .of_engines hflags.engines
  have hwork := hbefore.trans hin.work
  have hregs : Canonical r → ∀ off, noted off = false → ¬engFlagReg e off → regGet v off = regGet r off := by
    intro hc off ho hf
    have htc := hwork.canonical hc
    exact (hafter.aside.regs (hflags.canon htc.2) off ho).trans
      ((hflags.regs htc.2 off ho hf).trans (hwork.aside.regs hc.2 off ho))
  refine ⟨?_, ?_, fun off ho hout => ?_, fun q hq => ?_, fun hc off ho h₁ h₂ => hregs hc off ho fun h => h.elim h₁ h₂, fun hc => ?_⟩
  · rw [hafter.aside.form, hflags.form, hwork.aside.form]
  · intro k hk
    rw [hafter.others k hk, hflags.engines, hwork.others k hk]
  · have hslots : scrByte t e off = scrByte s e off := hin.scratch off ho fun q hq hof => by
      obtain ⟨j, hj, rfl⟩ := hq
      exact hout j hj hof
    rw [hkept.scrByte_eq, hflagged.scrByte_eq, hslots, hsame.scrByte_eq]
  · have htags : slotTag t.engines[e] q = slotTag s.engines[e] q := hin.tags q fun ⟨j, hj, h⟩ => hq j hj h
    rw [hkept.slotTag_eq, hflagged.slotTag_eq, htags, hsame.slotTag_eq]
  · exact rdByte_eq_of_regs (by rw [hafter.aside.form, hflags.form, hwork.aside.form])
      (hregs hc _ (by decide) (t3_not_engFlagReg e).1) (hregs hc _ (by decide) (t3_not_engFlagReg e).2)
end Sys2Proof.Machine
end

section
/-! ## Array instructions (O41, O42)

RECONFIGURE, LOAD, STEPS, ELEMENTWISE and ABORT at an engine whose ports hold nothing: each has its turn at once or waits, and does what
its effect says. -/

namespace Sys2Proof.Machine

open Sys2Proof.Safety

/-! ### Configuration (R99, R134) -/

section

variable {e : Fin 96} {s : State}

theorem sameCfg_iff (c : SpliceCfg) :
    sameCfg s e c = true ↔ s.engines[e].cfg = c ∧ (c.path = .log → s.engines[e].eddy = boundEddy s c) := by
  simp only [sameCfg, Bool.and_eq_true, beq_iff_eq, Bool.or_eq_true, bne_iff_ne, ne_eq, ← imp_iff_not_or]

theorem reconfig_engine (s : State) (w : Who) (e : Fin 96) (c : SpliceCfg) :
    (reconfig s w e c).engines[e] = configured s s.engines[e] c := by
  unfold reconfig configured
  by_cases h : sameCfg s e c = true
  · rw [if_pos h, if_pos ((sameCfg_iff c).1 h)]
  · rw [if_neg h, if_neg fun hc => h ((sameCfg_iff c).2 hc),
      engines_aside ((countEv_aside _ _ _ _).trans (traceRec_aside _ _ _ _ _ _ _ _)),
      updE_engine]
    simp only [beq_iff_eq]

theorem reconfig_work (s : State) (w : Who) (e : Fin 96) (c : SpliceCfg) : EngWork e s (reconfig s w e c) := by
  unfold reconfig
  split
  · exact EngWork.refl e s
  · exact (EngWork.updE s e _).trans (.of_aside ((countEv_aside _ _ _ _).trans (traceRec_aside _ _ _ _ _ _ _ _)))

/-- A configuration changes neither slots nor scratch nor what waits. -/
theorem configured_keeps (s : State) (g : Engine) (c : SpliceCfg) : configured s g c =
    { configured s g c with slots := g.slots, scratch := g.scratch, gen := g.gen, poison := g.poison, waitLoads := g.waitLoads,
                            waitSteps := g.waitSteps } := by
  unfold configured
  split <;> rfl

theorem reconfig_sameSlots (s : State) (w : Who) (e : Fin 96) (c : SpliceCfg) : SameSlots e s (reconfig s w e c) := by
  constructor <;> rw [reconfig_engine, configured_keeps]

/-- It does not depend on what waits. -/
theorem configured_waiting (f : Engine → Engine) (g : Engine) (c : SpliceCfg) (loads : List ArrayInsn) (steps : List ArrayOp) :
    configured (updE s e f) { g with waitLoads := loads, waitSteps := steps } c =
      { configured s g c with waitLoads := loads, waitSteps := steps } := by
  unfold configured
  by_cases h : g.cfg = c ∧ (c.path = .log → g.eddy = boundEddy s c)
  · exact (if_pos h).trans (by rw [if_pos h])
  · exact (if_neg h).trans (by rw [if_neg h]; rfl)

/-! ### What joins a port -/

theorem updE_congr {f f' : Engine → Engine} (h : f s.engines[e] = f' s.engines[e]) : updE s e f = updE s e f' := by
  unfold updE
  rw [h]

theorem updE_updE (f f' : Engine → Engine) : updE (updE s e f) e f' = updE s e fun g => f' (f g) := by
  unfold updE
  simp

theorem updE_self {f : Engine → Engine} (h : f s.engines[e] = s.engines[e]) : updE s e f = s := by
  unfold updE
  rw [h]
  simp

theorem tracePass_aside (s : State) (w : Who) (e : Fin 96) (tag tile steps : Nat) : Aside s (tracePass s w e tag tile steps) :=
  (countEv_aside _ _ _ _).trans (traceRec_aside _ _ _ _ _ _ _ _)

end

/-! ### LOAD (R93 to R97) -/

/-- The codebook register that a block brings (R123). -/
def stagedBook (s : State) (e : Fin 96) (cfg : SpliceCfg) (src : Nat) : List Byte :=
  if needsBook cfg then cleanBook ((List.range 16).map fun k => scrByte s e (src + blockBytes cfg + k)) else []

/-- The checks of a load: its block, and its codebook (R123). -/
def loadRead (e : Fin 96) (cfg : SpliceCfg) (src : Nat) (c : EChk) : EChk :=
  let c := EChk.read e c src (blockBytes cfg)
  if needsBook cfg then EChk.read e c (src + blockBytes cfg) 16 else c

/-- The buffer that a load writes, after the checks `c` (R94, R96). -/
def loadedBuf (e : Fin 96) (i : ArrayInsn) (tag : Nat) (c : EChk) : StatBuf :=
  let cfg := insnCfg i i.path
  let src := i.src.toNat
  let book := stagedBook c.s e cfg src
  { tag := tag, valid := true, released := false
    entries := (List.range 16).flatMap fun kk => (List.range 64).map fun x => BitVec.ofNat 32 (statEntry c.s e cfg src book kk x)
    mx := i.mxb, codebook := book, poison := c.poisoned, bad := if c.poisoned then badElsOf c.s e cfg src else [] }

section

variable {e : Fin 96} {i : ArrayInsn} {s t : State}

theorem loadEffect_eq (e : Fin 96) (i : ArrayInsn) (a : Bool) (s : State) :
    loadEffect e i a s =
      let tag := s.engines[e].counter
      let c := loadRead e (insnCfg i i.path) i.src.toNat ⟨s, i.env, false⟩
      let b := loadedBuf e i tag c
      updE (countEv c.s (engCore e) 0x03 1) e fun g =>
        { g with counter := (tag + 1) % 4, bufA := if a then b else g.bufA, bufB := if a then g.bufB else b } := rfl

theorem loadRead_reads (e : Fin 96) (cfg : SpliceCfg) (src : Nat) (c : EChk) : Reads e c.s (loadRead e cfg src c).s := by
  unfold loadRead
  extract_lets c₁
  split
  · exact (EChk.read_reads e c _ _).trans (EChk.read_reads e c₁ _ _)
  · exact EChk.read_reads e c _ _

theorem loadRead_clean {cfg : SpliceCfg} {src : Nat} {c : EChk} (h : EChk.Clean s e c) (hblock : ScratchClean s e src (blockBytes cfg))
    (hbook : needsBook cfg = true → ScratchClean s e (src + blockBytes cfg) 16) : EChk.Clean s e (loadRead e cfg src c) := by
  unfold loadRead
  extract_lets c₁
  split
  next hneeds => exact (h.read hblock).read (hbook hneeds)
  next => exact h.read hblock

theorem loadEffect_engine (e : Fin 96) (i : ArrayInsn) (a : Bool) (s : State) :
    let tag := s.engines[e].counter
    let b := loadedBuf e i tag (loadRead e (insnCfg i i.path) i.src.toNat ⟨s, i.env, false⟩)
    let t := loadEffect e i a s
    t.engines[e] = { s.engines[e] with
      counter := (tag + 1) % 4, bufA := if a then b else s.engines[e].bufA, bufB := if a then s.engines[e].bufB else b
      poison := t.engines[e].poison } := by
  intro tag b t
  have hread := loadRead_reads e (insnCfg i i.path) i.src.toNat ⟨s, i.env, false⟩
  unfold t
  rw [loadEffect_eq]
  dsimp only
  rw [updE_engine, engines_aside (countEv_aside _ _ _ _), hread.engine]

theorem loadEffect_work (e : Fin 96) (i : ArrayInsn) (a : Bool) (s : State) : EngWork e s (loadEffect e i a s) := by
  rw [loadEffect_eq]
  exact ((loadRead_reads e _ _ ⟨s, i.env, false⟩).work.trans (.of_aside (countEv_aside _ _ _ _))).trans (EngWork.updE _ e _)

theorem stagedBook_congr (h : SameSlots e s t) (cfg : SpliceCfg) (src : Nat) : stagedBook t e cfg src = stagedBook s e cfg src := by
  simp only [stagedBook, h.scrByte_eq]

theorem statEntry_congr (h : SameSlots e s t) (cfg : SpliceCfg) (src : Nat) (book : List Byte) (kk x : Nat) :
    statEntry t e cfg src book kk x = statEntry s e cfg src book kk x := by
  simp only [statEntry, stagedB, h.scrByte_eq]

/-- Entry (kk, x) of a loaded buffer. -/
theorem loadedBuf_entry (e : Fin 96) (i : ArrayInsn) (tag : Nat) (c : EChk) {kk x : Nat} (hk : kk < 16) (hx : x < 64) :
    (loadedBuf e i tag c).entries.getD (64 * kk + x) 0 =
      BitVec.ofNat 32 (statEntry c.s e (insnCfg i i.path) i.src.toNat (stagedBook c.s e (insnCfg i i.path) i.src.toNat) kk x) := by
  rw [List.getD_eq_getElem?_getD, loadedBuf]
  dsimp only
  rw [getElem?_rows _ hk hx]
  rfl

end

/-! ### STEPS and ELEMENTWISE (R97, R107) -/

/-- An instruction whose steps begin, after its trace record. -/
def traced (e : Fin 96) (i : ArrayInsn) (s : State) : StepEv :=
  ⟨⟨tracePass s Who.none e i.tag.toNat (Config.freeNat s.fresh) (i.count.toNat + 1), i.env, false⟩, false, false, false, false⟩

/-- The steps of a STEPS over the buffer `b`. -/
def stepsRun (e : Fin 96) (i : ArrayInsn) (b : StatBuf) (s : State) : StepEv :=
  (List.range (i.count.toNat + 1)).foldl (oneStep e i (insnCfg i i.path) b) (traced e i s)

/-- The blocks of an ELEMENTWISE. -/
def ewiseRun (e : Fin 96) (i : ArrayInsn) (s : State) : StepEv :=
  (List.range ((i.count.toNat + 1) * ewiseSlots (insnCfg i .ewise).rung)).foldl (ewiseBlock e i) (traced e i s)

/-- The buffer that the steps went over is released (R97). -/
def released (a : Bool) (g : Engine) : Engine :=
  if a then { g with bufA := { g.bufA with released := true } } else { g with bufB := { g.bufB with released := true } }

theorem stepsEffect_eq (e : Fin 96) (i : ArrayInsn) (a : Bool) (b : StatBuf) (s : State) :
    stepsEffect e i a b s = updE ((stepsRun e i b s).flags e) e (released a) := rfl

theorem ewiseEffect_eq (e : Fin 96) (i : ArrayInsn) (s : State) :
    ewiseEffect e i s = (ewiseRun e i (reconfig s Who.none e (insnCfg i .ewise))).flags e := rfl

section

variable {e : Fin 96} {i : ArrayInsn} {s : State}

theorem traced_aside (e : Fin 96) (i : ArrayInsn) (s : State) : Aside s (traced e i s).c.s := tracePass_aside _ _ _ _ _ _

theorem stepsRun_inSlots (e : Fin 96) (i : ArrayInsn) (b : StatBuf) (s : State) :
    InSlots (slotRange i.slot.toNat (stepSlots (insnCfg i i.path) * (i.count.toNat + 1))) e s (stepsRun e i b s).c.s :=
  (InSlots.of_aside (traced_aside e i s)).trans (steps_inSlots _)

theorem ewiseRun_inSlots (e : Fin 96) (i : ArrayInsn) (s : State) :
    InSlots (slotRange i.slot.toNat ((i.count.toNat + 1) * ewiseSlots (insnCfg i .ewise).rung)) e s (ewiseRun e i s).c.s :=
  (InSlots.of_aside (traced_aside e i s)).trans (ewise_inSlots _)

theorem released_sameSlots (e : Fin 96) (a : Bool) (s : State) : SameSlots e s (updE s e (released a)) := by
  refine SameSlots.updE s (fun g => ?_) (fun g => ?_) (fun g => ?_) <;> unfold released <;> split <;> rfl

theorem flags_sameSlots (e : Fin 96) (x : StepEv) : SameSlots e x.c.s (x.flags e) := .of_engines (flags_notes e x).engines

/-- Slots and scratch after a STEPS are those that its steps left. -/
theorem stepsEffect_sameSlots (e : Fin 96) (i : ArrayInsn) (a : Bool) (b : StatBuf) (s : State) :
    SameSlots e (stepsRun e i b s).c.s (stepsEffect e i a b s) :=
  (flags_sameSlots e _).trans (released_sameSlots e a _)

theorem stepsEffect_slotsOnly (e : Fin 96) (i : ArrayInsn) (a : Bool) (b : StatBuf) (s : State) :
    SlotsOnly e i.slot.toNat (stepSlots (insnCfg i i.path) * (i.count.toNat + 1)) s (stepsEffect e i a b s) := by
  rw [stepsEffect_eq]
  exact slotsOnly_of (.refl e s) (.of_engines rfl) (stepsRun_inSlots e i b s) (flags_notes e _) (EngWork.updE _ e _)
    (released_sameSlots e a _)

theorem ewiseEffect_slotsOnly (e : Fin 96) (i : ArrayInsn) (s : State) :
    SlotsOnly e i.slot.toNat ((i.count.toNat + 1) * ewiseSlots (insnCfg i .ewise).rung) s (ewiseEffect e i s) :=
  slotsOnly_of (reconfig_work s _ e _) (reconfig_sameSlots s _ e _) (ewiseRun_inSlots e i _) (flags_notes e _)
    (.refl e _) (.of_engines rfl)

theorem stepsEffect_engine (e : Fin 96) (i : ArrayInsn) (a : Bool) (b : StatBuf) (s : State) :
    let g := s.engines[e]
    let t := stepsEffect e i a b s
    t.engines[e] = { g with slots := t.engines[e].slots, scratch := t.engines[e].scratch, poison := t.engines[e].poison
                            bufA := if a then { g.bufA with released := true } else g.bufA
                            bufB := if a then g.bufB else { g.bufB with released := true } } := by
  intro g t
  have hrun : ((stepsRun e i b s).flags e).engines[e] = { g with
      slots := (stepsRun e i b s).c.s.engines[e].slots, scratch := (stepsRun e i b s).c.s.engines[e].scratch
      poison := (stepsRun e i b s).c.s.engines[e].poison } := by
    rw [(flags_notes e _).engines, (stepsRun_inSlots e i b s).engine]
  have ht : t.engines[e] = released a ((stepsRun e i b s).flags e).engines[e] := updE_engine _ e _
  rw [ht, hrun]
  cases a <;> rfl

theorem ewiseEffect_engine (e : Fin 96) (i : ArrayInsn) (s : State) :
    let t := ewiseEffect e i s
    t.engines[e] = { configured s s.engines[e] (insnCfg i .ewise) with
      slots := t.engines[e].slots, scratch := t.engines[e].scratch, poison := t.engines[e].poison } := by
  intro t
  have ht : t.engines = (ewiseRun e i (reconfig s Who.none e (insnCfg i .ewise))).c.s.engines := (flags_notes e _).engines
  rw [ht, (ewiseRun_inSlots e i _).engine, reconfig_engine]

/-! ### The ports (R95, R97) -/

theorem enginesSame_refl (e : Fin 96) (s : State) : EnginesSame e s s := fun _ _ => rfl

theorem enginesSame_trans {t u : State} (h : EnginesSame e s t) (k : EnginesSame e t u) : EnginesSame e s u :=
  fun j hj => (k j hj).trans (h j hj)

theorem tryStep_others {t : State} (h : tryStep e s = some t) : EnginesSame e s t := by
  unfold tryStep at h
  split at h
  · cases h
  · split at h
    · cases h
    · obtain ⟨b, -, rfl⟩ := Option.map_eq_some_iff.1 h
      exact enginesSame_trans (updE_others s e _) (stepsEffect_slotsOnly e _ _ _ _).others
  · cases h
    exact enginesSame_trans (updE_others s e _) (ewiseEffect_slotsOnly e _ _).others
  · cases h
    exact enginesSame_trans (updE_others s e _) (reconfig_work _ _ e _).others

theorem tryLoad_others {t : State} (h : tryLoad e s = some t) : EnginesSame e s t := by
  unfold tryLoad at h
  split at h
  · cases h
  · dsimp only at h
    split at h
    · cases h
    · obtain ⟨a, -, rfl⟩ := Option.map_eq_some_iff.1 h
      exact (((reconfig_work s _ e _).trans (EngWork.updE _ e _)).trans (loadEffect_work e _ a _)).others

theorem engAdvance_others (e : Fin 96) (n : Nat) (s : State) : EnginesSame e s (engAdvance e n s) := by
  induction n generalizing s with
  | zero => exact enginesSame_refl e s
  | succ n ih =>
    unfold engAdvance
    split
    next t h => exact enginesSame_trans (tryStep_others h) (ih t)
    next =>
      split
      next t h => exact enginesSame_trans (tryLoad_others h) (ih t)
      next => exact enginesSame_refl e s

theorem inject_others (e : Fin 96) (i : ArrayInsn) (o : ArrayOp) (s : State) : EnginesSame e s (inject e i o s) := by
  unfold inject
  split
  · exact enginesSame_trans (updE_others s e _) (engAdvance_others e _ _)
  · exact enginesSame_refl e s

end

section

variable {e : Fin 96} {i : ArrayInsn} {o : ArrayOp} {s : State}

/-- An engine whose ports hold nothing. -/
structure PortsEmpty (s : State) (e : Fin 96) : Prop where
  loads : s.engines[e].waitLoads = []
  steps : s.engines[e].waitSteps = []

theorem engReady_of (hs : inService s = true) (he : s.inService[e] = true) : engReady s e = true := by simp [engReady, hs, he]

/-- What joins an injection port that holds nothing is injected at once, or waits (R97). -/
theorem inject_alone (hready : engReady s e = true) (hacc : insnAccepted i o.cfg.path = true) (hempty : PortsEmpty s e) :
    let s₁ := updE s e fun g => { g with waitSteps := [o] }
    inject e i o s = (tryStep e s₁).getD s₁ := by
  intro s₁
  have hjoin : (updE s e fun g => { g with waitSteps := g.waitSteps ++ [o] }) = s₁ := updE_congr (by rw [hempty.steps]; rfl)
  have hports : s₁.engines[e] = { s.engines[e] with waitSteps := [o] } := updE_engine s e _
  have hload : tryLoad e s₁ = none := by
    unfold tryLoad
    rw [hports]
    dsimp only
    rw [hempty.loads]
  unfold inject
  rw [hready, hacc, Bool.true_and, if_pos rfl, hjoin, engRun, hports]
  dsimp only
  rw [hempty.loads]
  simp only [List.length_nil, List.length_singleton, Nat.zero_add, engAdvance]
  cases tryStep e s₁ with
  | none => rw [hload]; rfl
  | some t => rfl

/-- What waits at the injection port and is injected leaves an engine as before. -/
theorem updE_injected (hempty : PortsEmpty s e) (o : ArrayOp) :
    (updE (updE s e fun g => { g with waitSteps := [o] }) e fun g => { g with waitSteps := [] }) = s := by
  rw [updE_updE]
  exact updE_self (by rw [← hempty.steps])

theorem execReconfigure_alone (hready : engReady s e = true) (hacc : insnAccepted i i.path = true) (hempty : PortsEmpty s e) :
    exec (.reconfigure e i) s = .next (reconfig s Who.none e (insnCfg i i.path)) := by
  have hinj : tryStep e (updE s e fun g => { g with waitSteps := [.reconfigure i] }) =
      some (reconfig s Who.none e (insnCfg i i.path)) := by
    unfold tryStep
    rw [updE_engine]
    dsimp only
    rw [updE_injected hempty]
  have h := inject_alone (o := .reconfigure i) hready hacc hempty
  dsimp only at h
  rw [hinj] at h
  exact congrArg Host.Outcome.next h

theorem execElementwise_alone (hready : engReady s e = true) (hacc : insnAccepted i .ewise = true) (hempty : PortsEmpty s e) :
    exec (.elementwise e i) s = .next (ewiseEffect e i s) := by
  have hinj : tryStep e (updE s e fun g => { g with waitSteps := [.elementwise i] }) = some (ewiseEffect e i s) := by
    unfold tryStep
    rw [updE_engine]
    dsimp only
    rw [updE_injected hempty]
  have h := inject_alone (o := .elementwise i) hready hacc hempty
  dsimp only at h
  rw [hinj] at h
  exact congrArg Host.Outcome.next h

/-- STEPS are injected where a buffer holds their tag under their configuration (R97, R99). -/
theorem tryStep_steps (hempty : PortsEmpty s e) : tryStep e (updE s e fun g => { g with waitSteps := [.steps i] }) =
    if s.engines[e].cfg = insnCfg i i.path then (bufOf s.engines[e] i.tag.toNat).map fun b => stepsEffect e i b.1 b.2 s else none := by
  unfold tryStep
  rw [updE_engine]
  dsimp only
  rw [updE_injected hempty]
  by_cases h : s.engines[e].cfg = insnCfg i i.path
  · rw [if_pos h, if_neg fun hne => bne_iff_ne.1 hne h]
    rfl
  · rw [if_neg h, if_pos (bne_iff_ne.2 h)]

theorem execSteps_alone (hready : engReady s e = true) (hacc : insnAccepted i i.path = true) (hempty : PortsEmpty s e) {a : Bool}
    {b : StatBuf} (hcfg : s.engines[e].cfg = insnCfg i i.path) (hbuf : bufOf s.engines[e] i.tag.toNat = some (a, b)) :
    exec (.steps e i) s = .next (stepsEffect e i a b s) := by
  have h := inject_alone (o := .steps i) hready hacc hempty
  dsimp only at h
  rw [tryStep_steps hempty, if_pos hcfg, hbuf] at h
  exact congrArg Host.Outcome.next h

theorem execSteps_waits (hready : engReady s e = true) (hacc : insnAccepted i i.path = true) (hempty : PortsEmpty s e)
    (hnone : s.engines[e].cfg ≠ insnCfg i i.path ∨ bufOf s.engines[e] i.tag.toNat = none) :
    exec (.steps e i) s = .next (updE s e fun g => { g with waitSteps := [.steps i] }) := by
  have h := inject_alone (o := .steps i) hready hacc hempty
  dsimp only at h
  rw [tryStep_steps hempty] at h
  rcases hnone with hcfg | hbuf
  · rw [if_neg hcfg] at h
    exact congrArg Host.Outcome.next h
  · rw [hbuf, Option.map_none, ite_self] at h
    exact congrArg Host.Outcome.next h

/-- The engine that a LOAD finds at its turn: configured for it, with nothing waiting (R97, R99). -/
def loadTurn (e : Fin 96) (i : ArrayInsn) (s : State) : State :=
  updE (reconfig (updE s e fun g => { g with waitLoads := [i] }) Who.none e (insnCfg i i.path)) e fun g => { g with waitLoads := [] }

theorem loadTurn_engine (hempty : PortsEmpty s e) : (loadTurn e i s).engines[e] = configured s s.engines[e] (insnCfg i i.path) := by
  unfold loadTurn
  rw [updE_engine, reconfig_engine, updE_engine]
  have h := configured_waiting (e := e) (s := s) (fun g => { g with waitLoads := [i] }) s.engines[e]
    (insnCfg i i.path) [i] s.engines[e].waitSteps
  rw [h, configured_keeps, hempty.loads]

theorem loadTurn_work (e : Fin 96) (i : ArrayInsn) (s : State) : EngWork e s (loadTurn e i s) :=
  ((EngWork.updE s e _).trans (reconfig_work _ _ e _)).trans (EngWork.updE _ e _)

/-- A LOAD has its turn where the free buffer can take it (R96, R97). -/
theorem tryLoad_alone (hempty : PortsEmpty s e) : tryLoad e (updE s e fun g => { g with waitLoads := [i] }) =
    (loadsA (configured s s.engines[e] (insnCfg i i.path))).map fun a => loadEffect e i a (loadTurn e i s) := by
  have hloads : loadsA (reconfig (updE s e fun g => { g with waitLoads := [i] }) Who.none e (insnCfg i i.path)).engines[e] =
      loadsA (configured s s.engines[e] (insnCfg i i.path)) := by
    rw [← loadTurn_engine hempty, loadTurn, updE_engine]
    rfl
  unfold tryLoad
  rw [updE_engine]
  dsimp only
  rw [hempty.steps, List.any_nil, Bool.and_false, if_neg Bool.false_ne_true, hloads]
  rfl

/-- A LOAD at an engine whose ports hold nothing writes the free buffer, or waits where none is free (R97). -/
theorem execLoad_alone (hready : engReady s e = true) (hacc : insnAccepted i i.path = true) (hempty : PortsEmpty s e) :
    exec (.load e i) s = .next (((loadsA (configured s s.engines[e] (insnCfg i i.path))).map fun a =>
      loadEffect e i a (loadTurn e i s)).getD (updE s e fun g => { g with waitLoads := [i] })) := by
  have hjoin : (updE s e fun g => { g with waitLoads := g.waitLoads ++ [i] }) = updE s e fun g => { g with waitLoads := [i] } :=
    updE_congr (by rw [hempty.loads]; rfl)
  have hstep : tryStep e (updE s e fun g => { g with waitLoads := [i] }) = none := by
    unfold tryStep
    rw [updE_engine]
    dsimp only
    rw [hempty.steps]
  have hrun : engRun e (updE s e fun g => { g with waitLoads := [i] }) =
      (tryLoad e (updE s e fun g => { g with waitLoads := [i] })).getD (updE s e fun g => { g with waitLoads := [i] }) := by
    rw [engRun, updE_engine]
    dsimp only
    rw [hempty.steps]
    simp only [List.length_nil, List.length_singleton, Nat.add_zero, engAdvance, hstep]
    split
    next h => rw [h]; rfl
    next h => rw [h]; rfl
  change Host.Outcome.next _ = _
  rw [hready, hacc, Bool.true_and, if_pos rfl, hjoin, hrun, tryLoad_alone hempty]

/-! ### Refused operands, and ABORT (R86, R101) -/

theorem inject_refused (h : insnAccepted i o.cfg.path = false) : inject e i o s = s := by
  rw [inject, h, Bool.and_false, if_neg Bool.false_ne_true]

theorem execLoad_refused (h : insnAccepted i i.path = false) : exec (.load e i) s = .next s := by
  change Host.Outcome.next _ = _
  rw [h, Bool.and_false, if_neg Bool.false_ne_true]

theorem execLoad_others (e : Fin 96) (i : ArrayInsn) (s : State) : ∃ t, exec (.load e i) s = .next t ∧ EnginesSame e s t := by
  refine ⟨_, rfl, ?_⟩
  split
  · exact enginesSame_trans (updE_others s e _) (engAdvance_others e _ _)
  · exact enginesSame_refl e s

theorem execArrayAbort_ready (hready : engReady s e = true) :
    exec (.arrayAbort e) s = .next (updE (abortEngine s e) e fun g => { g with waitLoads := [], waitSteps := [] }) := by
  change Host.Outcome.next _ = _
  rw [hready, if_pos rfl]

theorem abortEngine_work (s : State) (e : Fin 96) : EngWork e s (abortEngine s e) :=
  (EngWork.of_aside (countEv_aside s _ _ _)).trans (EngWork.updE _ e _)

theorem abortEngine_engine (s : State) (e : Fin 96) : (abortEngine s e).engines[e] = s.engines[e].invalidate := by
  rw [abortEngine, updE_engine, engines_aside (countEv_aside s _ _ _)]

/-! ### A LOAD at its turn (R93 to R97) -/

theorem loadTurn_sameSlots (hempty : PortsEmpty s e) : SameSlots e s (loadTurn e i s) := by
  constructor <;> rw [loadTurn_engine hempty, configured_keeps]

theorem loadTurn_clean (hempty : PortsEmpty s e) {off n : Nat} (h : ScratchClean s e off n) : ScratchClean (loadTurn e i s) e off n := by
  unfold ScratchClean
  rw [loadTurn_engine hempty, configured_keeps]
  exact h

/-- The buffer that a LOAD fills, where its ports hold nothing. -/
def filledBuf (e : Fin 96) (i : ArrayInsn) (s : State) : StatBuf :=
  loadedBuf e i (configured s s.engines[e] (insnCfg i i.path)).counter
    (loadRead e (insnCfg i i.path) i.src.toNat ⟨loadTurn e i s, i.env, false⟩)

theorem filledBuf_sameSlots (hempty : PortsEmpty s e) :
    SameSlots e s (loadRead e (insnCfg i i.path) i.src.toNat ⟨loadTurn e i s, i.env, false⟩).s :=
  (loadTurn_sameSlots hempty).trans (loadRead_reads e _ _ ⟨loadTurn e i s, i.env, false⟩).sameSlots

theorem filledBuf_codebook (hempty : PortsEmpty s e) :
    (filledBuf e i s).codebook = stagedBook s e (insnCfg i i.path) i.src.toNat := stagedBook_congr (filledBuf_sameSlots hempty) _ _

theorem filledBuf_entry (hempty : PortsEmpty s e) {kk x : Nat} (hk : kk < 16) (hx : x < 64) :
    (filledBuf e i s).entries.getD (64 * kk + x) 0 =
      BitVec.ofNat 32 (statEntry s e (insnCfg i i.path) i.src.toNat (stagedBook s e (insnCfg i i.path) i.src.toNat) kk x) := by
  have hsame := filledBuf_sameSlots (i := i) hempty
  rw [filledBuf, loadedBuf_entry e i _ _ hk hx, stagedBook_congr hsame, statEntry_congr hsame]

theorem filledBuf_clean (hempty : PortsEmpty s e) (henv : CleanEnv i.env)
    (hblock : ScratchClean s e i.src.toNat (blockBytes (insnCfg i i.path)))
    (hbook : needsBook (insnCfg i i.path) = true → ScratchClean s e (i.src.toNat + blockBytes (insnCfg i i.path)) 16) :
    (filledBuf e i s).poison = false ∧ (filledBuf e i s).bad = [] := by
  have hclean := loadRead_clean (EChk.Clean.begin (s := loadTurn e i s) rfl henv) (loadTurn_clean hempty hblock) fun hneeds =>
    loadTurn_clean hempty (hbook hneeds)
  unfold filledBuf loadedBuf
  dsimp only
  rw [hclean.poisoned]
  exact ⟨rfl, rfl⟩

end

section

variable {e : Fin 96} {i : ArrayInsn} {s : State}

/-! ### What the slots hold after an instruction -/

/-- STEPS over a poisoned buffer leave POISON in every slot of theirs (R160). -/
theorem stepsEffect_poison (hok : EngOk s e) (a : Bool) {b : StatBuf} (hb : b.poison = true) {j : Nat}
    (hj : j < stepSlots (insnCfg i i.path) * (i.count.toNat + 1)) :
    slotTag (stepsEffect e i a b s).engines[e] ((i.slot.toNat + j) % 256) = .poison := by
  have hstart := SameSlots.of_engines (e := e) (engines_aside (traced_aside e i s))
  rw [(stepsEffect_sameSlots e i a b s).slotTag_eq]
  exact steps_poison hb (hstart.engOk hok) hj

theorem scratchClean_congr {t : State} (h : t.engines[e] = s.engines[e]) {off n : Nat} (hclean : ScratchClean s e off n) :
    ScratchClean t e off n := by
  unfold ScratchClean
  rw [h]
  exact hclean

theorem rowScaleAt_zero (i : ArrayInsn) (r : Nat) : rowScaleAt i 0 r = (i.rowScale.getD r one32).toNat := by
  rw [rowScaleAt, Nat.mul_zero, Nat.zero_add]

/-- Row `r` of the first step, as it is staged. -/
theorem stepRow_zero (s : State) (e : Fin 96) (i : ArrayInsn) (cfg : SpliceCfg) (r : Nat) : stepRow s e i cfg 0 r = fun x =>
    let w := fmtWidth (fmtOf cfg.fa)
    let code := unpackAt w (fun y => scrByte s e (i.src.toNat + r * ceilDiv (kBlock cfg * w) 8 + y)) x
    (code, mxEl (splitElem (fmtOf cfg.fa) [] code) i.mxa (r * kBlock cfg + x)) := by
  funext x
  simp only [stepRow, Nat.zero_mul, Nat.mul_zero, Nat.add_zero, Nat.zero_add]

theorem ewiseSrc_zero (i : ArrayInsn) : ewiseSrc i 0 = i.src.toNat := by simp [ewiseSrc]

/-- Element (r, k) of the first block. -/
theorem ewiseEl_zero (s : State) (e : Fin 96) (f base : Nat) (mx : List Byte) (r k : Nat) : ewiseEl s e 0 f base mx r k =
    mxEl (splitElem (fmtOf f) [] (unpackAt (fmtWidth (fmtOf f)) (fun y => scrByte s e (base + y)) (64 * r + k))) mx (64 * r + k) := by
  rw [ewiseEl, Nat.mul_zero, Nat.zero_add, Nat.mul_comm r 64]

/-- One first step of STEPS, free of poison, leaves the groups of its rows and columns (R142 to R159). -/
theorem stepsEffect_first (hok : EngOk s e) (a : Bool) {b : StatBuf} (hb : b.poison = false) (hbad : b.bad = []) (henv : CleanEnv i.env)
    (hclean : ScratchClean s e i.src.toNat (32 * ceilDiv (kBlock (insnCfg i i.path) * fmtWidth (fmtOf (insnCfg i i.path).fa)) 8))
    (hcount : i.count = 0) (hfirst : i.first = true) (hpath : (insnCfg i i.path).path ≠ .table) :
    SlotHolds (stepsEffect e i a b s) e i.slot.toNat fun r k =>
      rowGroups (insnCfg i i.path) s.engines[e].eddy b i.kvalid 0 k (stepRow s e i (insnCfg i i.path) 0 r)
        (mulDy (scaleDy (rowScaleAt i 0 r)) (scaleDy (colScaleAt i k))) (sideScale s e i.slot.toNat r k) Acc.new := by
  have hengines := engines_aside (traced_aside e i s)
  have hengine : (traced e i s).c.s.engines[e] = s.engines[e] := by rw [hengines]
  have hstart := SameSlots.of_engines (e := e) hengines
  have hrow : ∀ r, stepRow (traced e i s).c.s e i (insnCfg i i.path) 0 r = stepRow s e i (insnCfg i i.path) 0 r := fun r => by
    funext k; simp only [stepRow, hstart.scrByte_eq]
  have hrun : stepsRun e i b s = oneStep e i (insnCfg i i.path) b (traced e i s) 0 := by simp [stepsRun, hcount]
  refine (stepsEffect_sameSlots e i a b s).slotHolds ?_
  rw [hrun]
  have h := oneStep_first (x := traced e i s) (hstart.engOk hok) henv hb hbad hfirst hpath (scratchClean_congr hengine hclean)
  simpa only [hrow, hengine, hstart.sideScale_eq] using h

/-- One first block of ELEMENTWISE, free of poison, leaves its products (R107). -/
theorem ewiseEffect_first (hok : EngOk s e) (henv : CleanEnv i.env) (hcount : i.count = 0) (hrung : (insnCfg i .ewise).rung ≠ 0)
    (hfirst : i.first = true)
    (hclean : ScratchClean s e i.src.toNat (256 * fmtWidth (fmtOf i.fa.toNat) + 256 * fmtWidth (fmtOf i.fb.toNat))) :
    SlotHolds (ewiseEffect e i s) e i.slot.toNat fun r k => ewiseProduct s e i 0 r k (sideScale s e i.slot.toNat r k) Acc.new := by
  set u := reconfig s Who.none e (insnCfg i .ewise) with hu
  have hengines := engines_aside (traced_aside e i u)
  have hstart : SameSlots e s (traced e i u).c.s := (reconfig_sameSlots s _ e _).trans (.of_engines hengines)
  have hslots : ewiseSlots (insnCfg i .ewise).rung = 1 := by simp [ewiseSlots, hrung]
  have hpoison : (traced e i u).c.s.engines[e].poison = s.engines[e].poison := by
    rw [hengines, hu, reconfig_engine, configured_keeps]
  have hclean' : ScratchClean (traced e i u).c.s e (ewiseSrc i 0)
      (256 * fmtWidth (fmtOf i.fa.toNat) + 256 * fmtWidth (fmtOf i.fb.toNat)) := by
    unfold ScratchClean
    rw [hpoison, ewiseSrc_zero]
    exact hclean
  have hrun : ewiseRun e i u = ewiseBlock e i (traced e i u) 0 := by simp [ewiseRun, hcount, hslots]
  have hproduct : ∀ r k, ewiseProduct (traced e i u).c.s e i 0 r k = ewiseProduct s e i 0 r k := fun r k => by
    funext side a; simp only [ewiseProduct, ewiseEl, hstart.scrByte_eq]
  rw [ewiseEffect_eq, ← hu]
  refine (flags_sameSlots e _).slotHolds ?_
  rw [hrun]
  have h := ewiseBlock_first (x := traced e i u) (hstart.engOk hok) henv hfirst hclean'
  simpa only [hproduct, hstart.sideScale_eq] using h

end
end Sys2Proof.Machine

namespace Sys2Proof.Safety

open Sys2Proof.Machine

/-- Settles O41: an instruction alone at its port has its turn at once, and a load is the reads of its staged block. -/
theorem buffersAreLoadedAndInvalidated : Obligations.BuffersAreLoadedAndInvalidated := by
  intro e i s cfg g src n book hs he
  have hready := engReady_of hs he
  refine ⟨?_, ?_, fun hacc hloads hsteps => ?_⟩
  · have hwork := (abortEngine_work s e).trans (EngWork.updE _ e fun g => { g with waitLoads := [], waitSteps := [] })
    exact ⟨_, execArrayAbort_ready hready, hwork.aside, hwork.others, by rw [updE_engine, abortEngine_engine]; rfl⟩
  · intro row hrow
    simp only [List.mem_cons, List.not_mem_nil, or_false] at hrow
    obtain rfl | rfl | rfl | rfl := hrow
    · exact ⟨fun h => congrArg Host.Outcome.next (inject_refused (o := .reconfigure i) (by simpa [ArrayOp.cfg, insnCfg] using h)), _, rfl,
        inject_others e i _ s⟩
    · exact ⟨fun h => execLoad_refused (by simpa using h), execLoad_others e i s⟩
    · exact ⟨fun h => congrArg Host.Outcome.next (inject_refused (o := .steps i) (by simpa [ArrayOp.cfg, insnCfg] using h)), _, rfl,
        inject_others e i _ s⟩
    · exact ⟨fun h => congrArg Host.Outcome.next (inject_refused (o := .elementwise i) (by simpa [ArrayOp.cfg, insnCfg] using h)), _, rfl,
        inject_others e i _ s⟩
  · have hempty : PortsEmpty s e := ⟨hloads, hsteps⟩
    have hconfig := reconfig_work s Who.none e cfg
    refine ⟨⟨_, execReconfigure_alone hready hacc hempty, reconfig_engine s _ e cfg, hconfig.others, hconfig.aside⟩,
      fun hnone => ?_, fun a ha => ?_⟩
    · rw [execLoad_alone hready hacc hempty, hnone]
      rfl
    · have hwork := (loadTurn_work e i s).trans (loadEffect_work e i a (loadTurn e i s))
      have hload := loadEffect_engine e i a (loadTurn e i s)
      rw [loadTurn_engine hempty] at hload
      refine ⟨loadEffect e i a (loadTurn e i s), filledBuf e i s, ?_, hload, rfl, rfl, rfl, rfl, filledBuf_codebook hempty,
        fun kk hk x hx => filledBuf_entry hempty hk hx, filledBuf_clean hempty, hwork.others, hwork.aside⟩
      rw [execLoad_alone hready hacc hempty, ha]
      rfl


/-- Settles O42: every step is a step into each of its slots, which meets what its reads have left and changes no other slot. -/
theorem stepsAndProductsEnterTheirSlots : Obligations.StepsAndProductsEnterTheirSlots := by
  refine ⟨?_, ?_⟩
  · intro e i s cfg g w rowB n q hs he hacc hloads hsteps
    have hready := engReady_of hs he
    have hempty : PortsEmpty s e := ⟨hloads, hsteps⟩
    refine ⟨execSteps_waits hready hacc hempty, fun a b hcfg hbuf => ?_⟩
    refine ⟨_, execSteps_alone hready hacc hempty hcfg hbuf, stepsEffect_slotsOnly e i a b s, stepsEffect_engine e i a b s,
      fun hok hb j hj => stepsEffect_poison hok a hb hj, fun hok hb hbad henv hclean hcount hfirst hpath => ?_⟩
    have h := stepsEffect_first hok a hb hbad henv hclean hcount hfirst hpath
    simp only [stepRow_zero, rowScaleAt_zero, colScaleAt] at h
    exact h
  · intro e i s cfg g wx wy q src hs he hacc hloads hsteps
    have hready := engReady_of hs he
    have hempty : PortsEmpty s e := ⟨hloads, hsteps⟩
    refine ⟨_, execElementwise_alone hready hacc hempty, ewiseEffect_slotsOnly e i s, ewiseEffect_engine e i s,
      fun hok henv hclean hcount hrung hfirst => ?_⟩
    have h := ewiseEffect_first hok henv hcount hrung hfirst hclean
    simp only [ewiseProduct, ewiseEl_zero, ewiseSrc_zero, rowScaleAt_zero, colScaleAt] at h
    exact h

end Sys2Proof.Safety
end

section
/-! ## COMMAND_COMPLETION of a command that ends DONE (O15)

Its held writes become visible, the counter that it signals moves on, and its record follows; before them its table or its program is taken
(R369 to R373). -/

namespace Sys2Proof.Machine

open Sys2Proof.Safety

/-! ### What decides where an access can go (R232, R245, R512) -/

/-- `t` agrees with `s` in all that backing and the conditions on host and T3 accesses read. -/
structure SameReach (s t : State) : Prop where
  regs : t.regs = s.regs
  otp : t.otp = s.otp
  ide : t.ide = s.ide
  t3key : t.t3key = s.t3key
  jobClear : t.jobClear = s.jobClear

namespace SameReach

variable {s t : State}

theorem backed_eq (h : SameReach s t) (a : Nat) : backed t a = backed s a := backed_congr h.regs a

theorem backedAll_iff (h : SameReach s t) (b n : Nat) : BackedAll t b n ↔ BackedAll s b n := by
  simp only [BackedAll, h.backed_eq]

theorem accessRefusedFor_eq (h : SameReach s t) (w : Nat × Nat) (a : Nat) : accessRefusedFor t w a = accessRefusedFor s w a := by
  simp only [accessRefusedFor, h.backed_eq, keyServes, uioOk, hostOk, lcState, t3Fab, t3TagAddr, regField, regGet, h.regs, h.otp, h.ide,
    h.t3key, h.jobClear]
  rfl

theorem rangeRefused_eq (h : SameReach s t) (w : Nat × Nat) (a n : Nat) : rangeRefused t w a n = rangeRefused s w a n := by
  simp only [rangeRefused, h.accessRefusedFor_eq]

theorem writesRefused_eq (h : SameReach s t) (w : Nat × Nat) (ws : List MemWrite) : writesRefused t w ws = writesRefused s w ws := by
  simp only [writesRefused, h.rangeRefused_eq]

/-- With equal memory, every byte reads alike. -/
theorem rdByte_eq (h : SameReach s t) (hm : t.mem = s.mem) (a : Nat) : rdByte t a = rdByte s a := by
  simp only [rdByte, h.backed_eq, memKey, t3Fab, regField, regGet, h.regs, hm]

end SameReach

theorem applyWrites_sameReach (w : Nat × Nat) (s : State) (ws : List MemWrite) : SameReach s (applyWrites w s ws) := by
  obtain ⟨m, p, t, k, h, -⟩ := applyWrites_form w s ws
  rw [h]
  exact ⟨rfl, rfl, rfl, rfl, rfl⟩

/-! ### Held writes become visible (R369) -/

/-- Writes of which none is refused reach their ranges. -/
theorem rangeRefused_of_writesRefused {s : State} {w : Nat × Nat} {ws : List MemWrite} (h : writesRefused s w ws = 0) {x : MemWrite}
    (hx : x ∈ ws) : rangeRefused s w x.addr x.bytes.length = 0 := by
  unfold writesRefused at h
  cases hfind : (ws.map fun x => rangeRefused s w x.addr x.bytes.length).find? (fun k => k != 0) with
  | none => simpa using List.find?_eq_none.1 hfind _ (List.mem_map_of_mem hx)
  | some k =>
    rw [hfind] at h
    exact absurd h (by simpa using List.find?_some hfind)

theorem rdByte_applyWrite_out (w : Nat × Nat) (s : State) (x : MemWrite) (hm : Memory.wf s.mem = true) {a : Nat}
    (ha : Apart a x.addr x.bytes.length) : rdByte (applyWrite w s x) a = rdByte s a := by
  unfold applyWrite
  split
  · rfl
  · split
    · exact rdByte_wr_out s x.addr a x.bytes hm ha
    · obtain ⟨p, t, h⟩ := wrPoison_form s x.addr x.bytes.length
      rw [h]
      rfl
    · exact rdByte_wr_out (freshen s) x.addr a _ hm (by rwa [List.length_map, List.length_range])

/-- Bytes that no write meets are as before. -/
theorem rdByte_applyWrites_out (w : Nat × Nat) (s : State) (ws : List MemWrite) (hm : Memory.wf s.mem = true) {a : Nat}
    (ha : ∀ x ∈ ws, Apart a x.addr x.bytes.length) : rdByte (applyWrites w s ws) a = rdByte s a := by
  induction ws generalizing s with
  | nil => rfl
  | cons x ws ih =>
    obtain ⟨m, p, t, k, h, hw⟩ := applyWrite_form w s x
    have hm' : Memory.wf (applyWrite w s x).mem = true := by rw [h]; exact hw hm
    exact (ih _ hm' fun y hy => ha y (List.mem_cons_of_mem x hy)).trans (rdByte_applyWrite_out w s x hm (ha x List.mem_cons_self))

/-- The first address beyond the backed part of T1 (R232). -/
theorem t1_end_not_backed (s : State) : backed s 0x3B9ACA0000 = false := by simp [backed, regionOf]

/-- No run of backed bytes comes round to its start. -/
theorem backedAll_le {s : State} {b n : Nat} (h : BackedAll s b n) : n ≤ 2 ^ 64 := by
  by_contra hn
  have hgap := h ((0x3B9ACA0000 + 2 ^ 64 - b % 2 ^ 64) % 2 ^ 64) (by omega)
  rw [show (b + (0x3B9ACA0000 + 2 ^ 64 - b % 2 ^ 64) % 2 ^ 64) % 2 ^ 64 = 0x3B9ACA0000 by omega, t1_end_not_backed] at hgap
  cases hgap

/-- A held write of bytes that nothing refuses is a write. -/
theorem applyWrite_data {w : Nat × Nat} {s : State} {a : Nat} {bs : List Byte} (h : rangeRefused s w a bs.length = 0) :
    applyWrite w s ⟨a, bs, .data⟩ = wr s a bs := by simp [applyWrite, h]

/-- A write of bytes that no later one meets is read back. -/
theorem rd_applyWrites_standing (w : Nat × Nat) (s : State) {ws : List MemWrite} (hm : Memory.wf s.mem = true) (hf : s.fatal = none)
    (hopen : writesRefused s w ws = 0) {a : Nat} {bs : List Byte} (hstand : Standing ws a bs) (hb : BackedAll s a bs.length) :
    rd (applyWrites w s ws) a bs.length = bs := by
  obtain ⟨l, r, rfl, hlater⟩ := hstand
  have hrange := rangeRefused_of_writesRefused hopen (x := ⟨a, bs, .data⟩) (by simp)
  obtain ⟨m, p, t, k, hl, hwl⟩ := applyWrites_form w s l
  have hreach := applyWrites_sameReach w s l
  have hsplit : applyWrites w s (l ++ ⟨a, bs, .data⟩ :: r) = applyWrites w (wr (applyWrites w s l) a bs) r := by
    rw [← applyWrite_data ((hreach.rangeRefused_eq w a bs.length).trans hrange)]
    exact List.foldl_append
  have hml : Memory.wf (applyWrites w s l).mem = true := by rw [hl]; exact hwl hm
  obtain ⟨m', p', t', hwr, hw'⟩ := wr_form (applyWrites w s l) a bs
  have hmw : Memory.wf (wr (applyWrites w s l) a bs).mem = true := by rw [hwr]; exact hw' hml
  have hwritten : rd (wr (applyWrites w s l) a bs) a bs.length = bs :=
    rd_wr _ a bs hml (by rw [hl]; exact hf) (backedAll_le hb) ((hreach.backedAll_iff a bs.length).2 hb)
  rw [hsplit]
  refine Eq.trans (List.map_congr_left fun i hi => ?_) hwritten
  exact rdByte_applyWrites_out w _ r hmw fun y hy => hlater y hy i (List.mem_range.1 hi)

/-! ### What the record of a queue reads (R351, R353, R355, R373) -/

/-- `t` agrees with `s` in all that the writing of queue `q`'s next record reads, but for memory. -/
structure SameRing (q : Fin 32) (s t : State) : Prop extends SameReach s t where
  count : t.queues[q].cqCount = s.queues[q].cqCount
  recs : t.queues[q].recs = s.queues[q].recs
  gauge : t.gauge = s.gauge
  fatal : t.fatal = s.fatal
  outbox : t.outbox = s.outbox
  msix : t.msix = s.msix
  msixPending : t.msixPending = s.msixPending

namespace SameRing

variable {q : Fin 32} {s t u : State}

theorem cqBase_eq (h : SameRing q s t) : cqBase t q = cqBase s q := by simp only [cqBase, regField, regGet, h.regs]
theorem cqSize_eq (h : SameRing q s t) : cqSize t q = cqSize s q := by simp only [cqSize, regField, regGet, h.regs]
theorem cqSlotOf_eq (h : SameRing q s t) : cqSlotOf t q = cqSlotOf s q := by simp only [cqSlotOf, h.cqBase_eq, h.cqSize_eq, h.count]
theorem cqTailOf_eq (h : SameRing q s t) : cqTailOf t q = cqTailOf s q := by simp only [cqTailOf, h.cqBase_eq, h.cqSize_eq]

theorem canRecord (h : SameRing q s t) (hr : CanRecord s q) : CanRecord t q := by
  obtain ⟨hok, hnone, hrun⟩ := hr
  refine ⟨?_, h.recs.trans hnone, h.fatal.trans hrun⟩
  simpa only [cqOk, accessRefused, h.accessRefusedFor_eq, h.cqSlotOf_eq, h.cqTailOf_eq] using hok

theorem compRecord_eq (h : SameRing q s t) (x : Cmd) (status : Nat) : compRecord t x status = compRecord s x status := by
  simp only [compRecord, h.gauge]

theorem asksVector_eq (h : SameRing q s t) (x : Cmd) : asksVector t q x = asksVector s q x := by
  simp only [asksVector, regBit, regGet, h.regs]

theorem ioOk_eq (h : SameRing q s t) : ioOk t = ioOk s := by simp only [ioOk, h.ide]

/-- The record that `u` shows is the record of either state. -/
theorem recordLeft (h : SameRing q s t) {x : Cmd} {status : Nat} (k : RecordLeft q t u x status) : RecordLeft q s u x status where
  record hb := by
    have hrecord := k.record ((h.backedAll_iff _ _).2 (by rwa [h.cqSlotOf_eq]))
    rwa [h.cqSlotOf_eq, h.compRecord_eq] at hrecord
  count hb := by
    have hcount := k.count ((h.backedAll_iff _ _).2 (by rwa [h.cqTailOf_eq]))
    rwa [h.cqTailOf_eq, h.count] at hcount
  vector := by
    have hvector := k.vector
    rwa [h.asksVector_eq, h.msix, h.ioOk_eq, h.outbox] at hvector
  latch := by
    have hlatch := k.latch
    rwa [h.asksVector_eq, h.msix, h.msixPending] at hlatch

theorem offRing_iff (h : SameRing q s t) (a : Nat) : OffRing t q a ↔ OffRing s q a := by
  simp only [OffRing, ringSlot, h.cqTailOf_eq, h.cqBase_eq, h.cqSize_eq]

/-- Where memory was the same too, what `u` has kept and shows is so seen from either state. -/
theorem bytesKept (h : SameRing q s t) (hm : t.mem = s.mem) {ws : List MemWrite} (k : BytesKept q t u ws) : BytesKept q s u ws := by
  intro a hslot htail hws
  rw [← h.rdByte_eq hm]
  exact k a (by rwa [h.cqSlotOf_eq]) (by rwa [h.cqTailOf_eq]) hws

theorem writesLeft (h : SameRing q s t) (hm : t.mem = s.mem) {ws : List MemWrite} (k : WritesLeft q t u ws) : WritesLeft q s u ws where
  kept a hoff hws := (k.kept a ((h.offRing_iff a).2 hoff) hws).trans (h.rdByte_eq hm a)
  bytes a bs hstand hb hoff := k.bytes a bs hstand ((h.backedAll_iff _ _).2 hb) fun i hi => (h.offRing_iff _).2 (hoff i hi)

end SameRing

/-- What lies off the ring lies off the slot of the next record. -/
theorem apart_slot_of_offRing {s : State} {q : Fin 32} {a : Nat} (h : OffRing s q a) : Apart a (cqSlotOf s q) 32 := h.1 _

/-! ### The effect of a command that ends DONE (R371, R373) -/

/-- One more in the token counter that SIG_EN names (R371). -/
def credited (s : State) (d : Desc) : State := if dSigEn d then tokenMap s (dSigTok d) (· + 1) else s

theorem credited_form (s : State) (d : Desc) : ∃ n, credited s d = { s with tokens := n } := by
  unfold credited
  split
  · exact ⟨_, rfl⟩
  · exact ⟨s.tokens, rfl⟩

theorem dSigTok_lt (d : Desc) : dSigTok d < 256 := Nat.mod_lt _ (by decide)

theorem credited_tokens (s : State) (d : Desc) (k : Fin 256) : (credited s d).tokens[k] = s.tokens[k] + signalled d k := by
  unfold credited signalled
  cases dSigEn d with
  | false => simp
  | true =>
    have htok := Nat.mod_eq_of_lt (dSigTok_lt d)
    by_cases hk : dSigTok d = k.val
    · simp [tokenMap, hk, Nat.mod_eq_of_lt k.isLt]
    · simp [tokenMap, htok, hk]

/-- What stands when the record of `x` is formed: its writes and its counter. -/
def beforeRecord (s : State) (q : Fin 32) (x : Cmd) : State := credited (applyWrites (q.val, x.idx.toNat) s x.writes) x.desc

theorem beforeRecord_form (s : State) (q : Fin 32) (x : Cmd) :
    ∃ m p t n k, beforeRecord s q x = { s with mem := m, poison := p, t3 := t, fresh := n, tokens := k } := by
  obtain ⟨m, p, t, n, hwrites, -⟩ := applyWrites_form (q.val, x.idx.toNat) s x.writes
  obtain ⟨k, htokens⟩ := credited_form (applyWrites (q.val, x.idx.toNat) s x.writes) x.desc
  exact ⟨m, p, t, n, k, by rw [beforeRecord, htokens, hwrites]⟩

theorem beforeRecord_canonical {s : State} (hc : Canonical s) (q : Fin 32) (x : Cmd) : Canonical (beforeRecord s q x) := by
  obtain ⟨k, htokens⟩ := credited_form (applyWrites (q.val, x.idx.toNat) s x.writes) x.desc
  rw [beforeRecord, htokens]
  exact (applyWrites_keep _ s _).1 hc

theorem beforeRecord_sameRing (s : State) (q : Fin 32) (x : Cmd) : SameRing q s (beforeRecord s q x) := by
  obtain ⟨m, p, t, n, k, hform⟩ := beforeRecord_form s q x
  rw [hform]
  exact ⟨⟨rfl, rfl, rfl, rfl, rfl⟩, rfl, rfl, rfl, rfl, rfl, rfl, rfl⟩

theorem rdByte_beforeRecord (s : State) (q : Fin 32) (x : Cmd) (a : Nat) :
    rdByte (beforeRecord s q x) a = rdByte (applyWrites (q.val, x.idx.toNat) s x.writes) a := by
  obtain ⟨k, htokens⟩ := credited_form (applyWrites (q.val, x.idx.toNat) s x.writes) x.desc
  rw [beforeRecord, htokens]
  rfl

theorem beforeRecord_tokens (s : State) (q : Fin 32) (x : Cmd) (k : Fin 256) :
    (beforeRecord s q x).tokens[k] = s.tokens[k] + signalled x.desc k := by
  obtain ⟨m, p, t, n, hwrites, -⟩ := applyWrites_form (q.val, x.idx.toNat) s x.writes
  rw [beforeRecord, credited_tokens, hwrites]

/-- A command that is no SIGNAL ends with its writes, its counter and its record. -/
theorem finishCmd_eq (s : State) (q : Fin 32) {x : Cmd} (hsig : ∀ k b v, x.work ≠ .signal k b v) :
    finishCmd s q x = putRec (beforeRecord s q x) q x 0 := by
  have hnone : ∀ u, signalEffect u x.work = u := by
    intro u
    unfold signalEffect
    split
    · next k b v h => exact absurd h (hsig k b v)
    · rfl
  simp only [finishCmd, hnone, beforeRecord, credited]

/-- From `s` to `t` the command `x` of queue `q` has ended DONE: its writes are visible, its counter has moved, its record is left. -/
structure Finished (q : Fin 32) (s t : State) (x : Cmd) : Prop where
  record : RecordLeft q s t x 0
  kept : BytesKept q s t x.writes
  writes : WritesLeft q s t x.writes
  queues : t.queues = s.queues.set q { s.queues[q] with cqCount := s.queues[q].cqCount + 1, oldest := x.idx + 1 }
  tokens : ∀ k : Fin 256, t.tokens[k] = s.tokens[k] + signalled x.desc k
  completes : Completes s t

/-- A command of which no write is refused ends so. -/
theorem finishCmd_finished {s : State} {q : Fin 32} {x : Cmd} (hc : Canonical s) (hr : CanRecord s q)
    (hsig : ∀ k b v, x.work ≠ .signal k b v) (hopen : writesRefused s (q.val, x.idx.toNat) x.writes = 0) :
    Finished q s (finishCmd s q x) x := by
  rw [finishCmd_eq s q hsig]
  have hring := beforeRecord_sameRing s q x
  have hbytes := rdByte_beforeRecord s q x
  have hcounted := beforeRecord_tokens s q x
  have hcu := beforeRecord_canonical hc q x
  obtain ⟨m, p, t3, n, k, hform⟩ := beforeRecord_form s q x
  set u := beforeRecord s q x
  obtain ⟨hrecord, hkept, hqueues, htokens, haside⟩ := putRec_left u q x 0 hcu (hring.canRecord hr)
  set t := putRec u q x 0
  have hwritten : ∀ a, Apart a (cqSlotOf s q) 32 → Apart a (cqTailOf s q) 8 →
      rdByte t a = rdByte (applyWrites (q.val, x.idx.toNat) s x.writes) a := fun a hslot htail =>
    (hkept a (by rwa [hring.cqSlotOf_eq]) (by rwa [hring.cqTailOf_eq]) (by simp)).trans (hbytes a)
  have hkeptAll : BytesKept q s t x.writes := fun a hslot htail hws =>
    (hwritten a hslot htail).trans (rdByte_applyWrites_out _ s _ hc.1 hws)
  refine ⟨hring.recordLeft hrecord, hkeptAll, ⟨?_, ?_⟩, ?_, ?_, ?_⟩
  · exact fun a hoff => hkeptAll a (apart_slot_of_offRing hoff) hoff.2
  · intro a bs hstand hb hoff
    refine Eq.trans (List.map_congr_left fun i hi => ?_) (rd_applyWrites_standing _ s hc.1 hr.2.2 hopen hstand hb)
    have hbyte := hoff i (List.mem_range.1 hi)
    exact hwritten _ (apart_slot_of_offRing hbyte) hbyte.2
  · rw [hqueues, hform]
  · intro j
    rw [htokens, hcounted]
  · refine (fresh_aside { s with queues := t.queues, tokens := t.tokens, mem := t.mem, poison := t.poison, t3 := t.t3,
                                 outbox := t.outbox, msixPending := t.msixPending } n).trans ?_
    rw [htokens]
    rw [hform] at haside ⊢
    exact haside

/-! ### What COMMAND_COMPLETION does (R365, R369) -/

theorem flushRecs_of_nil {s : State} {q : Fin 32} (h : s.queues[q].recs = []) : flushRecs s q = s := by
  simp only [flushRecs, h, List.length_nil, writeRecs]

/-- A command that is no UPDATE, taken off its queue, does beyond its writes what its table or its program asks for: an eddy table with its
CRC and its LOADED bit, or a program with its CRC. -/
theorem doneEffect_form {s : State} {q : Fin 32} {x : Cmd} {rest : List Cmd} (hactive : s.queues[q].active = x :: rest)
    (hupd : ∀ k n b c g e, x.work ≠ .update k n b c g e) :
    ∃ e ec el p pc, doneEffect (popCmd s q) q x = { s with
      queues := s.queues.set q { s.queues[q] with active := rest }
      eddies := e, eddyCrc := ec, eddyLoaded := el, programs := p, progCrc := pc } := by
  have hpop : popCmd s q = { s with queues := s.queues.set q { s.queues[q] with active := rest } } := by
    simp only [popCmd, updQ, hactive, List.drop_one, List.tail_cons]
  rw [hpop]
  unfold doneEffect
  split
  · exact ⟨_, _, _, s.programs, s.progCrc, rfl⟩
  · exact ⟨s.eddies, s.eddyCrc, s.eddyLoaded, _, _, rfl⟩
  · next k n b c g e h => exact absurd h (hupd k n b c g e)
  · exact ⟨s.eddies, s.eddyCrc, s.eddyLoaded, s.programs, s.progCrc, rfl⟩

theorem eddyEffect_eddies (s : State) (k : Nat) (image : List Byte) (i : Fin 4) :
    (eddyEffect s k image).eddies[i] = if i.val = k % 4 then image.map fun b => BitVec.ofNat 8 (b.toNat % 64) else s.eddies[i] := by
  simp [eddyEffect, Vector.getElem_set, eq_comm (a := k % 4)]

theorem eddyEffect_loaded (s : State) (k : Nat) (image : List Byte) (i : Fin 4) :
    (eddyEffect s k image).eddyLoaded[i] = (decide (i.val = k % 4) || s.eddyLoaded[i]) := by
  by_cases h : k % 4 = i.val <;> simp [eddyEffect, eq_comm (b := k % 4), h]

theorem programEffect_programs (s : State) (k : Nat) (image : List Byte) (i : Fin 16) :
    (programEffect s k image).programs[i] =
      if i.val = k % 16 then (if fieldAt image 0 1 0 7 = 0 then [] else image) else s.programs[i] := by
  simp [programEffect, Vector.getElem_set, eq_comm (a := k % 16)]

/-- The end of a command leaves tables and programs as they are. -/
theorem Finished.tables {q : Fin 32} {s t : State} {x : Cmd} (h : Finished q s t x) :
    t.eddies = s.eddies ∧ t.eddyCrc = s.eddyCrc ∧ t.eddyLoaded = s.eddyLoaded ∧ t.programs = s.programs ∧ t.progCrc = s.progCrc := by
  rw [h.completes.form]
  exact ⟨rfl, rfl, rfl, rfl, rfl⟩

/-- The oldest command, DONE, ends by its own effect and then as every command does. -/
theorem exec_commandCompletion_done {q : Fin 32} {s : State} {x : Cmd} {rest : List Cmd} (hr : CanRecord s q)
    (hactive : s.queues[q].active = x :: rest) (hmay : mayComplete s x = true) (hstatus : x.status = 0)
    (hupd : ∀ k n b c g e, x.work ≠ .update k n b c g e) (hend : ∀ r k, x.work ≠ .ended r k)
    (hrunning : s.queues[q].state = .running) (hin : inService s = true) (hfree : evBlocked s q = false)
    (hopen : writesRefused (doneEffect (popCmd s q) q x) (q.val, x.idx.toNat) x.writes = 0) :
    exec (.commandCompletion q) s = .next (finishCmd (doneEffect (popCmd s q) q x) q x) := by
  have hnoWrites : workWrites x = [] := by
    unfold workWrites
    split
    · next k n b c g e h => exact absurd h (hupd k n b c g e)
    · rfl
  have hdone : updateDone s q x = finishCmd (doneEffect (popCmd s q) q x) q x := by
    have hnone : ∀ w, writesRefused s w [] = 0 := fun w => rfl
    simp only [updateDone, hnoWrites, hnone, hstatus, doneCmd, hopen, beq_self_eq_true, if_true]
  have hexec : exec (.commandCompletion q) s = .next (updateDone s q x) := by
    show execCommandCompletion q s = _
    simp only [execCommandCompletion, flushRecs_of_nil hr.2.1, ite_self, hactive, hin, hrunning, hfree, hmay]
    rfl
  rw [hexec, hdone]

end Sys2Proof.Machine

namespace Sys2Proof.Safety

open Sys2Proof.Machine

/-- Settles O15: once its table or program is taken, the command ends as `finishCmd` ends every command, with its writes, its counter and
its record. -/
theorem completionEndsTheOldestCommand : Obligations.CompletionEndsTheOldestCommand := by
  intro q s x rest hc hr hactive hmay hstatus hsig hupd hend hrunning hin hfree hopen
  obtain ⟨e, ec, el, p, pc, hform⟩ := doneEffect_form hactive hupd
  have heddy : ∀ k image, x.work = .eddy k image → doneEffect (popCmd s q) q x = eddyEffect (popCmd s q) k image := fun k image h => by
    simp only [doneEffect, h]
  have hprogram : ∀ k image, x.work = .program k image → doneEffect (popCmd s q) q x = programEffect (popCmd s q) k image :=
    fun k image h => by simp only [doneEffect, h]
  have hexec := exec_commandCompletion_done hr hactive hmay hstatus hupd hend hrunning hin hfree
  set v := doneEffect (popCmd s q) q x
  have hqueue : v.queues[q] = { s.queues[q] with active := rest } := by simp [hform]
  have hring : SameRing q s v := by
    refine ⟨?_, by rw [hqueue], by rw [hqueue], ?_, ?_, ?_, ?_, ?_⟩ <;> rw [hform]
    exact ⟨rfl, rfl, rfl, rfl, rfl⟩
  have hmem : v.mem = s.mem := by rw [hform]
  have hcv : Canonical v := ⟨by rw [hmem]; exact hc.1, by rw [hring.regs]; exact hc.2⟩
  have hopenv := (hring.writesRefused_eq (q.val, x.idx.toNat) x.writes).trans hopen
  have hfin := finishCmd_finished hcv (hring.canRecord hr) hsig hopenv
  refine ⟨_, hexec hopenv, ?_⟩
  set t := finishCmd v q x
  have hqueues : t.queues = s.queues.set q
      { s.queues[q] with active := rest, oldest := x.idx + 1, cqCount := s.queues[q].cqCount + 1 } := by
    rw [hfin.queues, hqueue, hform, Vector.set_set]
  obtain ⟨heddies, hcrc, hloaded, hprograms, hprogCrc⟩ := hfin.tables
  refine ⟨?_, ?_, hring.bytesKept hmem hfin.kept, hring.recordLeft hfin.record, hring.writesLeft hmem hfin.writes, ?_, ?_, ?_, ?_, ?_⟩
  · simp [hqueues]
  · intro k hk
    have hne : q.val ≠ k.val := fun h => hk (Fin.ext h.symm)
    simp [hqueues, hne]
  · intro k
    rw [hfin.tokens, hform]
  · intro k image h i
    rw [heddies, hloaded, heddy k image h]
    exact ⟨eddyEffect_eddies _ k image i, eddyEffect_loaded _ k image i⟩
  · intro k image h i
    rw [hprograms, hprogram k image h]
    exact programEffect_programs _ k image i
  · intro off hoff
    refine (hfin.completes.regs hcv.2 off hoff).trans ?_
    simp only [regGet, hring.regs]
  · unfold Finishes
    rw [heddies, hcrc, hloaded, hprograms, hprogCrc]
    refine hfin.completes.form.trans ?_
    rw [hform]

end Sys2Proof.Safety
end

section
/-! ## What the work of a LAYER changes, and what it sees (O12)

`LayerStep` lists what the work of a LAYER changes. Two states that agree in memory and in the registers that it leaves alone (`SameView`)
give an operator the same elements, and its writes the same places. Writes of data spare what could be read before them (`KeepsSound`). -/

namespace Sys2Proof.Safety

open Sys2Proof.Machine

theorem Computing.trans {s t u : State} (h : Computing s t) (k : Computing t u) : Computing s u := by
  unfold Computing at *
  rw [k, h]

end Sys2Proof.Safety

namespace Sys2Proof.Machine

open Sys2Proof.Safety

/-! ### Registers that the work of a LAYER leaves alone (R163, R253, R417, R468, R473) -/

/-- A register in which neither checks and traces nor the engines' events leave flags. -/
def unflagged (off : Nat) : Prop := noted off = false ∧ ∀ k : Fin 16, off ≠ offAccstat k

theorem unflagged_t3Base : unflagged offT3Base := by unfold unflagged; decide
theorem unflagged_t3Size : unflagged offT3Size := by unfold unflagged; decide
theorem unflagged_t3Tag : unflagged offT3Tag := by unfold unflagged; decide
theorem unflagged_jobseed : unflagged offJobseed := by unfold unflagged; decide
theorem unflagged_degrade : unflagged offDegrade := by unfold unflagged; decide

/-! ### What the work of a LAYER changes -/

/-- From `s` to `t` a LAYER worked: queues, cores, engines, memory and records changed, and of registers the flags of its events alone. -/
structure LayerStep (s t : State) : Prop where
  computing : Computing s t
  canon : Canonical s → Canonical t
  regs : Canonical s → ∀ off, unflagged off → regGet t off = regGet s off

theorem LayerStep.trans {s t u : State} (h : LayerStep s t) (k : LayerStep t u) : LayerStep s u :=
  ⟨h.computing.trans k.computing, fun hc => k.canon (h.canon hc),
    fun hc off ho => (k.regs (h.canon hc) off ho).trans (h.regs hc off ho)⟩

theorem LayerStep.updQ (s : State) (q : Fin 32) (f : Queue → Queue) : LayerStep s (updQ s q f) :=
  ⟨rfl, id, fun _ _ _ => rfl⟩

theorem LayerStep.applyWrites (w : Nat × Nat) (s : State) (ws : List MemWrite) : LayerStep s (applyWrites w s ws) := by
  obtain ⟨m, p, t, k, h, hm⟩ := applyWrites_form w s ws
  rw [h]
  exact ⟨rfl, fun hc => ⟨hm hc.1, hc.2⟩, fun _ _ _ => rfl⟩

/-- The same with memory and the queues as before. -/
structure LayerWork (s t : State) : Prop extends LayerStep s t where
  mem : t.mem = s.mem
  queues : t.queues = s.queues

namespace LayerWork

variable {s t u : State}

theorem of_aside (h : Aside s t) : LayerWork s t where
  computing := by
    have hform := h.form
    unfold Computing
    rw [hform]
  canon := h.canonical
  regs hc off ho := h.regs hc.2 off ho.1
  mem := by rw [h.form]
  queues := queues_aside h

theorem refl (s : State) : LayerWork s s := of_aside (Aside.refl s)

theorem trans (h : LayerWork s t) (k : LayerWork t u) : LayerWork s u :=
  ⟨h.toLayerStep.trans k.toLayerStep, k.mem.trans h.mem, k.queues.trans h.queues⟩

theorem ite {p : Prop} [Decidable p] (ht : LayerWork s t) (hu : LayerWork s u) : LayerWork s (if p then t else u) := by
  split
  · exact ht
  · exact hu

/-- Over a fold that carries more than the state. -/
theorem foldlBy {α β : Type} (g : α → State) {f : α → β → α} {l : List β} (hf : ∀ x, ∀ b ∈ l, LayerWork (g x) (g (f x b)))
    (x : α) : LayerWork (g x) (g (l.foldl f x)) := by
  induction l generalizing x with
  | nil => exact refl _
  | cons b l ih =>
    exact (hf x b List.mem_cons_self).trans (ih (fun y c hc => hf y c (List.mem_cons_of_mem b hc)) _)

/-- Engines and cores changed, and the counter of free values. -/
theorem of_units (s : State) (es : Vector Engine 96) (cs : Vector Core 16) (n : Nat) :
    LayerWork s { s with engines := es, cores := cs, fresh := n } := ⟨⟨rfl, id, fun _ _ _ => rfl⟩, rfl, rfl⟩

theorem updE (s : State) (e : Fin 96) (f : Engine → Engine) : LayerWork s (updE s e f) := of_units s _ s.cores s.fresh

theorem of_engWork {e : Fin 96} (h : EngWork e s t) : LayerWork s t :=
  (of_units s t.engines s.cores s.fresh).trans (of_aside h.aside)

theorem regPut (s : State) (k : Fin 16) (v : BitVec 64) : LayerWork s (regPut s (offAccstat k) v) where
  computing := rfl
  canon := (regPut_keep s (offAccstat k) v).1
  regs hc _ ho := regGet_regPut_other s (offAccstat k) _ v hc.2 (ho.2 k)
  mem := rfl
  queues := rfl

end LayerWork

/-! ### What an operator sees -/

/-- `t` agrees with `s` in all that an operator's elements, and the places of its writes, depend on. -/
structure SameView (s t : State) : Prop where
  mem : t.mem = s.mem
  regs : ∀ off, unflagged off → regGet t off = regGet s off
  fatal : t.fatal = s.fatal
  otp : t.otp = s.otp
  ide : t.ide = s.ide
  t3key : t.t3key = s.t3key
  jobClear : t.jobClear = s.jobClear

theorem LayerStep.sameView {s t : State} (h : LayerStep s t) (hc : Canonical s) (hm : t.mem = s.mem) : SameView s t := by
  have hform : Computing s t := h.computing
  unfold Computing at hform
  exact ⟨hm, h.regs hc, by rw [hform], by rw [hform], by rw [hform], by rw [hform], by rw [hform]⟩

namespace SameView

variable {s t u : State}

theorem refl (s : State) : SameView s s := ⟨rfl, fun _ _ => rfl, rfl, rfl, rfl, rfl, rfl⟩

theorem trans (h : SameView s t) (k : SameView t u) : SameView s u :=
  ⟨k.mem.trans h.mem, fun off ho => (k.regs off ho).trans (h.regs off ho), k.fatal.trans h.fatal, k.otp.trans h.otp, k.ide.trans h.ide,
    k.t3key.trans h.t3key, k.jobClear.trans h.jobClear⟩

theorem of_aside (h : Aside s t) (hc : Canonical s) : SameView s t :=
  (LayerWork.of_aside h).sameView hc (LayerWork.of_aside h).mem

theorem regField_eq (h : SameView s t) {off : Nat} (ho : unflagged off) (lo w : Nat) : regField t off lo w = regField s off lo w := by
  simp only [regField, h.regs off ho]

theorem regBit_eq (h : SameView s t) {off : Nat} (ho : unflagged off) (b : Nat) : regBit t off b = regBit s off b := by
  simp only [regBit, h.regs off ho]

theorem backed_eq (h : SameView s t) (a : Nat) : backed t a = backed s a := by
  simp only [backed, t3Limit, h.regBit_eq unflagged_t3Base, h.regField_eq unflagged_t3Size]
  rfl

theorem t3Fab_eq (h : SameView s t) (off : Nat) : t3Fab t off = t3Fab s off := by
  simp only [t3Fab, h.regField_eq unflagged_t3Base]

theorem memKey_eq (h : SameView s t) (a : Nat) : memKey t a = memKey s a := by
  simp only [memKey, h.t3Fab_eq]

theorem rdByte_eq (h : SameView s t) (a : Nat) : rdByte t a = rdByte s a := by
  simp only [rdByte, h.backed_eq, h.memKey_eq, h.mem]

theorem rd_eq (h : SameView s t) (a n : Nat) : rd t a n = rd s a n := by
  simp only [rd, h.rdByte_eq]

theorem accessRefusedFor_eq (h : SameView s t) (w : Nat × Nat) (a : Nat) : accessRefusedFor t w a = accessRefusedFor s w a := by
  simp only [accessRefusedFor, h.backed_eq, keyServes, uioOk, hostOk, lcState, h.t3Fab_eq, t3TagAddr, h.regField_eq unflagged_t3Tag,
    h.otp, h.ide, h.t3key, h.jobClear]
  rfl

theorem rangeRefused_eq (h : SameView s t) (w : Nat × Nat) (a n : Nat) : rangeRefused t w a n = rangeRefused s w a n := by
  simp only [rangeRefused, h.accessRefusedFor_eq]

end SameView

/-! ### Writes of data (R369) -/

/-- Each of these writes brings data. -/
def DataWrites (ws : List MemWrite) : Prop := ∀ x ∈ ws, x.kind = .data

theorem applyWrite_of_data (w : Nat × Nat) (s : State) {x : MemWrite} (h : x.kind = .data) :
    applyWrite w s x = if rangeRefused s w x.addr x.bytes.length != 0 then s else wr s x.addr x.bytes := by
  simp only [applyWrite, h]

/-- The bytes of a write alone, in memory. -/
theorem wrBytes_mem {s t : State} (h : SameView s t) (a : Nat) (bs : List Byte) : (wrBytes t a bs).mem = (wrBytes s a bs).mem := by
  induction bs generalizing s t a with
  | nil => exact h.mem
  | cons b bs ih =>
    refine ih (s := wrByte s (a % 2 ^ 64) b) (t := wrByte t (a % 2 ^ 64) b) ?_ (a + 1)
    unfold wrByte
    rw [h.backed_eq, h.memKey_eq, h.mem]
    split
    · exact ⟨rfl, h.regs, h.fatal, h.otp, h.ide, h.t3key, h.jobClear⟩
    · exact h

theorem SameView.marks (s : State) (p : List Nat) (t : List T3Unit) : SameView s { s with poison := p, t3 := t } :=
  ⟨rfl, fun _ _ => rfl, rfl, rfl, rfl, rfl, rfl⟩

/-- A write changes memory as its bytes do. -/
theorem wr_mem (s : State) (a : Nat) (bs : List Byte) :
    (wr s a bs).mem = if s.fatal.isSome || bs.isEmpty then s.mem else (wrBytes s a bs).mem := by
  unfold wr
  split
  · rfl
  · obtain ⟨t, ht⟩ := t3Tags_form s a bs.length
    rw [ht]
    exact wrBytes_mem (SameView.marks s _ t) a bs

theorem SameView.wr {s t : State} (h : SameView s t) (a : Nat) (bs : List Byte) : SameView (wr s a bs) (wr t a bs) := by
  have hmem : (Machine.wr t a bs).mem = (Machine.wr s a bs).mem := by
    simp only [wr_mem, h.fatal, h.mem, wrBytes_mem h]
  obtain ⟨m, p, u, hs, -⟩ := wr_form s a bs
  obtain ⟨m', p', u', ht, -⟩ := wr_form t a bs
  rw [hs, ht] at hmem ⊢
  exact ⟨hmem, h.regs, h.fatal, h.otp, h.ide, h.t3key, h.jobClear⟩

theorem SameView.applyWrites {s t : State} (h : SameView s t) (w : Nat × Nat) {ws : List MemWrite} (hd : DataWrites ws) :
    SameView (applyWrites w s ws) (applyWrites w t ws) := by
  induction ws generalizing s t with
  | nil => exact h
  | cons x ws ih =>
    obtain ⟨hx, hws⟩ := List.forall_mem_cons.1 hd
    refine ih (s := applyWrite w s x) (t := applyWrite w t x) ?_ hws
    rw [applyWrite_of_data w s hx, applyWrite_of_data w t hx, h.rangeRefused_eq]
    split
    · exact h
    · exact h.wr _ _

/-! ### What may be read after writes (R244, R250) -/

/-- A line can be read where nothing refuses it, and its T3 unit has a good tag or, outside T3, no mark of poison is on it. -/
theorem lineOk_iff {s : State} {w : Who} {k : Nat} : LineOk s w (64 * k) ↔ (backed s (64 * k) = true →
    accessRefusedFor s (w.q, w.idx) (64 * k) = 0 ∧
      if regionOf (64 * k) = .t3 then t3Check s (tierOffset (64 * k) / 256) = .good else k ∉ s.poison) := by
  refine imp_congr_right fun _ => and_congr_right fun _ => ?_
  rw [Nat.mul_div_cancel_left k (by decide)]
  split
  next hregion =>
    simp only [linePoisoned, hregion]
    cases t3Check s (tierOffset (64 * k) / 256) <;> decide
  next hregion =>
    have hmark : linePoisoned s k = s.poison.contains k := by
      unfold linePoisoned
      split
      · contradiction
      · rfl
    simp [hmark, hregion]

/-- From `s` to `t` no access is refused that was not, no line is poisoned anew, and every T3 unit with a good tag keeps one. -/
structure KeepsSound (s t : State) : Prop extends SameReach s t where
  poison : ∀ l ∈ t.poison, l ∈ s.poison
  good : ∀ u < t3Units, t3Check s u = .good → t3Check t u = .good

namespace KeepsSound

variable {s t u : State}

theorem refl (s : State) : KeepsSound s s := ⟨⟨rfl, rfl, rfl, rfl, rfl⟩, fun _ h => h, fun _ _ h => h⟩

theorem trans (h : KeepsSound s t) (k : KeepsSound t u) : KeepsSound s u :=
  ⟨⟨k.regs.trans h.regs, k.otp.trans h.otp, k.ide.trans h.ide, k.t3key.trans h.t3key, k.jobClear.trans h.jobClear⟩,
    fun l hl => h.poison l (k.poison l hl), fun n hn hg => k.good n hn (h.good n hn hg)⟩

/-- A line that could be read still can. -/
theorem lineOk (h : KeepsSound s t) {w : Who} {k : Nat} (hl : LineOk s w (64 * k)) : LineOk t w (64 * k) := by
  rw [lineOk_iff] at hl ⊢
  intro hb
  obtain ⟨hr, hline⟩ := hl ((h.backed_eq _).symm.trans hb)
  refine ⟨(h.accessRefusedFor_eq _ _).trans hr, ?_⟩
  split
  next hregion =>
    rw [if_pos hregion] at hline
    exact h.good _ (t3Unit_lt hregion) hline
  next hregion =>
    rw [if_neg hregion] at hline
    exact fun hk => hline (h.poison k hk)

theorem readOk (h : KeepsSound s t) {w : Who} {rs : List (Nat × Nat)} (hr : ReadOk s w rs) : ReadOk t w rs := by
  intro r hmem l hl
  have hline := hr r hmem l hl
  obtain ⟨k, hk⟩ := line_addr l
  rw [hk] at hline ⊢
  exact h.lineOk hline

theorem writeOk (h : KeepsSound s t) {w : Who} {rs : List (Nat × Nat)} (hw : WriteOk s w rs) : WriteOk t w rs := by
  intro r hmem l hl hb
  rw [h.accessRefusedFor_eq]
  exact hw r hmem l hl ((h.backed_eq _).symm.trans hb)

end KeepsSound

/-- A tag written over a unit that had a good one, and that is not marked bad, is good. -/
theorem t3Stamp_good_same {s : State} {u : Nat} (hg : t3Check s u = .good) : t3Check (t3Stamp s u false) u = .good := by
  unfold t3Stamp
  split
  · exact hg
  next k hk =>
    refine t3Check_good_iff.2 ⟨⟨t3Fab s (256 * u), u, t3TagAddr s u, k.mac, false⟩, ?_, rfl, rfl, ?_, rfl⟩
    · exact List.find?_cons_of_pos (by simp [t3Fab, regField, regGet])
    · simp [hk]

/-- The tags that a write brings keep every good one (R244). -/
theorem t3Tag_keepsSound (a n : Nat) (s : State) (b : Nat) : KeepsSound s (t3Tag a n s b) := by
  obtain ⟨t, ht⟩ := t3Tag_form a n s b
  refine ⟨by rw [ht]; exact ⟨rfl, rfl, rfl, rfl, rfl⟩, by rw [ht]; exact fun _ h => h, fun u hu hg => ?_⟩
  unfold t3Tag
  extract_lets v whole
  split
  next hunit =>
    have hregion : regionOf (256 * b) = .t3 := by simp_all
    by_cases h : v = u
    · rw [h, hg]
      simpa using t3Stamp_good_same hg
    · exact t3Stamp_good_other s _ hu (t3Unit_lt hregion) (fun e => h e.symm) hg
  · exact hg

theorem t3Tags_keepsSound (s : State) (a n : Nat) : KeepsSound s (t3Tags s a n) := by
  unfold t3Tags
  generalize blocksOf a n = bs
  induction bs generalizing s with
  | nil => exact .refl s
  | cons b bs ih => exact (t3Tag_keepsSound a n s b).trans (ih _)

theorem wr_keepsSound (s : State) (a : Nat) (bs : List Byte) : KeepsSound s (wr s a bs) := by
  unfold wr
  split
  · exact .refl s
  · obtain ⟨m, hm, -⟩ := wrBytes_form (cleanLines (t3Tags s a bs.length) a bs.length) a bs
    rw [hm]
    refine (t3Tags_keepsSound s a bs.length).trans ⟨⟨rfl, rfl, rfl, rfl, rfl⟩, fun l hl => ?_, fun _ _ hg => hg⟩
    exact (List.mem_filter.1 hl).1

theorem applyWrites_keepsSound (w : Nat × Nat) (s : State) {ws : List MemWrite} (hd : DataWrites ws) :
    KeepsSound s (applyWrites w s ws) := by
  induction ws generalizing s with
  | nil => exact .refl s
  | cons x ws ih =>
    obtain ⟨hx, hws⟩ := List.forall_mem_cons.1 hd
    refine KeepsSound.trans ?_ (ih (applyWrite w s x) hws)
    rw [applyWrite_of_data w s hx]
    split
    · exact .refl s
    · exact wr_keepsSound s _ _

end Sys2Proof.Machine
end

section
/-! ## The writes of a LAYER (O12)

The start of a run writes within its precision block, and an operator within its destinations. -/

namespace Sys2Proof.Machine

open Sys2Proof.Safety

/-! ### Writes within a range (R166, R360) -/

/-- The write lies within `n` bytes from `a`. -/
def Within (a n : Nat) (x : MemWrite) : Prop := ∃ o, x.addr = a + o ∧ o + x.bytes.length ≤ n

theorem Within.apart {a n : Nat} {x : MemWrite} (h : Within a n x) {y : Nat} (hy : Apart y a n) : Apart y x.addr x.bytes.length := by
  obtain ⟨o, haddr, hle⟩ := h
  intro k hk
  rw [haddr, Nat.add_assoc]
  exact hy (o + k) (by omega)

/-! ### The precision block at the start of a run (R168, R189) -/

/-- What the start of a run writes to its block: its initialisation, a governor run, or nothing. -/
def beginWrites (p : Policy) (ceil : Option Nat) (addr step : Nat) (b : List Byte) : List MemWrite :=
  let st := PrecSt.parse (b.drop 0x40)
  if !st.valid then initBlock p step addr b
  else if stepExceeds step st.step then
    governBlock p (match ceil with | none => p.ceil | some l => min p.ceil l) step ceil.isSome addr b
  else []

theorem beginBlock_eq (w : Nat × Nat) (s : State) (p : Policy) (ceil : Option Nat) (addr step : Nat) (b : List Byte) :
    beginBlock w s p ceil addr step b = applyWrites w s (beginWrites p ceil addr step b) := by
  unfold beginBlock beginWrites
  dsimp only
  split
  · rfl
  · split <;> rfl

theorem padTo_length (n : Nat) (bs : List Byte) : (padTo n bs).length = n := by simp [padTo]; omega

theorem precSt_bytes_length (st : PrecSt) : st.bytes.length = 64 := padTo_length _ _

/-- Every record and every history of a block lies within it (R166). -/
theorem slotRoles_within : ∀ x ∈ slotRoles, recOff x.1 x.2 + 256 ≤ precLen ∧ histOff x.1 x.2 + 256 ≤ precLen := by decide

theorem precSt_hidx_lt (b : List Byte) : (PrecSt.parse b).hidx < 64 := Nat.mod_lt _ (by decide)

theorem initBlock_within (p : Policy) (step addr : Nat) (b : List Byte) :
    ∀ x ∈ initBlock p step addr b, x.kind = .data ∧ Within addr precLen x := by
  intro x hx
  rcases List.mem_append.1 hx with hx | hx
  · obtain ⟨y, hy, hx⟩ := List.mem_flatMap.1 hx
    obtain ⟨hrec, hhist⟩ := slotRoles_within y hy
    simp only [List.mem_cons, List.not_mem_nil, or_false] at hx
    rcases hx with rfl | rfl
    · exact ⟨rfl, recOff y.1 y.2 + 4, (Nat.add_assoc _ _ _), by rw [le4_length]; omega⟩
    · exact ⟨rfl, histOff y.1 y.2, rfl, by rwa [List.length_replicate]⟩
  · rw [List.mem_singleton.1 hx]
    exact ⟨rfl, 0x40, rfl, by rw [precSt_bytes_length]; decide⟩

theorem governBlock_within (p : Policy) (ceil step : Nat) (low : Bool) (addr : Nat) (b : List Byte) :
    ∀ x ∈ governBlock p ceil step low addr b, x.kind = .data ∧ Within addr precLen x := by
  intro x hx
  rcases List.mem_append.1 hx with hx | hx
  · obtain ⟨y, hy, rfl⟩ := List.mem_map.1 hx
    obtain ⟨-, hhist⟩ := slotRoles_within y hy
    have hidx := precSt_hidx_lt (b.drop 0x40)
    exact ⟨rfl, histOff y.1 y.2 + 4 * (PrecSt.parse (b.drop 0x40)).hidx, Nat.add_assoc _ _ _, by rw [le4_length]; omega⟩
  · rw [List.mem_singleton.1 hx]
    exact ⟨rfl, 0x40, rfl, by rw [precSt_bytes_length]; decide⟩

theorem beginWrites_within (p : Policy) (ceil : Option Nat) (addr step : Nat) (b : List Byte) :
    ∀ x ∈ beginWrites p ceil addr step b, x.kind = .data ∧ Within addr precLen x := by
  unfold beginWrites
  dsimp only
  split
  · exact initBlock_within p step addr b
  split
  · exact governBlock_within p _ step _ addr b
  · exact fun x hx => absurd hx List.not_mem_nil

/-! ### What an operator writes lies in its destinations (R158, R360) -/

theorem leBytes_length (k n : Nat) : (leBytes k n).length = k := by
  induction k generalizing n with
  | zero => rfl
  | succ k ih => simp [leBytes, ih]

/-- Packed codes fill their bytes (R50). -/
theorem packElems_length (f : Fmt) (xs : List Nat) : (packElems (fmtWidth f) xs).length = rowBytes xs.length (fmtWidth f) := by
  have whole : ∀ k, (xs.flatMap (leBytes k)).length = ceilDiv (xs.length * (8 * k)) 8 := fun k => by
    simp only [List.length_flatMap, leBytes_length, List.map_const', List.sum_replicate_nat, ceilDiv, ← Nat.mul_assoc,
      Nat.mul_comm xs.length 8]
    rw [Nat.mul_assoc]
    omega
  unfold packElems rowBytes
  split
  · exact leBytes_length _ _
  next hlarge =>
    have hbytes : ¬fmtWidth f < 8 → fmtWidth f = 8 * (fmtWidth f / 8) := by cases f <;> decide
    rw [whole, ← hbytes hlarge]

theorem chunks_length {α : Type} {n : Nat} (hn : 0 < n) (k : Nat) (xs : List α) (hk : xs.length < k) :
    (chunks n k xs).length = ceilDiv xs.length n := by
  induction k generalizing xs with
  | zero => omega
  | succ k ih =>
    unfold chunks
    split
    next h =>
      rw [List.isEmpty_iff.1 h, ceilDiv, Nat.div_eq_of_lt (by simpa using hn)]
      rfl
    next h =>
      have hpos : 0 < xs.length := List.length_pos_iff.2 (by simpa using h)
      rw [List.length_cons, ih _ (by rw [List.length_drop]; omega), List.length_drop]
      unfold ceilDiv
      by_cases hlt : xs.length ≤ n
      · rw [Nat.sub_eq_zero_of_le hlt, Nat.div_eq_of_lt (by omega), Nat.div_eq_of_lt_le (k := 1) (by omega) (by omega)]
      · rw [show xs.length + n - 1 = (xs.length - n + n - 1) + n by omega, Nat.add_div_right _ hn]

theorem groupsOf_length {α : Type} {n : Nat} (hn : 0 < n) (xs : List α) : (groupsOf n xs).length = ceilDiv xs.length n :=
  chunks_length hn _ xs (Nat.lt_succ_self _)

theorem outMxRow_length (s : State) (d : Desc) (l : LayerD) (vs : List EVal) (i : Nat) :
    (outMxRow s d l vs i).1.length = vs.length ∧ (outMxRow s d l vs i).2.length = ceilDiv vs.length 32 := by
  simp [outMxRow, groupsOf_length]

theorem length_flatMap_of_const {α β : Type} {f : α → List β} {n : Nat} {l : List α} (h : ∀ a ∈ l, (f a).length = n) :
    (l.flatMap f).length = l.length * n := by
  rw [List.length_flatMap, List.sum_eq_card_nsmul _ n (by simpa using h), List.length_map, smul_eq_mul]

theorem lineAt_map_range {α : Type} (f : Nat → List α) {m i : Nat} (hi : i < m) : lineAt ((List.range m).map f) i = f i := by
  simp [lineAt, hi]

theorem getD_map_range {α : Type} (f : Nat → α) {n j : Nat} (hj : j < n) (x : α) : ((List.range n).map f).getD j x = f j := by
  simp [hj]

/-- The combined value of element (i, j) of an operator's output (R157, R158). -/
def outVal (l : LayerD) (s : State) (a b : Staged) (r : Nat) (eddy : List Byte) (i j : Nat) : EVal :=
  (outEl s l a b (pathOf r a.fmt b.fmt) eddy i j).acc.val (mulDy (a.scales.getD i (1, 0)) (b.scales.getD j (1, 0)))

/-- Row `i` of the output from its values: codes with their events, and block scales of an MX output (R58, R158, R176). -/
def outRow (s : State) (d : Desc) (l : LayerD) (sc : Scales) (man : Option Int) (v : Nat → Nat → EVal) (i : Nat) :
    List (Nat × ConvEv) × List Byte :=
  if l.c.scale == 3 then outMxRow s d l ((List.range l.n).map (v i)) i
  else ((List.range l.n).map fun j => outCode s d l sc man (v i j) i j, [])

theorem outRow_length (s : State) (d : Desc) (l : LayerD) (sc : Scales) (man : Option Int) (v : Nat → Nat → EVal) (i : Nat) :
    (outRow s d l sc man v i).1.length = l.n ∧ ((l.c.scale == 3) = true → (outRow s d l sc man v i).2.length = ceilDiv l.n 32) := by
  unfold outRow
  split
  · obtain ⟨hcodes, hscales⟩ := outMxRow_length s d l ((List.range l.n).map (v i)) i
    rw [List.length_map, List.length_range] at hcodes hscales
    exact ⟨hcodes, fun _ => hscales⟩
  next hmx => exact ⟨by simp, fun h => absurd h hmx⟩

/-- An operator writes the rows of its output, and the block scales of an MX output. -/
theorem computeOp_writes (s : State) (d : Desc) (l : LayerD) (cap : OpCap) (p : Policy) (hist : List (List Nat)) (hidx step r : Nat)
    (replay : Bool) :
    let man := if isManaged p l then some (managedExp (fmtOf l.c.fmt) (histMax (hist.getD 2 []) hidx p.window) p.margin) else none
    let v := outVal l s (stageOp s d l.opA cap.sa p (hist.getD 0 []) hidx r replay)
      (stageOp s d l.opB cap.sb p (hist.getD 1 []) hidx r replay) r cap.eddy
    let row := outRow s d l cap.sc man v
    (computeOp s d l cap p hist hidx step r replay).writes = if l.m = 0 ∨ l.n = 0 then [] else
      [⟨l.c.addr, packElems (fmtWidth (fmtOf l.c.fmt)) ((List.range l.m).flatMap fun i => (row i).1.map (·.1)), .data⟩] ++
      (if l.c.scale == 3 then [⟨l.c.scaleAddr, (List.range l.m).flatMap fun i => (row i).2, .data⟩] else []) := by
  intro man v row
  unfold computeOp
  extract_lets a b path els side vals man' w rows
  have hvals : ∀ i < l.m, lineAt vals i = (List.range l.n).map (v i) := fun i hi => by
    rw [lineAt_map_range _ hi]
    refine List.map_congr_left fun j hj => ?_
    rw [lineAt_map_range _ hi, getD_map_range _ (List.mem_range.1 hj)]
    rfl
  have hrows : rows = (List.range l.m).map row := List.map_congr_left fun i hi => by
    simp only [row, outRow, hvals i (List.mem_range.1 hi)]
    split
    · rfl
    · refine congrArg (·, []) (List.map_congr_left fun j hj => ?_)
      rw [getD_map_range _ (List.mem_range.1 hj)]
      rfl
  dsimp only
  rw [hrows, List.flatMap_map, List.flatMap_map]

/-- What an operator writes is data, in its destinations. -/
theorem attempt_writes_within (s : State) (r : Run) (o : OpRec) :
    ∀ x ∈ (attempt s r o).writes, x.kind = .data ∧ ∃ g ∈ layerDests (layerOf o.desc).1, Within g.1 g.2 x := by
  intro x hx
  unfold attempt at hx
  extract_lets p l block at hx
  rw [computeOp_writes] at hx
  have hlen := outRow_length s o.desc l (capOf l o.sa o.sb o.sc o.eddy (isManaged p l)).1.sc
  split at hx
  · cases hx
  rcases List.mem_append.1 hx with hx | hx
  · rw [List.mem_singleton.1 hx]
    refine ⟨rfl, _, List.mem_cons_self, 0, rfl, ?_⟩
    rw [packElems_length, length_flatMap_of_const fun i _ => (List.length_map _).trans (hlen _ _ i).1, List.length_range, Nat.zero_add]
  · split at hx
    next hmx =>
      rw [List.mem_singleton.1 hx]
      refine ⟨rfl, (l.c.scaleAddr, l.m * ceilDiv l.n 32), ?_, 0, rfl, ?_⟩
      · rw [layerDests, if_pos hmx]
        exact List.mem_cons_of_mem _ List.mem_cons_self
      · rw [length_flatMap_of_const fun i _ => (hlen _ _ i).2 hmx, List.length_range, Nat.zero_add]
    · cases hx

theorem attempt_dataWrites (s : State) (r : Run) (o : OpRec) : DataWrites (attempt s r o).writes := fun x hx =>
  (attempt_writes_within s r o x hx).1

end Sys2Proof.Machine
end

section
/-! ## One operator of a LAYER (O12)

Its dealing and its flags are work on engines and cores alone, and its outcome depends on what it sees alone. -/

namespace Sys2Proof.Machine

open Sys2Proof.Safety

/-! ### One operator (R142 to R158) -/

/-- What the operator `o` of a run comes to on the memory of `s`, with the bytes of the run's precision block. -/
def opOut (s : State) (r : Run) (o : OpRec) (block : List Byte) : OpOut :=
  let p := (policyOf r.pol).1
  let l := (layerOf o.desc).1
  computeOp s o.desc l (capOf l o.sa o.sb o.sc o.eddy (isManaged p l)).1 p (histsOf block l.slot) (PrecSt.parse (block.drop 0x40)).hidx
    r.step r.rung (r.replays != 0)

theorem attempt_eq (s : State) (r : Run) (o : OpRec) : attempt s r o = opOut s r o (rd s r.prec precLen) := rfl

/-! ### An operator depends on the bytes of memory and the job seed alone (R142 to R158, R169 to R176) -/

section

variable {s t : State} (h : SameView s t)

include h

theorem OpIn.code_view (o : OpIn) (i j : Nat) : o.code t i j = o.code s i j := matElem_congr h.rdByte_eq _ _ _ _ _ _

theorem OpIn.real_view (o : OpIn) (x : Scales) (i j : Nat) : o.real t x i j = o.real s x i j := by
  simp only [OpIn.real, o.code_view h]

theorem OpIn.stored_view (o : OpIn) (x : Scales) (i j : Nat) : o.stored t x i j = o.stored s x i j := by
  simp only [OpIn.stored, o.code_view h]

theorem stageElem_view (d : Desc) (o : OpIn) (x : Scales) (w : Fmt) (e : Int) (i j : Nat) :
    stageElem t d o x w e i j = stageElem s d o x w e i j := by
  simp only [stageElem, stageRnd, o.real_view h, o.code_view h, h.regs _ unflagged_jobseed]

theorem stageBlock_view (d : Desc) (o : OpIn) (x : Scales) (w : Fmt) (i j : Nat) :
    stageBlock t d o x w i j = stageBlock s d o x w i j := by
  simp only [stageBlock, o.real_view h, stageElem_view h]

theorem stageOp_view (d : Desc) (o : OpIn) (x : Scales) (p : Policy) (hist : List Nat) (hidx r : Nat) (replay : Bool) :
    stageOp t d o x p hist hidx r replay = stageOp s d o x p hist hidx r replay := by
  simp only [stageOp, o.real_view h, o.code_view h, o.stored_view h, stageElem_view h, stageBlock_view h]

theorem outEl_view (l : LayerD) (a b : Staged) (path : Path) (eddy : List Byte) (i j : Nat) :
    outEl t l a b path eddy i j = outEl s l a b path eddy i j := by
  simp only [outEl, rdNat, h.rd_eq]

theorem outCode_view (d : Desc) (l : LayerD) (x : Scales) (man : Option Int) (v : EVal) (i j : Nat) :
    outCode t d l x man v i j = outCode s d l x man v i j := by
  simp only [outCode, h.regs _ unflagged_jobseed]

theorem outMxRow_view (d : Desc) (l : LayerD) (vs : List EVal) (i : Nat) : outMxRow t d l vs i = outMxRow s d l vs i := by
  simp only [outMxRow, outCode_view h]

theorem computeOp_view (d : Desc) (l : LayerD) (cap : OpCap) (p : Policy) (hist : List (List Nat)) (hidx step r : Nat) (replay : Bool) :
    computeOp t d l cap p hist hidx step r replay = computeOp s d l cap p hist hidx step r replay := by
  simp only [computeOp, stageOp_view h, outEl_view h, outCode_view h, outMxRow_view h]

theorem opOut_view (r : Run) (o : OpRec) (block : List Byte) : opOut t r o block = opOut s r o block := computeOp_view h ..

end

/-! ### Dealing and flags (R28, R88, R97, R163) -/

theorem layerPass_work (w : Who) (e : Fin 96) (cfg : SpliceCfg) (psn : Bool) (ts : List Nat) (s : State) :
    LayerWork s (layerPass w e cfg psn ts s) := by
  unfold layerPass
  extract_lets tag loaded
  refine LayerWork.trans ?_ (.of_aside (tracePass_aside _ _ _ _ _ _))
  refine .ite (.refl s) (LayerWork.trans ?_ (.of_aside (countEv_aside _ _ _ _)))
  exact (LayerWork.of_aside (freshen_aside s)).trans (.updE _ _ _)

theorem dealTiles_work (s : State) (w : Who) (l : LayerD) (cfg : SpliceCfg) (psn : Bool) (tiles : List Nat) (mine : Nat → Bool) :
    LayerWork s (dealTiles s w l cfg psn tiles mine) := by
  have drained : ∀ (e : Fin 96) (v : State), LayerWork v (reconfig (freshen v) w e cfg) := fun e v =>
    (LayerWork.of_aside (freshen_aside v)).trans (.of_engWork (reconfig_work _ w e cfg))
  have passes : ∀ (e : Fin 96) (n : Nat) (ps : List (List Nat)) (v : State),
      LayerWork v (ps.foldl (fun s p => (List.range n).foldl (fun s _ => layerPass w e cfg psn p s) s) v) := fun e n ps v =>
    .foldlBy id (fun v p _ => .foldlBy id (fun v _ _ => layerPass_work w e cfg psn p v) v) v
  exact .foldlBy id (fun v x _ => .ite (.refl v) ((drained _ v).trans (passes _ _ _ _))) s

theorem usedEngines_work (s : State) (psn : Bool) (tiles : List Nat) : LayerWork s (usedEngines s psn tiles) :=
  .of_units s _ _ _

theorem countTiles_aside (s : State) (tiles : List Nat) (ev : TileEv) : Aside s (countTiles s tiles ev) :=
  (Aside.foldl (fun v _ => (freshen_aside v).trans (countEv_aside _ _ _ _)) ev.ovf s).trans
    (Aside.foldl (fun v _ => countEv_aside v _ _ _) ev.conv _)

/-- A flag other than POISON stands in ARR_ACCSTAT of the engine's core (R163). -/
theorem accFlag_work (x : State × List (Nat × Nat)) {e bit : Nat} (he : e < 96) (hbit : bit ≠ 3) :
    LayerWork x.1 (accFlag x e bit).1 := by
  unfold accFlag
  split
  · exact .refl _
  · have hput := fun s v => LayerWork.regPut s ⟨e / 6, by omega⟩ v
    simp only [beq_eq_false_iff_ne.2 hbit, Bool.false_eq_true, if_false]
    exact ((hput _ _).trans (hput _ _)).trans (hput _ _)

theorem getD_lt {l : List Nat} {n : Nat} (h : ∀ e ∈ l, e < n) (hn : 0 < n) (t : Nat) : l.getD t 0 < n := by
  rw [List.getD_eq_getElem?_getD]
  cases ht : l[t]? with
  | none => exact hn
  | some e => exact h e (List.mem_of_getElem? ht)

theorem accFlags_work (s : State) {tiles : List Nat} (flagged : List (Nat × Nat)) {ev : TileEv} (ht : ∀ e ∈ tiles, e < 96)
    (hpsn : ev.psn = []) : LayerWork s (accFlags s tiles flagged ev).1 := by
  have flags : ∀ bit ≠ 3, ∀ (ts : List Nat) (x : State × List (Nat × Nat)),
      LayerWork x.1 (ts.foldl (fun x t => accFlag x (tiles.getD t 0) bit) x).1 :=
    fun bit hbit ts x => .foldlBy Prod.fst (fun y t _ => accFlag_work y (getD_lt ht (by decide) t) hbit) x
  unfold accFlags
  rw [hpsn]
  have hcount := LayerWork.of_aside (countTiles_aside s tiles ev)
  exact ((hcount.trans (flags 0 (by decide) ev.ovf (countTiles s tiles ev, flagged))).trans (flags 1 (by decide) ev.inv _)).trans
    (flags 2 (by decide) ev.conv _)

theorem serviceList_lt (s : State) : ∀ e ∈ serviceList s, e < 96 := fun _ he => List.mem_range.1 (List.mem_filter.1 he).1

theorem assignTiles_lt (s : State) (l : LayerD) (cfg : SpliceCfg) : ∀ e ∈ assignTiles s l cfg, e < 96 := by
  intro e he
  obtain ⟨t, -, rfl⟩ := List.mem_map.1 he
  exact getD_lt (serviceList_lt s) (by decide) _

/-! ### The work of an operator (R142 to R158) -/

/-- The record of an operator after the attempt `x`. -/
def OpRec.after (o : OpRec) (x : OpOut) (flagged : List (Nat × Nat)) (conv : Bool) : OpRec :=
  { o with ev := evOf x, recs := x.recs.map Sound.bytes, managed := x.managed, flagged := flagged, conv := conv }

theorem attempt_after (s : State) (r : Run) (o : OpRec) (x : OpOut) (flagged : List (Nat × Nat)) (conv : Bool) :
    attempt s r (o.after x flagged conv) = attempt s r o := rfl

/-- An operator that has read no poison writes what its attempt comes to, and beyond that works on engines and cores. -/
theorem runOp_clean (s : State) (w : Who) (r : Run) {o : OpRec} (block : List Byte) {x : Over} (hbad : x.bad = [])
    (ht : ∀ e ∈ o.tiles, e < 96) : ∃ t flagged conv ev,
      runOp s w r o block x = (t, o.after (opOut s r o block) flagged conv, ev) ∧
      LayerWork (applyWrites (w.q, w.idx) s (opOut s r o block).writes) t := by
  unfold runOp
  simp only [hbad, List.isEmpty_nil, if_true]
  refine ⟨_, _, _, _, rfl, ?_⟩
  refine LayerWork.trans ?_ (accFlags_work _ _ ht rfl)
  refine ((LayerWork.of_aside (countShared_aside _ _ _ _)).trans (dealTiles_work _ _ _ _ _ _ _)).trans (usedEngines_work _ _ _)

end Sys2Proof.Machine
end

section
/-! ## The value of an operator without scales, conversions and a residual (O12) -/

namespace Sys2Proof.Machine

open Sys2Proof.Safety

/-- A tensor without scale data (R55). -/
def Scales.plain : Scales := ⟨0, [], [], []⟩

theorem scalesOf_plain {r : TRef} (hf : r.fmt ≠ 0x08) (hs : r.scale = 0) (cols n : Nat) (bs : List Byte) :
    scalesOf r cols n bs = (.plain, 0) := by
  simp [scalesOf, hf, hs, Scales.plain]

/-- The operand `o` is staged as it is stored: without scales, and in its own format. -/
structure Staged.Plain (a : Staged) (s : State) (o : OpIn) : Prop where
  fmt : a.fmt = o.fmt
  lines : a.lines = o.lines.map (·.map fun q => ⟨splitElem o.fmt [] (o.code s q.1 q.2), none⟩)
  codes : a.codes = o.lines.map (·.map fun q => o.code s q.1 q.2)
  scales : ∀ i, a.scales.getD i (1, 0) = (1, 0)

/-- An operand without scale data that takes no conversion is (R79, R145, R170). -/
theorem stageOp_plain (s : State) (d : Desc) (o : OpIn) (p : Policy) (h : List Nat) (hidx : Nat) {r : Nat} {replay : Bool}
    (hconv : needConv o.fmt false r replay = false) : (stageOp s d o .plain p h hidx r replay).Plain s o := by
  have hkind : (Scales.plain.kind == 3) = false := rfl
  simp only [stageOp, hkind, hconv, Bool.false_eq_true, if_false]
  refine ⟨rfl, rfl, rfl, fun i => ?_⟩
  dsimp only
  rw [List.getD_eq_getElem?_getD, List.getElem?_map]
  cases (List.range (if o.isB = true then o.cols else o.rows))[i]? <;> rfl

/-- The first k-split enters as it is (R157). -/
theorem val_combine_new (side : Int × Int) (a : Acc) : (Acc.combine side Acc.new a).val side = a.val side := by
  unfold Acc.combine Acc.new Acc.val
  cases a.tag <;> simp

/-- The codes that meet at position `k` of output element (i, j). -/
def LayerD.codesAt (l : LayerD) (s : State) (i k j : Nat) : Nat × Nat :=
  (matElem s l.a.addr 0 (fmtWidth l.opA.fmt) l.k i k, matElem s l.b.addr 0 (fmtWidth l.opB.fmt) l.n k j)

/-- The groups of output element (i, j), summed along k in ascending order (R147, R150, R151). -/
def LayerD.plainSum (l : LayerD) (s : State) (r : Nat) (eddy : List Byte) (i j : Nat) : EVal :=
  let codes := (List.range l.k).map fun k => l.codesAt s i k j
  let els := codes.map fun x => ((⟨splitElem l.opA.fmt [] x.1, none⟩, ⟨splitElem l.opB.fmt [] x.2, none⟩) : AEl × AEl)
  (splitAcc (pathOf r l.opA.fmt l.opB.fmt) eddy l.g (1, 0) els codes).val (1, 0)

theorem slice_whole {α : Type} {xs : List α} {n : Nat} (h : xs.length = n) : slice xs (splitRange n 1 0) = xs := by
  simp [slice, splitRange, ← h]

/-- A product line is a row of A against a column of B. -/
theorem lineAt_lines {α : Type} {l : LayerD} (hew : l.ewise = false) (f g : Nat × Nat → α) {i j : Nat} (hi : i < l.m) (hj : j < l.n) :
    lineAt (l.opA.lines.map (·.map f)) i = (List.range l.k).map (fun k => f (i, k)) ∧
    lineAt (l.opB.lines.map (·.map g)) j = (List.range l.k).map (fun k => g (k, j)) := by
  simp [LayerD.opA, LayerD.opB, OpIn.lines, hew, lineAt, hi, hj]

theorem LayerD.codesAt_eq {l : LayerD} (hew : l.ewise = false) (s : State) (i k j : Nat) :
    l.codesAt s i k j = (l.opA.code s i k, l.opB.code s k j) := by
  simp [LayerD.codesAt, OpIn.code, LayerD.opA, LayerD.opB, hew]

theorem outVal_plain {l : LayerD} {s : State} {a b : Staged} (ha : a.Plain s l.opA) (hb : b.Plain s l.opB) (r : Nat) (eddy : List Byte)
    (hew : l.ewise = false) (hsplits : l.splits = 1) (hres : l.resid = none) {i j : Nat} (hi : i < l.m) (hj : j < l.n) :
    outVal l s a b r eddy i j = l.plainSum s r eddy i j := by
  obtain ⟨helsA, helsB⟩ := lineAt_lines hew (fun q => (⟨splitElem l.opA.fmt [] (l.opA.code s q.1 q.2), none⟩ : AEl))
    (fun q => (⟨splitElem l.opB.fmt [] (l.opB.code s q.1 q.2), none⟩ : AEl)) hi hj
  obtain ⟨hcodesA, hcodesB⟩ := lineAt_lines hew (fun q => l.opA.code s q.1 q.2) (fun q => l.opB.code s q.1 q.2) hi hj
  unfold outVal outEl LayerD.plainSum
  simp only [hew, hsplits, hres, ha.fmt, hb.fmt, ha.lines, hb.lines, ha.codes, hb.codes, ha.scales, hb.scales, helsA, helsB,
    hcodesA, hcodesB, List.zip_map', Bool.false_eq_true, if_false]
  simp only [LayerD.codesAt_eq hew, List.map_map, List.range_one, List.map_cons, List.map_nil, List.foldl_cons, List.foldl_nil]
  rw [slice_whole (by simp), slice_whole (by simp)]
  exact val_combine_new _ _

/-- The code that a value takes in an output without scale data (R158). -/
def LayerD.plainCode (l : LayerD) (s : State) (d : Desc) (v : EVal) (i j : Nat) : Nat :=
  (convertTo (fmtOf l.c.fmt) []
    (rndOf l.c.role l.c.rnd (braid16 (regGet s offJobseed).toNat (dStep d) (dLayer d) (dOp d) l.c.role ((i * l.n + j) % 2 ^ 50)))
    (outNonSat l.c.nonSat v) v).1

theorem outRow_plain {l : LayerD} (hmx : (l.c.scale == 3) = false) (s : State) (d : Desc) {v w : Nat → Nat → EVal} {i : Nat}
    (hv : ∀ j < l.n, v i j = w i j) :
    (outRow s d l .plain none v i).1.map (·.1) = (List.range l.n).map fun j => l.plainCode s d (w i j) i j := by
  simp only [outRow, hmx, Bool.false_eq_true, if_false, List.map_map]
  refine List.map_congr_left fun j hj => ?_
  rw [← hv j (List.mem_range.1 hj)]
  rfl

theorem capOf_plain {l : LayerD} (ha : l.a.scale = 0) (hb : l.b.scale = 0) (hc : l.c.scale = 0)
    (hfa : l.a.fmt ≠ 0x08) (hfb : l.b.fmt ≠ 0x08) (hfc : l.c.fmt ≠ 0x08) (hew : l.ewise = false) (sa sb sc eddy : List Byte) (managed : Bool) :
    (capOf l sa sb sc eddy managed).1 = ⟨.plain, .plain, .plain, eddy⟩ := by
  have hrefB : l.opB.ref = l.b := by simp [LayerD.opB, hew]
  have hinput : ∀ o : OpIn, o.ref.fmt ≠ 0x08 → o.ref.scale = 0 → ∀ bs, o.scalesOf bs = (.plain, 0) := fun o hf hs bs =>
    scalesOf_plain hf hs _ _ bs
  have hout : (if (managed || l.c.scale == 3) = true then (Scales.plain, 0) else scalesOf l.c l.n l.n sc) = (.plain, 0) := by
    rw [scalesOf_plain hfc hc, ite_self]
  simp only [capOf, Cl.bind, hinput l.opA hfa ha, hinput l.opB (by rwa [hrefB]) (by rwa [hrefB])]
  rw [show (⟨0, [], [], []⟩ : Scales) = .plain from rfl, hout]

/-- The output of an operator without scales, conversions and a residual, and in one k-split: the sum of each element's groups along k,
in ascending order, converted to the output format (R142 to R158). -/
theorem attempt_writes_plain (s : State) (r : Run) (o : OpRec) {l : LayerD} (hl : (layerOf o.desc).1 = l)
    (ha : l.a.scale = 0) (hb : l.b.scale = 0) (hc : l.c.scale = 0) (hfa : l.a.fmt ≠ 0x08) (hfb : l.b.fmt ≠ 0x08) (hfc : l.c.fmt ≠ 0x08)
    (hres : l.resid = none) (hsplits : l.splits = 1) (hew : l.ewise = false)
    (hca : needConv l.opA.fmt false r.rung (r.replays != 0) = false) (hcb : needConv l.opB.fmt false r.rung (r.replays != 0) = false) :
    (attempt s r o).writes = matWrites l.c.addr 0 (fmtWidth (fmtOf l.c.fmt)) l.m l.n fun i j =>
      l.plainCode s o.desc (l.plainSum s r.rung o.eddy i j) i j := by
  subst hl
  unfold attempt
  extract_lets p l block
  have hmx : (l.c.scale == 3) = false := by rw [hc]; rfl
  have hkind : (l.c.scale == 1) = false := by rw [hc]; rfl
  have hman : isManaged p l = false := by simp [isManaged, hkind]
  have hcap := capOf_plain ha hb hc hfa hfb hfc hew o.sa o.sb o.sc o.eddy (isManaged p l)
  rw [computeOp_writes, hcap, hman, matWrites]
  split
  · rfl
  · have hrow := fun i (hi : i ∈ List.range l.m) => outRow_plain hmx s o.desc (i := i) fun j hj =>
      outVal_plain (stageOp_plain s o.desc l.opA p ((histsOf block l.slot).getD 0 []) (PrecSt.parse (block.drop 0x40)).hidx hca)
        (stageOp_plain s o.desc l.opB p ((histsOf block l.slot).getD 1 []) (PrecSt.parse (block.drop 0x40)).hidx hcb) r.rung o.eddy
        hew hsplits hres (List.mem_range.1 hi) hj
    simp only [hmx, Bool.false_eq_true, if_false, List.append_nil, if_true]
    rw [List.flatMap_congr hrow]

end Sys2Proof.Machine
end

section
/-! ## LAYER (O12)

Its reads and checks go through, its command starts, and its operator is computed in the run that it starts or joins. -/

namespace Sys2Proof.Machine

open Sys2Proof.Safety

/-! ### Reads of an operator that go through (R161, R250) -/

/-- The reads of a LAYER go on, and none has met poison. -/
structure OverGoing (s : State) (x : Over) : Prop where
  going : Going s x.c
  bad : x.bad = []

namespace OverGoing

variable {s : State} {x : Over} {w : Who}

theorem line (h : OverGoing s x) {l : Nat} (hl : LineOk s w (64 * l % 2 ^ 64)) : OverGoing s (Over.line w x l) := by
  have hread := h.going.readLine hl
  unfold Over.line
  simp only [hread.stop]
  exact ⟨hread, h.bad⟩

theorem read (h : OverGoing s x) {r : Nat × Nat} (hr : ReadOk s w [r]) : OverGoing s (Over.read w x r) :=
  List.foldlRecOn (motive := OverGoing s) _ _ h fun _ hk l hl => hk.line (hr r List.mem_cons_self l hl)

/-- A read that is made or left out. -/
theorem readIf (h : OverGoing s x) {r : Nat × Nat} (hr : ReadOk s w [r]) (p : Bool) :
    OverGoing s (if p then Over.read w x r else x) := by
  split
  · exact h.read hr
  · exact h

end OverGoing

theorem readOk_of_mem {s : State} {w : Who} {rs : List (Nat × Nat)} (h : ReadOk s w rs) {r : Nat × Nat} (hr : r ∈ rs) :
    ReadOk s w [r] :=
  List.forall_mem_singleton.2 (h r hr)

theorem writeOk_of_mem {s : State} {w : Who} {rs : List (Nat × Nat)} (h : WriteOk s w rs) {r : Nat × Nat} (hr : r ∈ rs) :
    WriteOk s w [r] :=
  List.forall_mem_singleton.2 (h r hr)

/-- The scale data of an operator's output, read or left out (R158, R176). -/
theorem readOk_outScale {s : State} {w : Who} {l : LayerD} (h : ReadOk s w (layerReads l)) (managed : Bool) :
    ReadOk s w [outScaleRange l managed] := by
  cases managed with
  | false => exact readOk_of_mem h (by simp [layerReads])
  | true => exact List.forall_mem_singleton.2 fun k hk => by simp [outScaleRange, linesOf] at hk

theorem readTensors_going {s : State} {w : Who} {x : Over} {l : LayerD} {p : Policy} (h : OverGoing s x) (hr : ReadOk s w (layerReads l))
    (hw : WriteOk s w (layerWrites p l)) (hs : List (List Nat)) (hidx r : Nat) (replay : Bool) :
    OverGoing s (readTensors w x l p hs hidx r replay) := by
  have ha := readOk_of_mem hr (r := (l.a.addr, l.opA.bytes)) (by simp [layerReads])
  have hb := readOk_of_mem hr (r := (l.b.addr, l.opB.bytes)) (by simp [layerReads])
  have hout := writeOk_of_mem hw (r := (l.c.addr, rowBytes (l.m * l.n) (fmtWidth (fmtOf l.c.fmt)))) (by simp [layerWrites, layerDests])
  unfold readTensors
  extract_lets a b xa xa2 xb xb2 xr c cm
  have hread : OverGoing s xb2 := (((h.read ha).readIf ha _).read hb).readIf hb _
  have hres : OverGoing s xr := by
    simp only [xr]
    split
    next y hy => exact hread.read (readOk_of_mem hr (by simp [layerReads, hy]))
    · exact hread
  have hman : Going s cm := by
    simp only [cm]
    split
    next hm => exact (hres.going.write hout).write (writeOk_of_mem hw (by simp [layerWrites, hm]))
    · exact hres.going.write hout
  refine ⟨?_, hres.bad⟩
  dsimp only
  split
  next hmx => exact hman.write (writeOk_of_mem hw (by simp only [layerWrites, layerDests, hmx, if_true]; simp))
  · exact hman

/-! ### A LAYER that goes through (R142 to R158, R165, R360) -/

/-- The run in progress on a queue. -/
def setRun (s : State) (q : Fin 32) (r : Run) : State := updQ s q fun u => { u with run := some r }

/-- The state in which the operator of a LAYER computes: its command runs, in the run `r`. -/
def startedLayer (u : State) (q : Fin 32) (d : Desc) (n mask : Nat) (r : Run) : State :=
  startCmdOn mask (freshen (degraded (setRun u q r) r.ceil)) q d n (layerCmd d)

theorem degraded_aside (s : State) (ceil : Option Nat) : Aside s (degraded s ceil) :=
  .ite (setFlagOnly_aside s _ _ (by decide)) (.refl s)

/-- The record of an operator whose scale data and eddy table have been captured, before its attempt (R57, R134). -/
def captured (s : State) (r : Run) (d : Desc) (tiles : List Nat) : OpRec :=
  let l := (layerOf d).1
  let sc := outScaleRange l (isManaged (policyOf r.pol).1 l)
  ⟨d, rd s l.opA.scaleRange.1 l.opA.scaleRange.2, rd s l.opB.scaleRange.1 l.opB.scaleRange.2, rd s sc.1 sc.2,
    s.eddies.toList.getD l.eddySel [], OpEv.none, [], none, [], [], false, false, tiles⟩

section

variable (u : State) (q : Fin 32) (d : Desc) (n mask : Nat) (r : Run)

/-- Its command starts from a state that differs aside from that of the run. -/
theorem startedLayer_eq : ∃ v, Aside (setRun u q r) v ∧
    startedLayer u q d n mask r = pushCmd (addClamps v q n) q (layerCmd d (startedCmd u q d (decide (0 < n)) mask)) := by
  let run := freshen (degraded (setRun u q r) r.ceil)
  have hrun : Aside (setRun u q r) run := (degraded_aside _ _).trans (freshen_aside _)
  have hhead : run.queues[q].head = u.queues[q].head := by rw [queues_aside hrun, setRun, updQ_queue]
  refine ⟨startWork run (whoOf q run.queues[q].head d) d mask, hrun.trans (startWork_aside _ _ _ _), ?_⟩
  simp only [startedLayer, startCmdOn, startedCmd, run, hhead]

theorem startedLayer_step : LayerStep u (startedLayer u q d n mask r) := by
  obtain ⟨v, hv, heq⟩ := startedLayer_eq u q d n mask r
  rw [heq]
  exact (((LayerStep.updQ u q _).trans (LayerWork.of_aside hv).toLayerStep).trans (.updQ v q _)).trans (.updQ _ q _)

theorem startedLayer_mem : (startedLayer u q d n mask r).mem = u.mem := by
  obtain ⟨v, hv, heq⟩ := startedLayer_eq u q d n mask r
  rw [heq]
  exact (LayerWork.of_aside hv).mem

theorem startedLayer_queues : (startedLayer u q d n mask r).queues = u.queues.set q
    { u.queues[q] with
      head := u.queues[q].head + 1
      active := u.queues[q].active ++ [layerCmd d (startedCmd u q d (decide (0 < n)) mask)]
      clamps := min (u.queues[q].clamps + n) 0xFFFFFF
      run := some r } := by
  obtain ⟨v, hv, heq⟩ := startedLayer_eq u q d n mask r
  rw [heq]
  simp [pushCmd, addClamps, queues_aside hv, setRun]

end

theorem opFaults_nil (k : Nat) (o : OpRec) : opFaults k o [] = [] := rfl

theorem runFaults_nil (s : State) (q : Fin 32) (idx : BitVec 32) (k : Nat) (r : Run) (o : OpRec) (ev : TileEv) :
    runFaults s q idx k r o ev [] = (s, o) := rfl

theorem metPoison_nil (s : State) (k : Nat) (o : OpRec) {x : Over} (h : x.bad = []) : metPoison s k o [] x = false := by
  simp [metPoison, opFaults_nil, h]

/-- An entry replaced by itself. -/
theorem updAt_length_append {α : Type} (l : List α) (a : α) : updAt (fun _ => a) (l ++ [a]) l.length = l ++ [a] := by
  induction l with
  | nil => rfl
  | cons b l ih => simp [updAt, ih]

/-- A run with one operator more, which its last descriptor ends (R165). -/
def Run.join (r : Run) (o : OpRec) (ended : Bool) : Run := { r with ops := r.ops ++ [o], ended := ended }

/-- The newest operator of a run put again. -/
theorem setRun_join_again (z : State) (q : Fin 32) (r : Run) (o : OpRec) (ended : Bool) :
    updQ (setRun z q (r.join o ended)) q (fun u =>
      { u with run := u.run.map fun y => { y with ops := updAt (fun _ => o) y.ops r.ops.length } }) = setRun z q (r.join o ended) := by
  simp [setRun, updQ, Run.join, updAt_length_append]

/-- A LAYER of which every read and check goes through computes its operator in the run `r`, which it joins. -/
theorem layerBody_eq {q : Fin 32} {c : Chk} {d : Desc} {r : Run} (hgo : Going c.s c)
    (hr : ReadOk c.s (who c.s q d) (layerReads (layerOf d).1))
    (hw : WriteOk c.s (who c.s q d) (layerWrites (policyOf r.pol).1 (layerOf d).1)) (n : Nat) :
    ∃ x n' mask tiles, OverGoing c.s x ∧ (∀ e ∈ tiles, e < 96) ∧
      let z := runOp (startedLayer x.c.s q d n' mask r) (who c.s q d) r (captured c.s r d tiles) (rd c.s r.prec precLen) x
      layerBody q [] c d n r = setRun z.1 q (r.join z.2.1 (lyLast d)) := by
  have hsa := readOk_of_mem hr (r := (layerOf d).1.opA.scaleRange) (by simp [layerReads])
  have hsb := readOk_of_mem hr (r := (layerOf d).1.opB.scaleRange) (by simp [layerReads])
  have hscales := (((OverGoing.mk (x := ⟨c, []⟩) hgo rfl).read hsa).read hsb).read
    (readOk_outScale hr (isManaged (policyOf r.pol).1 (layerOf d).1))
  unfold layerBody
  extract_lets idx w ly l p man block hidx rs x seen sa sb sc eddy n1 x2 n2 s tiles mask s2 before k z s3 bad y s4
  have hx : OverGoing c.s x := by
    simp only [x, rs, man, p, l, ly]
    exact hscales
  have hx2 : OverGoing c.s x2 := by
    simp only [x2, hx.going.stop, Option.isSome_none, Bool.false_eq_true, if_false]
    exact readTensors_going hx hr hw _ _ _ _
  have hseen : seen = x.c.s := by rw [show seen = withoutBad x.c.s x.bad from rfl, hx.bad]; rfl
  have heddy : x.c.s.eddies = c.s.eddies := by rw [hx.going.spares.aside.form]
  have hop : (⟨d, sa, sb, sc, eddy, OpEv.none, [], none, [], [], false, false, tiles⟩ : OpRec) = captured c.s r d tiles := by
    simp only [sa, sb, sc, eddy, hseen, hx.going.rd, heddy]
    rfl
  have hbad : bad = false := metPoison_nil s3 k z.2.1 hx2.bad
  have hy : y = (setRun z.1 q (r.join z.2.1 (lyLast d)), z.2.1) := runFaults_nil _ q idx k r z.2.1 z.2.2
  have hs4 : s4 = setRun z.1 q (r.join z.2.1 (lyLast d)) := by
    simp only [s4, hy, k]
    exact setRun_join_again z.1 q r z.2.1 (lyLast d)
  refine ⟨x2, n2, mask, tiles, hx2, assignTiles_lt _ _ _, ?_⟩
  rw [← hop, if_neg (by simp [hx2.going.stop]), hbad]
  split
  · exact hs4
  · exact hs4

theorem applyWrites_queues (w : Nat × Nat) (s : State) (ws : List MemWrite) : (applyWrites w s ws).queues = s.queues := by
  obtain ⟨m, p, t, k, h, -⟩ := applyWrites_form w s ws
  rw [h]

theorem LayerStep.eddies {s t : State} (h : LayerStep s t) : t.eddies = s.eddies := by
  have hform : Computing s t := h.computing
  unfold Computing at hform
  rw [hform]

/-- The operator of a LAYER can be computed: the checks of its reads go on, from a state with the queues of `s`, which sees what
`v` sees. -/
structure Begun (s v : State) (c : Chk) : Prop where
  going : Going c.s c
  step : LayerStep s c.s
  queues : c.s.queues = s.queues
  view : SameView v c.s
  eddies : v.eddies = s.eddies

theorem Begun.captured_eq {s v : State} {c : Chk} (h : Begun s v c) (r : Run) (d : Desc) (tiles : List Nat) :
    captured c.s r d tiles = captured v r d tiles := by
  simp only [captured, h.view.rd_eq, h.step.eddies, h.eddies]

/-- A LAYER has gone from `s` to `t` in the run `r`: its command `x` runs, and its operator `o` has been computed on the memory of `v`. -/
structure Ran (q : Fin 32) (s v : State) (d : Desc) (r : Run) (o : OpRec) (x : Cmd) (t : State) : Prop where
  step : LayerStep s t
  cmd : ∃ clamped mask, x = layerCmd d (startedCmd s q d clamped mask)
  op : ∃ tiles flagged conv, o = (captured v r d tiles).after (attempt v r (captured v r d tiles)) flagged conv
  queue : t.queues[q] = { s.queues[q] with
    head := s.queues[q].head + 1, active := s.queues[q].active ++ [x], clamps := t.queues[q].clamps, run := some (r.join o (lyLast d)) }
  others : OthersSame q s t
  bytes : ∀ a, rdByte t a = rdByte (applyWrites (q.val, s.queues[q].head.toNat) v (attempt v r o).writes) a

theorem layerBody_ran {q : Fin 32} {s v : State} {c : Chk} {d : Desc} {r : Run} (hb : Begun s v c)
    (hr : ReadOk c.s (who s q d) (layerReads (layerOf d).1))
    (hw : WriteOk c.s (who s q d) (layerWrites (policyOf r.pol).1 (layerOf d).1)) (n : Nat) :
    ∃ o x, Ran q s v d r o x (layerBody q [] c d n r) := by
  have hwho : who c.s q d = who s q d := by rw [who, who, hb.queues]
  rw [← hwho] at hr hw
  obtain ⟨y, n', mask, tiles, hy, htiles, hbody⟩ := layerBody_eq hb.going hr hw n
  rw [hwho, hb.captured_eq] at hbody
  have hread := LayerWork.of_aside hy.going.spares.aside
  let u := startedLayer y.c.s q d n' mask r
  have hstart : LayerStep c.s u := hread.toLayerStep.trans (startedLayer_step _ q d n' mask r)
  have hview : SameView v u :=
    hb.view.trans (hstart.sameView hb.going.canon ((startedLayer_mem _ q d n' mask r).trans hread.mem))
  obtain ⟨t, flagged, conv, ev, hrun, hwork⟩ := runOp_clean u (who s q d) r (o := captured v r d tiles)
    (rd c.s r.prec precLen) hy.bad htiles
  rw [opOut_view hview, hb.view.rd_eq, ← attempt_eq] at hrun hwork
  dsimp only at hbody
  rw [hb.view.rd_eq, hrun] at hbody
  rw [hbody]
  have hwrites := LayerStep.applyWrites (q.val, s.queues[q].head.toNat) u (attempt v r (captured v r d tiles)).writes
  have hqueues : t.queues = u.queues := hwork.queues.trans (applyWrites_queues _ u _)
  have hstarted : u.queues = _ := startedLayer_queues y.c.s q d n' mask r
  rw [hread.queues, hb.queues] at hstarted
  refine ⟨_, layerCmd d (startedCmd y.c.s q d (decide (0 < n')) mask), ?_, ⟨decide (0 < n'), mask, ?_⟩,
    ⟨tiles, flagged, conv, rfl⟩, ?_, fun k hk => ?_, fun a => ?_⟩
  · exact (((hb.step.trans hstart).trans hwrites).trans hwork.toLayerStep).trans (.updQ t q _)
  · simp only [startedCmd, hread.queues, hb.queues]
  · simp [setRun, hqueues, hstarted]
  · have hne : q.val ≠ k.val := fun e => hk (Fin.ext e.symm)
    simp [setRun, hqueues, hstarted, hne]
  · rw [attempt_after]
    have hdone := hwork.toLayerStep.sameView (hwrites.canon (hstart.canon hb.going.canon)) hwork.mem
    exact (hdone.rdByte_eq a).trans ((hview.applyWrites _ (attempt_dataWrites v r _)).rdByte_eq a)

/-! ### The start of a run, and a further descriptor of it (R165, R168, R189) -/

theorem beginRun_state (w : Nat × Nat) (s : State) (d : Desc) (b : List Byte) : (beginRun w s d b).1 =
    applyWrites w s (beginWrites (policyOf (padTo 64 b)).1 (lowCeil s) (lyPrec d) (dStep d) b) := beginBlock_eq ..

theorem beginRun_run (w : Nat × Nat) (s : State) (d : Desc) (b : List Byte) :
    ∃ rung, (beginRun w s d b).2.1 = ⟨dLayer d, lyPrec d, dStep d, padTo 64 b, rung, 0, lowCeil s, [], false⟩ := ⟨_, rfl⟩

theorem beginWrites_data (p : Policy) (ceil : Option Nat) (addr step : Nat) (b : List Byte) : DataWrites (beginWrites p ceil addr step b) :=
  fun x hx => (beginWrites_within p ceil addr step b x hx).1

theorem SameView.lowCeil_eq {s t : State} (h : SameView s t) : lowCeil t = lowCeil s := by
  simp only [lowCeil, h.regBit_eq unflagged_degrade, h.regField_eq unflagged_degrade]

theorem SameView.beginRun {s t : State} (h : SameView s t) (w : Nat × Nat) (d : Desc) (b : List Byte) :
    SameView (beginRun w s d b).1 (beginRun w t d b).1 ∧ (beginRun w t d b).2.1 = (beginRun w s d b).2.1 := by
  have hstate : SameView (Machine.beginRun w s d b).1 (Machine.beginRun w t d b).1 := by
    rw [beginRun_state, beginRun_state, h.lowCeil_eq]
    exact h.applyWrites w (beginWrites_data _ _ _ _ _)
  have hst := hstate.rd_eq (lyPrec d + 0x40) 64
  refine ⟨hstate, ?_⟩
  unfold Machine.beginRun at hst ⊢
  dsimp only at hst ⊢
  rw [hst, h.lowCeil_eq]

/-- The block of the run that a LAYER starts or joins, its policy bytes, and the memory on which the operator computes: that of the start,
with what the start of a run writes to its block. -/
def runPrec (s : State) (q : Fin 32) (d : Desc) : Nat :=
  match s.queues[q].run with
  | none => lyPrec d
  | some r => r.prec
def runPolicy (s : State) (q : Fin 32) (d : Desc) : List Byte :=
  match s.queues[q].run with
  | none => padTo 64 (rd s (runPrec s q d) precLen)
  | some r => r.pol
def runView (s : State) (q : Fin 32) (d : Desc) : State :=
  match s.queues[q].run with
  | none => (beginRun (q.val, s.queues[q].head.toNat) s d (rd s (runPrec s q d) precLen)).1
  | some _ => s

/-- A run takes a further descriptor, or its first one starts alone (R165, R368). -/
def TakesLayer (s : State) (q : Fin 32) (d : Desc) : Prop :=
  match s.queues[q].run with
  | none => s.queues[q].active = []
  | some r => r.ended = false ∧ r.marking = none ∧ dLayer d = r.layer

/-- The run `r` in which the operator `o` of the descriptor has been computed (R165). -/
def JoinsRun (s : State) (q : Fin 32) (d : Desc) (o : OpRec) (r : Run) : Prop :=
  match s.queues[q].run with
  | none => r.layer = dLayer d ∧ r.prec = lyPrec d ∧ r.step = dStep d ∧ r.replays = 0 ∧ r.ops = [o] ∧
      (regBit s offDegrade 0 = false → r.ceil = none)
  | some r' => r = { r' with ops := r'.ops ++ [o], ended := lyLast d }

theorem exec_layer (q : Fin 32) (env : List Finding) (faults : List EngFault) (s : State) :
    exec (.layer q env faults) s = execLayer q env faults s := rfl

/-- A row goes on with a descriptor that has been fetched and may start. -/
theorem startRow_of_got {s : State} {q : Fin 32} {env : List Finding} {c : Chk} {d : Desc} (hfetch : fetchHead s q env = .got c d)
    (hready : descReady c.s d = true) {isRow : State → Desc → Bool} (hrow : isRow s d = true) (body : Chk → Desc → Nat → State) :
    startRow s q env isRow body = body c d (b2n (decide (0x0B ≤ dKindRaw d))) := by
  simp only [startRow, hfetch, hrow, hready, Bool.and_self, if_true]

/-- The checks of a command whose descriptor has been fetched with corrected errors alone can begin. -/
theorem going_of_got {s : State} {q : Fin 32} {env : List Finding} {c : Chk} {d : Desc} (hc : Canonical s) (he : CleanEnv env)
    (hfetch : fetchHead s q env = .got c d) : Going s c := by
  have hread := Chk.read_cleanStep ⟨q, s.queues[q].head.toNat, 0, 0⟩ (sqSlot s q s.queues[q].head) 128 (c := Chk.init s env) hc he
  simp only [fetchHead] at hfetch
  split at hfetch
  · cases hfetch
  split at hfetch
  · cases hfetch
  split at hfetch
  · cases hfetch
  next hstop =>
    cases hfetch
    exact ⟨hc, hread.spares, hread.env, hstop⟩

section

variable {q : Fin 32} {env : List Finding} {s : State} {c : Chk} {d : Desc} {w : Who}

/-- What was sound when the command started is sound in the view that its checks have left. -/
theorem Going.readOk (h : Going s c) {rs : List (Nat × Nat)} (hr : ReadOk s w rs) : ReadOk c.s w rs := by
  intro r hmem l hl
  have hline := hr r hmem l hl
  obtain ⟨k, hk⟩ := line_addr l
  rw [hk] at hline ⊢
  exact h.lineOk hline

theorem Going.writeOk (h : Going s c) {rs : List (Nat × Nat)} (hw : WriteOk s w rs) : WriteOk c.s w rs := by
  intro r hmem l hl hb
  rw [accessRefusedFor_aside h.spares.aside h.canon]
  exact hw r hmem l hl ((backed_aside h.spares.aside h.canon _).symm.trans hb)

/-- The checks go on from where they stand. -/
theorem Going.here (h : Going s c) : Going c.s c := ⟨h.canonical, .refl _, h.env, h.stop⟩

theorem Going.begun (h : Going s c) : Begun s s c :=
  ⟨h.here, (LayerWork.of_aside h.spares.aside).toLayerStep, h.queues, .of_aside h.spares.aside h.canon, rfl⟩

/-- A further descriptor of a run computes its operator on memory as it stands. -/
theorem nextLayer_ran (hgo : Going s c) {r : Run} (hr : ReadOk s (who s q d) ((r.prec, precLen) :: layerReads (layerOf d).1))
    (hw : WriteOk s (who s q d) (layerWrites (policyOf r.pol).1 (layerOf d).1)) (n : Nat) :
    ∃ o x, Ran q s s d r o x (nextLayer q [] c d n r) := by
  obtain ⟨hblock, hreads⟩ := List.forall_mem_cons.1 hr
  have hread := hgo.read (w := who s q d) (List.forall_mem_singleton.2 hblock)
  simp only [nextLayer, hgo.whoOf_eq, hread.stop]
  exact layerBody_ran hread.begun (hread.readOk hreads) (hread.writeOk hw) n

/-- The first descriptor of a run computes its operator on memory with what the start of the run has written to its block. -/
theorem firstLayer_ran (hgo : Going s c) {x : State × Run × Nat}
    (hx : x = beginRun (q.val, s.queues[q].head.toNat) s d (rd s (lyPrec d) precLen))
    (hr : ReadOk s (who s q d) ((lyPrec d, precLen) :: layerReads (layerOf d).1))
    (hw : WriteOk s (who s q d) (layerWrites (policyOf x.2.1.pol).1 (layerOf d).1)) (n : Nat) :
    ∃ o y, Ran q s x.1 d x.2.1 o y (firstLayer q [] c d n) := by
  obtain ⟨hblock, hreads⟩ := List.forall_mem_cons.1 hr
  have hread := hgo.read (w := who s q d) (List.forall_mem_singleton.2 hblock)
  obtain ⟨k, hk⟩ : ∃ k, k = Chk.read (who s q d) c (lyPrec d) precLen := ⟨_, rfl⟩
  rw [← hk] at hread
  obtain ⟨u, hu⟩ : ∃ u, u = beginRun (q.val, s.queues[q].head.toNat) k.s d (rd s (lyPrec d) precLen) := ⟨_, rfl⟩
  have heq : firstLayer q [] c d n = layerBody q [] { k with s := u.1 } d (n + u.2.2) u.2.1 := by
    unfold firstLayer
    dsimp only
    rw [hgo.whoOf_eq, ← hk, hread.stop]
    dsimp only
    rw [hread.rd, show (((who s q d).q, (who s q d).idx) : Nat × Nat) = (q.val, s.queues[q].head.toNat) from rfl, ← hu]
  obtain ⟨hview, hrun⟩ := (SameView.of_aside hread.spares.aside hgo.canon).beginRun (q.val, s.queues[q].head.toNat) d
    (rd s (lyPrec d) precLen)
  rw [← hx, ← hu] at hview hrun
  have hstate := beginRun_state (q.val, s.queues[q].head.toNat) k.s d (rd s (lyPrec d) precLen)
  rw [← hu] at hstate
  have hwrites : LayerStep k.s u.1 := hstate ▸ .applyWrites _ _ _
  have hsound : KeepsSound k.s u.1 := hstate ▸ applyWrites_keepsSound _ _ (beginWrites_data _ _ _ _ _)
  have hqueues : u.1.queues = s.queues := by rw [hstate, applyWrites_queues, hread.queues]
  have heddies : x.1.eddies = s.eddies := by
    rw [hx, beginRun_state]
    exact (LayerStep.applyWrites _ _ _).eddies
  have hbegun : Begun s x.1 { k with s := u.1 } :=
    ⟨⟨hwrites.canon hread.canonical, .refl _, hread.env, hread.stop⟩,
      (LayerWork.of_aside hread.spares.aside).toLayerStep.trans hwrites, hqueues, hview, heddies⟩
  rw [heq, hrun]
  exact layerBody_ran hbegun (hsound.readOk (hread.readOk hreads)) (hsound.writeOk (hread.writeOk hw)) _

/-- A LAYER that starts or joins a run (R165, R168, R176, R360). -/
theorem exec_layer_ran (hgo : Going s c) (hfetch : fetchHead s q env = .got c d) (hready : descReady c.s d = true) (hkind : dKind d = 1)
    (hfree : eddyFree s d = true) (htakes : TakesLayer s q d)
    (hr : ReadOk s (who s q d) ((runPrec s q d, precLen) :: layerReads (layerOf d).1))
    (hw : WriteOk s (who s q d) (layerWrites (policyOf (runPolicy s q d)).1 (layerOf d).1)) :
    ∃ t r o x, exec (.layer q env []) s = .next t ∧ r.pol = runPolicy s q d ∧ Ran q s (runView s q d) d r o x t ∧
      JoinsRun s q d o (r.join o (lyLast d)) := by
  unfold TakesLayer at htakes
  unfold runPolicy at hw ⊢
  unfold runPrec at hr hw ⊢
  unfold runView runPrec JoinsRun
  rw [exec_layer, execLayer]
  cases hrun : s.queues[q].run with
  | none =>
    simp only [hrun] at htakes hr hw ⊢
    rw [startAlone_of_ready ⟨htakes, hfetch, hready⟩ (by simp [hkind, hfree])]
    obtain ⟨begun, hbegun⟩ : ∃ u, u = beginRun (q.val, s.queues[q].head.toNat) s d (rd s (lyPrec d) precLen) := ⟨_, rfl⟩
    obtain ⟨rung, hfirst⟩ := beginRun_run (q.val, s.queues[q].head.toNat) s d (rd s (lyPrec d) precLen)
    rw [← hbegun] at hfirst ⊢
    obtain ⟨o, x, hran⟩ := firstLayer_ran hgo hbegun hr (by rwa [hfirst]) (b2n (decide (0x0B ≤ dKindRaw d)))
    refine ⟨_, begun.2.1, o, x, rfl, by rw [hfirst], hran, ?_⟩
    rw [hfirst]
    exact ⟨rfl, rfl, rfl, rfl, rfl, fun hfull => by simp [Run.join, lowCeil, hfull]⟩
  | some r =>
    simp only [hrun] at htakes hr hw ⊢
    obtain ⟨hended, hmark, hlayer⟩ := htakes
    rw [hended, hmark, startRow_of_got hfetch hready (by simp [hkind, hfree, hlayer])]
    obtain ⟨o, x, hran⟩ := nextLayer_ran hgo hr hw (b2n (decide (0x0B ≤ dKindRaw d)))
    exact ⟨_, r, o, x, rfl, rfl, hran, rfl⟩

end

/-! ### What has become of the operator, and of memory (R165, R176, R360) -/

theorem attempt_join (s : State) (r : Run) (o o' : OpRec) (ended : Bool) : attempt s (r.join o' ended) o = attempt s r o := rfl

section

variable {q : Fin 32} {s v t : State} {d : Desc} {r : Run} {o : OpRec} {x : Cmd}

/-- The operator holds its captured inputs, and what its attempt comes to. -/
theorem Ran.outcome (h : Ran q s v d r o x t) :
    let l := (layerOf d).1
    let sc := outScaleRange l (isManaged (policyOf r.pol).1 l)
    o.desc = d ∧ o.sa = rd v l.opA.scaleRange.1 l.opA.scaleRange.2 ∧ o.sb = rd v l.opB.scaleRange.1 l.opB.scaleRange.2 ∧
      o.sc = rd v sc.1 sc.2 ∧ o.eddy = v.eddies.toList.getD l.eddySel [] ∧ o.ev = evOf (attempt v r o) ∧
      o.recs = (attempt v r o).recs.map Sound.bytes ∧ o.managed = (attempt v r o).managed := by
  obtain ⟨tiles, flagged, conv, hop⟩ := h.op
  have hattempt : attempt v r o = attempt v r (captured v r d tiles) := by rw [hop, attempt_after]
  rw [← hattempt] at hop
  generalize attempt v r o = y at hop ⊢
  subst hop
  simp only [OpRec.after, captured, and_self]

/-- Bytes outside its destinations are as in the memory on which it has computed. -/
theorem Ran.rdByte_out (h : Ran q s v d r o x t) (hv : Canonical v) {a : Nat} (ha : ∀ g ∈ layerDests (layerOf d).1, Apart a g.1 g.2) :
    rdByte t a = rdByte v a := by
  obtain ⟨hdesc, -⟩ := h.outcome
  refine (h.bytes a).trans (rdByte_applyWrites_out _ v _ hv.1 fun y hy => ?_)
  obtain ⟨-, g, hg, hwithin⟩ := attempt_writes_within v r o y hy
  rw [hdesc] at hg
  exact hwithin.apart (ha g hg)

end

theorem runView_step (s : State) (q : Fin 32) (d : Desc) : LayerStep s (runView s q d) := by
  unfold runView
  split
  · rw [beginRun_state]
    exact .applyWrites _ _ _
  · exact (LayerWork.refl s).toLayerStep

/-- The start of a run writes to its block alone. -/
theorem rdByte_runView {s : State} {q : Fin 32} {d : Desc} (hc : Canonical s) {a : Nat}
    (ha : s.queues[q].run = none → Apart a (lyPrec d) precLen) : rdByte (runView s q d) a = rdByte s a := by
  unfold runView
  split
  next hrun =>
    rw [beginRun_state]
    exact rdByte_applyWrites_out _ s _ hc.1 fun y hy => (beginWrites_within _ _ _ _ _ y hy).2.apart (ha hrun)
  · rfl

end Sys2Proof.Machine

namespace Sys2Proof.Safety

open Sys2Proof.Machine

/-- Settles O12: no read or check stops the command, so its operator computes on memory as it was at the start, with what the start of a run
has written to the precision block. -/
theorem layerStartsOrJoinsARun : Obligations.LayerStartsOrJoinsARun := by
  intro q env s c d l w prec p v hc he hfetch hready hkind hfree htakes hr hw
  have hprec : prec = runPrec s q d := rfl
  have hp : p = (policyOf (runPolicy s q d)).1 := rfl
  have hv : v = runView s q d := rfl
  clear_value v p prec
  subst hprec hp hv
  have hgo := going_of_got hc he hfetch
  have heddy : eddyFree s d = true := by
    have hsame : eddyLoading s l.eddySel = eddyLoading c.s l.eddySel := by simp only [eddyLoading, hgo.queues]
    rw [eddyFree, hsame]
    rcases hfree with h | h <;> simp [l, h]
  obtain ⟨t, r, o, x, hexec, hpol, hran, hjoin⟩ := exec_layer_ran hgo hfetch hready hkind heddy htakes hr hw
  obtain ⟨hdesc, hsa, hsb, hsc, hed, hev, hrecs, hmanaged⟩ := hran.outcome
  obtain ⟨clamped, mask, rfl⟩ := hran.cmd
  rw [hpol] at hsc
  rw [(runView_step s q d).eddies] at hed
  refine ⟨t, _, r.join o (lyLast d), o, hexec, rfl, rfl, hkind, rfl, rfl, hdesc, rfl, hjoin,
    ⟨hsa, hsb, hsc, hed, hev, hrecs, hmanaged, hran.bytes, ?_⟩, hran.queue, hran.others, fun a ha => ?_, fun off hnoted hflag => ?_,
    hran.step.computing⟩
  · intro ha hb hcs hfa hfb hfc hres hsplits hew hca hcb
    rw [attempt_join]
    have hplain := attempt_writes_plain (runView s q d) r o (l := l) (by rw [hdesc]) ha hb hcs hfa hfb hfc hres hsplits hew hca hcb
    rw [hdesc] at hplain
    rw [← (runView_step s q d).regs hc offJobseed unflagged_jobseed]
    exact hplain
  · have hdests : ∀ g ∈ layerDests l, Apart a g.1 g.2 := fun g hg => ha g (List.mem_append_right _ hg)
    refine (hran.rdByte_out ((runView_step s q d).canon hc) hdests).trans (rdByte_runView hc fun hrun => ?_)
    exact ha (lyPrec d, precLen) (List.mem_append_left _ (by rw [hrun]; exact List.mem_cons_self))
  · exact hran.step.regs hc off ⟨hnoted, hflag⟩

end Sys2Proof.Safety
end

section
/-! ## Where accesses go, and what an operator reads (O13, O14) -/

namespace Sys2Proof.Machine

open Sys2Proof.Safety

/-! ### Where accesses go (R232, R236, R245, R512) -/

/-- `t` agrees with `s` in all that decides where an access goes, and whether it may go there. -/
structure SameAccess (s t : State) : Prop where
  base : regGet t offT3Base = regGet s offT3Base
  size : regGet t offT3Size = regGet s offT3Size
  tag : regGet t offT3Tag = regGet s offT3Tag
  otp : t.otp = s.otp
  ide : t.ide = s.ide
  t3key : t.t3key = s.t3key
  jobClear : t.jobClear = s.jobClear

namespace SameAccess

variable {s t u : State}

theorem trans (h : SameAccess s t) (k : SameAccess t u) : SameAccess s u :=
  ⟨k.base.trans h.base, k.size.trans h.size, k.tag.trans h.tag, k.otp.trans h.otp, k.ide.trans h.ide, k.t3key.trans h.t3key,
    k.jobClear.trans h.jobClear⟩

theorem of_reach (h : SameReach s t) : SameAccess s t := by
  refine ⟨?_, ?_, ?_, h.otp, h.ide, h.t3key, h.jobClear⟩ <;> simp only [regGet, h.regs]

theorem backed_eq (h : SameAccess s t) (a : Nat) : backed t a = backed s a := by
  simp only [backed, t3Limit, regBit, regField, h.base, h.size]
  rfl

theorem t3Fab_eq (h : SameAccess s t) (off : Nat) : t3Fab t off = t3Fab s off := by
  simp only [t3Fab, regField, h.base]

theorem t3TagAddr_eq (h : SameAccess s t) (u : Nat) : t3TagAddr t u = t3TagAddr s u := by
  simp only [t3TagAddr, regField, h.tag]

theorem memKey_eq (h : SameAccess s t) (a : Nat) : memKey t a = memKey s a := by
  simp only [memKey, h.t3Fab_eq]

theorem accessRefusedFor_eq (h : SameAccess s t) (w : Nat × Nat) (a : Nat) : accessRefusedFor t w a = accessRefusedFor s w a := by
  simp only [accessRefusedFor, h.backed_eq, keyServes, uioOk, hostOk, lcState, h.t3Fab_eq, h.t3TagAddr_eq, h.otp, h.ide, h.t3key,
    h.jobClear]
  rfl

theorem rangeRefused_eq (h : SameAccess s t) (w : Nat × Nat) (a n : Nat) : rangeRefused t w a n = rangeRefused s w a n := by
  simp only [rangeRefused, h.accessRefusedFor_eq]

theorem writesRefused_eq (h : SameAccess s t) (w : Nat × Nat) (ws : List MemWrite) : writesRefused t w ws = writesRefused s w ws := by
  simp only [writesRefused, h.rangeRefused_eq]

/-- Registers of other blocks decide neither. -/
theorem regPut (s : State) (hc : Canonical s) {off : Nat} (ho : off ∉ [offT3Base, offT3Size, offT3Tag]) (v : BitVec 64) :
    SameAccess s (regPut s off v) := by
  simp only [List.mem_cons, List.not_mem_nil, or_false, not_or] at ho
  obtain ⟨h1, h2, h3⟩ := ho
  exact ⟨regGet_regPut_other s off _ v hc.2 (Ne.symm h1), regGet_regPut_other s off _ v hc.2 (Ne.symm h2),
    regGet_regPut_other s off _ v hc.2 (Ne.symm h3), rfl, rfl, rfl, rfl⟩

end SameAccess

/-! ### What an operator reads (R142 to R158) -/

/-- `t` agrees with `s` in all that an operator's elements, and the places of its writes, depend on. `SameView` asks for more registers. -/
structure SameSight (s t : State) : Prop extends SameAccess s t where
  mem : t.mem = s.mem
  fatal : t.fatal = s.fatal
  seed : regGet t offJobseed = regGet s offJobseed

theorem SameView.sight {s t : State} (h : SameView s t) : SameSight s t :=
  ⟨⟨h.regs _ unflagged_t3Base, h.regs _ unflagged_t3Size, h.regs _ unflagged_t3Tag, h.otp, h.ide, h.t3key, h.jobClear⟩, h.mem, h.fatal,
    h.regs _ unflagged_jobseed⟩

namespace SameSight

variable {s t u : State}

theorem trans (h : SameSight s t) (k : SameSight t u) : SameSight s u :=
  ⟨h.toSameAccess.trans k.toSameAccess, k.mem.trans h.mem, k.fatal.trans h.fatal, k.seed.trans h.seed⟩

theorem of_aside (h : Aside s t) (hc : Canonical s) : SameSight s t := (SameView.of_aside h hc).sight

theorem updQ (s : State) (q : Fin 32) (f : Queue → Queue) : SameSight s (updQ s q f) := ⟨⟨rfl, rfl, rfl, rfl, rfl, rfl, rfl⟩, rfl, rfl, rfl⟩

theorem rdByte_eq (h : SameSight s t) (a : Nat) : rdByte t a = rdByte s a := by
  simp only [rdByte, h.backed_eq, h.memKey_eq, h.mem]

theorem rd_eq (h : SameSight s t) (a n : Nat) : rd t a n = rd s a n := by
  simp only [rd, h.rdByte_eq]

theorem wrBytes_mem (h : SameSight s t) (a : Nat) (bs : List Byte) : (wrBytes t a bs).mem = (wrBytes s a bs).mem := by
  induction bs generalizing s t a with
  | nil => exact h.mem
  | cons b bs ih =>
    refine ih (s := wrByte s (a % 2 ^ 64) b) (t := wrByte t (a % 2 ^ 64) b) ?_ (a + 1)
    unfold wrByte
    rw [h.backed_eq, h.memKey_eq, h.mem]
    split
    · exact ⟨⟨h.base, h.size, h.tag, h.otp, h.ide, h.t3key, h.jobClear⟩, rfl, h.fatal, h.seed⟩
    · exact h

theorem wr (h : SameSight s t) (a : Nat) (bs : List Byte) : SameSight (wr s a bs) (wr t a bs) := by
  have hmem : (Machine.wr t a bs).mem = (Machine.wr s a bs).mem := by
    simp only [wr_mem, h.fatal, h.mem, h.wrBytes_mem]
  obtain ⟨m, p, u, hs, -⟩ := wr_form s a bs
  obtain ⟨m', p', u', ht, -⟩ := wr_form t a bs
  rw [hs, ht] at hmem ⊢
  exact ⟨⟨h.base, h.size, h.tag, h.otp, h.ide, h.t3key, h.jobClear⟩, hmem, h.fatal, h.seed⟩

theorem applyWrites (h : SameSight s t) (w : Nat × Nat) {ws : List MemWrite} (hd : DataWrites ws) :
    SameSight (applyWrites w s ws) (applyWrites w t ws) := by
  induction ws generalizing s t with
  | nil => exact h
  | cons x ws ih =>
    obtain ⟨hx, hws⟩ := List.forall_mem_cons.1 hd
    refine ih (s := applyWrite w s x) (t := applyWrite w t x) ?_ hws
    rw [applyWrite_of_data w s hx, applyWrite_of_data w t hx, h.rangeRefused_eq]
    split
    · exact h
    · exact h.wr _ _

end SameSight

/-- An operator depends on the bytes of memory and the job seed alone (R142 to R158, R169 to R176). -/
theorem SameSight.computeOp_eq {s t : State} (h : SameSight s t) (d : Desc) (l : LayerD) (cap : OpCap) (p : Policy)
    (hist : List (List Nat)) (hidx step r : Nat) (replay : Bool) :
    computeOp t d l cap p hist hidx step r replay = computeOp s d l cap p hist hidx step r replay := by
  have code : ∀ (o : OpIn) i j, o.code t i j = o.code s i j := fun o => matElem_congr h.rdByte_eq _ _ _ _
  have real : ∀ (o : OpIn) x i j, o.real t x i j = o.real s x i j := fun o x i j => by simp only [OpIn.real, code]
  have stored : ∀ (o : OpIn) x i j, o.stored t x i j = o.stored s x i j := fun o x i j => by simp only [OpIn.stored, code]
  have elem : ∀ o x w e i j, stageElem t d o x w e i j = stageElem s d o x w e i j := fun o x w e i j => by
    simp only [stageElem, stageRnd, real, code, h.seed]
  have block : ∀ o x w i j, stageBlock t d o x w i j = stageBlock s d o x w i j := fun o x w i j => by
    simp only [stageBlock, real, elem]
  have staged : ∀ o x hs, stageOp t d o x p hs hidx r replay = stageOp s d o x p hs hidx r replay := fun o x hs => by
    simp only [stageOp, real, code, stored, elem, block]
  have sums : ∀ a b path eddy i j, outEl t l a b path eddy i j = outEl s l a b path eddy i j := fun a b path eddy i j => by
    simp only [outEl, rdNat, h.rd_eq]
  have out : ∀ x man v i j, outCode t d l x man v i j = outCode s d l x man v i j := fun x man v i j => by
    simp only [outCode, h.seed]
  have mxRow : ∀ vs i, outMxRow t d l vs i = outMxRow s d l vs i := fun vs i => by simp only [outMxRow, out]
  simp only [computeOp, staged, sums, out, mxRow]

theorem SameSight.opOut_eq {s t : State} (h : SameSight s t) (r : Run) (o : OpRec) (block : List Byte) :
    opOut t r o block = opOut s r o block := h.computeOp_eq ..

theorem SameSight.attempt_eq {s t : State} (h : SameSight s t) (r : Run) (o : OpRec) : attempt t r o = attempt s r o := by
  rw [Machine.attempt_eq, Machine.attempt_eq, h.rd_eq, h.opOut_eq]

theorem SameSight.refetched_eq {s t : State} (h : SameSight s t) (o : OpRec) : refetched t o = refetched s o := by
  simp only [refetched, h.rd_eq]

end Sys2Proof.Machine
end

section
/-! ## Reads that stay open (O13)

Traces, counts, dealing and flags touch no mark of poison and no tag of T3, so a line that could be read before them still can. -/

namespace Sys2Proof.Machine

open Sys2Proof.Safety

/-! ### What leaves the marks of poison and the tags of T3 alone -/

theorem freshen_sameMarks (s : State) : SameMarks s (freshen s) := ⟨rfl, rfl⟩

theorem countEv_sameMarks (s : State) (c : Fin 16) (code n : Nat) : SameMarks s (countEv s c code n) := ⟨rfl, rfl⟩

theorem matchFire_sameMarks (s : State) (c : Fin 16) (kind : Nat) (w : Who) : SameMarks s (matchFire s c kind w).1 := by
  unfold matchFire
  split
  · exact fireTrigger_sameMarks s c 1
  · exact .refl s

theorem putTrace_sameMarks (s : State) (c : Fin 16) (kind unit index info : Nat) (w : Who) (data : Nat) :
    SameMarks s (putTrace s c kind unit index info w data).1 := by
  have placed := placeTrace_sameMarks s c (traceBytes s c kind unit index info w data)
  unfold putTrace
  dsimp only
  split
  · exact (placed.trans (countPost_sameMarks _ _)).trans (matchFire_sameMarks _ _ _ _)
  · exact (placed.trans (matchFire_sameMarks _ _ _ _)).trans (dropTrace_sameMarks _ _)

theorem putDrops_sameMarks (s : State) (c : Fin 16) : SameMarks s (putDrops s c).1 := by
  have placed := placeTrace_sameMarks s c (traceBytes s c 0x1A 0 0 0 Who.none s.cores[c].trace.dropped)
  unfold putDrops
  dsimp only
  split
  · exact .refl s
  · split
    · exact ((placed.trans (updTrace_sameMarks _ _ _)).trans (countPost_sameMarks _ _)).trans (matchFire_sameMarks _ _ _ _)
    · exact placed

theorem produce_sameMarks (s : State) (c : Fin 16) (kind unit index info : Nat) (w : Who) (data : Nat) :
    SameMarks s (produce s c kind unit index info w data).1 := by
  have drops := putDrops_sameMarks s c
  unfold produce
  dsimp only
  split
  · exact .refl s
  · split
    · exact drops
    · split
      · exact (drops.trans (matchFire_sameMarks _ _ _ _)).trans (dropTrace_sameMarks _ _)
      · exact drops.trans (putTrace_sameMarks _ _ _ _ _ _ _ _)

theorem traceRec_sameMarks (s : State) (c : Fin 16) (kind unit index info : Nat) (w : Who) (data : Nat) :
    SameMarks s (traceRec s c kind unit index info w data) :=
  (produce_sameMarks s c _ _ _ _ _ _).trans (broadcast_sameMarks _)

theorem traceCores_sameMarks (s : State) (mask kind unit info : Nat) (w : Who) (data : Nat) :
    SameMarks s (traceCores s mask kind unit info w data) := by
  refine SameMarks.trans (SameMarks.foldlBy Prod.fst (fun x c => ?_) (List.finRange 16) (s, false)) (broadcast_sameMarks _)
  split
  · exact produce_sameMarks _ _ _ _ _ _ _ _
  · exact .refl _

theorem swapBank_sameMarks (s : State) (c : Fin 16) (w : Who) (kind : Nat) : SameMarks s (swapBank s c w kind) := by
  unfold swapBank
  extract_lets b ev old swapped
  have hswap : SameMarks s swapped := ⟨rfl, rfl⟩
  exact hswap.trans (.foldlBy id (fun v _ => traceRec_sameMarks v _ _ _ _ _ _ _) _ _)

theorem startWork_sameMarks (s : State) (w : Who) (d : Desc) (mask : Nat) : SameMarks s (startWork s w d mask) := by
  have begun : SameMarks s (coreBegin s mask w (dKind d)) := by
    unfold coreBegin
    refine .ite (.refl s) (SameMarks.trans (t := { s with fresh := s.fresh + 2 }) ⟨rfl, rfl⟩ (.foldlBy id (fun v c => ?_) _ _))
    exact .ite (.ite ((swapBank_sameMarks v c w _).trans (traceRec_sameMarks _ _ _ _ _ _ _ _)) (traceRec_sameMarks _ _ _ _ _ _ _ _))
      (.refl v)
  unfold startWork
  dsimp only
  split
  · exact begun.trans (traceCores_sameMarks _ _ _ _ _ _ _)
  · exact begun

theorem countShared_sameMarks (s : State) (mask code n : Nat) : SameMarks s (countShared s mask code n) :=
  .ite (.refl s) ((freshen_sameMarks s).trans (.foldlBy id (fun v _ => .ite (countEv_sameMarks v _ _ _) (.refl v)) _ _))

/-- The same, and no event record is lost. -/
structure KeepsMarks (s t : State) : Prop extends SameMarks s t where
  events : s.events <+: t.events

namespace KeepsMarks

variable {s t u : State}

theorem refl (s : State) : KeepsMarks s s := ⟨.refl s, List.prefix_refl _⟩

theorem trans (h : KeepsMarks s t) (k : KeepsMarks t u) : KeepsMarks s u :=
  ⟨h.toSameMarks.trans k.toSameMarks, h.events.trans k.events⟩

theorem ite {p : Prop} [Decidable p] (ht : KeepsMarks s t) (hu : KeepsMarks s u) : KeepsMarks s (if p then t else u) := by
  split
  · exact ht
  · exact hu

theorem foldlBy {α β : Type} (g : α → State) {f : α → β → α} (hf : ∀ x b, KeepsMarks (g x) (g (f x b))) (l : List β) (x : α) :
    KeepsMarks (g x) (g (l.foldl f x)) := by
  induction l generalizing x with
  | nil => exact refl _
  | cons b l ih => exact (hf x b).trans (ih _)

theorem of_aside (h : Aside s t) (hm : SameMarks s t) : KeepsMarks s t := ⟨hm, h.events⟩

end KeepsMarks

theorem freshen_keepsMarks (s : State) : KeepsMarks s (freshen s) := ⟨freshen_sameMarks s, List.prefix_refl _⟩

theorem countEv_keepsMarks (s : State) (c : Fin 16) (code n : Nat) : KeepsMarks s (countEv s c code n) :=
  ⟨countEv_sameMarks s c code n, List.prefix_refl _⟩

theorem updE_keepsMarks (s : State) (e : Fin 96) (f : Engine → Engine) : KeepsMarks s (updE s e f) :=
  ⟨⟨rfl, rfl⟩, List.prefix_refl _⟩

theorem traceRec_keepsMarks (s : State) (c : Fin 16) (kind unit index info : Nat) (w : Who) (data : Nat) :
    KeepsMarks s (traceRec s c kind unit index info w data) :=
  .of_aside (traceRec_aside s c kind unit index info w data) (traceRec_sameMarks s c kind unit index info w data)

/-! ### The work of an operator adds event records alone -/

theorem reconfig_keepsMarks (s : State) (w : Who) (e : Fin 96) (c : SpliceCfg) : KeepsMarks s (reconfig s w e c) := by
  unfold reconfig
  exact .ite (.refl s) (((updE_keepsMarks s e _).trans (countEv_keepsMarks _ _ _ _)).trans (traceRec_keepsMarks _ _ _ _ _ _ _ _))

theorem layerPass_keepsMarks (w : Who) (e : Fin 96) (cfg : SpliceCfg) (psn : Bool) (ts : List Nat) (s : State) :
    KeepsMarks s (layerPass w e cfg psn ts s) := by
  have passed : ∀ v tag, KeepsMarks v (tracePass v w e tag (ts.headD 0) (passSteps cfg ts.length)) := fun v tag =>
    (countEv_keepsMarks v _ _ _).trans (traceRec_keepsMarks _ _ _ _ _ _ _ _)
  refine KeepsMarks.trans ?_ (passed _ _)
  exact .ite (.refl s) (((freshen_keepsMarks s).trans (updE_keepsMarks _ e _)).trans (countEv_keepsMarks _ _ _ _))

theorem dealTiles_keepsMarks (s : State) (w : Who) (l : LayerD) (cfg : SpliceCfg) (psn : Bool) (tiles : List Nat) (mine : Nat → Bool) :
    KeepsMarks s (dealTiles s w l cfg psn tiles mine) := by
  have drained : ∀ (e : Fin 96) (v : State), KeepsMarks v (reconfig (freshen v) w e cfg) := fun e v =>
    (freshen_keepsMarks v).trans (reconfig_keepsMarks _ w e cfg)
  exact .foldlBy id (fun v x => .ite (.refl v) ((drained _ v).trans
    (.foldlBy id (fun v p => .foldlBy id (fun v _ => layerPass_keepsMarks w _ cfg psn p v) _ v) _ _))) _ s

theorem accFlag_keepsMarks (x : State × List (Nat × Nat)) (e bit : Nat) : KeepsMarks x.1 (accFlag x e bit).1 := by
  unfold accFlag
  split
  · exact .refl _
  · dsimp only
    split <;> exact ⟨⟨rfl, rfl⟩, List.prefix_refl _⟩

theorem accFlags_keepsMarks (s : State) (tiles : List Nat) (flagged : List (Nat × Nat)) (ev : TileEv) :
    KeepsMarks s (accFlags s tiles flagged ev).1 := by
  have counted : KeepsMarks s (countTiles s tiles ev) :=
    (KeepsMarks.foldlBy id (fun v _ => (freshen_keepsMarks v).trans (countEv_keepsMarks _ _ _ _)) ev.ovf s).trans
      (.foldlBy id (fun v _ => countEv_keepsMarks v _ _ _) ev.conv _)
  have flags : ∀ bit (ts : List Nat) (x : State × List (Nat × Nat)),
      KeepsMarks x.1 (ts.foldl (fun x t => accFlag x (tiles.getD t 0) bit) x).1 := fun bit ts x =>
    .foldlBy Prod.fst (fun y _ => accFlag_keepsMarks y _ bit) ts x
  exact (((counted.trans (flags 0 ev.ovf (countTiles s tiles ev, flagged))).trans (flags 1 ev.inv _)).trans (flags 2 ev.conv _)).trans
    (flags 3 ev.psn _)

/-- Beyond its writes, an operator that has read no poison leaves marks and tags alone. -/
theorem runOp_keepsMarks (s : State) (w : Who) (r : Run) (o : OpRec) (block : List Byte) {x : Over} (hbad : x.bad = []) :
    KeepsMarks (applyWrites (w.q, w.idx) s (opOut s r o block).writes) (runOp s w r o block x).1 := by
  have used : ∀ v psn tiles, KeepsMarks v (usedEngines v psn tiles) := fun v psn tiles => ⟨⟨rfl, rfl⟩, List.prefix_refl _⟩
  have shared : ∀ v mask code n, KeepsMarks v (countShared v mask code n) := fun v mask code n =>
    .of_aside (countShared_aside v mask code n) (countShared_sameMarks v mask code n)
  unfold runOp
  simp only [hbad, List.isEmpty_nil, if_true]
  refine KeepsMarks.trans ?_ (accFlags_keepsMarks _ _ _ _)
  exact ((shared _ _ _ _).trans (dealTiles_keepsMarks _ _ _ _ _ _ _)).trans (used _ _ _)

/-- An abort of some engines is work on engines and cores. -/
theorem abortSome_work (s : State) (es : List Nat) : LayerWork s (abortSome s es) := by
  refine (LayerWork.of_aside (freshen_aside s)).trans (.foldlBy id (fun v e _ => .ite ?_ (.refl v)) _)
  exact (LayerWork.of_aside (countEv_aside v _ _ _)).trans (.updE _ _ _)

theorem abortSome_keepsMarks (s : State) (es : List Nat) : KeepsMarks s (abortSome s es) :=
  (freshen_keepsMarks s).trans
    (.foldlBy id (fun v _ => .ite ((countEv_keepsMarks v _ _ _).trans (updE_keepsMarks _ _ _)) (.refl v)) _ _)

/-! ### What stays open -/

/-- Every range that a command could read or write in `s` it can in `t`. -/
structure StaysOpen (s t : State) : Prop where
  reads : ∀ {w rs}, ReadOk s w rs → ReadOk t w rs
  writes : ∀ {w rs}, WriteOk s w rs → WriteOk t w rs

namespace StaysOpen

variable {s t u : State}

theorem trans (h : StaysOpen s t) (k : StaysOpen t u) : StaysOpen s u :=
  ⟨fun x => k.reads (h.reads x), fun x => k.writes (h.writes x)⟩

theorem of_going {c : Chk} (h : Going s c) : StaysOpen s c.s := ⟨h.readOk, h.writeOk⟩

theorem of_keepsSound (h : KeepsSound s t) : StaysOpen s t := ⟨h.readOk, h.writeOk⟩

theorem of_sameMarks (h : SameAccess s t) (hm : SameMarks s t) : StaysOpen s t := by
  have check : ∀ u, t3Check t u = t3Check s u := fun u => by
    simp only [t3Check, t3Find, h.t3Fab_eq, h.t3TagAddr_eq, h.t3key, hm.t3]
  refine ⟨fun {w rs} hr r hmem l hl hb => ?_, fun {w rs} hw r hmem l hl hb => ?_⟩
  · rw [h.backed_eq] at hb
    simp only [h.accessRefusedFor_eq, linePoisoned, check, hm.poison]
    exact hr r hmem l hl hb
  · rw [h.backed_eq] at hb
    rw [h.accessRefusedFor_eq]
    exact hw r hmem l hl hb

end StaysOpen

end Sys2Proof.Machine
end

section
/-! ## One operator of a rerun (O13) -/

namespace Sys2Proof.Machine

open Sys2Proof.Safety

/-! ### What a rerun changes (R31, R101, R188) -/

/-- From `s` to `t` cores may have joined commands of queue `q`; beyond that the queues are as before (R31). -/
structure MoreCores (q : Fin 32) (s t : State) : Prop where
  queue : t.queues[q] = { s.queues[q] with active := t.queues[q].active }
  active : t.queues[q].active.map (fun x => { x with cores := 0 }) = s.queues[q].active.map fun x => { x with cores := 0 }
  others : OthersSame q s t

namespace MoreCores

variable {q : Fin 32} {s t u : State}

theorem of_queues (h : t.queues = s.queues) : MoreCores q s t := by
  refine ⟨?_, ?_, fun k _ => ?_⟩ <;> rw [h]

theorem trans (h : MoreCores q s t) (k : MoreCores q t u) : MoreCores q s u :=
  ⟨by rw [k.queue, h.queue], k.active.trans h.active, fun j hj => (k.others j hj).trans (h.others j hj)⟩

theorem joinCores (s : State) (q : Fin 32) (idx : BitVec 32) (d : Desc) (mask : Nat) : MoreCores q s (joinCores s q idx d mask) := by
  have hwork := queues_aside (startWork_aside s (whoOf q idx d) d (mask &&& (coresAt s q idx ^^^ 0xFFFF)))
  unfold Machine.joinCores
  refine ⟨?_, ?_, fun k hk => ?_⟩
  · simp only [updQ_queue, hwork]
  · simp only [updQ_queue, hwork, List.map_map]
    refine List.map_congr_left fun x _ => ?_
    simp only [Function.comp_apply]
    split <;> rfl
  · rw [updQ_other _ _ _ _ hk, hwork]

end MoreCores

/-- From `s` to `t` operators of a run of queue `q` have worked, and what could be read or written still can. -/
structure Worked (q : Fin 32) (s t : State) : Prop extends LayerStep s t where
  cores : MoreCores q s t
  stays : StaysOpen s t
  events : s.events <+: t.events

theorem LayerStep.jobFatal {s t : State} (h : LayerStep s t) : t.jobFatal = s.jobFatal := by
  have hform : Computing s t := h.computing
  unfold Computing at hform
  rw [hform]

namespace Worked

variable {q : Fin 32} {s t u : State}

theorem trans (h : Worked q s t) (k : Worked q t u) : Worked q s u :=
  ⟨h.toLayerStep.trans k.toLayerStep, h.cores.trans k.cores, h.stays.trans k.stays, h.events.trans k.events⟩

theorem refl (q : Fin 32) (s : State) : Worked q s s :=
  ⟨(LayerWork.refl s).toLayerStep, .of_queues rfl, ⟨id, id⟩, List.prefix_refl _⟩

theorem of_going {c : Chk} (h : Going s c) : Worked q s c.s :=
  ⟨(LayerWork.of_aside h.spares.aside).toLayerStep, .of_queues h.queues, .of_going h, h.spares.aside.events⟩

theorem of_work (h : LayerWork s t) (hc : Canonical s) (hm : KeepsMarks s t) : Worked q s t :=
  ⟨h.toLayerStep, .of_queues h.queues, .of_sameMarks (h.toLayerStep.sameView hc h.mem).sight.toSameAccess hm.toSameMarks, hm.events⟩

theorem applyWrites (w : Nat × Nat) (s : State) {ws : List MemWrite} (hd : DataWrites ws) : Worked q s (applyWrites w s ws) :=
  ⟨.applyWrites w s ws, .of_queues (applyWrites_queues w s ws), .of_keepsSound (applyWrites_keepsSound w s hd), by
    obtain ⟨m, p, t, k, h, -⟩ := applyWrites_form w s ws
    rw [h]⟩

end Worked

/-- The cores of a command that takes tiles join it, and memory is as before. -/
theorem joinCores_worked {s : State} (hc : Canonical s) (q : Fin 32) (idx : BitVec 32) (d : Desc) (mask : Nat) :
    Worked q s (joinCores (freshen s) q idx d mask) ∧ SameSight s (joinCores (freshen s) q idx d mask) := by
  have hwork := (freshen_aside s).trans (startWork_aside (freshen s) (whoOf q idx d) d (mask &&& (coresAt (freshen s) q idx ^^^ 0xFFFF)))
  have hmarks := (freshen_sameMarks s).trans
    (startWork_sameMarks (freshen s) (whoOf q idx d) d (mask &&& (coresAt (freshen s) q idx ^^^ 0xFFFF)))
  have hsight : SameSight s (joinCores (freshen s) q idx d mask) := by
    unfold joinCores
    exact (SameSight.of_aside hwork hc).trans (.updQ _ q _)
  have hfresh : MoreCores q s (freshen s) := .of_queues rfl
  have hstep : LayerStep s (joinCores (freshen s) q idx d mask) := by
    unfold joinCores
    exact (LayerWork.of_aside hwork).toLayerStep.trans (.updQ _ q _)
  exact ⟨⟨hstep, hfresh.trans (.joinCores (freshen s) q idx d mask),
    .of_sameMarks hsight.toSameAccess ⟨hmarks.poison, hmarks.t3⟩, hwork.events⟩, hsight⟩

/-! ### One operator of a rerun (R123, R125, R183, R188) -/

/-- A codebook is fetched again by the loads of a rerun (R123, R125). -/
def fetchBook (w : Who) (i : OpIn) (x : Over) (b : List Byte) : Over × List Byte :=
  if i.ref.fmt == 0x08 then (Over.read w x i.scaleRange, rd (Over.read w x i.scaleRange).c.s i.scaleRange.1 i.scaleRange.2) else (x, b)

theorem fetchBook_going {s : State} {w : Who} {i : OpIn} {x : Over} (h : OverGoing s x) (hr : ReadOk s w [i.scaleRange]) (b : List Byte) :
    OverGoing s (fetchBook w i x b).1 ∧
      (fetchBook w i x b).2 = if i.ref.fmt = 0x08 then rd s i.scaleRange.1 i.scaleRange.2 else b := by
  unfold fetchBook
  by_cases hf : i.ref.fmt = 0x08
  · have hread := h.read hr
    simp only [hf, beq_self_eq_true, if_true]
    exact ⟨hread, hread.going.rd _ _⟩
  · simp only [beq_iff_eq, hf, if_false]
    exact ⟨h, trivial⟩

/-- The record `o'` of the operator `o` after the attempt `y`. -/
def Redone (o o' : OpRec) (y : OpOut) : Prop :=
  o'.desc = o.desc ∧ o'.ev = evOf y ∧ o'.recs = y.recs.map Sound.bytes ∧ o'.managed = y.managed

/-- The ranges of the operator `o` can be read and written by the command `w`. -/
def OpOpen (s : State) (w : Who) (r : Run) (o : OpRec) : Prop :=
  ReadOk s w ((r.prec, precLen) :: layerReads (layerOf o.desc).1) ∧ WriteOk s w (layerWrites (policyOf r.pol).1 (layerOf o.desc).1)

theorem StaysOpen.opOpen {s t : State} (h : StaysOpen s t) {w : Who} {r : Run} {o : OpRec} (k : OpOpen s w r o) : OpOpen t w r o :=
  ⟨h.reads k.1, h.writes k.2⟩

/-- The rerun can go on: nothing has stopped it, and no operator has marked. -/
structure Rerun.Clear (x : Rerun) : Prop where
  going : Going x.c.s x.c
  stopped : x.stopped = none
  job : x.c.s.jobFatal = false

/-- An operator dealt to these engines. -/
def OpRec.dealt (o : OpRec) (tiles : List Nat) : OpRec := { o with tiles := tiles }

/-- The operator of which every read and check goes through is computed at the rung of its run. -/
theorem rerunOp_eq {q : Fin 32} {r : Run} {idx : Nat → BitVec 32} {x : Rerun} {o : OpRec} (h : x.Clear) (hmark : x.marked = false)
    (hopen : OpOpen x.c.s (whoOf q (idx x.ops.length) o.desc) r o) : ∃ v tiles, OverGoing x.c.s v ∧ (∀ e ∈ tiles, e < 96) ∧
      ∃ z, z = runOp (joinCores (freshen v.c.s) q (idx x.ops.length) o.desc (tileCores tiles)) (whoOf q (idx x.ops.length) o.desc) r
        ((refetched x.c.s o).dealt tiles) (rd x.c.s r.prec precLen) v ∧
      rerunOp q r [] idx x o = ⟨⟨z.1, v.c.env, v.c.unbacked, v.c.stop⟩, x.ops ++ [z.2.1], z.2.1.ev.marked && decide (r.rung < r.top), none⟩ := by
  obtain ⟨hgo, hstop, hjob⟩ := h
  obtain ⟨hr, hw⟩ := hopen
  obtain ⟨hprec, hreads⟩ := List.forall_mem_cons.1 hr
  have hsa := readOk_of_mem hreads (r := (layerOf o.desc).1.opA.scaleRange) (by simp [layerReads])
  have hsb := readOk_of_mem hreads (r := (layerOf o.desc).1.opB.scaleRange) (by simp [layerReads])
  unfold rerunOp
  rw [if_neg (by simp [hstop, hjob]), if_neg (by simp [hmark])]
  extract_lets k w l p pc block hidx book a b o1 v tiles y bad z
  have hpc : Going x.c.s pc := hgo.read (List.forall_mem_singleton.2 hprec)
  have hbook : book = fetchBook w := rfl
  clear_value book
  subst hbook
  obtain ⟨hga, hba⟩ : OverGoing x.c.s a.1 ∧ a.2 = (refetched x.c.s o).sa :=
    fetchBook_going ⟨⟨hpc.canon, hpc.spares, hpc.env, rfl⟩, rfl⟩ hsa o.sa
  obtain ⟨hgb, hbb⟩ : OverGoing x.c.s b.1 ∧ b.2 = (refetched x.c.s o).sb := fetchBook_going hga hsb o.sb
  clear_value a b
  have hv : OverGoing x.c.s v := readTensors_going hgb hreads hw _ _ _ _
  have ho : o1 = refetched x.c.s o := by
    simp only [o1, hba, hbb]
    rfl
  have hblock : block = rd x.c.s r.prec precLen := hpc.rd _ _
  have hbad : bad = false := metPoison_nil y.1 k y.2.1 hv.bad
  have hz : z = (y.1, y.2.1) := runFaults_nil y.1 q (idx k) k r y.2.1 y.2.2
  rw [if_neg (by simp [hpc.stop]), if_neg (by simp [hv.going.stop]), hbad, hz]
  refine ⟨v, tiles, hv, assignTiles_lt _ _ _, y, ?_, rfl⟩
  rw [← ho, ← hblock]
  rfl

theorem rerunOp_clear {q : Fin 32} {r : Run} {idx : Nat → BitVec 32} {x : Rerun} {o : OpRec} (h : x.Clear) (hmark : x.marked = false)
    (hopen : OpOpen x.c.s (whoOf q (idx x.ops.length) o.desc) r o) : ∃ c o',
    let y := attempt x.c.s r (refetched x.c.s o)
    rerunOp q r [] idx x o = ⟨c, x.ops ++ [o'], (evOf y).marked && decide (r.rung < r.top), none⟩ ∧ Redone o o' y ∧ Going c.s c ∧
      Worked q x.c.s c.s ∧ SameSight (applyWrites (q.val, (idx x.ops.length).toNat) x.c.s y.writes) c.s := by
  obtain ⟨v, tiles, hv, htiles, z, hz, heq⟩ := rerunOp_eq h hmark hopen
  obtain ⟨hjoin, hsight⟩ := joinCores_worked hv.going.canonical q (idx x.ops.length) o.desc (tileCores tiles)
  have hseen := (SameSight.of_aside hv.going.spares.aside h.going.canon).trans hsight
  have hstart := (Worked.of_going hv.going).trans hjoin
  generalize joinCores (freshen v.c.s) q (idx x.ops.length) o.desc (tileCores tiles) = u at hz hseen hstart
  obtain ⟨t, flagged, conv, ev, hrun, hwork⟩ := runOp_clean u (whoOf q (idx x.ops.length) o.desc) r
    (o := ((refetched x.c.s o).dealt tiles)) (rd x.c.s r.prec precLen) hv.bad htiles
  have hmarks := runOp_keepsMarks u (whoOf q (idx x.ops.length) o.desc) r ((refetched x.c.s o).dealt tiles)
    (rd x.c.s r.prec precLen) hv.bad
  have hout : opOut u r ((refetched x.c.s o).dealt tiles) (rd x.c.s r.prec precLen) = attempt x.c.s r (refetched x.c.s o) :=
    hseen.opOut_eq r _ _
  rw [hrun] at hz hmarks
  rw [hout] at hz hwork hmarks
  subst hz
  have hdata := attempt_dataWrites x.c.s r (refetched x.c.s o)
  generalize attempt x.c.s r (refetched x.c.s o) = y at *
  have hcw := (LayerStep.applyWrites (q.val, (idx x.ops.length).toNat) u y.writes).canon (hstart.canon h.going.canon)
  have hworked : Worked q (applyWrites (q.val, (idx x.ops.length).toNat) u y.writes) t := .of_work hwork hcw hmarks
  refine ⟨⟨t, v.c.env, v.c.unbacked, v.c.stop⟩, _, heq, ⟨rfl, rfl, rfl, rfl⟩, ⟨hwork.canon hcw, .refl t, hv.going.env, hv.going.stop⟩,
    (hstart.trans (.applyWrites _ u hdata)).trans hworked, ?_⟩
  exact (hseen.applyWrites _ hdata).trans (hwork.toLayerStep.sameView hcw hwork.mem).sight

end Sys2Proof.Machine
end

section
/-! ## The operators of a rerun (O13)

Each operator is computed on the memory that those before it have left, up to one that marks again below the top rung. -/

namespace Sys2Proof.Machine

open Sys2Proof.Safety

/-! ### The operators one after another (R183, R188) -/

/-- The ranges of every operator can be read and written by its command. -/
def OpsOpen (s : State) (q : Fin 32) (r : Run) (idx : Nat → BitVec 32) (k : Nat) (os : List OpRec) : Prop :=
  ∀ (j : Nat) (o : OpRec), os[j]? = some o → OpOpen s (whoOf q (idx (k + j)) o.desc) r o

theorem opsOpen_cons {s : State} {q : Fin 32} {r : Run} {idx : Nat → BitVec 32} {k : Nat} {o : OpRec} {os : List OpRec} :
    OpsOpen s q r idx k (o :: os) ↔ OpOpen s (whoOf q (idx k) o.desc) r o ∧ OpsOpen s q r idx (k + 1) os := by
  constructor
  · exact fun h => ⟨h 0 o rfl, fun j p hp => by rw [Nat.add_assoc, Nat.add_comm 1]; exact h (j + 1) p hp⟩
  · rintro ⟨h, hs⟩ j p hp
    cases j with
    | zero => cases hp; exact h
    | succ j => rw [Nat.add_comm j, ← Nat.add_assoc]; exact hs j p hp

theorem StaysOpen.opsOpen {s t : State} (h : StaysOpen s t) {q : Fin 32} {r : Run} {idx : Nat → BitVec 32} {k : Nat} {os : List OpRec}
    (ho : OpsOpen s q r idx k os) : OpsOpen t q r idx k os := fun j o hj => h.opOpen (ho j o hj)

/-- An operator that a rerun aborts. -/
def OpRec.aborted (o : OpRec) : OpRec := { o with ev := OpEv.none, recs := [] }

/-- After an operator that marks the others are aborted. -/
theorem foldl_rerunOp_marked (q : Fin 32) (r : Run) (idx : Nat → BitVec 32) (c : Chk) (done os : List OpRec) (hjob : c.s.jobFatal = false) :
    os.foldl (rerunOp q r [] idx) ⟨c, done, true, none⟩ = ⟨c, done ++ os.map OpRec.aborted, true, none⟩ := by
  induction os generalizing done with
  | nil => simp
  | cons o os ih =>
    have hstep : rerunOp q r [] idx ⟨c, done, true, none⟩ o = ⟨c, done ++ [o.aborted], true, none⟩ := by
      unfold rerunOp
      rw [if_neg (by simp [hjob]), if_pos rfl]
      rfl
    rw [List.foldl_cons, hstep, ih]
    simp

/-- The rerun of these operators: each is computed on the memory that those before it have left. -/
theorem foldl_rerunOp {q : Fin 32} {r : Run} {idx : Nat → BitVec 32} (os : List OpRec) {x : Rerun} {s : State} (h : x.Clear)
    (hmark : x.marked = false) (hs : SameSight s x.c.s) (hopen : OpsOpen x.c.s q r idx x.ops.length os) : ∃ c os' marked v,
      os.foldl (rerunOp q r [] idx) x = ⟨c, x.ops ++ os', marked, none⟩ ∧ Reruns q r idx x.ops.length s os os' v ∧ SameSight v c.s ∧
      Worked q x.c.s c.s := by
  induction os generalizing x s with
  | nil =>
    obtain ⟨c, done, marked, stopped⟩ := x
    obtain rfl : stopped = none := h.stopped
    exact ⟨c, [], marked, s, by simp, ⟨rfl, rfl⟩, hs, .refl q c.s⟩
  | cons o os ih =>
    obtain ⟨ho, hos⟩ := opsOpen_cons.1 hopen
    obtain ⟨c, o', hstep, ⟨hdesc, hev, hrecs, hman⟩, hgo, hwork, hsight⟩ := rerunOp_clear h hmark ho
    have hsame : attempt x.c.s r (refetched x.c.s o) = attempt s r (refetched s o) := by rw [hs.refetched_eq, hs.attempt_eq]
    rw [hsame] at hstep hev hrecs hman hsight
    have hsight := (hs.applyWrites _ (attempt_dataWrites s r (refetched s o))).trans hsight
    have hjob : c.s.jobFatal = false := hwork.toLayerStep.jobFatal.trans h.job
    rw [List.foldl_cons, hstep]
    by_cases hm : (evOf (attempt s r (refetched s o))).marked = true ∧ r.rung < r.top
    · rw [hm.1, decide_eq_true hm.2, Bool.and_self, foldl_rerunOp_marked q r idx c _ os hjob]
      refine ⟨c, o' :: os.map OpRec.aborted, true, _, by simp, ⟨hdesc, hev, hrecs, hman, ?_⟩, hsight, hwork⟩
      rw [if_pos hm]
      refine ⟨rfl, List.length_map _, fun y hy => ?_⟩
      obtain ⟨p, -, rfl⟩ := List.mem_map.1 hy
      exact ⟨rfl, rfl⟩
    · have hfalse : ((evOf (attempt s r (refetched s o))).marked && decide (r.rung < r.top)) = false := by simpa using hm
      rw [hfalse]
      obtain ⟨c', os', marked, v, hfold, hrest, hv, hworked⟩ := ih (x := ⟨c, x.ops ++ [o'], false, none⟩) ⟨hgo, rfl, hjob⟩ rfl hsight
        (by rw [List.length_append]; exact hwork.stays.opsOpen hos)
      refine ⟨c', o' :: os', marked, v, by simpa using hfold, ⟨hdesc, hev, hrecs, hman, ?_⟩, hv, hwork.trans hworked⟩
      rw [if_neg hm]
      rwa [List.length_append] at hrest

/-- Bytes outside the destinations of the operators are as before. -/
theorem reruns_rdByte_out {q : Fin 32} {r : Run} {idx : Nat → BitVec 32} {k : Nat} {s t : State} {os os' : List OpRec}
    (h : Reruns q r idx k s os os' t) (hc : Canonical s) {a : Nat} (ha : ∀ o ∈ os, ∀ g ∈ layerDests (layerOf o.desc).1, Apart a g.1 g.2) :
    rdByte t a = rdByte s a := by
  induction os generalizing k s os' with
  | nil => rw [h.2]
  | cons o os ih =>
    cases os' with
    | nil => exact h.elim
    | cons o' os' =>
      obtain ⟨-, -, -, -, hrest⟩ := h
      obtain ⟨hfirst, hothers⟩ := List.forall_mem_cons.1 ha
      have hstep : rdByte (applyWrites (q.val, (idx k).toNat) s (attempt s r (refetched s o)).writes) a = rdByte s a :=
        rdByte_applyWrites_out _ s _ hc.1 fun y hy => by
          obtain ⟨-, g, hg, hwithin⟩ := attempt_writes_within s r _ y hy
          exact hwithin.apart (hfirst g hg)
      refine Eq.trans ?_ hstep
      split at hrest
      · rw [hrest.1]
      · exact ih hrest ((applyWrites_keep _ s _).1 hc) hothers

/-! ### The run at its next rung (R183) -/

/-- What an entry changes of no interest here, a list with that entry changed does not show. -/
theorem map_updAt_of_comp {α β : Type} {f : α → α} {g : α → β} (h : ∀ a, g (f a) = g a) (l : List α) (i : Nat) :
    (updAt f l i).map g = l.map g := by
  induction l generalizing i with
  | nil => rfl
  | cons a l ih =>
    cases i with
    | zero => simp [updAt, h]
    | succ i => simp [updAt, ih]

/-- The run one rung wider, its operators as they were. -/
def Run.next (r : Run) : Run := { r with rung := r.rung + 1, replays := r.replays + 1 }

theorem Run.wider_top (r : Run) (m : Nat) : (r.wider m).top = r.next.top := by
  unfold Run.top
  show (match r.ceil with | none => 4 | some l => _) = match r.ceil with | none => 4 | some l => _
  cases r.ceil with
  | none => rfl
  | some l =>
    refine congrArg (fun ns => maxNats (l :: ns)) ?_
    exact map_updAt_of_comp (f := fun o : OpRec => { o with replayed := true }) (fun _ => rfl) r.ops m

/-- The operator `p` is `o`, counted in PRC_RPLSTAT or not (R188). -/
def Counted (o p : OpRec) : Prop := p = { o with replayed := p.replayed }

theorem counted_updAt (os : List OpRec) (m : Nat) : List.Forall₂ Counted os (updAt (fun o => { o with replayed := true }) os m) := by
  have same : ∀ os : List OpRec, List.Forall₂ Counted os os := fun os => List.forall₂_same.2 fun _ _ => rfl
  induction os generalizing m with
  | nil => exact .nil
  | cons o os ih =>
    cases m with
    | zero => exact .cons rfl (same os)
    | succ m => exact .cons rfl (ih m)

/-- That an operator has been counted shows nowhere in its rerun. -/
theorem reruns_of_counted {q : Fin 32} {r : Run} {m : Nat} {idx : Nat → BitVec 32} {k : Nat} {s t : State} {os ps os' : List OpRec}
    (hp : List.Forall₂ Counted os ps) (h : Reruns q (r.wider m) idx k s ps os' t) : Reruns q r.next idx k s os os' t := by
  induction hp generalizing k s os' with
  | nil => exact h
  | @cons o p os ps ho hos ih =>
    cases os' with
    | nil => exact h
    | cons o' os' =>
      have hdesc : p.desc = o.desc := by rw [ho]
      have hsame : attempt s (r.wider m) (refetched s p) = attempt s r.next (refetched s o) := by rw [ho]; rfl
      have hrung : (r.wider m).rung = r.next.rung := rfl
      obtain ⟨hd, hev, hrecs, hman, hrest⟩ := h
      rw [hsame] at hev hrecs hman
      rw [hsame, hrung, Run.wider_top] at hrest
      refine ⟨hd.trans hdesc, hev, hrecs, hman, ?_⟩
      split at hrest
      next hm =>
        rw [if_pos hm]
        exact ⟨hrest.1, hrest.2.1.trans hos.length_eq.symm, hrest.2.2⟩
      next hm =>
        rw [if_neg hm]
        exact ih hrest

end Sys2Proof.Machine
end

section
/-! ## The record of a rerun, and the rerun as a whole (O13) -/

namespace Sys2Proof.Machine

open Sys2Proof.Safety

/-! ### Flags that a register counts (R479) -/

/-- A field put leaves the bits below it. -/
theorem setBits_mod (x lo w v : Nat) : setBits x lo w v % 2 ^ lo = x % 2 ^ lo := by
  have hle : bits x lo w * 2 ^ lo ≤ x := by
    unfold bits
    rw [Nat.shiftRight_eq_div_pow]
    exact (Nat.mul_le_mul_right _ (Nat.mod_le _ _)).trans (Nat.div_mul_le_self _ _)
  unfold setBits
  rw [Nat.add_mul_mod_self_right]
  conv_rhs => rw [← Nat.sub_add_cancel hle]
  rw [Nat.add_mul_mod_self_right]

theorem bitAt_eq_testBit (x i : Nat) : bitAt x i = x.testBit i := by
  rw [Nat.testBit_eq_decide_div_mod_eq, bitAt, bits, Nat.shiftRight_eq_div_pow]
  rfl

theorem bitAt_setBits_below {x lo w v i : Nat} (h : i < lo) : bitAt (setBits x lo w v) i = bitAt x i := by
  have hlow : ∀ y, y.testBit i = (y % 2 ^ lo).testBit i := fun y => by simp [Nat.testBit_mod_two_pow, h]
  rw [bitAt_eq_testBit, bitAt_eq_testBit, hlow, setBits_mod, ← hlow]

theorem bitAt_setBits_one (x i : Nat) : bitAt (setBits x i 1 1) i = true := by
  have hpos : 0 < 2 ^ i := by positivity
  have hx := Nat.div_add_mod x (2 ^ i)
  have hval : setBits x i 1 1 = 2 ^ i * (x / 2 ^ i - x / 2 ^ i % 2 + 1) + x % 2 ^ i := by
    have hm : x / 2 ^ i % 2 ≤ x / 2 ^ i := Nat.mod_le _ _
    have hmul : x / 2 ^ i % 2 * 2 ^ i ≤ 2 ^ i * (x / 2 ^ i) := by rw [Nat.mul_comm]; exact Nat.mul_le_mul_left _ hm
    unfold setBits bits
    rw [Nat.shiftRight_eq_div_pow, Nat.pow_one, Nat.mul_add, Nat.mul_sub, Nat.mul_comm (2 ^ i) (x / 2 ^ i % 2)]
    omega
  rw [bitAt_eq_testBit, hval, Nat.testBit_eq_decide_div_mod_eq, Nat.mul_add_div hpos, Nat.div_eq_of_lt (Nat.mod_lt _ hpos)]
  simp
  omega

theorem bitAt_ofNat {n i : Nat} (h : i < 64) : bitAt (BitVec.ofNat 64 n).toNat i = bitAt n i := by
  rw [bitAt_eq_testBit, bitAt_eq_testBit, BitVec.toNat_ofNat, Nat.testBit_mod_two_pow]
  simp [h]

theorem regBit_regPutField {s : State} (hc : Canonical s) (off lo w v : Nat) {i : Nat} (h : i < 64) :
    regBit (regPutField s off lo w v) off i = bitAt (setBits (regGet s off).toNat lo w v) i := by
  rw [regBit, regPutField, regGet_regPut_same s off _ hc.2, bitAt_ofNat h]

/-- A flag that is set stands, below the field that counts it. -/
theorem regBit_setFlag {s : State} (hc : Canonical s) (off : Nat) {bit cnt : Nat} (h : bit < cnt) (hb : bit < 64) :
    regBit (setFlag s off bit cnt) off bit = true := by
  have hput : Canonical (regPutField s off bit 1 1) := (regPutField_keep s off bit 1 1).1 hc
  rw [setFlag, cntInc, regBit_regPutField hput _ _ _ _ hb, bitAt_setBits_below h]
  exact (regBit_regPutField hc off bit 1 1 hb).trans (bitAt_setBits_one _ _)

theorem regGet_setFlag_other {s : State} (hc : Canonical s) {off o : Nat} (bit cnt : Nat) (h : o ≠ off) :
    regGet (setFlag s off bit cnt) o = regGet s o :=
  (regGet_regPut_other _ off o _ (regPut_keep s off _ |>.1 hc).2 h).trans (regGet_regPut_other s off o _ hc.2 h)

theorem SameSight.setRplstat {s : State} (hc : Canonical s) (bit cnt : Nat) : SameSight s (setFlag s offRplstat bit cnt) :=
  ⟨⟨regGet_setFlag_other hc bit cnt (by decide), regGet_setFlag_other hc bit cnt (by decide), regGet_setFlag_other hc bit cnt (by decide),
    rfl, rfl, rfl, rfl⟩, rfl, rfl, regGet_setFlag_other hc bit cnt (by decide)⟩

/-! ### The record of a replay (R187, R354) -/

theorem findIdx?_eq_some {α : Type} {p : α → Bool} {l : List α} {i k : Nat} (h : findIdx? p l i = some k) :
    ∃ j a, k = i + j ∧ l[j]? = some a ∧ p a = true := by
  induction l generalizing i with
  | nil => cases h
  | cons a l ih =>
    unfold findIdx? at h
    split at h
    next hp =>
      cases h
      exact ⟨0, a, rfl, rfl, hp⟩
    · obtain ⟨j, b, rfl, hb, hp⟩ := ih h
      exact ⟨j + 1, b, by omega, hb, hp⟩

/-- A marking operator is an operator of the run. -/
theorem Run.marking_op {r : Run} {m : Nat} (h : r.marking = some m) : ∃ o, r.ops[m]? = some o := by
  unfold Run.marking at h
  split at h
  · obtain ⟨j, o, rfl, ho, -⟩ := findIdx?_eq_some h
    exact ⟨o, by rwa [Nat.zero_add]⟩
  · cases h

theorem evFree_of_room {s : State} (h : EvRoom s 1) : evFree s = true := by
  have hlt : s.events.length < 512 := h.2
  simp [evFree, h.1, hlt]

theorem evPush_of_room {s : State} (h : EvRoom s 1) (q : Fin 32) (bytes : List Byte) :
    evPush s q bytes = { s with events := s.events ++ [⟨q, bytes⟩] } := by
  have hlt : ¬512 ≤ s.events.length := Nat.not_le.2 h.2
  have hq : (q.val == 0xFF) = false := by simp; omega
  simp [evPush, hq, hlt, h.1]

/-- The bytes of a REPLAY record (R187). -/
def replayBytes (s : State) (q : Fin 32) (idx : BitVec 32) (r : Run) (o : OpRec) (stands : Bool) : List Byte :=
  let e := o.ev
  let flags := b2n (e.convS != 0) + 2 * b2n (e.convW != 0) + 4 * b2n (e.accF != 0) + 8 * b2n (e.accI != 0) + 16 * b2n (e.bso != 0)
    + 32 * b2n stands
  padTo 64 (le4 (0x04 + q.val * 2 ^ 8) ++ le4 idx.toNat ++ le8 s.gauge.count ++
    le4 (r.layer + (if stands then 0 else r.replays + 1) * 2 ^ 24) ++
    le4 (dOp o.desc + r.rung * 2 ^ 16 + (if stands then r.rung else r.rung + 1) * 2 ^ 19 + flags * 2 ^ 24) ++
    le4 r.step ++ le4 e.lowTile ++ le4 (sat32 e.convS) ++ le4 (sat32 e.convW) ++ le4 (sat32 (e.accF + e.accI)) ++ le4 (sat32 e.bso) ++
    le4 e.amaxS ++ le4 e.amaxW ++ leBytes 1 (twos 8 e.expS) ++ leBytes 1 (twos 8 e.expW))

theorem replayEvent_eq (s : State) (q : Fin 32) (idx : BitVec 32) (r : Run) (o : OpRec) (stands : Bool) :
    replayEvent s q idx r o stands = evPush s q (replayBytes s q idx r o stands) := rfl

/-! ### The start of a rerun (R183, R187, R188) -/

/-- The record and the flag of a rerun, before anything else of it. -/
def noteReplay (q : Fin 32) (s : State) (r : Run) (m : Nat) (o : OpRec) : State :=
  let t := replayEvent s q (opIdx s.queues[q].active m) r o false
  if o.replayed then t else setFlag t offRplstat 0 32

/-- The record of the rerun of `r` for its operator `m`, which is `o`. -/
def replayRec (q : Fin 32) (s : State) (r : Run) (m : Nat) (o : OpRec) : EvRec :=
  ⟨q, replayBytes s q (opIdx s.queues[q].active m) r o false⟩

/-- In `t` the rerun of `r` has its record, and the flag that counts it. -/
structure ReplayNoted (q : Fin 32) (s t : State) (r : Run) (m : Nat) (o : OpRec) : Prop where
  form : t = { s with events := s.events ++ [replayRec q s r m o], regs := t.regs }
  sight : SameSight s t
  canon : Canonical t
  regs : ∀ off, off ≠ offRplstat → regGet t off = regGet s off
  flag : o.replayed = false → regBit t offRplstat 0 = true

theorem noteReplay_noted {q : Fin 32} {s : State} (hc : Canonical s) (hroom : EvRoom s 1) (r : Run) (m : Nat) (o : OpRec) :
    ReplayNoted q s (noteReplay q s r m o) r m o := by
  let x : State := { s with events := s.events ++ [replayRec q s r m o] }
  have hpush : replayEvent s q (opIdx s.queues[q].active m) r o false = x := evPush_of_room hroom q _
  have hsight : SameSight s x := ⟨⟨rfl, rfl, rfl, rfl, rfl, rfl, rfl⟩, rfl, rfl, rfl⟩
  unfold noteReplay
  simp only [hpush]
  split
  next hdone => exact ⟨rfl, hsight, hc, fun _ _ => rfl, fun h => by simp [hdone] at h⟩
  · exact ⟨rfl, hsight.trans (.setRplstat (s := x) hc 0 32), (setFlag_keep x _ _ _).1 hc,
      fun _ ho => regGet_setFlag_other (s := x) hc 0 32 ho, fun _ => regBit_setFlag (s := x) hc offRplstat (by decide) (by decide)⟩

/-- From `s` to `t` the rerun has started on queue `q`. -/
structure Restarted (q : Fin 32) (s t : State) (r : Run) (m : Nat) (o : OpRec) : Prop where
  queues : t.queues = s.queues.set q { s.queues[q] with run := some (r.wider m) }
  sight : SameSight s t
  stays : StaysOpen s t
  canon : Canonical t
  events : s.events ++ [replayRec q s r m o] <+: t.events
  flag : o.replayed = false → regBit t offRplstat 0 = true
  regs : ∀ off, unflagged off → off ≠ offRplstat → regGet t off = regGet s off
  computing : Computing s t

theorem startReplay_eq (q : Fin 32) (s : State) (r : Run) (m : Nat) (o : OpRec) : ∃ mask w info data es, startReplay q s r m o =
    abortSome (setRun (traceCores (noteReplay q s r m o) mask 0x04 0 info w data) q (r.wider m)) es := ⟨_, _, _, _, _, rfl⟩

theorem unflagged_rplstat : unflagged offRplstat := by unfold unflagged; decide

theorem startReplay_restarted {q : Fin 32} {s : State} (hc : Canonical s) (hroom : EvRoom s 1) (r : Run) (m : Nat) (o : OpRec) :
    Restarted q s (startReplay q s r m o) r m o := by
  obtain ⟨mask, w, info, data, es, heq⟩ := startReplay_eq q s r m o
  have hnoted := noteReplay_noted hc hroom r m o (q := q)
  rw [heq]
  generalize noteReplay q s r m o = u at hnoted ⊢
  have hform := hnoted.form
  have htrace := traceCores_aside u mask 0x04 0 info w data
  have hmarks : KeepsMarks u (traceCores u mask 0x04 0 info w data) := .of_aside htrace (traceCores_sameMarks ..)
  generalize traceCores u mask 0x04 0 info w data = v at htrace hmarks ⊢
  have habort := abortSome_work (setRun v q (r.wider m)) es
  have hkeep := abortSome_keepsMarks (setRun v q (r.wider m)) es
  generalize abortSome (setRun v q (r.wider m)) es = t at habort hkeep ⊢
  have hwork := LayerWork.of_aside htrace
  have hstep : LayerStep u t := (hwork.toLayerStep.trans (.updQ v q _)).trans habort.toLayerStep
  have hsight : SameSight s t := hnoted.sight.trans (hstep.sameView hnoted.canon (habort.mem.trans hwork.mem)).sight
  have hsame : SameMarks s t := by
    have hsu : SameMarks s u := by rw [hform]; exact ⟨rfl, rfl⟩
    exact (hsu.trans hmarks.toSameMarks).trans ⟨hkeep.poison, hkeep.t3⟩
  refine ⟨?_, hsight, .of_sameMarks hsight.toSameAccess hsame, hstep.canon hnoted.canon, ?_, fun ho => ?_, fun off ho hne => ?_, ?_⟩
  · have hqueues : u.queues = s.queues := by rw [hform]
    rw [habort.queues, setRun, updQ_queues, queues_aside htrace, hqueues]
  · have hevents := hmarks.events.trans hkeep.events
    rw [hform] at hevents
    exact hevents
  · rw [regBit, hstep.regs hnoted.canon offRplstat unflagged_rplstat]
    exact hnoted.flag ho
  · exact (hstep.regs hnoted.canon off ho).trans (hnoted.regs off hne)
  · have hsu : Computing s u := by
      unfold Computing
      rw [hform]
    exact hsu.trans hstep.computing

/-! ### The rerun as a whole -/

theorem exec_replay (q : Fin 32) (env : List Finding) (faults : List EngFault) (s : State) :
    exec (.replay q env faults) s = execReplay q env faults s := rfl

/-- From `s` to `t` the run `r` of queue `q` has been run again, with the operators `os'` and on memory the outcome `v`. -/
structure Replayed (q : Fin 32) (s t : State) (r : Run) (m : Nat) (o : OpRec) (os' : List OpRec) (v : State) : Prop where
  start : ∃ u, Restarted q s u r m o ∧ Worked q u t ∧ Canonical u
  reruns : Reruns q r.next (opIdx s.queues[q].active) 0 s r.ops os' v
  sight : SameSight v t

/-- A rerun of which every read and check goes through. -/
theorem replayRun_replayed {q : Fin 32} {env : List Finding} {s : State} {r : Run} {m : Nat} {o : OpRec} (hc : Canonical s)
    (he : CleanEnv env) (hroom : EvRoom s 1) (hjob : s.jobFatal = false) (ho : r.ops[m]? = some o)
    (hopen : OpsOpen s q r (opIdx s.queues[q].active) 0 r.ops) : ∃ u os' v, Replayed q s u r m o os' v ∧
      replayRun q env [] s r m = setRun u q { r.wider m with ops := os' } := by
  have hstart := startReplay_restarted hc hroom r m o (q := q)
  unfold replayRun
  simp only [ho]
  generalize startReplay q s r m o = u at hstart
  have hju : u.jobFatal = false := by
    have hform : Computing s u := hstart.computing
    unfold Computing at hform
    rw [hform]
    exact hjob
  have hwide : OpsOpen u q (r.wider m) (opIdx s.queues[q].active) 0 (r.wider m).ops := by
    intro j p hp
    have hdesc : (r.wider m).ops[j]?.map OpRec.desc = r.ops[j]?.map OpRec.desc := by
      rw [← List.getElem?_map, ← List.getElem?_map]
      exact congrArg (·[j]?) (map_updAt_of_comp (f := fun o : OpRec => { o with replayed := true }) (fun _ => rfl) r.ops m)
    rw [hp] at hdesc
    obtain ⟨o', ho', hsame⟩ := Option.map_eq_some_iff.1 hdesc.symm
    have hop := hstart.stays.opOpen (hopen j o' ho')
    rw [OpOpen, hsame] at hop
    exact hop
  obtain ⟨c, os', marked, v, hfold, hreruns, hsight, hwork⟩ := foldl_rerunOp (x := ⟨Chk.init u env, [], false, none⟩) (r.wider m).ops
    ⟨⟨hstart.canon, .refl u, he, rfl⟩, rfl, hju⟩ rfl hstart.sight hwide
  have hjc : c.s.jobFatal = false := hwork.toLayerStep.jobFatal.trans hju
  have hrun : c.s.queues[q].run = some (r.wider m) := by
    rw [hwork.cores.queue]
    show u.queues[q].run = _
    rw [hstart.queues]
    simp
  refine ⟨c.s, os', v, ⟨⟨u, hstart, hwork, hstart.canon⟩, reruns_of_counted (counted_updAt r.ops m) hreruns, hsight⟩, ?_⟩
  rw [hfold]
  simp only [hjc, Bool.false_eq_true, if_false, List.nil_append]
  simp only [setRun, updQ, hrun, Option.map_some]

end Sys2Proof.Machine

namespace Sys2Proof.Safety

open Sys2Proof.Machine

/-- Settles O13: no read or check stops an operator, so each is computed again on the memory that those before it have left. -/
theorem replayWidensTheRun : Obligations.ReplayWidensTheRun := by
  intro q env s r m idx hc he hroom hrun hmark hstate hin hjob hlen hopen
  obtain ⟨o, ho⟩ := Run.marking_op hmark
  obtain ⟨u, os', v, ⟨⟨x, hstart, hwork, hcx⟩, hreruns, hsight⟩, heq⟩ := replayRun_replayed hc he hroom hjob ho
    (q := q) (env := env) fun k o hk => by rw [Nat.zero_add]; exact hopen k o hk
  have hexec : exec (.replay q env []) s = .next (setRun u q { r.wider m with ops := os' }) := by
    rw [← heq, exec_replay, execReplay]
    simp only [hrun, hmark, hstate, hin, evFree_of_room hroom]
    rfl
  have hqueue : u.queues[q] = { s.queues[q] with run := some (r.wider m), active := u.queues[q].active } := by
    rw [hwork.cores.queue, hstart.queues]
    simp
  refine ⟨_, { r.wider m with ops := os' }, o, v, hexec, fun k hk => ?_, ho, ?_, ?_, rfl, hreruns, fun a => hsight.rdByte_eq a,
    hstart.events.trans hwork.events, fun h => ?_, fun a ha => ?_, fun off hnoted hne hflag => ?_, ?_⟩
  · have hne : q.val ≠ k.val := fun e => hk (Fin.ext e.symm)
    rw [setRun, updQ_other _ _ _ _ hk, hwork.cores.others k hk, hstart.queues]
    simp [hne]
  · rw [setRun, updQ_queue, hqueue]
  · rw [setRun, updQ_queue]
    have hactive := hwork.cores.active
    rw [hstart.queues] at hactive
    simpa using hactive
  · show regBit u offRplstat 0 = true
    rw [regBit, hwork.regs hcx offRplstat unflagged_rplstat]
    exact hstart.flag h
  · refine (hsight.rdByte_eq a).trans (reruns_rdByte_out hreruns hc fun p hp g hg => ha g ?_)
    exact List.mem_flatMap.2 ⟨p, hp, hg⟩
  · exact (hwork.regs hcx off ⟨hnoted, hflag⟩).trans (hstart.regs off ⟨hnoted, hflag⟩ hne)
  · exact (hstart.computing.trans hwork.computing).trans (LayerStep.updQ u q _).computing

end Sys2Proof.Safety
end

section
/-! ## Records in ring order (O14)

One completion record after another goes to the next slot of the ring, and no later one meets it while the ring has as many slots. -/

namespace Sys2Proof.Machine

open Sys2Proof.Safety

/-! ### What a commit changes (R184, R186) -/

/-- From `s` to `t` a part of a commit has been done: beyond what `Finishes` names, of registers the flags of PRC_RPLSTAT alone. -/
structure CommitStep (s t : State) : Prop where
  finishes : Finishes s t
  canon : Canonical s → Canonical t
  regs : Canonical s → ∀ off, noted off = false → off ≠ offRplstat → regGet t off = regGet s off

namespace CommitStep

variable {s t u : State}

theorem refl (s : State) : CommitStep s s := ⟨rfl, id, fun _ _ _ _ => rfl⟩

theorem trans (h : CommitStep s t) (k : CommitStep t u) : CommitStep s u where
  finishes := by
    have hst : Finishes s t := h.finishes
    have htu : Finishes t u := k.finishes
    unfold Finishes at *
    rw [htu, hst]
  canon hc := k.canon (h.canon hc)
  regs hc off ho hne := (k.regs (h.canon hc) off ho hne).trans (h.regs hc off ho hne)

theorem of_aside (h : Aside s t) : CommitStep s t where
  finishes := by
    have hform := h.form
    unfold Finishes
    rw [hform]
  canon := h.canonical
  regs hc off ho _ := h.regs hc.2 off ho

theorem updQ (s : State) (q : Fin 32) (f : Queue → Queue) : CommitStep s (updQ s q f) := ⟨rfl, id, fun _ _ _ _ => rfl⟩

theorem setRplstat (s : State) (bit cnt : Nat) : CommitStep s (setFlag s offRplstat bit cnt) :=
  ⟨rfl, (setFlag_keep s _ _ _).1, fun hc _ _ hne => regGet_setFlag_other hc bit cnt hne⟩

theorem access (h : CommitStep s t) (hc : Canonical s) : SameAccess s t := by
  have hform : Finishes s t := h.finishes
  unfold Finishes at hform
  exact ⟨h.regs hc _ (by decide) (by decide), h.regs hc _ (by decide) (by decide), h.regs hc _ (by decide) (by decide), by rw [hform],
    by rw [hform], by rw [hform], by rw [hform]⟩

theorem fatal (h : CommitStep s t) : t.fatal = s.fatal := by
  have hform : Finishes s t := h.finishes
  unfold Finishes at hform
  rw [hform]

theorem gauge (h : CommitStep s t) : t.gauge = s.gauge := by
  have hform : Finishes s t := h.finishes
  unfold Finishes at hform
  rw [hform]

end CommitStep

/-! ### The ring of a queue (R351) -/

theorem offQcq_plain : ∀ q : Fin 32, noted (offQcq q) = false ∧ offQcq q ≠ offRplstat := by decide

namespace CommitStep

variable {s t : State}

theorem cqBase_eq (h : CommitStep s t) (hc : Canonical s) (q : Fin 32) : cqBase t q = cqBase s q := by
  simp only [cqBase, regField, h.regs hc _ (offQcq_plain q).1 (offQcq_plain q).2]

theorem cqSize_eq (h : CommitStep s t) (hc : Canonical s) (q : Fin 32) : cqSize t q = cqSize s q := by
  simp only [cqSize, regField, h.regs hc _ (offQcq_plain q).1 (offQcq_plain q).2]

theorem ringSlot_eq (h : CommitStep s t) (hc : Canonical s) (q : Fin 32) (n : Nat) : ringSlot t q n = ringSlot s q n := by
  simp only [ringSlot, h.cqBase_eq hc, h.cqSize_eq hc]

theorem cqTailOf_eq (h : CommitStep s t) (hc : Canonical s) (q : Fin 32) : cqTailOf t q = cqTailOf s q := by
  simp only [cqTailOf, h.cqBase_eq hc, h.cqSize_eq hc]

theorem compRecord_eq (h : CommitStep s t) (x : Cmd) (status : Nat) : compRecord t x status = compRecord s x status := by
  simp only [compRecord, h.gauge]

theorem offRing_iff (h : CommitStep s t) (hc : Canonical s) (q : Fin 32) (a : Nat) : OffRing t q a ↔ OffRing s q a := by
  simp only [OffRing, h.ringSlot_eq hc, h.cqTailOf_eq hc]

/-- The ring stays open while no record waits. -/
theorem ringOpen (h : CommitStep s t) (hc : Canonical s) {q : Fin 32} (hr : RingOpen s q) (hrecs : t.queues[q].recs = s.queues[q].recs) :
    RingOpen t q := by
  obtain ⟨⟨hok, hnone, hrun⟩, hslots⟩ := hr
  have hfree : ∀ a, accessRefused t a = accessRefused s a := (h.access hc).accessRefusedFor_eq _
  have hslot : ∀ n, accessRefused t (ringSlot t q n) = 0 := fun n => by rw [hfree, h.ringSlot_eq hc, hslots]
  have htail : accessRefused s (cqTailOf s q) = 0 := by
    rw [cqOk, Bool.and_eq_true] at hok
    exact beq_iff_eq.1 hok.2
  refine ⟨⟨?_, hrecs.trans hnone, h.fatal.trans hrun⟩, hslot⟩
  rw [cqOk, show cqSlotOf t q = ringSlot t q t.queues[q].cqCount from rfl, hslot, hfree, h.cqTailOf_eq hc, htail]
  rfl

/-- The records that a later state shows are those of either state. -/
theorem recordsLeft {u : State} (h : CommitStep s t) (hc : Canonical s) {q : Fin 32}
    (hcount : t.queues[q].cqCount = s.queues[q].cqCount) {cs : List Cmd} {status : Nat} (k : RecordsLeft q t u cs status) :
    RecordsLeft q s u cs status := by
  intro hlen i x hx hb
  have hrec := k (by rwa [h.cqSize_eq hc]) i x hx
  rw [hcount, h.ringSlot_eq hc, h.compRecord_eq] at hrec
  exact hrec fun j hj => ((h.access hc).backed_eq _).trans (hb j hj)

end CommitStep

theorem cqSize_le (s : State) (q : Fin 32) : 0 < cqSize s q ∧ cqSize s q ≤ 2 ^ 32 := by
  unfold cqSize regField bits
  have hexp := Nat.mod_lt ((regGet s (offQcq q)).toNat >>> 0) (show 0 < 2 ^ 5 by norm_num)
  exact ⟨by positivity, Nat.pow_le_pow_right (by norm_num) (by omega)⟩

/-- Slots of the ring do not meet while they are fewer than its size apart. -/
theorem ringSlot_apart (s : State) (q : Fin 32) {m n : Nat} (hlt : m < n) (hring : n - m < cqSize s q) {i : Nat} (hi : i < 32) :
    Apart ((ringSlot s q m + i) % 2 ^ 64) (ringSlot s q n) 32 := by
  obtain ⟨hpos, hle⟩ := cqSize_le s q
  have hne : m % cqSize s q ≠ n % cqSize s q := fun heq => by
    have hdvd := (Nat.modEq_iff_dvd' hlt.le).1 heq
    exact absurd (Nat.le_of_dvd (by omega) hdvd) (by omega)
  have hm := Nat.mod_lt m hpos
  have hn := Nat.mod_lt n hpos
  intro k hk
  unfold ringSlot
  omega

/-- No slot of the ring meets the count. -/
theorem ringSlot_tail_apart (s : State) (q : Fin 32) (n : Nat) {i : Nat} (hi : i < 32) :
    Apart ((ringSlot s q n + i) % 2 ^ 64) (cqTailOf s q) 8 := by
  have h := slot_tail_apart (updQ s q fun u => { u with cqCount := n }) q i hi
  have hslot : cqSlotOf (updQ s q fun u => { u with cqCount := n }) q = ringSlot s q n := by
    rw [cqSlotOf, updQ_queue]
    rfl
  rw [hslot] at h
  exact h

/-! ### Records one after another (R186, R373) -/

/-- The ring index after the last of these commands. -/
def nextOldest (i : BitVec 32) (cs : List Cmd) : BitVec 32 :=
  match cs.getLast? with
  | some x => x.idx + 1
  | none => i

/-- From `s` to `t` queue `q` has left the records of these commands, each DONE. -/
structure Recorded (q : Fin 32) (s t : State) (cs : List Cmd) : Prop where
  queues : t.queues = s.queues.set q
    { s.queues[q] with cqCount := s.queues[q].cqCount + cs.length, oldest := nextOldest s.queues[q].oldest cs }
  tokens : t.tokens = s.tokens
  step : CommitStep s t
  flags : regGet t offRplstat = regGet s offRplstat
  kept : ∀ a, (∀ j < cs.length, Apart a (ringSlot s q (s.queues[q].cqCount + j)) 32) → Apart a (cqTailOf s q) 8 →
    rdByte t a = rdByte s a
  left : RecordsLeft q s t cs 0

theorem nextOldest_cons (i : BitVec 32) (x : Cmd) (cs : List Cmd) : nextOldest i (x :: cs) = nextOldest (x.idx + 1) cs := by
  unfold nextOldest
  rw [List.getLast?_cons]
  cases cs.getLast? <;> rfl

/-- One record (R351, R353, R373). -/
theorem putRec_recorded {q : Fin 32} {s : State} (hc : Canonical s) (hr : CanRecord s q) (x : Cmd) :
    Recorded q s (putRec s q x 0) [x] := by
  obtain ⟨hrecord, hkept, hqueues, htokens, haside⟩ := putRec_left s q x 0 hc hr
  have hcanon := (putRec_keep s q x 0).1 hc
  generalize putRec s q x 0 = t at *
  refine ⟨hqueues, htokens, ⟨?_, fun _ => hcanon, fun _ off ho _ => haside.regs hc.2 off ho⟩, haside.regs hc.2 _ (by decide),
    fun a hslots htail => ?_, fun _ k y hy hb => ?_⟩
  · have hform := haside.form
    unfold Finishes
    rw [hform]
  · exact hkept a (hslots 0 (by simp)) htail (by simp)
  · cases k with
    | zero => cases hy; exact hrecord.record hb
    | succ k => cases hy

theorem putRecs_recorded {q : Fin 32} (cs : List Cmd) {s : State} (hc : Canonical s) (hr : RingOpen s q) :
    Recorded q s (cs.foldl (fun s x => putRec s q x 0) s) cs := by
  induction cs generalizing s with
  | nil => exact ⟨(Vector.set_getElem_self _).symm, rfl, .refl s, rfl, fun _ _ _ => rfl, fun _ _ _ hx => by cases hx⟩
  | cons x cs ih =>
    have hfirst := putRec_recorded hc hr.1 x
    rw [List.foldl_cons]
    generalize putRec s q x 0 = u at hfirst
    have hqueue : u.queues[q] = { s.queues[q] with cqCount := s.queues[q].cqCount + 1, oldest := x.idx + 1 } := by
      rw [hfirst.queues]
      simp [nextOldest]
    have hstep := hfirst.step
    have hrest := ih (hstep.canon hc) (hstep.ringOpen hc hr (by rw [hqueue]))
    generalize cs.foldl (fun s x => putRec s q x 0) u = t at hrest
    have hslot : ∀ j, ringSlot u q (u.queues[q].cqCount + j) = ringSlot s q (s.queues[q].cqCount + (j + 1)) := fun j => by
      rw [hstep.ringSlot_eq hc, hqueue, Nat.add_assoc, Nat.add_comm 1]
    have hkept : ∀ a, (∀ j < cs.length, Apart a (ringSlot s q (s.queues[q].cqCount + (j + 1))) 32) → Apart a (cqTailOf s q) 8 →
        rdByte t a = rdByte u a := fun a hslots htail =>
      hrest.kept a (fun j hj => by rw [hslot]; exact hslots j hj) (by rwa [hstep.cqTailOf_eq hc])
    refine ⟨?_, hrest.tokens.trans hfirst.tokens, hstep.trans hrest.step, hrest.flags.trans hfirst.flags,
    fun a hslots htail => ?_, fun hlen k y hy hb => ?_⟩
    · rw [hrest.queues, hqueue, hfirst.queues, Vector.set_set, nextOldest_cons, List.length_cons, Nat.add_assoc, Nat.add_comm 1]
    · refine (hkept a (fun j hj => hslots (j + 1) (by simpa using hj)) htail).trans (hfirst.kept a (fun j hj => ?_) htail)
      exact hslots j (by simp at hj; simp [hj])
    · rw [List.length_cons] at hlen
      cases k with
      | zero =>
        cases hy
        refine Eq.trans (List.map_congr_left fun i hi => ?_) (hfirst.left (by simp; omega) 0 x rfl hb)
        have hi := List.mem_range.1 hi
        exact hkept _ (fun j hj => ringSlot_apart s q (by omega) (by omega) hi) (ringSlot_tail_apart s q _ hi)
      | succ k =>
        have hrec := hrest.left (by rw [hstep.cqSize_eq hc]; omega) k y hy
        rw [hslot, hstep.compRecord_eq] at hrec
        exact hrec fun j hj => ((hstep.access hc).backed_eq _).trans (hb j hj)

end Sys2Proof.Machine
end

section
/-! ## The writes of a commit (O14)

The sounding records and managed scale records of the run's operators, each under the command that it belongs to (R176, R184, R186). -/

namespace Sys2Proof.Machine

open Sys2Proof.Safety

/-! ### Writes that nothing refuses (R369) -/

/-- These bytes written, in order. -/
def putWrites (s : State) (ws : List MemWrite) : State := ws.foldl (fun s w => wr s w.addr w.bytes) s

theorem putWrites_append (s : State) (l r : List MemWrite) : putWrites s (l ++ r) = putWrites (putWrites s l) r := List.foldl_append

theorem putWrites_form (s : State) (ws : List MemWrite) : ∃ m p t, putWrites s ws = { s with mem := m, poison := p, t3 := t } ∧
    (Memory.wf s.mem = true → Memory.wf m = true) := by
  induction ws generalizing s with
  | nil => exact ⟨s.mem, s.poison, s.t3, rfl, id⟩
  | cons x ws ih =>
    obtain ⟨m, p, t, h, hw⟩ := wr_form s x.addr x.bytes
    obtain ⟨m', p', t', h', hw'⟩ := ih (wr s x.addr x.bytes)
    rw [h] at hw'
    exact ⟨m', p', t', by rw [putWrites, List.foldl_cons, ← putWrites, h', h], fun hs => hw' (hw hs)⟩

theorem putWrites_step (s : State) (ws : List MemWrite) : CommitStep s (putWrites s ws) := by
  obtain ⟨m, p, t, h, hw⟩ := putWrites_form s ws
  rw [h]
  exact ⟨rfl, fun hc => ⟨hw hc.1, hc.2⟩, fun _ _ _ _ => rfl⟩

theorem putWrites_queues (s : State) (ws : List MemWrite) : (putWrites s ws).queues = s.queues := by
  obtain ⟨m, p, t, h, -⟩ := putWrites_form s ws
  rw [h]

theorem putWrites_reach (s : State) (ws : List MemWrite) : SameReach s (putWrites s ws) := by
  obtain ⟨m, p, t, h, -⟩ := putWrites_form s ws
  rw [h]
  exact ⟨rfl, rfl, rfl, rfl, rfl⟩

theorem SameSight.putWrites {s t : State} (h : SameSight s t) (ws : List MemWrite) : SameSight (putWrites s ws) (putWrites t ws) := by
  induction ws generalizing s t with
  | nil => exact h
  | cons x ws ih => exact ih (h.wr x.addr x.bytes)

/-- Held writes of data that nothing refuses are writes. -/
theorem applyWrites_eq_putWrites {w : Nat × Nat} {s : State} {ws : List MemWrite} (hd : DataWrites ws)
    (hopen : writesRefused s w ws = 0) : applyWrites w s ws = putWrites s ws := by
  have hall : ∀ x ∈ ws, rangeRefused s w x.addr x.bytes.length = 0 := fun x hx => rangeRefused_of_writesRefused hopen hx
  clear hopen
  induction ws generalizing s with
  | nil => rfl
  | cons x ws ih =>
    obtain ⟨hx, hws⟩ := List.forall_mem_cons.1 hd
    obtain ⟨hfirst, hothers⟩ := List.forall_mem_cons.1 hall
    have hstep : applyWrite w s x = wr s x.addr x.bytes := by rw [applyWrite_of_data w s hx, hfirst]; rfl
    have hreach : SameReach s (wr s x.addr x.bytes) := (wr_keepsSound s x.addr x.bytes).toSameReach
    rw [applyWrites, List.foldl_cons, hstep]
    exact ih hws fun y hy => (hreach.rangeRefused_eq ..).trans (hothers y hy)

/-- Bytes that no write meets are as before. -/
theorem rdByte_putWrites_out (s : State) (ws : List MemWrite) (hm : Memory.wf s.mem = true) {a : Nat}
    (ha : ∀ x ∈ ws, Apart a x.addr x.bytes.length) : rdByte (putWrites s ws) a = rdByte s a := by
  induction ws generalizing s with
  | nil => rfl
  | cons x ws ih =>
    obtain ⟨hfirst, hothers⟩ := List.forall_mem_cons.1 ha
    obtain ⟨m, p, t, h, hw⟩ := wr_form s x.addr x.bytes
    have hm' : Memory.wf (wr s x.addr x.bytes).mem = true := by rw [h]; exact hw hm
    exact (ih _ hm' hothers).trans (rdByte_wr_out s x.addr a x.bytes hm hfirst)

/-- A write that no later one meets is read back. -/
theorem rd_putWrites_standing (s : State) {ws : List MemWrite} (hm : Memory.wf s.mem = true) (hf : s.fatal = none) {a : Nat}
    {bs : List Byte} (hstand : Standing ws a bs) (hb : BackedAll s a bs.length) : rd (putWrites s ws) a bs.length = bs := by
  obtain ⟨l, r, rfl, hlater⟩ := hstand
  obtain ⟨m, p, t, hl, hwl⟩ := putWrites_form s l
  have hml : Memory.wf (putWrites s l).mem = true := by rw [hl]; exact hwl hm
  obtain ⟨m', p', t', hwr, hw'⟩ := wr_form (putWrites s l) a bs
  have hmw : Memory.wf (wr (putWrites s l) a bs).mem = true := by rw [hwr]; exact hw' hml
  have hwritten : rd (wr (putWrites s l) a bs) a bs.length = bs :=
    rd_wr _ a bs hml (by rw [hl]; exact hf) (backedAll_le hb) (((putWrites_reach s l).backedAll_iff a bs.length).2 hb)
  rw [putWrites_append]
  refine Eq.trans (List.map_congr_left fun i hi => ?_) hwritten
  exact rdByte_putWrites_out _ r hmw fun y hy => hlater y hy i (List.mem_range.1 hi)

/-! ### The operators of a run, in order (R184) -/

/-- The entries of a list, taken by number. -/
theorem filterMap_range_getElem? {α β : Type} (f : α → β) (l : List α) :
    (List.range l.length).filterMap (fun k => l[k]?.map f) = l.map f := by
  induction l using List.reverseRecOn with
  | nil => rfl
  | append_singleton l a ih =>
    have hinit : ∀ k ∈ List.range l.length, (l ++ [a])[k]?.map f = l[k]?.map f := fun k hk => by
      rw [List.getElem?_append_left (List.mem_range.1 hk)]
    rw [List.length_append, List.length_singleton, List.range_succ, List.filterMap_append, List.filterMap_congr hinit, ih]
    simp

/-- What an operator writes at commit is data (R176, R184). -/
theorem opCommitWrites_data (r : Run) (o : OpRec) : DataWrites (opCommitWrites r o) := by
  intro x hx
  rcases List.mem_append.1 hx with hx | hx
  · obtain ⟨role, -, rfl⟩ := List.mem_map.1 hx
    rfl
  · split at hx
    · rw [List.mem_singleton.1 hx]
    · cases hx

theorem mem_commitWrites {q : Fin 32} {r : Run} {cs : List Cmd} {x : (Nat × Nat) × List MemWrite} (h : x ∈ commitWrites q r cs) :
    ∃ k o, r.ops[k]? = some o ∧ x = ((q.val, (opIdx cs k).toNat), opCommitWrites r o) := by
  obtain ⟨k, -, hk⟩ := List.mem_filterMap.1 h
  obtain ⟨o, ho, rfl⟩ := Option.map_eq_some_iff.1 hk
  exact ⟨k, o, ho, rfl⟩

theorem commitWrites_writes (q : Fin 32) (r : Run) (cs : List Cmd) :
    (commitWrites q r cs).flatMap (·.2) = r.ops.flatMap (opCommitWrites r) := by
  rw [List.flatMap_def, List.flatMap_def, ← filterMap_range_getElem? (opCommitWrites r), commitWrites, List.map_filterMap]
  simp only [Option.map_map, Function.comp_def]

/-- Where none is refused, the writes of all operators become visible one after another. -/
theorem foldl_applyWrites_eq {s : State} {xs : List ((Nat × Nat) × List MemWrite)}
    (hopen : ∀ x ∈ xs, writesRefused s x.1 x.2 = 0 ∧ DataWrites x.2) :
    xs.foldl (fun s x => applyWrites x.1 s x.2) s = putWrites s (xs.flatMap (·.2)) := by
  induction xs generalizing s with
  | nil => rfl
  | cons x xs ih =>
    obtain ⟨⟨hx, hdx⟩, hxs⟩ := List.forall_mem_cons.1 hopen
    rw [List.foldl_cons, applyWrites_eq_putWrites hdx hx, List.flatMap_cons, putWrites_append]
    exact ih fun y hy => ⟨((putWrites_reach s x.2).writesRefused_eq _ _).trans (hxs y hy).1, (hxs y hy).2⟩

end Sys2Proof.Machine
end

section
/-! ## COMMIT (O14)

The record of a standing overflow, the writes of the operators, then the record of every command. Where the next descriptor cuts the run
short, its last command counts a clamp before that. -/

namespace Sys2Proof.Machine

open Sys2Proof.Safety

/-! ### The commands of a run, by index and descriptor alone -/

theorem findIdx?_map {α β : Type} (f : α → β) (p : β → Bool) (l : List α) (i : Nat) :
    findIdx? p (l.map f) i = findIdx? (fun a => p (f a)) l i := by
  induction l generalizing i with
  | nil => rfl
  | cons a l ih => simp only [List.map_cons, findIdx?, ih]

theorem findIdx?_eq_none {α : Type} {p : α → Bool} {l : List α} (i : Nat) (h : ∀ a ∈ l, p a = false) : findIdx? p l i = none := by
  induction l generalizing i with
  | nil => rfl
  | cons a l ih =>
    obtain ⟨ha, hl⟩ := List.forall_mem_cons.1 h
    simp only [findIdx?, ha, Bool.false_eq_true, if_false]
    exact ih _ hl

theorem findIdx?_of_any {α : Type} {p : α → Bool} {l : List α} (i : Nat) (h : l.any p = true) : ∃ k, findIdx? p l i = some k := by
  induction l generalizing i with
  | nil => cases h
  | cons a l ih =>
    unfold findIdx?
    split
    · exact ⟨i, rfl⟩
    next ha => exact ih _ (by simpa [ha] using h)

section

variable {as cs : List Cmd}

theorem opIdx_congr (h : as.map Cmd.idx = cs.map Cmd.idx) (k : Nat) : opIdx as k = opIdx cs k := by
  have hk : as[k]?.map Cmd.idx = cs[k]?.map Cmd.idx := by rw [← List.getElem?_map, ← List.getElem?_map, h]
  unfold opIdx
  cases ha : as[k]? <;> cases hb : cs[k]? <;> simp_all

theorem Run.convAt_congr (h : as.map Cmd.idx = cs.map Cmd.idx) (r : Run) (i : BitVec 32) : r.convAt as i = r.convAt cs i := by
  simp only [Run.convAt, ← findIdx?_map Cmd.idx (fun x => x == i), h]

theorem nextOldest_congr (h : as.map Cmd.idx = cs.map Cmd.idx) (i : BitVec 32) : nextOldest i as = nextOldest i cs := by
  have hlast : as.getLast?.map Cmd.idx = cs.getLast?.map Cmd.idx := by rw [← List.getLast?_map, ← List.getLast?_map, h]
  unfold nextOldest
  cases ha : as.getLast? <;> cases hb : cs.getLast? <;> simp_all

/-- One more in the counter that the last of these commands names (R371). -/
def lastSignal (cs : List Cmd) (k : Nat) : BitVec 32 :=
  match cs.getLast? with
  | some x => signalled x.desc k
  | none => 0

theorem lastSignal_congr (h : as.map Cmd.desc = cs.map Cmd.desc) (k : Nat) : lastSignal as k = lastSignal cs k := by
  have hlast : as.getLast?.map Cmd.desc = cs.getLast?.map Cmd.desc := by rw [← List.getLast?_map, ← List.getLast?_map, h]
  unfold lastSignal
  cases ha : as.getLast? <;> cases hb : cs.getLast? <;> simp_all

end

/-! ### A run that the next descriptor cuts short (R165, R387) -/

theorem getElem?_updAt {α : Type} (f : α → α) (l : List α) (i j : Nat) :
    (updAt f l i)[j]? = l[j]?.map fun a => if j = i then f a else a := by
  induction l generalizing i j with
  | nil => rfl
  | cons a l ih => cases i <;> cases j <;> simp [updAt, ih]

theorem getElem?_map_zip_range {α β : Type} (g : α × Nat → β) (l : List α) (j : Nat) :
    ((l.zip (List.range l.length)).map g)[j]? = l[j]?.map fun a => g (a, j) := by
  rw [List.getElem?_map, List.zip, List.getElem?_zipWith]
  by_cases hj : j < l.length <;> simp [hj]

/-- The commands of a run as it is committed: where it is cut short, its last one counts a clamp. -/
def clampLast (cut : Bool) (cs : List Cmd) : List Cmd :=
  (cs.zip (List.range cs.length)).map fun x => { x.1 with clamped := x.1.clamped || (cut && x.2 + 1 == cs.length) }

theorem map_clampLast {β : Type} {g : Cmd → β} (hg : ∀ x b, g { x with clamped := b } = g x) (cut : Bool) (cs : List Cmd) :
    (clampLast cut cs).map g = cs.map g := by
  refine List.ext_getElem? fun j => ?_
  rw [clampLast, List.map_map, getElem?_map_zip_range, List.getElem?_map]
  simp only [Function.comp_apply, hg]

theorem clampLast_false (cs : List Cmd) : clampLast false cs = cs := by
  refine List.ext_getElem? fun j => ?_
  rw [clampLast, getElem?_map_zip_range]
  simp

theorem updAt_last_eq_clampLast (cs : List Cmd) :
    updAt (fun c => { c with clamped := true }) cs (cs.length - 1) = clampLast true cs := by
  refine List.ext_getElem? fun j => ?_
  rw [clampLast, getElem?_map_zip_range, getElem?_updAt]
  cases hj : cs[j]? with
  | none => rfl
  | some x =>
    have hlt := (List.getElem?_eq_some_iff.1 hj).1
    by_cases hlast : j + 1 = cs.length
    · simp [show j = cs.length - 1 by omega, show cs.length - 1 + 1 = cs.length by omega]
    · simp [show j ≠ cs.length - 1 by omega, beq_eq_false_iff_ne.2 hlast]

/-- The state whose run is committed: cut short, or as it stands. -/
def readied (s : State) (q : Fin 32) (r : Run) : State :=
  if r.ended then s
  else updQ (addClamps s q 1) q fun u =>
    { u with active := updAt (fun c => { c with clamped := true }) u.active (u.active.length - 1) }

theorem updQ_of_same {s : State} {q : Fin 32} {f : Queue → Queue} (h : f s.queues[q] = s.queues[q]) : updQ s q f = s := by
  unfold updQ
  rw [h, Fin.getElem_fin, Vector.set_getElem_self]

theorem readied_eq (s : State) (q : Fin 32) (r : Run) : ∃ n, readied s q r = updQ s q fun u =>
    { u with clamps := n, active := clampLast (!r.ended) s.queues[q].active } := by
  unfold readied
  cases r.ended with
  | true =>
    rw [if_pos rfl]
    exact ⟨s.queues[q].clamps, (updQ_of_same (by rw [Bool.not_true, clampLast_false])).symm⟩
  | false =>
    refine ⟨min (s.queues[q].clamps + 1) 0xFFFFFF, ?_⟩
    simp [updQ, addClamps, updAt_last_eq_clampLast]

theorem exec_commit {q : Fin 32} {s : State} {r : Run} (hrun : s.queues[q].run = some r) (hmark : r.marking = none) (hops : r.ops ≠ [])
    (hend : r.ended = true ∨ runCut s q r = true) (hroom : r.stands = true → EvRoom s 1) (hstate : s.queues[q].state = .running)
    (hin : inService s = true) (hfree : evBlocked s q = false) : exec (.commit q) s = .next (commitRun (readied s q r) q r) := by
  have hstands : (r.stands && !evFree s) = false := by
    cases hs : r.stands with
    | false => rfl
    | true => simp [evFree_of_room (hroom hs)]
  have hempty : r.ops.isEmpty = false := by simpa using hops
  show execCommit q s = _
  unfold execCommit readied
  simp only [hrun, hstate, hin, hmark, hfree, hstands, hempty]
  cases hended : r.ended with
  | true => simp
  | false =>
    have hcut : runCut s q r = true := by simpa [hended] using hend
    simp [hcut]

/-! ### The record of an overflow that stands (R184, R187) -/

/-- From `s` to `t` the record of a standing overflow has been left, where one stands. -/
structure StandsNoted (q : Fin 32) (s t : State) (r : Run) : Prop where
  step : CommitStep s t
  sight : SameSight s t
  queues : t.queues = s.queues
  tokens : t.tokens = s.tokens
  flag : r.stands = true → regBit t offRplstat 1 = true

theorem standsRecord_noted {q : Fin 32} {s : State} (hc : Canonical s) (r : Run) (cs : List Cmd) :
    StandsNoted q s (standsRecord s q r cs) r := by
  have none : r.stands = false → StandsNoted q s s r := fun h =>
    ⟨.refl s, ⟨⟨rfl, rfl, rfl, rfl, rfl, rfl, rfl⟩, rfl, rfl, rfl⟩, rfl, rfl, fun k => by simp [h] at k⟩
  cases hs : r.stands with
  | false =>
    have heq : standsRecord s q r cs = s := by
      unfold standsRecord
      simp only [hs]
      split <;> rfl
    rw [heq]
    exact none hs
  | true =>
    have hany : (r.ops.any fun o => o.ev.marked) = true := by
      rw [Run.stands, Bool.and_eq_true] at hs
      exact hs.2
    obtain ⟨m, hm⟩ := findIdx?_of_any 0 hany
    obtain ⟨j, o, rfl, ho, -⟩ := findIdx?_eq_some hm
    have heq : standsRecord s q r cs = replayEvent (setFlag s offRplstat 1 48) q (opIdx cs (0 + j)) r o true := by
      unfold standsRecord
      simp only [hm, Option.getD_some, Nat.zero_add, ho, hs]
      rfl
    have hflag : Canonical (setFlag s offRplstat 1 48) := (setFlag_keep s _ _ _).1 hc
    have hnote := evPush_aside (setFlag s offRplstat 1 48) q (replayBytes (setFlag s offRplstat 1 48) q (opIdx cs (0 + j)) r o true)
    rw [heq, replayEvent_eq]
    generalize evPush (setFlag s offRplstat 1 48) q _ = t at hnote ⊢
    refine ⟨(CommitStep.setRplstat s 1 48).trans (.of_aside hnote), (SameSight.setRplstat hc 1 48).trans (.of_aside hnote hflag),
      (queues_aside hnote).trans rfl, ?_, fun _ => ?_⟩
    · rw [hnote.form]
      rfl
    · rw [regBit, hnote.regs hflag.2 offRplstat (by decide)]
      exact regBit_setFlag hc offRplstat (by decide) (by decide)

/-! ### The commit (R184, R186, R374) -/

/-- A command as its record tells of it: the rung and the replays of its run (R374). -/
def committed (r : Run) (cs : List Cmd) (x : Cmd) : Cmd :=
  { x with result := layerResult (r.convAt cs x.idx) r.rung r.replays r.stands false r.ceil.isSome }

/-- The last of these commands counts in its token counter. -/
def creditLast (s : State) (cs : List Cmd) : State :=
  match cs.getLast? with
  | some x => credited s x.desc
  | none => s

theorem creditLast_form (s : State) (cs : List Cmd) : ∃ n, creditLast s cs = { s with tokens := n } := by
  unfold creditLast
  split
  · exact credited_form s _
  · exact ⟨s.tokens, rfl⟩

theorem creditLast_tokens (s : State) (cs : List Cmd) (k : Fin 256) : (creditLast s cs).tokens[k] = s.tokens[k] + lastSignal cs k := by
  unfold creditLast lastSignal
  cases cs.getLast? with
  | some x => exact credited_tokens s x.desc k
  | none => exact (BitVec.add_zero _).symm

/-- A commit of which no write is refused. -/
theorem commitRun_eq {q : Fin 32} {s : State} {r : Run} (hc : Canonical s) (hopen : ∀ (k : Nat) (o : OpRec), r.ops[k]? = some o →
      writesRefused s (q.val, (opIdx s.queues[q].active k).toNat) (opCommitWrites r o) = 0) :
    let cs := s.queues[q].active
    ∃ v, Aside (putWrites (standsRecord s q r cs) (r.ops.flatMap (opCommitWrites r))) v ∧
      commitRun s q r = creditLast ((cs.map (committed r cs)).foldl (fun s x => putRec s q x 0)
        (updQ v q fun u => { u with active := [], run := none })) cs := by
  intro cs
  have hfree : ∀ x ∈ commitWrites q r cs, writesRefused s x.1 x.2 = 0 ∧ DataWrites x.2 := fun x hx => by
    obtain ⟨k, o, ho, rfl⟩ := mem_commitWrites hx
    exact ⟨hopen k o ho, opCommitWrites_data r o⟩
  have hnone : findIdx? (fun x => writesRefused s x.1 x.2 != 0) (commitWrites q r cs) 0 = none :=
    findIdx?_eq_none 0 fun x hx => by simp [(hfree x hx).1]
  have haccess := (standsRecord_noted hc r cs (q := q)).step.access hc
  have hwrites : (commitWrites q r cs).foldl (fun s x => applyWrites x.1 s x.2) (standsRecord s q r cs) =
      putWrites (standsRecord s q r cs) (r.ops.flatMap (opCommitWrites r)) := by
    rw [← commitWrites_writes q r cs]
    exact foldl_applyWrites_eq fun x hx => ⟨(haccess.writesRefused_eq _ _).trans (hfree x hx).1, (hfree x hx).2⟩
  unfold commitRun
  simp only [show s.queues[q].active = cs from rfl, hnone, hwrites, List.foldl_map]
  refine ⟨_, ?_, rfl⟩
  clear_value cs
  cases cs with
  | nil => exact .refl _
  | cons x cs => exact traceCores_aside _ _ _ _ _ _ _

/-- From `s` to `t` the run `r` of queue `q` has been committed. -/
structure Committed (q : Fin 32) (s t : State) (r : Run) : Prop where
  queues : t.queues = s.queues.set q { s.queues[q] with
    active := [], run := none, cqCount := s.queues[q].cqCount + s.queues[q].active.length
    oldest := nextOldest s.queues[q].oldest s.queues[q].active }
  step : CommitStep s t
  tokens : ∀ k : Fin 256, t.tokens[k] = s.tokens[k] + lastSignal s.queues[q].active k
  left : RecordsLeft q s t (s.queues[q].active.map (committed r s.queues[q].active)) 0
  bytes : ∀ a, OffRing s q a → rdByte t a = rdByte (putWrites s (r.ops.flatMap (opCommitWrites r))) a
  flag : r.stands = true → regBit t offRplstat 1 = true

theorem Committed.queue {q : Fin 32} {s t : State} {r : Run} (h : Committed q s t r) : t.queues[q] = { s.queues[q] with
    active := [], run := none, cqCount := s.queues[q].cqCount + s.queues[q].active.length
    oldest := nextOldest s.queues[q].oldest s.queues[q].active } := by
  rw [h.queues, Fin.getElem_fin, Vector.getElem_set_self]

theorem Committed.others {q : Fin 32} {s t : State} {r : Run} (h : Committed q s t r) : OthersSame q s t := fun k hk => by
  have hne : q.val ≠ k.val := fun e => hk (Fin.ext e.symm)
  rw [h.queues, Fin.getElem_fin, Vector.getElem_set_ne _ _ hne, Fin.getElem_fin]

theorem commitRun_committed {q : Fin 32} {s : State} {r : Run} (hc : Canonical s) (hr : RingOpen s q)
    (hopen : ∀ (k : Nat) (o : OpRec), r.ops[k]? = some o →
      writesRefused s (q.val, (opIdx s.queues[q].active k).toNat) (opCommitWrites r o) = 0) : Committed q s (commitRun s q r) r := by
  obtain ⟨v, hv, heq⟩ := commitRun_eq hc hopen
  rw [heq]
  have hnoted := standsRecord_noted hc r s.queues[q].active (q := q)
  generalize standsRecord s q r s.queues[q].active = a at hv hnoted
  have hca := hnoted.step.canon hc
  have hput := putWrites_step a (r.ops.flatMap (opCommitWrites r))
  have hqueues : v.queues = s.queues := by rw [queues_aside hv, putWrites_queues, hnoted.queues]
  have htokens : v.tokens = s.tokens := by
    obtain ⟨m, p, t, h, -⟩ := putWrites_form a (r.ops.flatMap (opCommitWrites r))
    rw [hv.form, h, ← hnoted.tokens]
  have hbytes : ∀ x, rdByte v x = rdByte (putWrites s (r.ops.flatMap (opCommitWrites r))) x := fun x =>
    (hv.bytes (hput.canon hca).2 x).trans ((hnoted.sight.putWrites _).rdByte_eq x)
  have hflag : r.stands = true → regBit v offRplstat 1 = true := fun hs => by
    obtain ⟨m, p, t, h, -⟩ := putWrites_form a (r.ops.flatMap (opCommitWrites r))
    rw [regBit, hv.regs (hput.canon hca).2 offRplstat (by decide), h]
    exact hnoted.flag hs
  obtain ⟨d, hd⟩ : ∃ d, d = updQ v q fun u => { u with active := [], run := none } := ⟨_, rfl⟩
  have hstep : CommitStep s d := hd ▸ ((hnoted.step.trans hput).trans (.of_aside hv)).trans (.updQ v q _)
  have hqueue : d.queues[q] = { s.queues[q] with active := [], run := none } := by rw [hd, updQ_queue, hqueues]
  rw [← hd]
  have hrec := putRecs_recorded (s.queues[q].active.map (committed r s.queues[q].active)) (hstep.canon hc)
    (hstep.ringOpen hc hr (by rw [hqueue]))
  generalize (s.queues[q].active.map (committed r s.queues[q].active)).foldl (fun s x => putRec s q x 0) d = e at hrec
  obtain ⟨n, hn⟩ := creditLast_form e s.queues[q].active
  have htoken := creditLast_tokens e s.queues[q].active
  generalize creditLast e s.queues[q].active = t at hn htoken
  have hcredit : CommitStep e t := by rw [hn]; exact ⟨rfl, id, fun _ _ _ _ => rfl⟩
  have hidx : (s.queues[q].active.map (committed r s.queues[q].active)).map Cmd.idx = s.queues[q].active.map Cmd.idx := by
    rw [List.map_map]
    rfl
  refine ⟨?_, (hstep.trans hrec.step).trans hcredit, fun k => ?_, ?_, fun x hx => ?_, fun hs => ?_⟩
  · rw [hn]
    show e.queues = _
    rw [hrec.queues, hqueue, nextOldest_congr hidx, List.length_map, hd, updQ_queues, hqueues, Vector.set_set]
  · rw [htoken, hrec.tokens, hd, updQ_tokens, htokens]
  · have hleft : RecordsLeft q s e _ 0 := hstep.recordsLeft hc (by rw [hqueue]) hrec.left
    rw [hn]
    exact hleft
  · have hoff := (hstep.offRing_iff hc q x).2 hx
    have hread : rdByte t x = rdByte e x := by rw [hn]; rfl
    rw [hread, hrec.kept x (fun j _ => hoff.1 _) hoff.2, hd]
    exact hbytes x
  · have hread : regBit t offRplstat 1 = regBit e offRplstat 1 := by rw [hn]; rfl
    rw [hread, regBit, hrec.flags, hd]
    exact hflag hs

/-- Where memory beyond the ring is as after these writes, they have become visible. -/
theorem writesLeft_of_putWrites {q : Fin 32} {s t : State} {ws : List MemWrite} (hc : Canonical s) (hf : s.fatal = none)
    (h : ∀ a, OffRing s q a → rdByte t a = rdByte (putWrites s ws) a) : WritesLeft q s t ws where
  kept a ha hapart := (h a ha).trans (rdByte_putWrites_out s ws hc.1 hapart)
  bytes a bs hstand hb hoff := by
    refine Eq.trans (List.map_congr_left fun k hk => ?_) (rd_putWrites_standing s hc.1 hf hstand hb)
    exact h _ (hoff k (List.mem_range.1 hk))

/-- The records of a commit name the rung of the run as the obligation writes it out. -/
theorem map_committed_clampLast (r : Run) (cut : Bool) (cs : List Cmd) :
    (clampLast cut cs).map (committed r (clampLast cut cs)) = (cs.zip (List.range cs.length)).map fun x =>
      { committed r cs x.1 with clamped := x.1.clamped || (cut && x.2 + 1 == cs.length) } := by
  have hidx : (clampLast cut cs).map Cmd.idx = cs.map Cmd.idx := map_clampLast (fun _ _ => rfl) _ _
  have hsame : committed r (clampLast cut cs) = committed r cs := funext fun x => by
    simp only [committed, Run.convAt_congr hidx]
  rw [hsame, clampLast, List.map_map]
  rfl

end Sys2Proof.Machine

namespace Sys2Proof.Safety

open Sys2Proof.Machine

/-- Settles O14: the commands are those of the queue, of which the last counts a clamp where the run is cut short, and no write is refused,
so the writes stand in memory before the first record. -/
theorem commitCompletesTheRun : Obligations.CommitCompletesTheRun := by
  intro q s r cs cut done ws hc hring hrun hmark hops hend hroom hopen hstate hin hfree
  obtain ⟨n, hu⟩ := readied_eq s q r
  have hexec := exec_commit hrun hmark hops hend hroom hstate hin hfree
  generalize readied s q r = u at hu hexec
  have hready : CommitStep s u := hu ▸ .updQ s q _
  have hqueue : u.queues[q] = { s.queues[q] with clamps := n, active := clampLast (!r.ended) cs } := by rw [hu, updQ_queue]
  have hactive : u.queues[q].active = clampLast (!r.ended) cs := by rw [hqueue]
  have hidx : (clampLast (!r.ended) cs).map Cmd.idx = cs.map Cmd.idx := map_clampLast (fun _ _ => rfl) _ _
  have hcommit := commitRun_committed (hready.canon hc) (hready.ringOpen hc hring (by rw [hqueue])) (r := r) fun k o ho => by
    rw [(hready.access hc).writesRefused_eq, hactive, opIdx_congr hidx]
    exact hopen k o ho
  generalize commitRun u q r = t at hexec hcommit
  have hstep := hready.trans hcommit.step
  have hsight : SameSight s u := hu ▸ .updQ s q _
  have hbytes : ∀ a, OffRing s q a → rdByte t a = rdByte (putWrites s ws) a := fun a ha =>
    (hcommit.bytes a ((hready.offRing_iff hc q a).2 ha)).trans ((hsight.putWrites ws).rdByte_eq a)
  refine ⟨t, hexec, ?_, fun k hk => ?_, ?_, hbytes, writesLeft_of_putWrites hc hring.1.2.2 hbytes, hcommit.flag, fun k => ?_,
    hstep.regs hc, hstep.finishes⟩
  · have hlen : (clampLast (!r.ended) cs).length = cs.length := by simpa using congrArg List.length hidx
    rw [hcommit.queue, hqueue, hlen, nextOldest_congr hidx]
    rfl
  · rw [hcommit.others k hk, hu]
    exact updQ_other _ _ _ _ hk
  · have hleft := hready.recordsLeft hc (by rw [hqueue]) hcommit.left
    rw [hactive, map_committed_clampLast] at hleft
    exact hleft
  · rw [hcommit.tokens, hactive, lastSignal_congr (map_clampLast (fun _ _ => rfl) _ _), hu]
    rfl

end Sys2Proof.Safety
end

section
/-! The codes of binary32 and binary64 that the vector engine works on (R38, R206): a code is a sign and a magnitude, and numbers are ordered as
their magnitudes are, with their signs. -/
namespace Sys2Proof.Machine

/-- The bits of a code below its sign. -/
def vMag (p : Bool) (x : Nat) : Nat := x % vZero p true

/-- A code as a signed magnitude; both zeros are 0. -/
def vKey (p : Bool) (x : Nat) : Int := if vZero p true ≤ x then -(vMag p x : Int) else x

/-- The exponent of the lowest bit that a format holds (R38). -/
def vLow (p : Bool) : Int := 1 - ((vPar p).bias : Int) - (vPar p).m

/-- The exponent field of a magnitude, and its fraction. -/
def vExp (p : Bool) (m : Nat) : Nat := m / 2 ^ (vPar p).m
def vFrac (p : Bool) (m : Nat) : Nat := m % 2 ^ (vPar p).m

/-- The number of magnitude `m`, in units of the lowest bit. -/
def vUnits (p : Bool) (m : Nat) : Nat :=
  if vExp p m = 0 then m else (2 ^ (vPar p).m + vFrac p m) * 2 ^ (vExp p m - 1)

/-! ### What a code is split into -/

theorem vMag_lt (p : Bool) (x : Nat) : vMag p x < vZero p true := Nat.mod_lt _ (by cases p <;> decide)

/-- The fields of a code, from its magnitude. -/
theorem vSplit_eq (p : Bool) (x : Nat) : vSplit p x =
    if vInf p false < vMag p x then ⟨1, vSign p x, 0, 0⟩
    else if vMag p x = vInf p false then ⟨2, vSign p x, 0, 0⟩
    else if vExp p (vMag p x) = 0 then ⟨0, vSign p x, vMag p x, vLow p⟩
    else ⟨0, vSign p x, 2 ^ (vPar p).m + vFrac p (vMag p x), (vExp p (vMag p x) : Int) - (vPar p).bias - (vPar p).m⟩ := by
  have hlt := vMag_lt p x
  have hex : bits x (vPar p).m (vPar p).w = vExp p (vMag p x) := by
    cases p <;> simp [bits, vExp, vMag, vZero, vPar, b2n, Nat.shiftRight_eq_div_pow] <;> omega
  have hfr : bits x 0 (vPar p).m = vFrac p (vMag p x) := by
    cases p <;> simp [bits, vFrac, vMag, vZero, vPar, b2n]
  have hinf : fmtHasInf (vFmt p) = true := by cases p <;> rfl
  have hne : (vFmt p == Fmt.e4m3) = false := by cases p <;> rfl
  simp only [vSplit, splitFp, hex, hfr, hinf, hne, ← vSign.eq_1, Bool.true_and, Bool.false_and, Bool.false_eq_true, if_false, beq_iff_eq]
  generalize vMag p x = m at hlt ⊢
  have htop : vExp p m = 2 ^ (vPar p).w - 1 ↔ vInf p false ≤ m := by
    cases p <;> simp [vExp, vInf, fpInf, vPar, vZero, b2n] at hlt ⊢ <;> omega
  have hzero : vInf p false ≤ m → (vFrac p m = 0 ↔ m = vInf p false) := by
    cases p <;> simp [vFrac, vInf, fpInf, vPar, vZero, b2n] at hlt ⊢ <;> omega
  have hlow : vExp p m = 0 → vFrac p m = m := fun h => by
    have hparts := Nat.div_add_mod m (2 ^ (vPar p).m)
    unfold vExp at h
    rwa [h, Nat.mul_zero, Nat.zero_add] at hparts
  rcases lt_trichotomy m (vInf p false) with h | h | h
  · rw [if_neg (fun e => h.not_ge (htop.1 e)), if_neg h.not_gt, if_neg h.ne]
    split
    next h0 => rw [hlow h0, vLow]
    next => rfl
  · rw [if_pos (htop.2 h.ge), if_pos ((hzero h.ge).2 h), if_neg h.not_gt, if_pos h]
  · rw [if_pos (htop.2 h.le), if_neg (fun e => h.ne' ((hzero h.le).1 e)), if_pos h]

theorem vSplit_sg (p : Bool) (x : Nat) : (vSplit p x).sg = vSign p x := by
  rw [vSplit_eq]
  split_ifs <;> rfl

theorem vIsNan_iff {p : Bool} {x : Nat} : vIsNan p x = true ↔ vInf p false < vMag p x := by
  rw [vIsNan, vSplit_eq]
  split_ifs with h <;> simp [h]

theorem vSplit_cl_inf {p : Bool} {x : Nat} : (vSplit p x).cl = 2 ↔ vMag p x = vInf p false := by
  rw [vSplit_eq]
  split_ifs with h <;> simp <;> omega

theorem vSplit_isInf (p : Bool) (x : Nat) : ((vSplit p x).cl == 2) = decide (vMag p x = vInf p false) := by
  rw [Bool.eq_iff_iff, beq_iff_eq, vSplit_cl_inf, decide_eq_true_iff]

theorem vSplit_cl_fin {p : Bool} {x : Nat} : (vSplit p x).cl = 0 ↔ vMag p x < vInf p false := by
  rw [vSplit_eq]
  split_ifs with h <;> simp <;> omega

/-- A finite code: its exponent is no less than that of the lowest bit, and its significand makes its units. -/
theorem vSplit_units {p : Bool} {x : Nat} (h : vMag p x < vInf p false) :
    vLow p ≤ (vSplit p x).e ∧ (vSplit p x).sig * 2 ^ ((vSplit p x).e - vLow p).toNat = vUnits p (vMag p x) := by
  rw [vSplit_eq, if_neg (by omega), if_neg (by omega), vUnits]
  split
  · simp
  next hexp =>
    have hshift : ((vExp p (vMag p x) : Int) - (vPar p).bias - (vPar p).m - vLow p) = ((vExp p (vMag p x) - 1 : Nat) : Int) := by
      unfold vLow
      omega
    refine ⟨by simp only; omega, ?_⟩
    simp only [hshift, Int.toNat_natCast]

theorem vSplit_sig_zero {p : Bool} {x : Nat} (h : vMag p x < vInf p false) : (vSplit p x).sig = 0 ↔ vMag p x = 0 := by
  rw [vSplit_eq, if_neg (by omega), if_neg (by omega)]
  split
  · rfl
  next hexp =>
    have hpos := Nat.two_pow_pos (vPar p).m
    refine ⟨fun e => by simp only at e; omega, fun e => ?_⟩
    simp [e, vExp] at hexp

/-! ### The order of numbers (R197) -/

/-- The units of a magnitude, from its exponent and its fraction. -/
theorem vUnits_eq (p : Bool) (e : Nat) {f : Nat} (hf : f < 2 ^ (vPar p).m) :
    vUnits p (2 ^ (vPar p).m * e + f) = if e = 0 then f else (2 ^ (vPar p).m + f) * 2 ^ (e - 1) := by
  have hexp : vExp p (2 ^ (vPar p).m * e + f) = e := by
    rw [vExp, Nat.mul_add_div (Nat.two_pow_pos _), Nat.div_eq_of_lt hf, Nat.add_zero]
  have hfrac : vFrac p (2 ^ (vPar p).m * e + f) = f := by
    rw [vFrac, Nat.mul_add_mod, Nat.mod_eq_of_lt hf]
  rw [vUnits, hexp, hfrac]
  split
  next h => rw [h, Nat.mul_zero, Nat.zero_add]
  next => rfl

/-- A greater magnitude is a greater number. -/
theorem vUnits_strictMono (p : Bool) : StrictMono (vUnits p) := by
  refine strictMono_nat_of_lt_succ fun m => ?_
  obtain ⟨e, f, hf, rfl⟩ : ∃ e f, f < 2 ^ (vPar p).m ∧ m = 2 ^ (vPar p).m * e + f :=
    ⟨m / 2 ^ (vPar p).m, m % 2 ^ (vPar p).m, Nat.mod_lt m (Nat.two_pow_pos _), (Nat.div_add_mod m _).symm⟩
  rw [vUnits_eq p e hf]
  have hstep : f + 1 ≤ 2 ^ (vPar p).m := hf
  rcases hstep.lt_or_eq with hnext | hnext
  · rw [Nat.add_assoc, vUnits_eq p e hnext]
    split
    · exact Nat.lt_succ_self f
    · exact Nat.mul_lt_mul_of_pos_right (by omega) (Nat.two_pow_pos _)
  · have hfirst := vUnits_eq p (e + 1) (Nat.two_pow_pos _)
    rw [if_neg e.succ_ne_zero, Nat.add_zero, Nat.add_zero, Nat.add_sub_cancel] at hfirst
    rw [Nat.add_assoc, hnext, ← Nat.mul_succ, Nat.succ_eq_add_one, hfirst]
    cases e with
    | zero => simpa using hf
    | succ e =>
      rw [if_neg e.succ_ne_zero, Nat.add_sub_cancel, pow_succ, mul_comm (2 ^ e) 2, ← mul_assoc]
      exact Nat.mul_lt_mul_of_pos_right (by omega) (Nat.two_pow_pos _)

/-- The sign of a difference of dyadics, on any exponent below both. -/
theorem dyAdd_neg_iff (a b : Int) {ea eb low : Int} (ha : low ≤ ea) (hb : low ≤ eb) :
    (dyAdd a ea (-b) eb).1 < 0 ↔ a * 2 ^ (ea - low).toNat < b * 2 ^ (eb - low).toNat := by
  unfold dyAdd
  split
  next h =>
    have hsum : (eb - low).toNat = (eb - ea).toNat + (ea - low).toNat := by omega
    have hpos : (0 : Int) < 2 ^ (ea - low).toNat := by positivity
    rw [hsum, pow_add, ← mul_assoc, mul_lt_mul_iff_left₀ hpos]
    push_cast
    constructor <;> intro h <;> linarith
  next h =>
    have hsum : (ea - low).toNat = (ea - eb).toNat + (eb - low).toNat := by omega
    have hpos : (0 : Int) < 2 ^ (eb - low).toNat := by positivity
    rw [hsum, pow_add, ← mul_assoc, mul_lt_mul_iff_left₀ hpos]
    push_cast
    constructor <;> intro h <;> linarith

/-- A code as a signed number of units. -/
def vSigned (p : Bool) (x : Nat) : Int := if vSign p x then -(vUnits p (vMag p x) : Int) else vUnits p (vMag p x)

theorem vSign_iff {p : Bool} {x : Nat} (hx : x < 2 * vZero p true) : vSign p x = true ↔ vZero p true ≤ x := by
  cases p <;> simp [vSign, bitAt, bits, vPar, vZero, b2n, Nat.shiftRight_eq_div_pow] at hx ⊢ <;> omega

theorem vMag_of_lt {p : Bool} {x : Nat} (hx : x < vZero p true) : vMag p x = x := Nat.mod_eq_of_lt hx

theorem vKey_eq {p : Bool} {x : Nat} (hx : x < 2 * vZero p true) : vKey p x = if vSign p x then -(vMag p x : Int) else vMag p x := by
  simp only [vKey, vSign_iff hx]
  split
  · rfl
  next h => rw [vMag_of_lt (by omega)]

/-- Numbers are ordered as their keys are. -/
theorem vSigned_lt_iff {p : Bool} {a b : Nat} (ha : a < 2 * vZero p true) (hb : b < 2 * vZero p true) :
    vSigned p a < vSigned p b ↔ vKey p a < vKey p b := by
  have hzero : vUnits p 0 = 0 := by simp [vUnits, vExp]
  have hab := (vUnits_strictMono p).lt_iff_lt (a := vMag p a) (b := vMag p b)
  have hba := (vUnits_strictMono p).lt_iff_lt (a := vMag p b) (b := vMag p a)
  have ha0 := (vUnits_strictMono p).lt_iff_lt (a := 0) (b := vMag p a)
  have hb0 := (vUnits_strictMono p).lt_iff_lt (a := 0) (b := vMag p b)
  rw [hzero] at ha0 hb0
  rw [vKey_eq ha, vKey_eq hb, vSigned, vSigned]
  split <;> split <;> omega

theorem vSplit_dyI {p : Bool} {x : Nat} (h : vMag p x < vInf p false) :
    (vSplit p x).dyI * 2 ^ ((vSplit p x).e - vLow p).toNat = vSigned p x := by
  obtain ⟨-, hunits⟩ := vSplit_units h
  rw [Split.dyI, vSigned, ← hunits, vSplit_sg]
  split <;> push_cast <;> ring

/-- Two codes that are no NaN are ordered as their keys are (R197). -/
theorem vLt_iff {p : Bool} {a b : Nat} (ha : a < 2 * vZero p true) (hb : b < 2 * vZero p true) (hna : vIsNan p a = false)
    (hnb : vIsNan p b = false) : vLt p a b = true ↔ vKey p a < vKey p b := by
  have hma : vMag p a ≤ vInf p false := by
    by_contra h
    simp [vIsNan_iff.2 (not_le.1 h)] at hna
  have hmb : vMag p b ≤ vInf p false := by
    by_contra h
    simp [vIsNan_iff.2 (not_le.1 h)] at hnb
  unfold vLt
  simp only [vSplit_isInf, vSplit_sg, decide_eq_true_iff]
  have hpos : 0 < vInf p false := by cases p <;> decide
  split
  next hia =>
    rw [vKey_eq ha, vKey_eq hb]
    cases hsa : vSign p a <;> cases hsb : vSign p b <;> simp [hia] <;> omega
  split
  next hia hib =>
    rw [vKey_eq ha, vKey_eq hb]
    cases hsa : vSign p a <;> cases hsb : vSign p b <;> simp [hib] <;> omega
  next hia hib =>
    have hfa := lt_of_le_of_ne hma hia
    have hfb := lt_of_le_of_ne hmb hib
    rw [decide_eq_true_iff, dyAdd_neg_iff _ _ (vSplit_units hfa).1 (vSplit_units hfb).1, vSplit_dyI hfa, vSplit_dyI hfb, vSigned_lt_iff ha hb]

/-! ### Operations on bits (R208) -/

/-- The other sign. -/
theorem vNeg_eq {p : Bool} {x : Nat} (hx : x < 2 * vZero p true) : vNeg p x = (x + vZero p true) % (2 * vZero p true) := by
  have hpow : vZero p true = 2 ^ ((vPar p).w + (vPar p).m) := by simp [vZero, b2n]
  unfold vNeg
  rw [hpow] at hx ⊢
  generalize (vPar p).w + (vPar p).m = k at hx ⊢
  have hpos := Nat.two_pow_pos k
  have hdiv : (x ^^^ 2 ^ k) / 2 ^ k = x / 2 ^ k ^^^ 1 := by rw [Nat.xor_div_two_pow, Nat.div_self hpos]
  have hmod : (x ^^^ 2 ^ k) % 2 ^ k = x % 2 ^ k := by rw [Nat.xor_mod_two_pow, Nat.mod_self, Nat.xor_zero]
  have hparts := Nat.div_add_mod (x ^^^ 2 ^ k) (2 ^ k)
  have hold := Nat.div_add_mod x (2 ^ k)
  rw [hdiv, hmod] at hparts
  rcases Nat.lt_or_ge x (2 ^ k) with h | h
  · rw [Nat.div_eq_of_lt h] at hparts hold
    rw [Nat.mod_eq_of_lt (by omega)]
    simp at hparts
    omega
  · have hone : x / 2 ^ k = 1 := Nat.div_eq_of_lt_le (by omega) (by omega)
    rw [hone] at hparts hold
    rw [Nat.mod_eq_sub_mod (by omega), Nat.mod_eq_of_lt (by omega)]
    simp at hparts
    omega

/-- The sign of a code, in its place. -/
theorem vZero_vSign {p : Bool} {x : Nat} (hx : x < 2 * vZero p true) : vZero p (vSign p x) = x / vZero p true * vZero p true := by
  have hpos : 0 < vZero p true := by cases p <;> decide
  have hnone : vZero p false = 0 := by simp [vZero, b2n]
  cases h : vSign p x
  · have hlt : x < vZero p true := by
      by_contra hge
      simp [(vSign_iff hx).2 (not_lt.1 hge)] at h
    rw [hnone, Nat.div_eq_of_lt hlt, Nat.zero_mul]
  · have hge := (vSign_iff hx).1 h
    rw [Nat.div_eq_of_lt_le (k := 1) (by omega) (by omega), Nat.one_mul]

theorem isZeroCode_iff {p : Bool} {x : Nat} : isZeroCode p x = true ↔ vMag p x = 0 := by
  have hpos : 0 < vInf p false := by cases p <;> decide
  simp only [isZeroCode, Bool.and_eq_true, beq_iff_eq, vSplit_cl_fin]
  constructor
  · rintro ⟨hfin, hsig⟩
    exact (vSplit_sig_zero hfin).1 hsig
  · intro h
    have hfin : vMag p x < vInf p false := by omega
    exact ⟨hfin, (vSplit_sig_zero hfin).2 h⟩

end Sys2Proof.Machine
end

section
/-! One Twine instruction issued on a core (R205 to R209; log entry 26): what the checks leave of its fields, what it does to the context, and
that nothing but the context of its core changes. -/
namespace Sys2Proof.Machine

open Sys2Proof.Safety

/-- Opcodes that compute on V, S and K registers (R208). -/
def computes (op : Nat) : Prop := (1 ≤ op ∧ op ≤ 0x1A) ∨ op = 0x1C ∨ op = 0x1D

/-- The row of an assigned opcode issues it. -/
theorem exec_twineRow {op : Nat} (h : op ≤ 0x1D ∨ 0x20 ≤ op ∧ op ≤ 0x23) (c : Fin 16) (o : TwineOps) (s : State) :
    exec (twineRow op c o) s = .next (issue op c o s) := by
  rcases h with h | ⟨h, h'⟩ <;> interval_cases op <;> rfl

/-! ### The checks of R209 -/

/-- The instruction word as its fields stand. -/
def wordInsn (o : TwineOps) (op : Nat) : Insn := ⟨op, o.p, o.d.toNat, o.a.toNat, o.b.toNat, o.c.toNat, o.rm.toNat⟩

/-- An instruction that the checks do not replace: its fields, of which a rounding mode may be replaced, and the precision of an LD or ST. -/
structure Issues (o : TwineOps) (op : Nat) (t : Twine) (p : Bool) (rm : Nat) : Prop where
  insn : issuedInsn o op t = { wordInsn o op with p := p, rm := rm }
  precision : op ≠ 0x20 → op ≠ 0x21 → p = o.p
  dest : (wordInsn o op).badDest = false
  member : (wordInsn o op).badMember t.shard = false
  red : op = 0x22 → o.d.toNat ≤ 1 ∧ o.c.toNat ≤ 3

theorem Cl.bind_fst {α β : Type} (x : Cl α) (f : α → Cl β) : (Cl.bind x f).1 = (f x.1).1 := rfl

/-- A rounding mode that R206 does not define is replaced. -/
theorem clampIf_rm (i : Insn) : (clampIf (decide (5 ≤ i.rm)) { i with rm := 0 } i).1 = { i with rm := if 5 ≤ i.rm then 0 else i.rm } := by
  simp only [clampIf, decide_eq_true_iff]
  split <;> rfl

/-- The precision of an LD or ST that has to be binary64 (R217). -/
theorem clampIf_p (b : Bool) (i : Insn) : (clampIf b { i with p := true } i).1 = { i with p := b || i.p } := by
  cases b <;> rfl

/-- The checks replace an instruction by NOP, or let it go on. -/
theorem issuedInsn_cases (o : TwineOps) (op : Nat) (t : Twine) : issuedInsn o op t = Insn.nop ∨ ∃ p rm, Issues o op t p rm := by
  have hkinds : ∀ k, ([none, none] : List (Option Nat)).getD k none = none := fun k => by
    match k with
    | 0 | 1 | _ + 2 => rfl
  have hissued : issuedInsn o op t = (checkInsn t.shard 0 [none, none] (wordInsn o op)).1.1 := rfl
  unfold checkInsn at hissued
  simp only [hkinds, Bool.or_false] at hissued
  split at hissued
  · exact .inl hissued
  next hkept =>
    simp only [Bool.or_eq_true, not_or, Bool.not_eq_true, Bool.and_eq_false_iff, Bool.or_eq_false_iff, decide_eq_false_iff_not,
      not_lt] at hkept
    obtain ⟨⟨⟨⟨-, hdest⟩, hmember⟩, hred⟩, -⟩ := hkept
    rw [Cl.bind_fst, clampIf_rm, Cl.bind_fst, clampIf_p] at hissued
    refine .inr ⟨_, _, hissued, fun h20 h21 => ?_, hdest, hmember, fun h22 => hred.resolve_left (by simp [wordInsn, h22])⟩
    simp [wordInsn, h20, h21]

/-- An instruction that still has its opcode was not replaced. -/
theorem issues_of_op {o : TwineOps} {op : Nat} {t : Twine} (h0 : op ≠ 0) (h : (issuedInsn o op t).op = op) : ∃ p rm, Issues o op t p rm :=
  (issuedInsn_cases o op t).resolve_left fun e => h0 (by rw [← h, e]; rfl)

/-- BINV is never replaced where it stands first, and NOP has nothing to replace (R209, R222). -/
theorem issuedInsn_op_binv (o : TwineOps) (t : Twine) : (issuedInsn o 0x23 t).op = 0x23 ∨ (issuedInsn o 0x23 t).op = 0 := by
  rcases issuedInsn_cases o 0x23 t with h | ⟨p, rm, h⟩
  · exact .inr (by rw [h]; rfl)
  · exact .inl (by rw [h.insn]; rfl)

/-- A destination register that is no K operand, and no S register where a V register is a source (R209). -/
theorem Issues.dest_lt {o : TwineOps} {op : Nat} {t : Twine} {p : Bool} {rm : Nat} (h : Issues o op t p rm) (hop : opHasDest op = true) :
    o.d.toNat < 0x18 ∧ (0x10 ≤ o.d.toNat → op ≠ 0x20 ∧ op ≠ 0x1B ∧ ((wordInsn o op).sources.any fun x => decide (x < 0x10)) = false) := by
  have hdest := h.dest
  simp only [Insn.badDest, wordInsn, hop, Bool.true_and, Bool.or_eq_false_iff, Bool.and_eq_false_iff, beq_eq_false_iff_ne] at hdest
  obtain ⟨hlt, hscalar⟩ := hdest
  refine ⟨not_le.1 (of_decide_eq_false hlt), fun h10 => ?_⟩
  obtain ⟨⟨h20, h1B⟩, hany⟩ := hscalar.resolve_left fun h => of_decide_eq_false h h10
  exact ⟨h20, h1B, hany⟩

/-! ### What an instruction does to its core -/

/-- A core issues an instruction: what its checks leave, and the context that it comes to. -/
theorem issue_of_exec {op : Nat} {c : Fin 16} {o : TwineOps} {s : State} {t y : Twine} {k : Chk} (ht : t = issueContext o s.cores[c].twine)
    (h : TX.exec t.who (issuedInsn o op t) ⟨Chk.init s o.env, t⟩ = ⟨k, y⟩) : issue op c o s = twineSet k.s c y := by
  subst ht
  simp only [issue, h]
  rfl

/-- A computing instruction. -/
theorem TX.exec_compute (w : Who) {i : Insn} {x : TX} (hstop : x.c.stop = none) (hi : computes i.op) :
    TX.exec w i x = { x with t := x.t.compute i } := by
  unfold computes at hi
  unfold TX.exec
  rw [if_neg (by simp [hstop])]
  split
  case h_7 => rfl
  all_goals omega

/-! ### Results in registers (R199, R207) -/

theorem getD_updAt_ne {α : Type} (f : α → α) (l : List α) {i j : Nat} (h : j ≠ i) (d : α) : (updAt f l i).getD j d = l.getD j d := by
  simp [List.getD, getElem?_updAt, h]

theorem getD_updAt_self {α : Type} (a : α) {l : List α} {i : Nat} (h : i < l.length) (d : α) : (updAt (fun _ => a) l i).getD i d = a := by
  simp [List.getD, getElem?_updAt, h]

/-- The flags of an operation that goes over these lanes. -/
def laneFlags (lanes : List Nat) (g : Nat → Nat × VFlags) : VFlags := lanes.foldl (fun f l => f.or (g l).2) VFlags.none

/-- The flags of the one lane of a scalar operation. -/
theorem laneFlags_zero (g : Nat → Nat × VFlags) : laneFlags [0] g = (g 0).2 := rfl

theorem Twine.flag_eq (t : Twine) (f : VFlags) : t.flag f = { t with flags := if t.pass2 then t.flags ||| f.toNat else t.flags } := by
  unfold Twine.flag
  split <;> rfl

/-- The context `x` is `t` with the results `g` of the instruction `i`, one for all lanes or one for each: in its register, and in the
flags of pass 2. -/
structure Results (t : Twine) (i : Insn) (once : Bool) (g : Nat → Nat × VFlags) (x : Twine) : Prop where
  form : x = { t with v := x.v, sreg := x.sreg, flags := x.flags }
  lane : i.d < t.v.length → ∀ lane < t.lanes, i.d < 0x10 → laneOf x.v i.d lane = (g (if once then 0 else lane)).1 % 2 ^ 64
  scalar : once = true → 0x10 ≤ i.d → i.d - 0x10 < t.sreg.length →
    (x.sreg.getD (i.d - 0x10) 0).toNat = (if i.p then (g 0).1 else widenExact (g 0).1) % 2 ^ 64
  vectors : ∀ r, r ≠ i.d → x.v.getD r [] = t.v.getD r []
  scalars : ∀ r, r + 0x10 ≠ i.d → x.sreg.getD r 0 = t.sreg.getD r 0
  keepsScalars : once = false → x.sreg = t.sreg
  flags : x.flags = if t.pass2 then t.flags ||| (laneFlags (if once then [0] else List.range t.lanes) g).toNat else t.flags

theorem laneOf_setV {t : Twine} {d : Nat} (hd : d < t.v.length) (xs : List Nat) {lane : Nat} (hlane : lane < xs.length) :
    laneOf (t.setV d xs).v d lane = xs.getD lane 0 % 2 ^ 64 := by
  rw [laneOf, Twine.setV, getD_updAt_self _ hd]
  simp [hlane, List.getD]

theorem Twine.result_results (t : Twine) (i : Insn) (once : Bool) (g : Nat → Nat × VFlags) : Results t i once g (t.result i once g) := by
  cases once with
  | false =>
    have heq : t.result i false g = (t.flag (laneFlags (List.range t.lanes) g)).setV i.d ((List.range t.lanes).map fun l => (g l).1) := by
      simp [Twine.result, laneFlags, List.foldl_map, Function.comp_def]
    rw [heq, Twine.flag_eq]
    refine ⟨rfl, fun hd lane hlane _ => ?_, fun h => (Bool.false_ne_true h).elim, fun r hr => ?_, fun r _ => rfl, fun _ => rfl, rfl⟩
    · refine (laneOf_setV hd _ (by simpa using hlane)).trans ?_
      simp [List.getD, hlane]
    · exact getD_updAt_ne _ _ hr _
  | true =>
    simp only [Twine.result, if_true, Twine.flag_eq]
    split
    next hd =>
      refine ⟨rfl, fun _ _ _ h => by omega, fun _ _ hs => ?_, fun _ _ => rfl, fun r hr => ?_, fun h => (Bool.false_ne_true h.symm).elim, rfl⟩
      · rw [getD_updAt_self _ hs, BitVec.toNat_ofNat]
      · exact getD_updAt_ne _ _ (by omega) _
    next hd =>
      refine ⟨rfl, fun hv lane hlane _ => ?_, fun _ h => absurd h hd, fun r hr => ?_, fun r _ => rfl, fun _ => rfl, rfl⟩
      · refine (laneOf_setV hv _ (by simpa using hlane)).trans ?_
        simp [List.getD, hlane]
      · exact getD_updAt_ne _ _ hr _

end Sys2Proof.Machine
end

section
/-! Computing Twine instructions (O43): each opcode has the operation that R208 names, on codes where it works on codes (R197, R198). -/
namespace Sys2Proof.Machine

open Sys2Proof.Safety

/-- What an instruction computes from the operands that its sources read. -/
def Insn.value (i : Insn) (f : Nat → Nat) : Nat × VFlags := opResult i (i.sources.map f)

/-- The operation of each opcode (R208). -/
theorem value_table (p : Bool) (d a b c rm : Nat) (f : Nat → Nat) :
    let y := fun op => Insn.value ⟨op, p, d, a, b, c, rm⟩ f
    let m := rmOf rm
    y 0x01 = vAdd p m (f a) (f b) ∧ y 0x02 = vSub p m (f a) (f b) ∧ y 0x03 = vMul p m (f a) (f b) ∧ y 0x04 = vDiv p m (f a) (f b) ∧
    y 0x05 = vFma p m false false (f a) (f b) (f c) ∧ y 0x06 = vFma p m false true (f a) (f b) (f c) ∧
    y 0x07 = vFma p m true false (f a) (f b) (f c) ∧ y 0x08 = vSqrt p m (f a) ∧ y 0x09 = vRsqrt p m (f a) ∧
    y 0x0A = vMin p (f a) (f b) ∧ y 0x0B = vMax p (f a) (f b) ∧ y 0x0F = vClip p (f a) (f b) (f c) ∧
    y 0x15 = (if p then vCvtWiden (f a) else vCvtNarrow m (f a)) ∧ y 0x16 = vRint p m (f a) ∧ y 0x17 = vExp2 p m (f a) ∧
    y 0x18 = vLog2 p m (f a) ∧ y 0x19 = vPown p m (f a) (f b) ∧ y 0x1A = vScalb p m (f a) (f b) ∧ y 0x1C = (f a, VFlags.none) :=
  ⟨rfl, rfl, rfl, rfl, rfl, rfl, rfl, rfl, rfl, rfl, rfl, rfl, rfl, rfl, rfl, rfl, rfl, rfl, rfl⟩

/-- The result of a quiet comparison: 1.0 or +0.0 (R197). -/
theorem vCompare_fst (p : Bool) (rel : Bool → Bool → Bool) (unord : Bool) (a b : Nat) : (vCompare p rel unord a b).1 =
    if (if vIsNan p a || vIsNan p b then unord else rel (vLt p a b) (vLt p b a)) then vOne p else 0 := by
  simp only [vCompare]
  split <;> split <;> simp [vZero, b2n]

/-- A comparison that is false of NaN says `R` of the keys of numbers. -/
theorem compare_ordered {p : Bool} {a b : Nat} (ha : a < 2 * vZero p true) (hb : b < 2 * vZero p true) (rel : Bool → Bool → Bool)
    {R : Int → Int → Prop} [DecidableRel R]
    (hrel : ∀ {lt gt}, (lt = true ↔ vKey p a < vKey p b) → (gt = true ↔ vKey p b < vKey p a) → (rel lt gt = true ↔ R (vKey p a) (vKey p b))) :
    (vCompare p rel false a b).1 =
      if ¬(vInf p false < vMag p a) ∧ ¬(vInf p false < vMag p b) ∧ R (vKey p a) (vKey p b) then vOne p else 0 := by
  rw [vCompare_fst]
  simp only [← vIsNan_iff]
  cases hna : vIsNan p a with
  | true => rfl
  | false =>
    cases hnb : vIsNan p b with
    | true => rfl
    | false => simp [hrel (vLt_iff ha hb hna hnb) (vLt_iff hb ha hnb hna)]

/-- The opcodes that work on the bits of codes, and the comparisons (R197, R198, R208). -/
theorem value_codes (p : Bool) (d ra rb rc rm : Nat) (f : Nat → Nat) :
    let y := fun op => Insn.value ⟨op, p, d, ra, rb, rc, rm⟩ f
    let z := vZero p true
    let nan := fun x => vInf p false < vMag p x
    f ra < 2 * z → f rb < 2 * z → f rc < 2 * z →
    y 0x0C = (f ra % z, VFlags.none) ∧ y 0x0D = ((f ra + z) % (2 * z), VFlags.none) ∧
    y 0x0E = (f ra % z + f rb / z * z, VFlags.none) ∧ y 0x14 = (if f rc % z = 0 then f rb else f ra, VFlags.none) ∧
    y 0x1D = (if f ra % z < vInf p false then 0 else vOne p, VFlags.none) ∧
    (y 0x10).1 = (if ¬nan (f ra) ∧ ¬nan (f rb) ∧ vKey p (f ra) < vKey p (f rb) then vOne p else 0) ∧
    (y 0x11).1 = (if ¬nan (f ra) ∧ ¬nan (f rb) ∧ vKey p (f ra) ≤ vKey p (f rb) then vOne p else 0) ∧
    (y 0x12).1 = (if ¬nan (f ra) ∧ ¬nan (f rb) ∧ vKey p (f ra) = vKey p (f rb) then vOne p else 0) ∧
    (y 0x13).1 = (if nan (f ra) ∨ nan (f rb) then vOne p else 0) := by
  intro y z nan ha hb hc
  have hnan : ∀ x, nan x ↔ vIsNan p x = true := fun x => vIsNan_iff.symm
  have hplus : vZero p false = 0 := by simp [vZero, b2n]
  refine ⟨rfl, congrArg (·, VFlags.none) (vNeg_eq ha), ?_, ?_, ?_, ?_, ?_, ?_, ?_⟩
  · exact congrArg (fun n => (f ra % z + n, VFlags.none)) (vZero_vSign hb)
  · change (if isZeroCode p (f rc) = true then _ else _, _) = _
    simp only [isZeroCode_iff]
    rfl
  · change (if ((vSplit p (f ra)).cl == 0) = true then vZero p false else vOne p, _) = _
    simp only [beq_iff_eq, vSplit_cl_fin, hplus]
    rfl
  · change (vCompare p (fun lt _ => lt) false (f ra) (f rb)).1 = _
    rw [compare_ordered ha hb _ (R := fun x y => x < y) fun hlt _ => hlt]
  · change (vCompare p (fun _ gt => !gt) false (f ra) (f rb)).1 = _
    rw [compare_ordered ha hb _ (R := fun x y => x ≤ y) fun _ hgt => by rw [← not_lt, ← hgt]; simp]
  · change (vCompare p (fun lt gt => !lt && !gt) false (f ra) (f rb)).1 = _
    rw [compare_ordered ha hb _ (R := fun x y => x = y) fun hlt hgt => by
      rw [Bool.and_eq_true, Bool.not_eq_true', Bool.not_eq_true', ← Bool.not_eq_true, ← Bool.not_eq_true, hlt, hgt]; omega]
  · change (vCompare p (fun _ _ => false) true (f ra) (f rb)).1 = _
    rw [vCompare_fst]
    simp only [hnan]
    cases vIsNan p (f ra) <;> cases vIsNan p (f rb) <;> rfl

/-! ### What a computing instruction leaves -/

/-- An instruction with a V register among its sources (R207). -/
def Insn.onVectors (i : Insn) : Bool := i.sources.any fun x => decide (x < 0x10)

/-- What an instruction computes at a lane; CVT reads the other precision (R208). -/
def Twine.laneValue (t : Twine) (i : Insn) (lane : Nat) : Nat × VFlags :=
  i.value fun x => t.operand (if i.op = 0x15 then !i.p else i.p) x lane

theorem Twine.compute_results (t : Twine) (i : Insn) : Results t i (!i.onVectors) (t.laneValue i) (t.compute i) := by
  have hprec : (if i.op == 0x15 then !i.p else i.p) = if i.op = 0x15 then !i.p else i.p := by simp only [beq_iff_eq]
  have honce : (i.sources.all fun x => decide (0x10 ≤ x)) = !i.onVectors := by
    simp only [Insn.onVectors, List.not_any_eq_all_not, ← decide_not, not_lt]
  rw [Twine.compute, Twine.arith, hprec, honce]
  exact t.result_results i _ (t.laneValue i)

/-- A computing instruction that the checks let go on. -/
theorem exec_computes {op : Nat} (hop : computes op) {c : Fin 16} {o : TwineOps} {s : State} {t : Twine}
    (ht : t = issueContext o s.cores[c].twine) (hkept : (issuedInsn o op t).op = op) :
    exec (twineRow op c o) s = .next (twineSet s c (t.compute (issuedInsn o op t))) := by
  have hrow : op ≤ 0x1D ∨ 0x20 ≤ op ∧ op ≤ 0x23 := by
    unfold computes at hop
    omega
  exact (exec_twineRow hrow c o s).trans (congrArg Host.Outcome.next (issue_of_exec ht (TX.exec_compute t.who rfl (hkept.symm ▸ hop))))

/-- The fields of a computing instruction that the checks let go on: of its own only the rounding mode may be replaced. -/
theorem issuedInsn_computes {op : Nat} (hop : computes op) {o : TwineOps} {t : Twine} (hkept : (issuedInsn o op t).op = op) :
    ∃ rm, issuedInsn o op t = ⟨op, o.p, o.d.toNat, o.a.toNat, o.b.toNat, o.c.toNat, rm⟩ ∧ o.d.toNat < 0x18 ∧
      (0x10 ≤ o.d.toNat → (issuedInsn o op t).onVectors = false) := by
  unfold computes at hop
  obtain ⟨p, rm, h⟩ := issues_of_op (by omega) hkept
  have hp := h.precision (by omega) (by omega)
  have hdest : opHasDest op = true := by
    rcases hop with ⟨h1, h2⟩ | rfl | rfl
    · interval_cases op <;> rfl
    · rfl
    · rfl
  obtain ⟨hlt, hscalar⟩ := h.dest_lt hdest
  refine ⟨rm, by rw [h.insn, hp]; rfl, hlt, fun h10 => ?_⟩
  rw [h.insn]
  exact (hscalar h10).2.2

end Sys2Proof.Machine

namespace Sys2Proof.Safety

open Sys2Proof.Machine

/-- Settles O43: the context takes the results of the instruction (`Twine.compute_results`), and these are the operations of R208
(`value_table`, `value_codes`). -/
theorem twineComputesLaneByLane : Obligations.TwineComputesLaneByLane := by
  intro op c o s t i val vector lanes z one inf nan key rm hcomp hkept hv hs
  obtain ⟨r, hi, hd, hscalar⟩ : ∃ r, i = ⟨op, o.p, o.d.toNat, o.a.toNat, o.b.toNat, o.c.toNat, r⟩ ∧ o.d.toNat < 0x18 ∧
    (0x10 ≤ o.d.toNat → i.onVectors = false) := issuedInsn_computes hcomp hkept
  have hexec : exec (twineRow op c o) s = .next (twineSet s c (t.compute i)) := exec_computes hcomp rfl hkept
  have hres := t.compute_results i
  have hz : z = vZero o.p true := by cases hp : o.p <;> simp only [z, hp] <;> rfl
  have hone : one = vOne o.p := by cases hp : o.p <;> simp only [one, hp] <;> rfl
  have hinf : inf = vInf o.p false := by cases hp : o.p <;> simp only [inf, hp] <;> rfl
  clear_value z one inf i t
  subst hz hone hinf hi
  have hval : val = t.laneValue _ := rfl
  refine ⟨_, hexec, hres.form, rfl, hd, fun lane => ?_, fun h lane hlane => ?_, fun h => ?_, hres.vectors, hres.scalars, ?_⟩
  · intro a b c y
    have hy : ∀ k, op = k → y = Insn.value ⟨k, o.p, o.d.toNat, o.a.toNat, o.b.toNat, o.c.toNat, r⟩
        fun x => t.operand (if k = 0x15 then !o.p else o.p) x lane := by
      rintro _ rfl
      rfl
    obtain ⟨h1, h2, h3, h4, h5, h6, h7, h8, h9, hA, hB, hF, -, h16, h17, h18, h19, h1A, h1C⟩ :=
      value_table o.p o.d.toNat o.a.toNat o.b.toNat o.c.toNat r fun x => t.operand o.p x lane
    refine ⟨fun h => (hy _ h).trans h1, fun h => (hy _ h).trans h2, fun h => (hy _ h).trans h3, fun h => (hy _ h).trans h4,
      fun h => (hy _ h).trans h5, fun h => (hy _ h).trans h6, fun h => (hy _ h).trans h7, fun h => (hy _ h).trans h8,
      fun h => (hy _ h).trans h9, fun h => (hy _ h).trans hA, fun h => (hy _ h).trans hB, fun h => (hy _ h).trans hF,
      fun h => (hy _ h).trans ?_, fun h => (hy _ h).trans h16, fun h => (hy _ h).trans h17, fun h => (hy _ h).trans h18,
      fun h => (hy _ h).trans h19, fun h => (hy _ h).trans h1A, fun h => (hy _ h).trans h1C, fun ha hb hc => ?_⟩
    · cases o.p <;> rfl
    obtain ⟨hC, hD, hE, h14, h1D, h10, h11, h12, h13⟩ :=
      value_codes o.p o.d.toNat o.a.toNat o.b.toNat o.c.toNat r (fun x => t.operand o.p x lane) ha hb hc
    exact ⟨fun h => (hy _ h).trans hC, fun h => (hy _ h).trans hD, fun h => (hy _ h).trans hE, fun h => (hy _ h).trans h14,
      fun h => (hy _ h).trans h1D, fun h => (congrArg Prod.fst (hy _ h)).trans h10, fun h => (congrArg Prod.fst (hy _ h)).trans h11,
      fun h => (congrArg Prod.fst (hy _ h)).trans h12, fun h => (congrArg Prod.fst (hy _ h)).trans h13⟩
  · rw [hres.lane (by omega) lane hlane h, ← hval]
    change _ = (val (if Insn.onVectors _ = true then lane else 0)).1 % 2 ^ 64
    cases Insn.onVectors _ <;> rfl
  · rw [hres.scalar (by rw [hscalar h]; rfl) h (by simp only at h ⊢; omega), ← hval]
  · rw [hres.flags, ← hval]
    change (if t.pass2 then _ else _) =
      if t.pass2 then t.flags ||| (laneFlags (if Insn.onVectors _ = true then List.range t.lanes else [0]) val).toNat else t.flags
    cases Insn.onVectors _ <;> rfl

end Sys2Proof.Safety
end

section
/-! Checks of writes whatever the form of the register file: what a check notes lies in registers of its own (`noted`), so that what could be
written still can. -/
namespace Sys2Proof.Machine

open Sys2Proof.Safety

namespace SameAccess

variable {s t u : State}

theorem refl (s : State) : SameAccess s s := ⟨rfl, rfl, rfl, rfl, rfl, rfl, rfl⟩

theorem ite {c : Prop} [Decidable c] (ht : SameAccess s t) (hu : SameAccess s u) : SameAccess s (if c then t else u) := by
  split
  · exact ht
  · exact hu

theorem foldlBy {α β : Type} (g : α → State) {f : α → β → α} (hf : ∀ x b, SameAccess (g x) (g (f x b))) (l : List β) (x : α) :
    SameAccess (g x) (g (l.foldl f x)) := by
  induction l generalizing x with
  | nil => exact refl _
  | cons b l ih => exact (hf x b).trans (ih _)

/-- A register of notes decides no access, in a register file of any form. -/
theorem putNoted (s : State) {off : Nat} (ho : noted off = true) (v : BitVec 64) : SameAccess s (Machine.regPut s off v) := by
  have hother : ∀ k, noted k = false → regGet (Machine.regPut s off v) k = regGet s k := fun k hk =>
    getCell_putCell_ne regReset v s.regs fun e => by simp [e, ho] at hk
  exact ⟨hother _ noted_t3.1, hother _ noted_t3.2, hother _ (by decide), rfl, rfl, rfl, rfl⟩

end SameAccess

theorem setFlagOnly_sameAccess (s : State) {off : Nat} (ho : noted off = true) (bit : Nat) : SameAccess s (setFlagOnly s off bit) :=
  .putNoted s ho _

theorem cntInc_sameAccess (s : State) {off : Nat} (ho : noted off = true) (lo w : Nat) : SameAccess s (cntInc s off lo w) := .putNoted s ho _

theorem setFlag_sameAccess (s : State) {off : Nat} (ho : noted off = true) (bit cnt : Nat) : SameAccess s (setFlag s off bit cnt) :=
  (setFlagOnly_sameAccess s ho bit).trans (cntInc_sameAccess _ ho _ _)

theorem lastSrc_sameAccess (s : State) (c : Nat) : SameAccess s (lastSrc s c) := .putNoted s (by decide) _

theorem updTrace_sameAccess (s : State) (c : Fin 16) (f : Trace → Trace) : SameAccess s (updTrace s c f) := ⟨rfl, rfl, rfl, rfl, rfl, rfl, rfl⟩

theorem countEv_sameAccess (s : State) (c : Fin 16) (code n : Nat) : SameAccess s (countEv s c code n) := ⟨rfl, rfl, rfl, rfl, rfl, rfl, rfl⟩

theorem freshen_sameAccess (s : State) : SameAccess s (freshen s) := ⟨rfl, rfl, rfl, rfl, rfl, rfl, rfl⟩

theorem placeTrace_sameAccess (s : State) (c : Fin 16) (bytes : List Byte) : SameAccess s (placeTrace s c bytes).1 := by
  unfold placeTrace
  dsimp only
  split
  · exact freshen_sameAccess s
  split
  · exact freshen_sameAccess s
  · exact ⟨rfl, rfl, rfl, rfl, rfl, rfl, rfl⟩

theorem dropTrace_sameAccess (s : State) (c : Fin 16) : SameAccess s (dropTrace s c) :=
  (((setFlagOnly_sameAccess s (noted_tdrop c) 0).trans (cntInc_sameAccess _ (noted_tdrop c) _ _)).trans (updTrace_sameAccess _ c _)).trans
    (countEv_sameAccess _ c _ _)

theorem fireTrigger_sameAccess (s : State) (c : Fin 16) (info : Nat) : SameAccess s (fireTrigger s c info) := by
  have disarmed : SameAccess s (regPutField s (offTrig c) 55 1 0) := .putNoted s (noted_trig c) _
  have counted : ∀ x : State × Bool, SameAccess s x.1 → SameAccess s (if x.2 then countPost x.1 c else dropTrace x.1 c) := fun x hx =>
    .ite (hx.trans (updTrace_sameAccess _ c _)) (hx.trans (dropTrace_sameAccess _ c))
  unfold fireTrigger
  refine .ite (.refl s) ((counted _ ?_).trans (updTrace_sameAccess _ c _))
  split
  · exact disarmed.trans (placeTrace_sameAccess _ _ _)
  · exact disarmed

theorem triggerAll_sameAccess (s : State) (bit info : Nat) : SameAccess s (triggerAll s bit info) := by
  refine SameAccess.trans (SameAccess.foldlBy Prod.fst (fun x c => ?_) (List.finRange 16) (s, false))
    (.ite (.foldlBy id (fun t c => fireTrigger_sameAccess t c 5) _ _) (.refl _))
  split
  · exact fireTrigger_sameAccess _ _ _
  · exact .refl _

theorem evPush_sameAccess (s : State) (q : Nat) (bytes : List Byte) : SameAccess s (evPush s q bytes) := by
  unfold evPush
  split <;> split <;> exact ⟨rfl, rfl, rfl, rfl, rfl, rfl, rfl⟩

theorem errEvent_sameAccess (s : State) (w : Who) (cause cls unit index count addr : Nat) :
    SameAccess s (errEvent s w cause cls unit index count addr) := by
  unfold errEvent
  refine ((evPush_sameAccess s _ _).trans (.ite (setFlag_sameAccess _ (by decide) _ _) ?_)).trans (triggerAll_sameAccess _ _ _)
  exact .ite (setFlagOnly_sameAccess _ (by decide) _) (.refl _)

theorem eccUncorrected_sameAccess (s : State) (w : Who) (a : Nat) : SameAccess s (eccUncorrected s w a) := by
  have poisoned : ∀ u l, SameAccess u (poisonLine u l) := fun u l => by
    obtain ⟨p, t, h⟩ := poisonLine_form u l
    rw [h]
    exact ⟨rfl, rfl, rfl, rfl, rfl, rfl, rfl⟩
  have named : ∀ u : State, SameAccess u { u with ueAddr := BitVec.ofNat 64 (ueImage a) } := fun u => ⟨rfl, rfl, rfl, rfl, rfl, rfl, rfl⟩
  exact ((((setFlag_sameAccess s (by decide) 1 32).trans (lastSrc_sameAccess _ _)).trans (poisoned _ _)).trans (named _)).trans
    (errEvent_sameAccess _ _ _ _ _ _ _ _)

theorem eccFound_sameAccess (s : State) (a : Nat) : SameAccess s (eccFound s a) := by
  have corrected : SameAccess s (eccCorrected s a) := (setFlag_sameAccess s (by decide) 0 16).trans (lastSrc_sameAccess _ _)
  unfold eccFound
  split
  · exact corrected
  · exact corrected
  · exact corrected.trans (countEv_sameAccess _ _ _ _)
  · exact .refl s

/-- The read before a merge stops nothing, and decides no access. -/
theorem Chk.mergeLine_sameAccess (w : Who) (c : Chk) (l : Nat) :
    (Chk.mergeLine w c l).stop = c.stop ∧ SameAccess c.s (Chk.mergeLine w c l).s := by
  unfold Chk.mergeLine
  dsimp only
  split
  · exact ⟨rfl, .refl _⟩
  refine ⟨rfl, ?_⟩
  split
  · exact .ite (eccUncorrected_sameAccess _ _ _) (eccFound_sameAccess _ _)
  · exact .ite (.refl _) (eccUncorrected_sameAccess _ _ _)
  · exact .ite (eccUncorrected_sameAccess _ _ _) (.refl _)

/-- The check of a write goes through where the line takes it. -/
theorem Chk.writeLine_open {s : State} {w : Who} {c : Chk} {l : Nat} (hstop : c.stop = none) (hs : SameAccess s c.s)
    (hl : backed s (64 * l % 2 ^ 64) = true → accessRefusedFor s (w.q, w.idx) (64 * l % 2 ^ 64) = 0) :
    (Chk.writeLine w c l).stop = none ∧ (Chk.writeLine w c l).s = c.s := by
  rw [← hs.backed_eq, ← hs.accessRefusedFor_eq] at hl
  unfold Chk.writeLine
  dsimp only
  rw [hstop, if_neg (by simp)]
  split
  · exact ⟨rfl, rfl⟩
  next hb =>
    rw [hl (by simpa using hb), if_neg (by simp)]
    exact ⟨hstop, rfl⟩

/-- Checks of ranges that a command can write all go through, in a state of any form. -/
theorem Chk.writes_open {s : State} {w : Who} {rs : List (Nat × Nat)} {c : Chk} (hstop : c.stop = none) (hs : SameAccess s c.s)
    (hw : WriteOk s w rs) : (rs.foldl (fun c r => Chk.write w c r.1 r.2) c).stop = none := by
  have lines : ∀ (ls : List Nat) (c : Chk), c.stop = none → SameAccess s c.s →
      (∀ l ∈ ls, backed s (64 * l % 2 ^ 64) = true → accessRefusedFor s (w.q, w.idx) (64 * l % 2 ^ 64) = 0) →
      (ls.foldl (Chk.writeLine w) c).stop = none ∧ SameAccess s (ls.foldl (Chk.writeLine w) c).s := by
    intro ls
    induction ls with
    | nil => exact fun c h k _ => ⟨h, k⟩
    | cons l ls ih =>
      intro c h k hl
      obtain ⟨hnext, hsame⟩ := Chk.writeLine_open h k (hl l List.mem_cons_self)
      exact ih _ hnext (hsame ▸ k) fun l' h' => hl l' (List.mem_cons_of_mem l h')
  have merges : ∀ (ls : List Nat) (c : Chk), (ls.foldl (Chk.mergeLine w) c).stop = c.stop ∧ SameAccess c.s (ls.foldl (Chk.mergeLine w) c).s := by
    intro ls
    induction ls with
    | nil => exact fun c => ⟨rfl, .refl _⟩
    | cons l ls ih =>
      intro c
      obtain ⟨hnext, hsame⟩ := Chk.mergeLine_sameAccess w c l
      obtain ⟨hrest, hkept⟩ := ih (Chk.mergeLine w c l)
      exact ⟨hrest.trans hnext, hsame.trans hkept⟩
  induction rs generalizing c with
  | nil => exact hstop
  | cons r rs ih =>
    obtain ⟨hopen, hkept⟩ := lines (linesOf r.1 r.2) c hstop hs (hw r List.mem_cons_self)
    obtain ⟨hmerged, hsame⟩ := merges (partLines r.1 r.2) ((linesOf r.1 r.2).foldl (Chk.writeLine w) c)
    exact ih (hmerged.trans hopen) (hkept.trans hsame) fun x hx => hw x (List.mem_cons_of_mem r hx)

end Sys2Proof.Machine
end

section
/-! Twine instructions that move members, reduce, or do nothing (O44; R208, R209, R212 to R218). -/
namespace Sys2Proof.Machine

open Sys2Proof.Safety

/-! ### NOP, BINV, IDX and RED -/

/-- NOP and BINV leave everything as it is. -/
theorem TX.exec_nothing (w : Who) {i : Insn} (x : TX) (h : i.op = 0 ∨ i.op = 0x23) : TX.exec w i x = x := by
  unfold TX.exec
  split
  · rfl
  · rcases h with h | h
    · rw [h]; rfl
    · rw [h]; rfl

theorem TX.exec_idx (w : Who) {i : Insn} {x : TX} (hstop : x.c.stop = none) (h : i.op = 0x1B) : TX.exec w i x = { x with t := x.t.idx i } := by
  rw [TX.exec, hstop, h]
  rfl

theorem TX.exec_red (w : Who) {i : Insn} {x : TX} (hstop : x.c.stop = none) (h : i.op = 0x22) : TX.exec w i x = { x with t := x.t.red i } := by
  rw [TX.exec, hstop, h]
  rfl

/-- The row of an opcode up to BINV that the checks replace, or of BINV itself, changes nothing but a chunk begun. -/
theorem exec_nothing {op : Nat} (hop : op ≤ 0x23) {c : Fin 16} {o : TwineOps} {s : State} {t : Twine}
    (ht : t = issueContext o s.cores[c].twine) (h : (issuedInsn o op t).op = 0 ∨ op = 0x23) :
    exec (twineRow op c o) s = .next (twineSet s c t) := by
  have nothing : ∀ k, (issuedInsn o k t).op = 0 ∨ (issuedInsn o k t).op = 0x23 → issue k c o s = twineSet s c t := fun k hk =>
    issue_of_exec ht (TX.exec_nothing t.who _ hk)
  have hnop : (issuedInsn o 0 t).op = 0 := by
    rcases issuedInsn_cases o 0 t with h | ⟨p, rm, h⟩
    · rw [h]; rfl
    · rw [h.insn]; rfl
  by_cases hrow : op ≤ 0x1D ∨ 0x20 ≤ op ∧ op ≤ 0x23
  · refine (exec_twineRow hrow c o s).trans (congrArg Host.Outcome.next (nothing op ?_))
    rcases h with h | rfl
    · exact .inl h
    · exact (issuedInsn_op_binv o t).symm
  · have hfree : op = 0x1E ∨ op = 0x1F := by omega
    rcases hfree with rfl | rfl <;> exact congrArg Host.Outcome.next (nothing 0 (.inl hnop))

/-- What an accumulator gathers from the lanes of a source (R213). -/
def Twine.gathered (t : Twine) (p : Bool) (a kind : Nat) (r : RedAcc) : RedAcc :=
  ((List.range t.lanes).map fun lane => vSplit p (t.operand p a lane)).foldl (RedAcc.take kind) { r with kind := some kind }

/-- RED gathers in pass 1, into an accumulator that has not been used with another kind (R209, R212). -/
theorem Twine.red_eq (t : Twine) (i : Insn) : ∃ other : Bool,
    ((t.acc.getD i.d RedAcc.reset).kind = none ∨ (t.acc.getD i.d RedAcc.reset).kind = some i.c → other = false) ∧
    t.red i = if t.pass2 || decide (1 < i.d) || decide (3 < i.c) || other then t
      else { t with acc := updAt (t.gathered i.p i.a i.c) t.acc i.d } := by
  refine ⟨_, fun h => ?_, rfl⟩
  rcases h with h | h
  · rw [h]
  · rw [h]
    exact bne_self_eq_false i.c

theorem getD_updAt {α : Type} (f : α → α) {l : List α} {i : Nat} (h : i < l.length) (d : α) : (updAt f l i).getD i d = f (l.getD i d) := by
  simp [List.getD, getElem?_updAt, h]

/-! ### A core's context beside what checks leave -/

/-- The context of a core put in place after checks: the contexts of the other cores are as they were, and beyond that only notes differ. -/
theorem twineSet_after {s u : State} (h : Aside s u) (c : Fin 16) (x : Twine) :
    (twineSet u c x).cores[c].twine = x ∧
    (∀ k : Fin 16, k ≠ c → (twineSet u c x).cores[k].twine = s.cores[k].twine) ∧
    Aside { s with cores := (twineSet u c x).cores } (twineSet u c x) := by
  have hform := h.form
  refine ⟨by simp [twineSet, updCore], fun k hk => ?_, Aside.of (by rw [hform]; rfl) (fun _ => rfl) h.events h.canon h.regs⟩
  have hne : c.val ≠ k.val := fun e => hk (Fin.ext e.symm)
  simp only [twineSet, updCore, Fin.getElem_fin, Vector.getElem_set_ne _ _ hne]
  exact h.twine k

/-! ### LD (R212, R214, R217) -/

theorem TX.exec_load (w : Who) {i : Insn} {x : TX} {sh : ShardD} (hstop : x.c.stop = none) (h : i.op = 0x20) (hsh : x.t.shard = some sh) :
    TX.exec w i x = x.load w i sh := by
  rw [TX.exec, hstop, h]
  simp only [hsh]
  rfl

/-- The elements that LD gives the lanes, from memory as it stands in `s`. -/
def Twine.loads (t : Twine) (s : State) (i : Insn) (sh : ShardD) (lane : Nat) : Nat × VFlags :=
  let m := sh.member i.b
  let pl := t.place m.addr (fmtWidth (fmtOf m.fmt))
  let pr := t.place sh.remAddr 16
  loadElem i.p (fmtOf m.fmt) (if i.b == 1 && m.conv.scale == 1 then t.bundle.bind fun b => b.gscale else none)
    (if i.b == 0 && sh.rem then some ((chunkCodes s pr.1 16 t.lanes).getD lane 0) else none)
    ((chunkCodes s pl.1 (fmtWidth (fmtOf m.fmt)) t.lanes).getD lane 0)

/-- Where LD reads: the chunk's elements of the member and, for P with a remainder, those of the remainder. -/
def Twine.loadReads (t : Twine) (i : Insn) (sh : ShardD) : List (Nat × Nat) :=
  t.place (sh.member i.b).addr (fmtWidth (fmtOf (sh.member i.b).fmt)) :: if i.b == 0 && sh.rem then [t.place sh.remAddr 16] else []

theorem Going.chunkCodes_eq {s : State} {c : Chk} (h : Going s c) (a w n : Nat) : chunkCodes c.s a w n = chunkCodes s a w n := by
  simp only [chunkCodes, h.rdByte]

/-- The checks of those reads. -/
def TX.loadChk (w : Who) (i : Insn) (sh : ShardD) (x : TX) : Chk := (x.t.loadReads i sh).foldl (fun c r => Chk.read w c r.1 r.2) x.c

/-- The guard in pass 1 over `bad` elements of G that it takes (R214). -/
def Twine.guarding (t : Twine) (i : Insn) (bad : Nat) : Twine :=
  if i.b == 1 && !t.pass2 then
    { t with tripped := t.tripped || decide (0 < bad), guarded := t.guarded + (if t.gseen then 0 else bad), gseen := true }
  else t

/-- The guard leaves everything else. -/
theorem Twine.guarding_form (t : Twine) (i : Insn) (bad : Nat) :
    ∃ tripped guarded gseen, t.guarding i bad = { t with tripped := tripped, guarded := guarded, gseen := gseen } := by
  unfold Twine.guarding
  split
  · exact ⟨_, _, _, rfl⟩
  · exact ⟨t.tripped, t.guarded, t.gseen, rfl⟩

/-- An LD whose reads are not stopped loads its elements, and the guard looks at them. -/
theorem TX.load_eq {w : Who} {i : Insn} {sh : ShardD} {x : TX} (hstop : (x.loadChk w i sh).stop = none) :
    ∃ bad, x.load w i sh = ⟨x.loadChk w i sh, (x.t.result i false (x.t.loads (x.loadChk w i sh).s i sh)).guarding i bad⟩ := by
  have hchk : x.loadChk w i sh =
      let pl := x.t.place (sh.member i.b).addr (fmtWidth (fmtOf (sh.member i.b).fmt))
      let pr := x.t.place sh.remAddr 16
      let c := Chk.read w x.c pl.1 pl.2
      if i.b == 0 && sh.rem then Chk.read w c pr.1 pr.2 else c := by
    simp only [TX.loadChk, Twine.loadReads]
    split <;> rfl
  unfold TX.load
  dsimp only at hchk ⊢
  rw [← hchk, hstop, if_neg (by simp)]
  exact ⟨_, rfl⟩

/-- The context `y` is `t` with the elements `g` in the register of the instruction `i`: beyond it only flags and the guard differ. -/
structure Loaded (t : Twine) (i : Insn) (g : Nat → Nat × VFlags) (y : Twine) : Prop where
  form : y = { t with v := y.v, flags := y.flags, tripped := y.tripped, guarded := y.guarded, gseen := y.gseen }
  vectors : ∀ r, r ≠ i.d → y.v.getD r [] = t.v.getD r []
  lane : i.d < t.v.length → ∀ lane < t.lanes, i.d < 0x10 → laneOf y.v i.d lane = (g lane).1 % 2 ^ 64

/-- An LD whose reads go through. -/
theorem TX.load_going {s : State} {w : Who} {i : Insn} {sh : ShardD} {x : TX} (h : Going s x.c) (hr : ReadOk s w (x.t.loadReads i sh)) :
    ∃ c y, x.load w i sh = ⟨c, y⟩ ∧ Going s c ∧ Loaded x.t i (x.t.loads s i sh) y := by
  have hgo : Going s (x.loadChk w i sh) := h.reads hr
  have hloads : x.t.loads (x.loadChk w i sh).s i sh = x.t.loads s i sh := by
    funext lane
    simp only [Twine.loads, hgo.chunkCodes_eq]
  obtain ⟨bad, heq⟩ := TX.load_eq hgo.stop
  rw [hloads] at heq
  have hres := x.t.result_results i false (x.t.loads s i sh)
  generalize x.t.result i false (x.t.loads s i sh) = y at heq hres
  obtain ⟨tripped, guarded, gseen, hguard⟩ := y.guarding_form i bad
  have hsame := hres.form
  rw [hres.keepsScalars rfl] at hsame
  refine ⟨_, _, heq, hgo, ?_⟩
  rw [hguard]
  exact ⟨congrArg (fun u : Twine => { u with tripped := tripped, guarded := guarded, gseen := gseen }) hsame, hres.vectors, hres.lane⟩

/-! ### ST (R214, R217, R218) -/

theorem TX.exec_store (w : Who) {i : Insn} {x : TX} {sh : ShardD} (hstop : x.c.stop = none) (h : i.op = 0x21) (hsh : x.t.shard = some sh) :
    TX.exec w i x = x.store w i sh := by
  rw [TX.exec, hstop, h]
  simp only [hsh]
  rfl

/-- ST in pass 1 shows its source values to the guard. -/
theorem TX.store_pass1 {w : Who} {i : Insn} {sh : ShardD} {x : TX} (h : x.t.pass2 = false) : x.store w i sh = { x with t := { x.t with
    tripped := x.t.tripped || (List.range x.t.lanes).any fun lane => guardHit sh.guard (vSplit i.p (x.t.operand i.p i.a lane)).cl } } := by
  simp only [TX.store, h, Bool.not_false, if_true]

/-- ST in pass 2, where its ranges can be written, keeps its writes. -/
theorem TX.store_pass2 {w : Who} {i : Insn} {sh : ShardD} {x : TX} (h : x.t.pass2 = true) (hstop : x.c.stop = none)
    (hw : WriteOk x.c.s w ((x.t.storeWrites x.c.s i sh).1.map fun r => (r.addr, r.bytes.length))) :
    ∃ c flags, x.store w i sh = ⟨c, { x.t with stores := x.t.stores ++ (x.t.storeWrites x.c.s i sh).1, flags := flags }⟩ ∧
      Aside x.c.s c.s := by
  have hopen := Chk.writes_open hstop (.refl x.c.s) hw
  rw [List.foldl_map] at hopen
  refine ⟨(x.t.storeWrites x.c.s i sh).1.foldl (fun c r => Chk.write w c r.addr r.bytes.length) x.c,
    (x.t.flag (x.t.storeWrites x.c.s i sh).2).flags, ?_,
    Aside.foldlBy Chk.s (fun c r => Chk.write_aside w c _ _) _ _⟩
  simp only [TX.store, h, Bool.not_true, Bool.false_eq_true, if_false, hopen, Option.isSome_none, Twine.flag_eq]

end Sys2Proof.Machine

namespace Sys2Proof.Safety

open Sys2Proof.Machine

section Issued

variable {c : Fin 16} {o : TwineOps} {s : State} {t : Twine} (ht : t = issueContext o s.cores[c].twine)

include ht

/-- IDX writes BASE plus the element index of every lane, converted, to its register (R208). -/
theorem idx_writes_indices (hop : (issuedInsn o 0x1B t).op = 0x1B) (hv : t.v.length = 16) :
    ∃ x, exec (.idx c o) s = .next (twineSet s c x) ∧ x = { t with v := x.v, flags := x.flags } ∧
      (∀ r, r ≠ o.d.toNat → x.v.getD r [] = t.v.getD r []) ∧ ∀ lane < t.lanes, laneOf x.v o.d.toNat lane =
        (vRound o.p (rmOf (issuedInsn o 0x1B t).rm) false (Mag.dy (t.index lane) 0)).1 % 2 ^ 64 := by
  obtain ⟨p, rm, h⟩ := issues_of_op (by decide) hop
  have hd : o.d.toNat < 0x10 := not_le.1 fun h10 => ((h.dest_lt rfl).2 h10).2.1 rfl
  have hi := h.insn
  rw [h.precision (by decide) (by decide)] at hi
  have hexec := issue_of_exec ht (TX.exec_idx t.who (x := ⟨Chk.init s o.env, t⟩) rfl hop)
  rw [hi] at hexec ⊢
  generalize hj : ({ wordInsn o 0x1B with p := o.p, rm := rm } : Insn) = j at hexec ⊢
  have hjd : j.d = o.d.toNat := by rw [← hj]; rfl
  have hjp : j.p = o.p := by rw [← hj]
  have hres : Results t j false _ (t.idx j) := t.result_results j false _
  have hform := hres.form
  rw [hres.keepsScalars rfl] at hform
  refine ⟨_, congrArg Host.Outcome.next hexec, hform, fun r hr => hres.vectors r (hjd ▸ hr), fun lane hlane => ?_⟩
  rw [← hjd, hres.lane (by omega) lane hlane (by omega), hjp]
  rfl

/-- RED gathers the lanes of its source into its accumulator in pass 1, and does nothing in pass 2 (R212, R213). -/
theorem red_gathers (hop : (issuedInsn o 0x22 t).op = 0x22) (hd : o.d.toNat < t.acc.length) :
    ∃ x, exec (.red c o) s = .next (twineSet s c x) ∧ x = { t with acc := x.acc } ∧
      (∀ k, k ≠ o.d.toNat → x.acc.getD k RedAcc.reset = t.acc.getD k RedAcc.reset) ∧ (t.pass2 = true → x = t) ∧
      (t.pass2 = false → (t.acc.getD o.d.toNat RedAcc.reset).kind = none ∨
          (t.acc.getD o.d.toNat RedAcc.reset).kind = some o.c.toNat →
        x.acc.getD o.d.toNat RedAcc.reset = t.gathered o.p o.a.toNat o.c.toNat (t.acc.getD o.d.toNat RedAcc.reset)) := by
  obtain ⟨p, rm, h⟩ := issues_of_op (by decide) hop
  obtain ⟨hd1, hc3⟩ := h.red rfl
  have hi : issuedInsn o 0x22 t = ⟨0x22, o.p, o.d.toNat, o.a.toNat, o.b.toNat, o.c.toNat, rm⟩ := by
    rw [h.insn, h.precision (by decide) (by decide)]
    rfl
  have hexec := issue_of_exec ht (TX.exec_red t.who (x := ⟨Chk.init s o.env, t⟩) rfl hop)
  obtain ⟨other, hother, hred⟩ := t.red_eq (issuedInsn o 0x22 t)
  rw [hi] at hother hred hexec
  refine ⟨_, congrArg Host.Outcome.next hexec, ?_, fun k hk => ?_, fun hpass => ?_, fun hpass hkind => ?_⟩
  · dsimp only
    rw [hred]
    split <;> rfl
  · dsimp only
    rw [hred]
    split
    · rfl
    · exact getD_updAt_ne _ _ hk _
  · dsimp only
    rw [hred, hpass]
    rfl
  · dsimp only
    rw [hred, hpass, hother hkind, if_neg (by simpa using ⟨hd1, hc3⟩)]
    exact getD_updAt _ hd _

variable {sh : ShardD} (hsh : t.shard = some sh)

include hsh

/-- LD loads the chunk's elements of its member (R208, R212, R217). -/
theorem ld_loads (hop : (issuedInsn o 0x20 t).op = 0x20) (hc : Canonical s) (henv : CleanEnv o.env) (hv : t.v.length = 16)
    (hr : ReadOk s t.who (t.loadReads (issuedInsn o 0x20 t) sh)) :
    ∃ y x, exec (.ld c o) s = .next y ∧ y.cores[c].twine = x ∧ (∀ k : Fin 16, k ≠ c → y.cores[k].twine = s.cores[k].twine) ∧
      Aside { s with cores := y.cores } y ∧
      x = { t with v := x.v, flags := x.flags, tripped := x.tripped, guarded := x.guarded, gseen := x.gseen } ∧
      (∀ r, r ≠ o.d.toNat → x.v.getD r [] = t.v.getD r []) ∧
      ∀ lane < t.lanes, laneOf x.v o.d.toNat lane = (t.loads s (issuedInsn o 0x20 t) sh lane).1 % 2 ^ 64 := by
  obtain ⟨p, rm, h⟩ := issues_of_op (by decide) hop
  have hd : o.d.toNat < 0x10 := not_le.1 fun h10 => ((h.dest_lt rfl).2 h10).1 rfl
  have hdi : (issuedInsn o 0x20 t).d = o.d.toNat := by rw [h.insn]; rfl
  have hlt : (issuedInsn o 0x20 t).d < t.v.length := by omega
  obtain ⟨k, y, hload, hk, hres⟩ := TX.load_going (x := ⟨Chk.init s o.env, t⟩) ⟨hc, .refl s, henv, rfl⟩ hr
  have hexec := issue_of_exec ht ((TX.exec_load t.who rfl hop hsh).trans hload)
  obtain ⟨hcore, hothers, haside⟩ := twineSet_after hk.spares.aside c y
  refine ⟨_, y, congrArg Host.Outcome.next hexec, hcore, hothers, haside, hres.form, fun r hr => hres.vectors r (hdi ▸ hr),
    fun lane hlane => ?_⟩
  rw [← hdi]
  exact hres.lane hlt lane hlane (by omega)

/-- ST in pass 1 shows its source to the guard and changes nothing else (R214). -/
theorem st_guards (hop : (issuedInsn o 0x21 t).op = 0x21) (hpass : t.pass2 = false) :
    exec (.st c o) s = .next (twineSet s c { t with
      tripped := t.tripped || (List.range t.lanes).any fun lane =>
        guardHit sh.guard (vSplit (issuedInsn o 0x21 t).p (t.operand (issuedInsn o 0x21 t).p o.a.toNat lane)).cl }) := by
  obtain ⟨p, rm, h⟩ := issues_of_op (by decide) hop
  have hai : (issuedInsn o 0x21 t).a = o.a.toNat := by rw [h.insn]; rfl
  rw [← hai]
  exact congrArg Host.Outcome.next (issue_of_exec (k := Chk.init s o.env) ht ((TX.exec_store t.who rfl hop hsh).trans (TX.store_pass1 hpass)))

/-- ST in pass 2 keeps its writes (R217, R218). -/
theorem st_stores (hop : (issuedInsn o 0x21 t).op = 0x21) (hpass : t.pass2 = true)
    (hw : WriteOk s t.who ((t.storeWrites s (issuedInsn o 0x21 t) sh).1.map fun r => (r.addr, r.bytes.length))) :
    ∃ y x, exec (.st c o) s = .next y ∧ y.cores[c].twine = x ∧ (∀ k : Fin 16, k ≠ c → y.cores[k].twine = s.cores[k].twine) ∧
      Aside { s with cores := y.cores } y ∧
      x = { t with stores := t.stores ++ (t.storeWrites s (issuedInsn o 0x21 t) sh).1, flags := x.flags } := by
  obtain ⟨k, flags, hstore, hnotes⟩ := TX.store_pass2 (x := ⟨Chk.init s o.env, t⟩) hpass rfl hw
  have hexec := issue_of_exec ht ((TX.exec_store t.who rfl hop hsh).trans hstore)
  obtain ⟨hcore, hothers, haside⟩ := twineSet_after hnotes c
    { t with stores := t.stores ++ (t.storeWrites s (issuedInsn o 0x21 t) sh).1, flags := flags }
  exact ⟨_, _, congrArg Host.Outcome.next hexec, hcore, hothers, haside, rfl⟩

end Issued

/-- Settles O44, one instruction after another. -/
theorem twineMovesMembersAndReduces : Obligations.TwineMovesMembersAndReduces := by
  intro c o s t ins
  refine ⟨fun op hop h => exec_nothing hop rfl h, idx_writes_indices rfl, red_gathers rfl, fun sh hsh => ?_⟩
  intro m pl pr rem ws hit
  refine ⟨fun hop hc henv hv hr => ?_, st_guards rfl hsh, st_stores rfl hsh⟩
  obtain ⟨p, rm, h⟩ := issues_of_op (by decide) hop
  have hb : (issuedInsn o 0x20 t).b = o.b.toNat := by rw [h.insn]; rfl
  have hld := ld_loads (t := t) rfl hsh hop hc henv hv
  simp only [Twine.loadReads, Twine.loads, hb] at hld
  exact hld hr

end Sys2Proof.Safety
end

section
/-! ## The completion of an UPDATE (O16)

Its chunks are counted, its writes made, its flags set and its phases traced; then it ends as every command does. -/

namespace Sys2Proof.Machine

open Sys2Proof.Safety

/-! ### Held writes on states that look alike (R369, R375) -/

/-- `t` agrees with `s` in all that the making of held writes reads: the counter of free values too. -/
structure SameDraw (s t : State) : Prop extends SameSight s t where
  fresh : t.fresh = s.fresh

theorem SameSight.wrPoison {s t : State} (h : SameSight s t) (a n : Nat) : SameSight (wrPoison s a n) (wrPoison t a n) := by
  obtain ⟨p, u, hs⟩ := wrPoison_form s a n
  obtain ⟨p', u', ht⟩ := wrPoison_form t a n
  rw [hs, ht]
  exact ⟨⟨h.base, h.size, h.tag, h.otp, h.ide, h.t3key, h.jobClear⟩, h.mem, h.fatal, h.seed⟩

theorem SameSight.freshen {s t : State} (h : SameSight s t) : SameSight (freshen s) (freshen t) :=
  ⟨⟨h.base, h.size, h.tag, h.otp, h.ide, h.t3key, h.jobClear⟩, h.mem, h.fatal, h.seed⟩

theorem wr_fresh (s : State) (a : Nat) (bs : List Byte) : (wr s a bs).fresh = s.fresh := by
  obtain ⟨m, p, t, h, -⟩ := wr_form s a bs
  rw [h]

theorem wrPoison_fresh (s : State) (a n : Nat) : (wrPoison s a n).fresh = s.fresh := by
  obtain ⟨p, t, h⟩ := wrPoison_form s a n
  rw [h]

theorem SameDraw.applyWrite {s t : State} (h : SameDraw s t) (w : Nat × Nat) (x : MemWrite) :
    SameDraw (applyWrite w s x) (applyWrite w t x) := by
  unfold Machine.applyWrite
  rw [h.rangeRefused_eq, h.fresh]
  split
  · exact h
  · split
    · exact ⟨h.wr _ _, by rw [wr_fresh, wr_fresh, h.fresh]⟩
    · exact ⟨h.wrPoison _ _, by rw [wrPoison_fresh, wrPoison_fresh, h.fresh]⟩
    · exact ⟨h.freshen.wr _ _, by simp only [wr_fresh, Machine.freshen, h.fresh]⟩

/-- Held writes leave states that look alike as they find them so. -/
theorem SameDraw.applyWrites {s t : State} (h : SameDraw s t) (w : Nat × Nat) (ws : List MemWrite) :
    SameDraw (applyWrites w s ws) (applyWrites w t ws) := by
  induction ws generalizing s t with
  | nil => exact h
  | cons x ws ih => exact ih (h.applyWrite w x)

/-! ### Flags of UPD_STAT (R229) -/

/-- A flag set later leaves a lower one. -/
theorem regBit_setFlag_below {s : State} (hc : Canonical s) (off : Nat) {i bit cnt : Nat} (hi : i < bit) (h : bit < cnt) (hb : bit < 64) :
    regBit (setFlag s off bit cnt) off i = regBit s off i := by
  have hput : Canonical (regPutField s off bit 1 1) := (regPutField_keep s off bit 1 1).1 hc
  rw [setFlag, cntInc, regBit_regPutField hput _ _ _ _ (hi.trans hb), bitAt_setBits_below (hi.trans h)]
  exact (regBit_regPutField hc off bit 1 1 (hi.trans hb)).trans (bitAt_setBits_below hi)

/-! ### What the effect of an UPDATE changes (R211, R227) -/

/-- From `s` to `t` a part of the effect of an UPDATE has taken place: of registers, beyond flags that checks leave, UPD_STAT alone. -/
structure UpdStep (s t : State) : Prop where
  finishes : Finishes s t
  queues : t.queues = s.queues
  tokens : t.tokens = s.tokens
  outbox : t.outbox = s.outbox
  msixPending : t.msixPending = s.msixPending
  canon : Canonical s → Canonical t
  regs : Canonical s → ∀ off, noted off = false → off ≠ offUpdStat → regGet t off = regGet s off

namespace UpdStep

variable {s t u : State}

theorem refl (s : State) : UpdStep s s := ⟨rfl, rfl, rfl, rfl, rfl, id, fun _ _ _ _ => rfl⟩

theorem trans (h : UpdStep s t) (k : UpdStep t u) : UpdStep s u where
  finishes := by
    have hst : Finishes s t := h.finishes
    have htu : Finishes t u := k.finishes
    unfold Finishes at *
    rw [htu, hst]
  queues := k.queues.trans h.queues
  tokens := k.tokens.trans h.tokens
  outbox := k.outbox.trans h.outbox
  msixPending := k.msixPending.trans h.msixPending
  canon hc := k.canon (h.canon hc)
  regs hc off ho hne := (k.regs (h.canon hc) off ho hne).trans (h.regs hc off ho hne)

theorem of_aside (h : Aside s t) : UpdStep s t := by
  have hform := h.form
  refine ⟨?_, ?_, ?_, ?_, ?_, h.canonical, fun hc off ho _ => h.regs hc.2 off ho⟩
  · unfold Finishes
    rw [hform]
  all_goals rw [hform]

theorem setFlag (s : State) (bit cnt : Nat) : UpdStep s (setFlag s offUpdStat bit cnt) :=
  ⟨rfl, rfl, rfl, rfl, rfl, (setFlag_keep s _ _ _).1, fun hc _ _ hne => regGet_setFlag_other hc bit cnt hne⟩

theorem applyWrites (w : Nat × Nat) (s : State) (ws : List MemWrite) : UpdStep s (applyWrites w s ws) := by
  obtain ⟨m, p, t, k, h, hw⟩ := applyWrites_form w s ws
  rw [h]
  exact ⟨rfl, rfl, rfl, rfl, rfl, fun hc => ⟨hw hc.1, hc.2⟩, fun _ _ _ _ => rfl⟩

theorem access (h : UpdStep s t) (hc : Canonical s) : SameAccess s t := by
  have hform : Finishes s t := h.finishes
  unfold Finishes at hform
  exact ⟨h.regs hc _ (by decide) (by decide), h.regs hc _ (by decide) (by decide), h.regs hc _ (by decide) (by decide), by rw [hform],
    by rw [hform], by rw [hform], by rw [hform]⟩

/-- Where memory stays too, every read is the same. -/
theorem sight (h : UpdStep s t) (hc : Canonical s) (hm : t.mem = s.mem) : SameSight s t := by
  have hform : Finishes s t := h.finishes
  unfold Finishes at hform
  exact ⟨h.access hc, hm, by rw [hform], h.regs hc _ (by decide) (by decide)⟩

end UpdStep

/-! ### The ring that the record goes to (R351, R373) -/

theorem offQcq_not_updStat : ∀ q : Fin 32, noted (offQcq q) = false ∧ offQcq q ≠ offUpdStat := by decide
theorem offQctl_not_updStat : ∀ q : Fin 32, noted (offQctl q) = false ∧ offQctl q ≠ offUpdStat := by decide

namespace UpdStep

variable {s t : State} {q : Fin 32}

theorem cqBase_eq (h : UpdStep s t) (hc : Canonical s) (q : Fin 32) : cqBase t q = cqBase s q := by
  simp only [cqBase, regField, h.regs hc _ (offQcq_not_updStat q).1 (offQcq_not_updStat q).2]

theorem cqSize_eq (h : UpdStep s t) (hc : Canonical s) (q : Fin 32) : cqSize t q = cqSize s q := by
  simp only [cqSize, regField, h.regs hc _ (offQcq_not_updStat q).1 (offQcq_not_updStat q).2]

theorem cqSlotOf_eq (h : UpdStep s t) (hc : Canonical s) (q : Fin 32) : cqSlotOf t q = cqSlotOf s q := by
  simp only [cqSlotOf, h.cqBase_eq hc, h.cqSize_eq hc, h.queues]

theorem cqTailOf_eq (h : UpdStep s t) (hc : Canonical s) (q : Fin 32) : cqTailOf t q = cqTailOf s q := by
  simp only [cqTailOf, h.cqBase_eq hc, h.cqSize_eq hc]

theorem asksVector_eq (h : UpdStep s t) (hc : Canonical s) (q : Fin 32) (x : Cmd) : asksVector t q x = asksVector s q x := by
  simp only [asksVector, regBit, h.regs hc _ (offQctl_not_updStat q).1 (offQctl_not_updStat q).2]

theorem canRecord (h : UpdStep s t) (hc : Canonical s) (hr : CanRecord s q) : CanRecord t q := by
  obtain ⟨hok, hnone, hrun⟩ := hr
  have hform : Finishes s t := h.finishes
  unfold Finishes at hform
  refine ⟨?_, by rw [h.queues]; exact hnone, by rw [hform]; exact hrun⟩
  simpa only [cqOk, accessRefused, (h.access hc).accessRefusedFor_eq, h.cqSlotOf_eq hc, h.cqTailOf_eq hc] using hok

/-- The record that a later state shows is the record of either state. -/
theorem recordLeft {u : State} (h : UpdStep s t) (hc : Canonical s) {x : Cmd} {status : Nat} (k : RecordLeft q t u x status) :
    RecordLeft q s u x status := by
  have hform : Finishes s t := h.finishes
  unfold Finishes at hform
  have hback : ∀ b n, BackedAll s b n → BackedAll t b n := fun b n hb i hi => ((h.access hc).backed_eq _).trans (hb i hi)
  have hgauge : compRecord t x status = compRecord s x status := by rw [hform]; rfl
  have hio : ioOk t = ioOk s := by rw [hform]; rfl
  have hmsix : t.msix = s.msix := by rw [hform]
  refine ⟨fun hb => ?_, fun hb => ?_, ?_, ?_⟩
  · have hrecord := k.record (hback _ _ (by rwa [h.cqSlotOf_eq hc]))
    rwa [h.cqSlotOf_eq hc, hgauge] at hrecord
  · have hcount := k.count (hback _ _ (by rwa [h.cqTailOf_eq hc]))
    rwa [h.cqTailOf_eq hc, h.queues] at hcount
  · have hvector := k.vector
    rwa [h.asksVector_eq hc, hmsix, hio, h.outbox] at hvector
  · have hlatch := k.latch
    rwa [h.asksVector_eq hc, hmsix, h.msixPending] at hlatch

end UpdStep

/-! ### The parts of the effect (R211, R227, R229, R458) -/

/-- A flag of UPD_STAT set where its bit of RESULT asks for it, and every lower flag kept. -/
theorem updFlag_set {s : State} (hc : Canonical s) (b : Bool) {bit cnt : Nat} (h : bit < cnt) (hb : bit < 64) :
    let t := if b then setFlag s offUpdStat bit cnt else s
    (b = true → regBit t offUpdStat bit = true) ∧ (∀ i < bit, regBit t offUpdStat i = regBit s offUpdStat i) ∧ UpdStep s t ∧
      t.mem = s.mem := by
  cases b with
  | false => exact ⟨nofun, fun _ _ => rfl, .refl s, rfl⟩
  | true =>
    exact ⟨fun _ => regBit_setFlag hc _ h hb, fun i hi => regBit_setFlag_below hc _ hi h hb, .setFlag s bit cnt, rfl⟩

/-- The flags of the outcome of `x` stand in `t`. -/
def UpdFlagged (x : Cmd) (t : State) : Prop :=
  (updBit x 1 = true → regBit t offUpdStat 0 = true) ∧ (updBit x 2 = true → regBit t offUpdStat 1 = true) ∧
    (updBit x 3 = true → regBit t offUpdStat 2 = true)

theorem UpdFlagged.of_regs {x : Cmd} {s t : State} (h : UpdFlagged x s) (hr : regGet t offUpdStat = regGet s offUpdStat) :
    UpdFlagged x t := by
  have hbit : ∀ i, regBit t offUpdStat i = regBit s offUpdStat i := fun i => by rw [regBit, hr, regBit]
  simpa only [UpdFlagged, hbit] using h

theorem updFlags_step {s : State} (hc : Canonical s) (x : Cmd) :
    UpdFlagged x (updFlags s x) ∧ UpdStep s (updFlags s x) ∧ (updFlags s x).mem = s.mem := by
  unfold updFlags
  extract_lets a b
  obtain ⟨hguard, -, hsa, hma⟩ : _ ∧ _ ∧ UpdStep s a ∧ a.mem = s.mem := updFlag_set hc (updBit x 1) (by decide) (by decide)
  obtain ⟨hsat, hkeepb, hab, hmb⟩ : _ ∧ _ ∧ UpdStep a b ∧ b.mem = a.mem :=
    updFlag_set (hsa.canon hc) (updBit x 2) (by decide) (by decide)
  obtain ⟨hpart, hkeep, hbt, hmt⟩ := updFlag_set (hab.canon (hsa.canon hc)) (updBit x 3) (bit := 2) (cnt := 48) (by decide) (by decide)
  refine ⟨⟨fun h => ?_, fun h => ?_, hpart⟩, (hsa.trans hab).trans hbt, hmt.trans (hmb.trans hma)⟩
  · exact (hkeep 0 (by decide)).trans ((hkeepb 0 (by decide)).trans (hguard h))
  · exact (hkeep 1 (by decide)).trans (hsat h)

/-- The chunks of an UPDATE that ends DONE are counted, and no free value is drawn. -/
theorem countChunks_done {s : State} (q : Fin 32) {x : Cmd} (hx : x.status = 0) (n : Nat) :
    Aside s (countChunks s q x n) ∧ (countChunks s q x n).fresh = s.fresh := by
  unfold countChunks
  simp only [hx]
  split
  · exact ⟨.refl s, rfl⟩
  · exact ⟨countEv_aside _ _ _ _, rfl⟩

theorem tracePhases_aside (s : State) (x : Cmd) (w : Who) (ps : List Nat) : Aside s (tracePhases s x w ps) :=
  Aside.foldl (fun t _ => traceCores_aside t _ _ _ _ _ _) _ _

/-- From `s` to `t` the UPDATE `x` of queue `q` has made these writes and set its flags. -/
structure UpdEnded (q : Fin 32) (s t : State) (x : Cmd) (ws : List MemWrite) : Prop where
  step : UpdStep s t
  sight : SameSight (applyWrites (q.val, x.idx.toNat) s ws) t
  flags : UpdFlagged x t

theorem updEffect_ended {q : Fin 32} {s : State} (hc : Canonical s) {x : Cmd} (hx : x.status = 0) (norm : List MemWrite)
    (blocks : List (List MemWrite × Bool)) (chunks : List (List MemWrite × Nat)) (tripped : Bool) :
    UpdEnded q s (updEffect s q x norm blocks chunks tripped) x (updWrites blocks chunks ++ norm) := by
  obtain ⟨hcount, hfresh⟩ := countChunks_done (s := s) q hx chunks.length
  set u := countChunks s q x chunks.length
  have hdraw : SameDraw s u := ⟨.of_aside hcount hc, hfresh⟩
  have hwritten := (hdraw.applyWrites (q.val, x.idx.toNat) (updWrites blocks chunks ++ norm)).toSameSight
  have hwrite := (UpdStep.of_aside hcount).trans (.applyWrites (q.val, x.idx.toNat) u (updWrites blocks chunks ++ norm))
  obtain ⟨hflags, hflag, hmem⟩ := updFlags_step (hwrite.canon hc) x
  have hbefore := hwrite.trans hflag
  have htrace : Aside (updFlags (applyWrites (q.val, x.idx.toNat) u (updWrites blocks chunks ++ norm)) x)
      (updEffect s q x norm blocks chunks tripped) := .ite (.refl _) (tracePhases_aside _ _ _ _)
  have hcf := hbefore.canon hc
  exact ⟨hbefore.trans (.of_aside htrace), (hwritten.trans (hflag.sight (hwrite.canon hc) hmem)).trans (.of_aside htrace hcf),
    hflags.of_regs (htrace.regs hcf.2 _ (by decide))⟩

/-- The oldest command, an UPDATE that is DONE and of which no write is refused, ends by its effect and then as every command does. -/
theorem exec_commandCompletion_update {q : Fin 32} {s : State} {x : Cmd} {rest : List Cmd} {slot : Option Nat} {norm : List MemWrite}
    {blocks : List (List MemWrite × Bool)} {chunks : List (List MemWrite × Nat)} {g : Nat} {tripped : Bool} (hr : CanRecord s q)
    (hactive : s.queues[q].active = x :: rest) (hwork : x.work = .update slot norm blocks chunks g tripped) (hstatus : x.status = 0)
    (hwrites : x.writes = []) (hopen : writesRefused s (q.val, x.idx.toNat) (updWrites blocks chunks ++ norm) = 0)
    (hrunning : s.queues[q].state = .running) (hin : inService s = true) (hfree : evBlocked s q = false) :
    exec (.commandCompletion q) s = .next (finishCmd (updEffect (popCmd s q) q x norm blocks chunks tripped) q x) := by
  have hnone : ∀ t w, writesRefused t w [] = 0 := fun _ _ => rfl
  have hdone : updateDone s q x = finishCmd (updEffect (popCmd s q) q x norm blocks chunks tripped) q x := by
    simp only [updateDone, workWrites, doneEffect, doneCmd, hwork, hopen, hstatus, hwrites, hnone, beq_self_eq_true, if_true]
  have hexec : exec (.commandCompletion q) s = .next (updateDone s q x) := by
    show execCommandCompletion q s = _
    simp only [execCommandCompletion, flushRecs_of_nil hr.2.1, ite_self, hactive, hin, hrunning, hfree, mayComplete, hwork]
    rfl
  rw [hexec, hdone]

end Sys2Proof.Machine

namespace Sys2Proof.Safety

open Sys2Proof.Machine

/-- Settles O16: once its chunks are counted, its writes made and its flags set, the UPDATE ends as `finishCmd` ends every command. -/
theorem completionEndsAnUpdate : Obligations.CompletionEndsAnUpdate := by
  intro q s x rest slot norm blocks chunks g tripped w ws hc hr hactive hwork hstatus hwrites hopen hrunning hin hfree
  have hexec := exec_commandCompletion_update hr hactive hwork hstatus hwrites hopen hrunning hin hfree
  have hpop : (popCmd s q).queues = s.queues.set q { s.queues[q] with active := rest } := by
    simp only [popCmd, updQ, hactive, List.drop_one, List.tail_cons]
  have hring : SameRing q s (popCmd s q) := by
    refine ⟨⟨rfl, rfl, rfl, rfl, rfl⟩, ?_, ?_, rfl, rfl, rfl, rfl, rfl⟩ <;> simp [hpop]
  have hdraw : SameDraw s (popCmd s q) := ⟨.updQ s q _, rfl⟩
  have hcp : Canonical (popCmd s q) := hc
  obtain ⟨hstep, hsight, hflags⟩ := updEffect_ended (q := q) hcp hstatus norm blocks chunks tripped
  refine ⟨_, hexec, ?_⟩
  set v := updEffect (popCmd s q) q x norm blocks chunks tripped
  have hcv := hstep.canon hcp
  have hend := finishCmd_finished (x := x) hcv (hstep.canRecord hcp (hring.canRecord hr)) (by simp [hwork]) (by rw [hwrites]; rfl)
  set t := finishCmd v q x
  have hqueues : t.queues = s.queues.set q
      { s.queues[q] with active := rest, oldest := x.idx + 1, cqCount := s.queues[q].cqCount + 1 } := by
    simp [hend.queues, hstep.queues, hpop]
  have hbytes : ∀ a, Apart a (cqSlotOf s q) 32 → Apart a (cqTailOf s q) 8 → rdByte t a = rdByte (applyWrites w s ws) a := by
    intro a hslot htail
    have hkept : rdByte t a = rdByte v a := hend.kept a (by rwa [hstep.cqSlotOf_eq hcp, hring.cqSlotOf_eq])
      (by rwa [hstep.cqTailOf_eq hcp, hring.cqTailOf_eq]) (by simp [hwrites])
    exact hkept.trans ((hsight.rdByte_eq a).trans ((hdraw.applyWrites w ws).rdByte_eq a))
  have hkept : BytesKept q s t ws := fun a hslot htail hws => (hbytes a hslot htail).trans (rdByte_applyWrites_out w s ws hc.1 hws)
  have hstat := hflags.of_regs (hend.completes.regs hcv.2 _ (by decide))
  refine ⟨?_, fun k hk => ?_, hring.recordLeft (hstep.recordLeft hcp hend.record), hkept,
    ⟨fun a hoff => hkept a (apart_slot_of_offRing hoff) hoff.2, fun a bs hstand hb hoff => ?_⟩,
    fun a hoff => hbytes a (apart_slot_of_offRing hoff) hoff.2, hstat.1, hstat.2.1, hstat.2.2, fun k => ?_, fun off hoff hne => ?_, ?_⟩
  · simp [hqueues]
  · have hne : q.val ≠ k.val := fun h => hk (Fin.ext h.symm)
    simp [hqueues, hne]
  · refine Eq.trans (List.map_congr_left fun i hi => ?_) (rd_applyWrites_standing w s hc.1 hr.2.2 hopen hstand hb)
    have hbyte := hoff i (List.mem_range.1 hi)
    exact hbytes _ (apart_slot_of_offRing hbyte) hbyte.2
  · rw [hend.tokens, hstep.tokens]
    rfl
  · exact (hend.completes.regs hcv.2 off hoff).trans (hstep.regs hcp off hoff hne)
  · have hv : Finishes (popCmd s q) v := hstep.finishes
    have hp : Finishes s (popCmd s q) := rfl
    have ht : Finishes v t := by
      have hform := hend.completes.form
      unfold Finishes
      rw [hform]
    unfold Finishes at *
    rw [ht, hv, hp]

end Sys2Proof.Safety
end

section
/-! ## Reads that meet no finding (O11)

Where the environment brings no finding and nothing stops the read, it has met nothing to record: a T3 tag that fails, or a line that the
host holds poisoned, would have stopped it. So the state stays as it is. -/

namespace Sys2Proof.Machine

open Sys2Proof.Safety

/-! ### A failed tag leaves its line poisoned (R244, R250) -/

theorem t3Stamp_poisoned {s : State} {k : JobKey} (hk : s.t3key = some k) (u : Nat) : t3Check (t3Stamp s u true) u = .poisoned := by
  have hfind : t3Find (t3Stamp s u true) (t3Fab (t3Stamp s u true) (256 * u)) =
      some ⟨t3Fab s (256 * u), u, t3TagAddr s u, k.mac, true⟩ := by
    simp only [t3Stamp, hk]
    exact List.find?_cons_of_pos (by simp [t3Fab, regField, regGet])
  have hkey : (t3Stamp s u true).t3key = some k := by simp only [t3Stamp, hk]
  have htag : t3TagAddr (t3Stamp s u true) u = t3TagAddr s u := by simp only [t3Stamp, hk, t3TagAddr, regField, regGet]
  simp [t3Check, hfind, hkey, htag]

theorem poisonLine_poisoned {s : State} {k : JobKey} {l : Nat} (hf : s.fatal = none) (hb : backed s (64 * l) = true)
    (hregion : regionOf (64 * l) = .t3) (hk : s.t3key = some k) : linePoisoned (poisonLine s l) l = true := by
  have hline : poisonLine s l = t3Stamp s (tierOffset (64 * l) / 256) true := by simp [poisonLine, hf, hb, hregion]
  simp only [linePoisoned, hregion, hline, t3Stamp_poisoned hk, beq_self_eq_true]

/-- A command that nothing refuses a line of T3 has a job key (R245). -/
theorem t3key_of_access {s : State} {w : Nat × Nat} {a : Nat} (hb : backed s a = true) (hregion : regionOf a = .t3)
    (hr : accessRefusedFor s w a = 0) : ∃ k, s.t3key = some k := by
  have hserves : keyServes s w = true := by
    cases hno : keyServes s w with
    | true => rfl
    | false => simp [accessRefusedFor, hb, hregion, hno] at hr
  rw [keyServes, Bool.and_eq_true] at hserves
  exact Option.isSome_iff_exists.1 hserves.1

theorem eccUncorrected_poisoned {s : State} (hc : Canonical s) (hf : s.fatal = none) (w : Who) {l : Nat} {k : JobKey}
    (hb : backed s (64 * l) = true) (hregion : regionOf (64 * l) = .t3) (hk : s.t3key = some k) :
    linePoisoned (eccUncorrected s w (64 * l)) l = true := by
  unfold eccUncorrected
  rw [Nat.mul_div_cancel_left l (by decide)]
  have hflag : Aside s (lastSrc (setFlag s offEccstat 1 32) (srcCode (64 * l))) :=
    (setFlag_aside s _ _ _ (by decide)).trans (lastSrc_aside _ _)
  have hline := poisonLine_poisoned (l := l) (s := lastSrc (setFlag s offEccstat 1 32) (srcCode (64 * l))) hf
    ((backed_aside hflag hc _).trans hb) hregion hk
  rwa [linePoisoned_sameMarks (eccRecord_aside _ _ _) ((hflag.trans (poisonLine_aside _ l)).canonical hc) (eccRecord_sameMarks _ _ _)]

/-! ### Reads that change nothing (R249, R250) -/

/-- A line read without a finding, and found sound, has met nothing. -/
theorem lineNotes_of_sound {s : State} (hc : Canonical s) (hf : s.fatal = none) {w : Who} {l : Nat} (hb : backed s (64 * l) = true)
    (hr : accessRefusedFor s (w.q, w.idx) (64 * l) = 0) (hp : linePoisoned (lineNotes w s l false) l = false) :
    lineNotes w s l false = s := by
  unfold lineNotes at hp ⊢
  split
  next hhost =>
    rw [if_pos hhost] at hp
    split
    next hmark =>
      rw [if_pos hmark, linePoisoned_sameMarks (eccHostPoison_aside _ _ _) hc (eccHostPoison_sameMarks _ _ _), hmark] at hp
      cases hp
    · rfl
  next hhost =>
    rw [if_neg hhost] at hp
    split
    next hfails =>
      obtain ⟨k, hk⟩ := t3key_of_access hb hfails.1 hr
      rw [if_pos hfails, eccUncorrected_poisoned hc hf w hb hfails.1 hk] at hp
      cases hp
    · rfl

/-- The checks of a command that stand where they began, at `s`, without a finding to come. -/
structure Quiet (s : State) (c : Chk) : Prop where
  state : c.s = s
  env : c.env = []
  stop : c.stop = none

namespace Quiet

variable {s : State} {c : Chk}

theorem eq (h : Quiet s c) : c = ⟨s, [], c.unbacked, none⟩ := by
  obtain ⟨hs, he, hstop⟩ := h
  cases c
  subst hs he hstop
  rfl

theorem going (h : Quiet s c) (hc : Canonical s) : Going s c :=
  ⟨hc, by rw [h.state]; exact .refl s, by rw [h.env]; exact nofun, h.stop⟩

/-- A line read that stops nothing leaves the state. -/
theorem readLine (h : Quiet s c) (hc : Canonical s) (hf : s.fatal = none) {w : Who} {l : Nat}
    (hgo : (Chk.readLine w c l).stop = none) : Quiet s (Chk.readLine w c l) := by
  obtain ⟨hs, he, hstop⟩ := h
  obtain ⟨k, hk⟩ := line_addr l
  by_cases hb : backed c.s (64 * k) = true
  · by_cases hr : accessRefusedFor c.s (w.q, w.idx) (64 * k) = 0
    · have hclean : CleanEnv c.env := by rw [he]; exact nofun
      have hnone : correctedAt c k = false := by rw [correctedAt, he]; rfl
      rw [Chk.readLine_eq w hclean hk hstop hb hr, hnone] at hgo ⊢
      have hsound : linePoisoned (lineNotes w c.s k false) k = false := by
        by_contra hbad
        simp [hbad] at hgo
      refine ⟨?_, by rw [he]; rfl, hgo⟩
      rw [hs] at hb hr hsound ⊢
      exact lineNotes_of_sound hc hf hb hr hsound
    · unfold Chk.readLine at hgo
      simp only [hk] at hgo
      simp [hstop, hb, hr] at hgo
  · have hline : Chk.readLine w c l = { c with unbacked := true } := by
      unfold Chk.readLine
      simp only [hk]
      simp [hstop, hb]
    rw [hline]
    exact ⟨hs, he, hstop⟩

/-- What has stopped stays stopped. -/
theorem stop_of_readLine {w : Who} {l : Nat} (h : (Chk.readLine w c l).stop = none) : c.stop = none := by
  by_contra hstop
  have hline : Chk.readLine w c l = c := by simp [Chk.readLine, Option.isSome_iff_ne_none.2 hstop]
  exact hstop (hline ▸ h)

theorem stop_of_readLines {w : Who} {ls : List Nat} (h : (ls.foldl (Chk.readLine w) c).stop = none) : c.stop = none := by
  induction ls generalizing c with
  | nil => exact h
  | cons l ls ih => exact stop_of_readLine (ih h)

theorem readLines (h : Quiet s c) (hc : Canonical s) (hf : s.fatal = none) {w : Who} {ls : List Nat}
    (hgo : (ls.foldl (Chk.readLine w) c).stop = none) : Quiet s (ls.foldl (Chk.readLine w) c) := by
  induction ls generalizing c with
  | nil => exact h
  | cons l ls ih => exact ih (h.readLine hc hf (stop_of_readLines hgo)) hgo

/-- A read of a range without faults leaves the state. -/
theorem read (h : Quiet s c) (hc : Canonical s) (hf : s.fatal = none) {w : Who} {a n : Nat} (hr : ReadOk s w [(a, n)]) :
    Quiet s (Chk.read w c a n) := h.readLines hc hf ((h.going hc).read hr).stop

end Quiet

/-- A descriptor fetched without a finding is fetched from a module in service, and leaves the state. -/
theorem fetchHead_quiet {s : State} {q : Fin 32} {c : Chk} {d : Desc} (hc : Canonical s) (h : fetchHead s q [] = .got c d) :
    Quiet s c ∧ s.fatal = none := by
  unfold fetchHead at h
  simp only at h
  split at h
  · cases h
  next hready =>
    have hf : s.fatal = none := by
      simp only [queueReady, inService, Bool.not_eq_true', Bool.not_eq_false, Bool.and_eq_true, Option.isNone_iff_eq_none] at hready
      tauto
    split at h
    · cases h
    split at h
    · cases h
    next hstop =>
      cases h
      have hread : Quiet s (Chk.read _ _ _ _) := Quiet.readLines (c := Chk.init s []) ⟨rfl, rfl, rfl⟩ hc hf hstop
      exact ⟨⟨hread.state, hread.env, hread.stop⟩, hf⟩

end Sys2Proof.Machine
end

section
/-! ## The phases of an UPDATE and its start (O11)

Its passes leave, beyond what they hold, records and marks alone; what a guarded UPDATE and one that goes through hold is read off the
phases. -/

namespace Sys2Proof.Machine

open Sys2Proof.Safety

/-! ### What the vector engine leaves (R212, R214) -/

theorem Chk.writes_aside (w : Who) (ws : List MemWrite) (c : Chk) :
    Aside c.s (ws.foldl (fun c r => Chk.write w c r.addr r.bytes.length) c).s :=
  Aside.foldlBy Chk.s (fun x r => Chk.write_aside w x r.addr r.bytes.length) ws c

/-- A read that is made only under a condition. -/
theorem Chk.readIf_aside (w : Who) (b : Bool) (c : Chk) (a n : Nat) : Aside c.s (if b then Chk.read w c a n else c).s := by
  cases b with
  | false => exact .refl c.s
  | true => exact Chk.read_aside w c a n

theorem TX.load_aside (w : Who) (i : Insn) (sh : ShardD) (x : TX) : Aside x.c.s (TX.load w i sh x).c.s := by
  unfold TX.load
  extract_lets m f rem pl pr c c'
  have hreads : Aside x.c.s c'.s := (Chk.read_aside w x.c pl.1 pl.2).trans (Chk.readIf_aside w rem c pr.1 pr.2)
  split <;> exact hreads

theorem TX.store_aside (w : Who) (i : Insn) (sh : ShardD) (x : TX) : Aside x.c.s (TX.store w i sh x).c.s := by
  unfold TX.store
  split
  · exact .refl _
  · exact Chk.writes_aside w _ x.c

theorem TX.exec_aside (w : Who) (i : Insn) (x : TX) : Aside x.c.s (TX.exec w i x).c.s := by
  unfold TX.exec
  split
  · exact .refl _
  split
  case h_4 =>
    split
    · exact TX.load_aside w i _ x
    · exact .refl _
  case h_5 =>
    split
    · exact TX.store_aside w i _ x
    · exact .refl _
  all_goals exact .refl _

theorem TX.execs_aside (w : Who) (is : List Insn) (x : TX) : Aside x.c.s (is.foldl (fun x i => TX.exec w i x) x).c.s :=
  Aside.foldlBy (fun x : TX => x.c.s) (fun x i => TX.exec_aside w i x) is x

/-! ### What the phases leave (R211) -/

theorem Pass.chunk_aside (w : Who) (is : List Insn) (pass2 : Bool) (p : Pass) (j : Nat) :
    Aside p.x.c.s (Pass.chunk w is pass2 p j).x.c.s := by
  unfold Pass.chunk
  refine iteInduction (motive := fun o : Pass => Aside p.x.c.s o.x.c.s) (fun _ => .refl _) fun _ => ?_
  extract_lets t f0 t' src x f src' y
  have hchunk : Aside p.x.c.s x.c.s := TX.execs_aside w is ⟨p.x.c, t'⟩
  split
  · exact hchunk
  · exact hchunk
  · exact .ite (.refl _) hchunk

theorem runPass_aside (w : Who) (is : List Insn) (pass2 : Bool) (count : Nat) (x : TX) :
    Aside x.c.s (runPass w is pass2 count x).x.c.s :=
  Aside.foldlBy (fun p : Pass => p.x.c.s) (fun p j => Pass.chunk_aside w is pass2 p j) _ ⟨x, [], [], false, false⟩

theorem Blocks.next_aside (w : Who) (sh : ShardD) (b : Blocks) (k : Nat) : Aside b.c.s (Blocks.next w sh b k).c.s := by
  unfold Blocks.next
  split
  · exact .refl _
  extract_lets size a c m o c'
  have hread : Aside b.c.s c.s := Aside.foldlBy Chk.s (fun x i => Chk.read_aside w x _ _) _ b.c
  have hwrite : Aside b.c.s c'.s := hread.trans (Chk.write_aside w c o size)
  split
  · exact hread
  split
  · exact hread
  split <;> exact hwrite

theorem UpdOut.close_aside {s : State} (w : Who) (sh : ShardD) {o : UpdOut} (h : Aside s o.x.c.s) :
    Aside s (UpdOut.close w sh o).x.c.s := by
  unfold UpdOut.close
  extract_lets ns c
  have hcheck : Aside s c.s := h.trans (Chk.writes_aside w ns o.x.c)
  split <;> exact hcheck

theorem updPass2_aside {s : State} (w : Who) (sh : ShardD) (is : List Insn) {x : TX} (bs : List (List MemWrite × Bool))
    (h : Aside s x.c.s) : Aside s (updPass2 w sh is x bs).x.c.s := by
  have hpass := h.trans (runPass_aside w is true sh.count x)
  unfold updPass2
  extract_lets kept p res fl
  split
  · exact hpass
  · exact UpdOut.close_aside w sh hpass

theorem updPhases_aside (w : Who) (sh : ShardD) (is : List Insn) (word : Nat) (x : TX) :
    Aside x.c.s (updPhases w sh is word x).x.c.s := by
  have hpass := runPass_aside w is false sh.count x
  unfold updPhases
  extract_lets p g binv b kept
  have hblocks : Aside x.c.s b.c.s :=
    hpass.trans (Aside.foldlBy (fun b : Blocks => b.c.s) (fun b k => Blocks.next_aside w sh b k) _ ⟨p.x.c, []⟩)
  split
  · exact hpass
  split
  · exact UpdOut.close_aside w sh hpass
  split
  · exact hblocks
  · exact updPass2_aside w sh is b.done hblocks

/-! ### What the phases hold (R213, R214, R227) -/

/-- The end of an UPDATE keeps what it came to, and holds the write of its norms where nothing refuses it. -/
theorem UpdOut.close_keeps (w : Who) (sh : ShardD) (o : UpdOut) :
    let e := UpdOut.close w sh o
    e.result = o.result ∧ e.blocks = o.blocks ∧ e.chunks = o.chunks ∧ e.guarded = o.guarded ∧ e.tripped = o.tripped ∧
      (e.status = 0 → e.norm = normWrites sh e.x.t) := by
  unfold UpdOut.close
  dsimp only
  split
  · exact ⟨rfl, rfl, rfl, rfl, rfl, nofun⟩
  · exact ⟨rfl, rfl, rfl, rfl, rfl, fun _ => rfl⟩

/-- A chunk that meets neither a poisoned read nor a refused access is one more of the pass. -/
theorem Pass.chunk_good {w : Who} {is : List Insn} {pass2 : Bool} {p : Pass} {j : Nat} (h : (Pass.chunk w is pass2 p j).bad = []) :
    p.bad = [] ∧ (Pass.chunk w is pass2 p j).chunks.length = p.chunks.length + 1 := by
  revert h
  unfold Pass.chunk
  refine iteInduction (motive := fun o : Pass => o.bad = [] → p.bad = [] ∧ o.chunks.length = p.chunks.length + 1)
    (fun hover h => ?_) fun _ => ?_
  · rw [h] at hover
    cases hover
  · dsimp only
    split
    · exact fun h => ⟨h, by simp⟩
    · exact fun h => absurd h (by simp)
    · exact fun h => absurd h (by simp)

theorem chunks_good {w : Who} {is : List Insn} {pass2 : Bool} (js : List Nat) {p : Pass}
    (h : (js.foldl (Pass.chunk w is pass2) p).bad = []) :
    p.bad = [] ∧ (js.foldl (Pass.chunk w is pass2) p).chunks.length = p.chunks.length + js.length := by
  induction js generalizing p with
  | nil => exact ⟨h, rfl⟩
  | cons j js ih =>
    obtain ⟨hbad, hrest⟩ := ih h
    obtain ⟨hfirst, hone⟩ := Pass.chunk_good hbad
    refine ⟨hfirst, ?_⟩
    rw [List.foldl_cons, hrest, hone, List.length_cons]
    omega

/-- A pass that meets nothing goes through every chunk. -/
theorem runPass_chunks {w : Who} {is : List Insn} {pass2 : Bool} {count : Nat} {x : TX} (h : (runPass w is pass2 count x).bad = []) :
    (runPass w is pass2 count x).chunks.length = ceilDiv count 512 := by
  obtain ⟨-, hlen⟩ := chunks_good _ h
  rw [runPass, hlen, List.length_range, List.length_nil, Nat.zero_add]

/-- What pass 2 comes to after the blocks `bs`: if it ends DONE, every chunk and the norms. -/
structure UpdOut.FromPass2 (sh : ShardD) (bs : List (List MemWrite × Bool)) (o : UpdOut) : Prop where
  tripped : o.tripped = false
  guarded : o.guarded = 0
  blocks : o.blocks = bs
  through : o.status = 0 → o.chunks.length = ceilDiv sh.count 512 ∧ o.norm = normWrites sh o.x.t

theorem updPass2_fromPass2 (w : Who) (sh : ShardD) (is : List Insn) (x : TX) (bs : List (List MemWrite × Bool)) :
    (updPass2 w sh is x bs).FromPass2 sh bs := by
  unfold updPass2
  extract_lets kept p res fl
  split
  · exact ⟨rfl, rfl, rfl, nofun⟩
  next hgood =>
    obtain ⟨-, hblocks, hchunks, hguarded, htripped, hnorm⟩ :=
      UpdOut.close_keeps w sh ⟨p.x, 0, res 0 fl 0 0, [], bs, p.chunks, 0, false⟩
    exact ⟨htripped, hguarded, hblocks, fun h => ⟨(congrArg List.length hchunks).trans (runPass_chunks hgood), hnorm h⟩⟩

/-- Where the guard word is not zero or the guard has tripped, an UPDATE that ends DONE holds none of its outputs (R214). -/
def UpdOut.GuardHolds (word : Nat) (o : UpdOut) : Prop :=
  word ≠ 0 ∨ o.tripped = true → o.status = 0 →
    o.tripped = true ∧ o.blocks = [] ∧ o.chunks = [] ∧ o.result = updResult 2 0 0 o.guarded 0 0

theorem updPhases_guardHolds (w : Who) (sh : ShardD) (is : List Insn) (word : Nat) (x : TX) :
    (updPhases w sh is word x).GuardHolds word := by
  unfold updPhases
  extract_lets p g binv b kept
  split
  · exact fun _ => nofun
  split
  · obtain ⟨hresult, hblocks, hchunks, hguarded, htripped, -⟩ :=
      UpdOut.close_keeps w sh ⟨p.x, 0, updResult 2 0 0 g 0 0, [], [], [], g, true⟩
    exact fun _ _ => ⟨htripped, hblocks, hchunks, hresult.trans (by rw [hguarded])⟩
  next hopen =>
    have hword : word = 0 := by
      simp only [Bool.or_eq_true, not_or, bne_iff_ne, ne_eq, not_not] at hopen
      exact hopen.1
    split
    · exact fun _ => nofun
    · rintro (hne | htrip) _
      · exact absurd hword hne
      · exact absurd ((updPass2_fromPass2 ..).tripped.symm.trans htrip) nofun

/-- An UPDATE that no guard stops and that ends DONE has gone through every chunk, and inverts blocks only where its program begins with
BINV (R211, R222). -/
def UpdOut.GoesThrough (sh : ShardD) (is : List Insn) (o : UpdOut) : Prop :=
  o.tripped = false → o.status = 0 → o.guarded = 0 ∧ o.chunks.length = ceilDiv sh.count 512 ∧ o.norm = normWrites sh o.x.t ∧
    (∀ i ∈ is.head?, i.op ≠ 0x23 → o.blocks = [])

theorem updPhases_goesThrough (w : Who) (sh : ShardD) (is : List Insn) (word : Nat) (x : TX) :
    (updPhases w sh is word x).GoesThrough sh is := by
  unfold updPhases
  extract_lets p g binv b kept
  split
  · exact fun _ => nofun
  split
  · obtain ⟨-, -, -, -, htripped, -⟩ := UpdOut.close_keeps w sh ⟨p.x, 0, updResult 2 0 0 g 0 0, [], [], [], g, true⟩
    exact fun hno => absurd (htripped.symm.trans hno) nofun
  split
  · exact fun _ => nofun
  · intro _ hdone
    obtain ⟨-, hguarded, hblocks, hthrough⟩ := updPass2_fromPass2 w sh is { p.x with c := b.c } b.done
    obtain ⟨hchunks, hnorm⟩ := hthrough hdone
    refine ⟨hguarded, hchunks, hnorm, fun i hi hop => hblocks.trans ?_⟩
    cases is with
    | nil => cases hi
    | cons j is =>
      cases hi
      have hnone : binv = false := by simpa [binv] using hop
      simp only [b, hnone]
      rfl

/-! ### The start of an UPDATE (R200, R211) -/

/-- From `s` to `t` the UPDATE at the head of queue `q` has started as `x`, with this outcome. -/
structure UpdStarted (q : Fin 32) (s t : State) (d : Desc) (slot : Option Nat) (o : UpdOut) (x : Cmd) : Prop where
  head : t.queues[q] = { s.queues[q] with head := s.queues[q].head + 1, active := s.queues[q].active ++ [x],
                                          clamps := t.queues[q].clamps }
  idx : x.idx = s.queues[q].head
  desc : x.desc = d
  kind : x.kind = dKind d
  status : x.status = o.status
  result : x.result = o.result
  work : x.work = .update slot o.norm o.blocks o.chunks o.guarded o.tripped
  others : OthersSame q s t
  aside : Aside { s with queues := t.queues, cores := t.cores } t
  twine : ∀ k : Fin 16, k ≠ coreOf x.cores → t.cores[k].twine = s.cores[k].twine

/-- A change aside may be preceded by one of the cores. -/
theorem aside_after_cores {s t u : State} (h : Aside { s with queues := t.queues } t) (cs : Vector Core 16)
    (k : Aside { t with cores := cs } u) : Aside { s with queues := u.queues, cores := u.cores } u := by
  have hqueues := queues_aside k
  have hform := h.form
  refine Aside.of ?_ (fun _ => rfl) (h.events.trans k.events) (fun x => k.canon (h.canon x))
    fun x off ho => (k.regs (h.canon x) off ho).trans (h.regs x off ho)
  rw [k.form, hform]

theorem putUpdate_started {q : Fin 32} {s : State} (d : Desc) (n : Nat) (slot : Option Nat) {o : UpdOut} (h : Aside s o.x.c.s) :
    ∃ x, UpdStarted q s (putUpdate q d n slot o) d slot o x := by
  unfold putUpdate
  extract_lets mask v
  have hqueues := queues_aside h
  let y : Cmd := { mkCmd s.queues[q].head d (decide (0 < n + b2n o.x.c.unbacked)) with
    cores := mask, status := o.status, result := o.result, work := .update slot o.norm o.blocks o.chunks o.guarded o.tripped }
  have hv : v = pushCmd (addClamps (startWork o.x.c.s (whoOf q o.x.c.s.queues[q].head d) d mask) q (n + b2n o.x.c.unbacked)) q y := by
    simp only [v, startCmdOn, y, hqueues]
  have hstart : Starts q s v d y := by
    rw [hv]
    exact pushCmd_starts (h.trans (startWork_aside _ _ _ _)) q _ y rfl
  have hlast : v.queues[q].active.getLast? = some y := by rw [hstart.head]; simp
  rw [hlast]
  refine ⟨y, ?_⟩
  simp only
  split
  next hbound =>
    have htrace := tracePhases_aside (updCore v (coreOf y.cores) fun k => { k with twine := o.x.t }) y (whoOf q y.idx d) [1]
    have hq := queues_aside htrace
    refine ⟨?_, rfl, rfl, rfl, rfl, rfl, rfl, fun k hk => ?_, aside_after_cores hstart.aside _ htrace, fun k hk => ?_⟩
    · rw [hq]
      exact hstart.head
    · rw [hq]
      exact hstart.others k hk
    · have hne : (coreOf y.cores).val ≠ k.val := fun e => hk (Fin.ext e.symm)
      rw [htrace.twine k, updCore_cores]
      simpa [hne] using hstart.aside.twine k
  · exact ⟨hstart.head, rfl, rfl, rfl, rfl, rfl, rfl, hstart.others, aside_after_cores hstart.aside v.cores (.refl v),
      fun k _ => hstart.aside.twine k⟩

/-! ### The cases of an UPDATE (R200, R201, R210, R225) -/

/-- An UPDATE names this shard descriptor. -/
def NamesShard (s : State) (d : Desc) (sh : ShardD) : Prop := (shardOf (rd s (udShard d) 256)).1 = sh

/-- The slot is empty, or the shard has no element. -/
def NothingToDo (s : State) (d : Desc) (sh : ShardD) : Prop := slotImage s (udProg d) = [] ∨ sh.count = 0

/-- G is loaded with the SCALE of its record (R217). -/
def ShardD.scaled (sh : ShardD) : Bool := (sh.member 1).addr != 0 && (sh.member 1).conv.scale == 1

/-- The guard word, 0 without one (R214). -/
def guardWord (s : State) (sh : ShardD) : Nat := if sh.guardPtr = 0 then 0 else rdNat s sh.guardPtr 4

/-- The inputs that the UPDATE at the head of queue `q` binds (R200). -/
def boundInputs (q : Fin 32) (s : State) (d : Desc) (sh : ShardD) : Bundle :=
  ⟨q, s.queues[q].head.toNat, d, rd s (udShard d) 256,
    if sh.scaled then some (scaleRec (rd s sh.gScale 8)).1.scale else none,
    if udSched d = 0 then noSchedule else schedule (schedOf (rd s (udSched d) 128)).1 (dStep d), slotImage s (udProg d)⟩

/-- What an UPDATE reads beyond its shard descriptor (R200). -/
def inputReads (d : Desc) (sh : ShardD) : List (Nat × Nat) :=
  (if sh.scaled then [(sh.gScale, 8)] else []) ++ (if udSched d = 0 then [] else [(udSched d, 128)]) ++
    (if sh.guardPtr = 0 then [] else [(sh.guardPtr, 4)])

theorem mem_inputReads (d : Desc) (sh : ShardD) :
    (sh.scaled = true → (sh.gScale, 8) ∈ inputReads d sh) ∧
    (udSched d ≠ 0 → (udSched d, 128) ∈ inputReads d sh) ∧
    (sh.guardPtr ≠ 0 → (sh.guardPtr, 4) ∈ inputReads d sh) := by
  unfold inputReads
  exact ⟨fun h => by simp [h], fun h => by simp [h], fun h => by simp [h]⟩

/-- An UPDATE that ends DONE before its phases. -/
def UpdOut.idle (c : Chk) (word : Nat) : UpdOut := ⟨⟨c, Twine.reset⟩, 0, updResult word 0 0 0 0 0, [], [], [], 0, false⟩

/-- A read that is made only where `p` holds leaves the state too. -/
theorem Quiet.readIf {s : State} {c : Chk} (h : Quiet s c) (hc : Canonical s) (hf : s.fatal = none) {w : Who} {a n : Nat} {p : Prop}
    [Decidable p] (hr : p → ReadOk s w [(a, n)]) : Quiet s (if p then Chk.read w c a n else c) := by
  split
  next hp => exact h.read hc hf (hr hp)
  · exact h

/-- The same where `p` fails. -/
theorem Quiet.readUnless {s : State} {c : Chk} (h : Quiet s c) (hc : Canonical s) (hf : s.fatal = none) {w : Who} {a n : Nat} {p : Prop}
    [Decidable p] (hr : ¬p → ReadOk s w [(a, n)]) : Quiet s (if p then c else Chk.read w c a n) := by
  split
  · exact h
  next hp => exact h.read hc hf (hr hp)

/-- The three ways of an UPDATE that no read stops: frozen, idle, or through its phases on the inputs it binds. -/
theorem updateBody_cases {q : Fin 32} {s : State} {c : Chk} {d : Desc} {sh : ShardD} (hq : Quiet s c) (hc : Canonical s)
    (hf : s.fatal = none) (hshard : ReadOk s (who s q d) [(udShard d, 256)]) (hnamed : NamesShard s d sh) (n : Nat) :
    (sh.freeze = true → ∃ k, k.s = s ∧ updateBody q c d n = putUpdate q d n none (.idle k 1)) ∧
    (sh.freeze = false → NothingToDo s d sh →
      ∃ k m, k.s = s ∧ updateBody q c d n = putUpdate q d m (some (udProg d)) (.idle k 0)) ∧
    (sh.freeze = false → ¬NothingToDo s d sh → ReadOk s (who s q d) (inputReads d sh) →
      ∃ u m, updateBody q c d n = putUpdate q d m (some (udProg d)) (updPhases (who s q d) sh
        (progOf (slotImage s (udProg d)) (some sh)).1 (guardWord s sh)
        ⟨⟨s, [], u, none⟩, bindTwine (boundInputs q s d sh)⟩)) := by
  unfold updateBody
  extract_lets w slot k done raw cl read n1 image is g scaled k1 k2 k3 gr sd n2 sv b word
  have hw : w = who s q d := by simp only [w, hq.state, who]
  have hk : Quiet s k := hq.read hc hf (hw ▸ hshard)
  have hsh : read = sh := by rw [← show _ = sh from hnamed]; simp only [read, cl, raw, hk.state]
  have hraw : raw = rd s (udShard d) 256 := by simp only [raw, hk.state]
  have himage : image = slotImage s (udProg d) := by simp only [image, hk.state, slot]
  have hgo : k.stop.isSome = false := by rw [hk.stop]; rfl
  rw [if_neg (by rw [hgo]; exact Bool.false_ne_true), show slotImage k.s slot = image from rfl]
  unfold NothingToDo
  rw [← himage]
  clear_value read image raw
  subst hsh
  refine ⟨fun hfreeze => ⟨k, hk.state, if_pos hfreeze⟩, fun hfreeze hidle => ?_, fun hfreeze hidle hreads => ?_⟩
  all_goals rw [if_neg (by rw [hfreeze]; exact Bool.false_ne_true)]
  · by_cases hempty : image.isEmpty = true
    · exact ⟨k, n + 1, hk.state, if_pos hempty⟩
    · have hcount : read.count = 0 := hidle.resolve_left (mt List.isEmpty_iff.2 hempty)
      exact ⟨k, n1 + is.2, hk.state, (if_neg hempty).trans (if_pos (beq_iff_eq.2 hcount))⟩
  · rw [not_or] at hidle
    rw [if_neg (mt List.isEmpty_iff.1 hidle.1), if_neg (mt beq_iff_eq.1 hidle.2)]
    obtain ⟨hscale, hsched, hguard⟩ := mem_inputReads d read
    rw [← hw] at hreads
    have hk1 : Quiet s k1 := .readIf hk hc hf fun h => readOk_of_mem hreads (hscale h)
    have hk2 : Quiet s k2 := .readUnless hk1 hc hf fun h => readOk_of_mem hreads (hsched (mt beq_iff_eq.2 h))
    have hk3 : Quiet s k3 := .readUnless hk2 hc hf fun h => readOk_of_mem hreads (hguard (mt beq_iff_eq.2 h))
    have hinputs : b = boundInputs q s d read := by
      simp only [b, sv, sd, gr, hraw, hk3.state, himage, boundInputs, beq_iff_eq]
      rfl
    have hword : word = guardWord s read := by simp only [word, hk3.state, guardWord, beq_iff_eq]
    rw [if_neg (by rw [hk3.stop]; exact Bool.false_ne_true)]
    exact ⟨k3.unbacked, n2, by rw [← hk3.eq, ← hinputs, ← hword, ← hw]⟩

/-- What an UPDATE at the head of queue `q` comes to, and the slot that it binds, where no read stops it. -/
structure UpdOutcome (q : Fin 32) (s : State) (d : Desc) (sh : ShardD) (slot : Option Nat) (o : UpdOut) : Prop where
  aside : Aside s o.x.c.s
  frozen : sh.freeze = true → slot = none ∧ ∃ k, o = .idle k 1
  idle : sh.freeze = false → NothingToDo s d sh →
    slot = some (udProg d) ∧ ∃ k, o = .idle k 0
  phases : sh.freeze = false → ¬NothingToDo s d sh → slot = some (udProg d) ∧ ∃ u,
    o = updPhases (who s q d) sh (progOf (slotImage s (udProg d)) (some sh)).1 (guardWord s sh)
      ⟨⟨s, [], u, none⟩, bindTwine (boundInputs q s d sh)⟩

theorem updateBody_outcome {q : Fin 32} {s : State} {c : Chk} {d : Desc} {sh : ShardD} (hq : Quiet s c) (hc : Canonical s)
    (hf : s.fatal = none) (hshard : ReadOk s (who s q d) [(udShard d, 256)]) (hnamed : NamesShard s d sh) (n : Nat)
    (hreads : sh.freeze = false → ¬NothingToDo s d sh → ReadOk s (who s q d) (inputReads d sh)) :
    ∃ m slot o, updateBody q c d n = putUpdate q d m slot o ∧ UpdOutcome q s d sh slot o := by
  obtain ⟨hfrozen, hidle, hphases⟩ := updateBody_cases hq hc hf hshard hnamed n
  cases hfreeze : sh.freeze with
  | true =>
    obtain ⟨k, hk, heq⟩ := hfrozen hfreeze
    have hkept : Aside s k.s := by rw [hk]; exact .refl s
    exact ⟨n, none, _, heq, hkept, fun _ => ⟨rfl, k, rfl⟩, fun h => absurd (hfreeze.symm.trans h) nofun,
      fun h => absurd (hfreeze.symm.trans h) nofun⟩
  | false =>
    by_cases hstill : NothingToDo s d sh
    · obtain ⟨k, m, hk, heq⟩ := hidle hfreeze hstill
      have hkept : Aside s k.s := by rw [hk]; exact .refl s
      exact ⟨m, _, _, heq, hkept, fun h => absurd (hfreeze.symm.trans h) nofun, fun _ _ => ⟨rfl, k, rfl⟩, fun _ h => absurd hstill h⟩
    · obtain ⟨u, m, heq⟩ := hphases hfreeze hstill (hreads hfreeze hstill)
      exact ⟨m, _, _, heq, updPhases_aside _ _ _ _ ⟨⟨s, [], u, none⟩, _⟩, fun h => absurd (hfreeze.symm.trans h) nofun,
        fun _ h => absurd h hstill, fun _ _ => ⟨rfl, u, rfl⟩⟩

/-! ### The claim -/

theorem exec_update (q : Fin 32) (env : List Finding) (s : State) : exec (.update q env) s = execUpdate q env s := rfl

/-- An UPDATE that may start goes on with its effect. -/
theorem exec_update_of_ready {q : Fin 32} {s : State} {c : Chk} {d : Desc} (h : Ready s q [] c d) (hkind : dKind d = 4)
    (hready : updateReady s d = true) :
    exec (.update q []) s = .next (updateBody q c d (b2n (decide (0x0B ≤ dKindRaw d)))) := by
  rw [exec_update, execUpdate, startAlone_of_ready h (by rw [hkind, hready]; rfl)]

end Sys2Proof.Machine

namespace Sys2Proof.Safety

open Sys2Proof.Machine

/-- Settles O11: no read stops the UPDATE, so it is frozen, idle, or comes to what its phases come to on the inputs that it binds. -/
theorem updateBindsItsInputs : Obligations.UpdateBindsItsInputs := by
  intro q s c d w raw sh image scaled bundle word idle hc hready hkind hupd hshard hreads
  have hnamed : NamesShard s d sh := rfl
  clear_value sh
  obtain ⟨halone, hfetch, -⟩ := id hready
  obtain ⟨hq, hf⟩ := fetchHead_quiet hc hfetch
  rw [hq.state] at hupd
  have hexec := exec_update_of_ready hready hkind hupd
  obtain ⟨m, slot, o, heq, hout⟩ := updateBody_outcome hq hc hf hshard hnamed (b2n (decide (0x0B ≤ dKindRaw d))) hreads
  obtain ⟨x, hx⟩ := putUpdate_started d m slot hout.aside (q := q)
  rw [heq] at hexec
  refine ⟨_, x, hexec, hx.idx, hx.desc, hx.kind.trans hkind, ?_, hx.others, hx.aside, hx.twine, fun hfreeze => ?_,
    fun hfreeze hidle => ?_, fun hfreeze hidle => ?_⟩
  · have hhead := hx.head
    rw [halone] at hhead
    exact hhead
  · obtain ⟨rfl, k, rfl⟩ := hout.frozen hfreeze
    exact ⟨hx.status, hx.result, hx.work⟩
  · obtain ⟨rfl, k, rfl⟩ := hout.idle hfreeze hidle
    exact ⟨hx.status, hx.result, hx.work⟩
  · obtain ⟨rfl, u, rfl⟩ := hout.phases hfreeze hidle
    refine ⟨u, hx.status, hx.result, hx.work, fun hguard hdone => ?_, fun hopen hdone => ?_⟩
    · obtain ⟨htripped, hblocks, hchunks, hresult⟩ := updPhases_guardHolds _ _ _ _ _ hguard (hx.status.symm.trans hdone)
      exact ⟨htripped, hblocks, hchunks, hx.result.trans hresult⟩
    · exact updPhases_goesThrough _ _ _ _ _ hopen (hx.status.symm.trans hdone)

end Sys2Proof.Safety
end

section
/-! ## The canonical form of memory and of the register file (O3)

Each function of the model that carries a state has one lemma, `<name>_keepsCanon`, an equation that `simp` rewrites with, so that the
lemma of a function follows from those of the functions it calls. -/

namespace Sys2Proof.Machine

open Sys2Proof.Safety

/-- What a change from `s` to `t` keeps: the canonical form of memory and of the register file, where `s` has it. -/
def CanonFrom (s t : State) : Prop := Canonical s → Canonical t

/-- `CanonFrom` under a name that `simp` has no lemma about, so that the right side of `KeepsCanon` is a normal form: an operation keeps the form of every
earlier state, and a chain of operations rewrites back to the first. Nothing is lost by it, as the two are the same relation. -/
def Mends (s t : State) : Prop := CanonFrom s t

/-- Whatever kept the form up to `s` keeps it up to `t`. -/
abbrev KeepsCanon (s t : State) : Prop := ∀ r, CanonFrom r t ↔ CanonFrom r s ∨ Mends r t

@[refl, simp] theorem CanonFrom.refl (s : State) : CanonFrom s s := id

theorem CanonFrom.trans {s t u : State} (h : CanonFrom s t) (k : CanonFrom t u) : CanonFrom s u := k ∘ h

theorem KeepsCanon.of {s t : State} (h : CanonFrom s t) : KeepsCanon s t := fun _ =>
  ⟨Or.inr, fun k => k.elim (fun k => k.trans h) id⟩

theorem KeepsCanon.from {s t : State} (h : KeepsCanon s t) : CanonFrom s t := (h s).2 (.inl (.refl s))

end Sys2Proof.Machine

namespace Sys2Proof.Safety

open Sys2Proof.Machine

/-- What leaves only records aside keeps the canonical form. -/
theorem Aside.keepsCanon {s t : State} (h : Aside s t) : KeepsCanon s t := .of h.canonical

end Sys2Proof.Safety

namespace Sys2Proof.Machine

open Sys2Proof.Safety

theorem Keep.keepsCanon {s t : State} (h : Keep s t) : KeepsCanon s t := .of h.1

/-- A record update of other fields. -/
@[simp] theorem canonFrom_update (r s : State) (pending : List Instr) (phase : Phase) (fresh : Nat)
    (poison : List Nat) (t3 : List T3Unit) (queues : Vector Queue 32) (tokens : Vector (BitVec 32) 256)
    (events evWait : List EvRec) (evTail evHead evLost rclamp : Nat) (halts : List HaltReq) (haltCount : BitVec 32)
    (haltSeen : List (Nat × Nat)) (gauge : Gauge) (ports : Vector Port 16) (routes : List (Nat × Nat)) (groups : Vector Group 8)
    (early looped : List HeldPkt) (resetCause bl : Nat) (t1Init t2Init : Bool) (ueAddr : BitVec 64) (jobFatal : Bool)
    (fatal : Option Fatal) (mbx : Mailbox) (inService : Vector Bool 96) (engines : Vector Engine 96) (fuses : Vector Nat 96)
    (eddies : Vector (List Byte) 4)
    (eddyCrc : Vector Nat 4) (eddyLoaded : Vector Bool 4) (bist : Vector Nat 96) (programs : Vector (List Byte) 16)
    (progCrc : Vector Nat 16) (cores : Vector Core 16) (snap : SnapBuf) (power : Power) (serial : BitVec 64) (stepping : Byte) (otp : Otp)
    (flash : Flash) (boot : Boot) (puf : BitVec 256) (romRoot : Nat)
    (idKey t1key t2key : Option Nat) (unlocked : Bool) (measLog : List (Nat × Nat)) (sessions : Vector Session 3)
    (jobClear : Option (List (Nat × Nat))) (mgmt : Mgmt) (cfg : CfgCheck) (alert perst pwrEn loopOpen : Bool) (ide : List IdeStream)
    (msix : Vector MsixEntry 34) (msixPending : Vector Bool 34) (t3key : Option JobKey) (outbox : List OutMsg) :
    CanonFrom r ⟨pending, phase, fresh, s.regs, s.mem, poison, t3, queues, tokens, events, evWait, evTail, evHead, evLost, rclamp, halts,
      haltCount, haltSeen, gauge, ports, routes, groups, early, looped, resetCause, bl, t1Init, t2Init, ueAddr, jobFatal, fatal, mbx, inService,
      engines, fuses, eddies, eddyCrc, eddyLoaded, bist, programs, progCrc, cores, snap, power, serial, stepping, otp, flash, boot,
      puf, romRoot, idKey, t1key, t2key, unlocked, measLog, sessions, jobClear, mgmt, cfg, alert, perst, pwrEn, loopOpen, ide, msix,
      msixPending, t3key, outbox⟩ ↔ CanonFrom r s := (Iff.rfl)

/-! ### Branches and folds, over the state and over what carries one -/

section

variable {α β : Type} {p : Prop} [Decidable p] (r : State)

@[simp] theorem canonFrom_ite (s t : State) : CanonFrom r (if p then s else t) ↔ if p then CanonFrom r s else CanonFrom r t := by
  split <;> rfl

@[simp] theorem canonFrom_fst_ite (x y : State × α) :
    CanonFrom r (if p then x else y).1 ↔ if p then CanonFrom r x.1 else CanonFrom r y.1 := by split <;> rfl

@[simp] theorem Chk.canonFrom_ite (x y : Chk) : CanonFrom r (if p then x else y).s ↔ if p then CanonFrom r x.s else CanonFrom r y.s := by
  split <;> rfl

@[simp] theorem Over.canonFrom_ite (x y : Over) :
    CanonFrom r (if p then x else y).c.s ↔ if p then CanonFrom r x.c.s else CanonFrom r y.c.s := by split <;> rfl

theorem canonFrom_foldlBy (g : α → State) {f : α → β → α} (hf : ∀ x b, CanonFrom (g x) (g (f x b))) (l : List β) (x : α) :
    KeepsCanon (g x) (g (l.foldl f x)) := by
  refine .of ?_
  induction l generalizing x with
  | nil => exact .refl _
  | cons b l ih => exact (hf x b).trans (ih _)

@[simp] theorem canonFrom_foldl {f : State → β → State} (hf : ∀ s b, CanonFrom s (f s b)) (l : List β) (s : State) :
    KeepsCanon s (l.foldl f s) := canonFrom_foldlBy id hf l s

@[simp] theorem canonFrom_foldl_fst {f : State × α → β → State × α} (hf : ∀ x b, CanonFrom x.1 (f x b).1) (l : List β)
    (x : State × α) : KeepsCanon x.1 (l.foldl f x).1 := canonFrom_foldlBy Prod.fst hf l x

@[simp] theorem Chk.canonFrom_foldl {f : Chk → β → Chk} (hf : ∀ x b, CanonFrom x.s (f x b).s) (l : List β) (x : Chk) :
    KeepsCanon x.s (l.foldl f x).s := canonFrom_foldlBy (fun x => x.s) hf l x

@[simp] theorem Over.canonFrom_foldl {f : Over → β → Over} (hf : ∀ x b, CanonFrom x.c.s (f x b).c.s) (l : List β) (x : Over) :
    KeepsCanon x.c.s (l.foldl f x).c.s := canonFrom_foldlBy (fun x => x.c.s) hf l x

@[simp] theorem Rerun.canonFrom_foldl {f : Rerun → β → Rerun} (hf : ∀ x b, CanonFrom x.c.s (f x b).c.s) (l : List β) (x : Rerun) :
    KeepsCanon x.c.s (l.foldl f x).c.s := canonFrom_foldlBy (fun x => x.c.s) hf l x

@[simp] theorem EChk.canonFrom_foldl {f : EChk → β → EChk} (hf : ∀ x b, CanonFrom x.s (f x b).s) (l : List β) (x : EChk) :
    KeepsCanon x.s (l.foldl f x).s := canonFrom_foldlBy (fun x => x.s) hf l x

@[simp] theorem StepEv.canonFrom_foldl {f : StepEv → β → StepEv} (hf : ∀ x b, CanonFrom x.c.s (f x b).c.s) (l : List β) (x : StepEv) :
    KeepsCanon x.c.s (l.foldl f x).c.s := canonFrom_foldlBy (fun x => x.c.s) hf l x

@[simp] theorem TX.canonFrom_foldl {f : TX → β → TX} (hf : ∀ x b, CanonFrom x.c.s (f x b).c.s) (l : List β) (x : TX) :
    KeepsCanon x.c.s (l.foldl f x).c.s := canonFrom_foldlBy (fun x => x.c.s) hf l x

@[simp] theorem Pass.canonFrom_foldl {f : Pass → β → Pass} (hf : ∀ x b, CanonFrom x.x.c.s (f x b).x.c.s) (l : List β) (x : Pass) :
    KeepsCanon x.x.c.s (l.foldl f x).x.c.s := canonFrom_foldlBy (fun x => x.x.c.s) hf l x

@[simp] theorem Blocks.canonFrom_foldl {f : Blocks → β → Blocks} (hf : ∀ x b, CanonFrom x.c.s (f x b).c.s) (l : List β) (x : Blocks) :
    KeepsCanon x.c.s (l.foldl f x).c.s := canonFrom_foldlBy (fun x => x.c.s) hf l x

@[simp] theorem CbCopy.canonFrom_foldl {f : CbCopy → β → CbCopy} (hf : ∀ x b, CanonFrom x.c.s (f x b).c.s) (l : List β) (x : CbCopy) :
    KeepsCanon x.c.s (l.foldl f x).c.s := canonFrom_foldlBy (fun x => x.c.s) hf l x

end

/-! ### Registers -/

@[simp] theorem regPut_keepsCanon (s : State) (off : Nat) (v : BitVec 64) : KeepsCanon s (regPut s off v) := (regPut_keep s off v).keepsCanon

@[simp] theorem regPutField_keepsCanon (s : State) (off lo w v : Nat) : KeepsCanon s (regPutField s off lo w v) :=
  (regPutField_keep s off lo w v).keepsCanon

@[simp] theorem cntInc_keepsCanon (s : State) (off lo w : Nat) : KeepsCanon s (cntInc s off lo w) := (cntInc_keep s off lo w).keepsCanon

@[simp] theorem setFlag_keepsCanon (s : State) (off bit cnt : Nat) : KeepsCanon s (setFlag s off bit cnt) :=
  (setFlag_keep s off bit cnt).keepsCanon

@[simp] theorem setFlagOnly_keepsCanon (s : State) (off bit : Nat) : KeepsCanon s (setFlagOnly s off bit) :=
  (setFlagOnly_keep s off bit).keepsCanon

@[simp] theorem rclampInc_keepsCanon (s : State) : KeepsCanon s (rclampInc s) := .of id

@[simp] theorem freshen_keepsCanon (s : State) : KeepsCanon s (freshen s) := .of id

/-! ### Memory -/

@[simp] theorem t3Stamp_keepsCanon (s : State) (u : Nat) (bad : Bool) : KeepsCanon s (t3Stamp s u bad) := by
  refine .of ?_
  unfold t3Stamp
  split <;> simp

@[simp] theorem poisonLine_keepsCanon (s : State) (l : Nat) : KeepsCanon s (poisonLine s l) := (poisonLine_aside s l).keepsCanon

@[simp] theorem wrByte_keepsCanon (s : State) (a : Nat) (b : Byte) : KeepsCanon s (wrByte s a b) := by
  obtain ⟨m, h, hw⟩ := wrByte_form s a b
  rw [h]
  exact .of fun x => ⟨hw x.1, x.2⟩

@[simp] theorem wrBytes_keepsCanon (s : State) (a : Nat) (bs : List Byte) : KeepsCanon s (wrBytes s a bs) := by
  induction bs generalizing s a with
  | nil => exact .of (.refl s)
  | cons b bs ih => exact .of (by simp [wrBytes, ih])

@[simp] theorem cleanLines_keepsCanon (s : State) (a n : Nat) : KeepsCanon s (cleanLines s a n) := .of id

@[simp] theorem t3Tag_keepsCanon (a n : Nat) (s : State) (b : Nat) : KeepsCanon s (t3Tag a n s b) := .of (by simp [t3Tag])

@[simp] theorem t3Tags_keepsCanon (s : State) (a n : Nat) : KeepsCanon s (t3Tags s a n) := .of (by simp [t3Tags])

@[simp] theorem wr_keepsCanon (s : State) (a : Nat) (bs : List Byte) : KeepsCanon s (wr s a bs) := .of (by simp [wr])

@[simp] theorem wrPoison_keepsCanon (s : State) (a n : Nat) : KeepsCanon s (wrPoison s a n) := .of (by simp [wrPoison])

@[simp] theorem applyWrite_keepsCanon (w : Nat × Nat) (s : State) (x : MemWrite) : KeepsCanon s (applyWrite w s x) := by
  refine .of ?_
  dsimp only [applyWrite]
  repeat' split
  all_goals simp

@[simp] theorem applyWrites_keepsCanon (w : Nat × Nat) (s : State) (ws : List MemWrite) : KeepsCanon s (applyWrites w s ws) := by
  refine .of ?_
  simp [applyWrites]

@[simp] theorem freeRanges_keepsCanon (w : Nat × Nat) (s : State) (rs : List (Nat × Nat)) : KeepsCanon s (freeRanges w s rs) := by
  refine .of ?_
  simp [freeRanges]

/-! ### Traces and counter banks -/

@[simp] theorem updCore_keepsCanon (s : State) (c : Fin 16) (f : Core → Core) : KeepsCanon s (updCore s c f) := .of id

@[simp] theorem updTrace_keepsCanon (s : State) (c : Fin 16) (f : Trace → Trace) : KeepsCanon s (updTrace s c f) := .of id

@[simp] theorem countEv_keepsCanon (s : State) (c : Fin 16) (code n : Nat) : KeepsCanon s (countEv s c code n) := .of id

@[simp] theorem matchFire_keepsCanon (s : State) (c : Fin 16) (kind : Nat) (w : Who) : KeepsCanon s (matchFire s c kind w).1 :=
  (matchFire_aside s c kind w).keepsCanon

@[simp] theorem putDrops_keepsCanon (s : State) (c : Fin 16) : KeepsCanon s (putDrops s c).1 := (putDrops_aside s c).keepsCanon

@[simp] theorem broadcast_keepsCanon (x : State × Bool) : KeepsCanon x.1 (broadcast x) := (broadcast_aside x).keepsCanon

@[simp] theorem triggerAll_keepsCanon (s : State) (bit info : Nat) : KeepsCanon s (triggerAll s bit info) :=
  (triggerAll_aside s bit info).keepsCanon

@[simp] theorem triggerSw_keepsCanon (s : State) (c : Fin 16) : KeepsCanon s (triggerSw s c) := (triggerSw_aside s c).keepsCanon

@[simp] theorem traceRec_keepsCanon (s : State) (c : Fin 16) (kind unit index info : Nat) (w : Who) (data : Nat) :
    KeepsCanon s (traceRec s c kind unit index info w data) := (traceRec_aside s c kind unit index info w data).keepsCanon

@[simp] theorem traceAll_keepsCanon (s : State) (kind unit info : Nat) (w : Who) (data : Nat) :
    KeepsCanon s (traceAll s kind unit info w data) := (traceAll_aside s kind unit info w data).keepsCanon

@[simp] theorem traceCores_keepsCanon (s : State) (mask kind unit info : Nat) (w : Who) (data : Nat) :
    KeepsCanon s (traceCores s mask kind unit info w data) := (traceCores_aside s mask kind unit info w data).keepsCanon

@[simp] theorem shareEnds_keepsCanon (s : State) (mask : Nat) (w : Who) : KeepsCanon s (shareEnds s mask w) := .of id

@[simp] theorem countShared_keepsCanon (s : State) (mask code n : Nat) : KeepsCanon s (countShared s mask code n) :=
  (countShared_aside s mask code n).keepsCanon

/-! ### Event records and line checks -/

@[simp] theorem evPush_keepsCanon (s : State) (q : Nat) (bytes : List Byte) : KeepsCanon s (evPush s q bytes) :=
  (evPush_aside s q bytes).keepsCanon

@[simp] theorem errEvent_keepsCanon (s : State) (w : Who) (cause cls unit index count addr : Nat) :
    KeepsCanon s (errEvent s w cause cls unit index count addr) := (errEvent_aside s w cause cls unit index count addr).keepsCanon

@[simp] theorem queueEvent_keepsCanon (s : State) (cause : Nat) (w : Who) : KeepsCanon s (queueEvent s cause w) :=
  (queueEvent_aside s cause w).keepsCanon

@[simp] theorem gaugeEvent_keepsCanon (s : State) (cause old new : Nat) : KeepsCanon s (gaugeEvent s cause old new) :=
  (gaugeEvent_aside s cause old new).keepsCanon

@[simp] theorem haltEvent_keepsCanon (s : State) (cause mask id origin hops : Nat) :
    KeepsCanon s (haltEvent s cause mask id origin hops) := (haltEvent_aside s cause mask id origin hops).keepsCanon

@[simp] theorem clockEvent_keepsCanon (s : State) (cause old new : Nat) : KeepsCanon s (clockEvent s cause old new) :=
  (clockEvent_aside s cause old new).keepsCanon

@[simp] theorem lastSrc_keepsCanon (s : State) (c : Nat) : KeepsCanon s (lastSrc s c) := (lastSrc_keep s c).keepsCanon

@[simp] theorem eccCorrected_keepsCanon (s : State) (a : Nat) : KeepsCanon s (eccCorrected s a) := (eccCorrected_keep s a).keepsCanon

@[simp] theorem eccUncorrected_keepsCanon (s : State) (w : Who) (a : Nat) : KeepsCanon s (eccUncorrected s w a) :=
  (eccUncorrected_aside s w a).keepsCanon

@[simp] theorem Chk.init_keepsCanon (s : State) (env : List Finding) : KeepsCanon s (Chk.init s env).s := .of id

@[simp] theorem Chk.readLine_keepsCanon (w : Who) (c : Chk) (l : Nat) : KeepsCanon c.s (Chk.readLine w c l).s :=
  (Chk.readLine_aside w c l).keepsCanon

@[simp] theorem Chk.read_keepsCanon (w : Who) (c : Chk) (a n : Nat) : KeepsCanon c.s (Chk.read w c a n).s :=
  (Chk.read_aside w c a n).keepsCanon

@[simp] theorem Chk.mergeLine_keepsCanon (w : Who) (c : Chk) (l : Nat) : KeepsCanon c.s (Chk.mergeLine w c l).s :=
  (Chk.mergeLine_aside w c l).keepsCanon

@[simp] theorem Chk.write_keepsCanon (w : Who) (c : Chk) (a n : Nat) : KeepsCanon c.s (Chk.write w c a n).s :=
  (Chk.write_aside w c a n).keepsCanon

@[simp] theorem Chk.writeOpen_keepsCanon (w : Who) (s : State) (rs : List (Nat × Nat)) : KeepsCanon s (Chk.writeOpen w s rs).s :=
  (Chk.writeOpen_aside w s rs).keepsCanon

@[simp] theorem wrNoted_keepsCanon (s : State) (a : Nat) (bs : List Byte) : KeepsCanon s (wrNoted s a bs) := (wrNoted_keep s a bs).keepsCanon

@[simp] theorem spillRec_keepsCanon (s : State) (c : Fin 16) (r : List Byte) : KeepsCanon s (spillRec s c r) := .of (by simp [spillRec])

@[simp] theorem drain_keepsCanon (n : Nat) (s : State) (c : Fin 16) : KeepsCanon s (drain n s c) := by
  induction n generalizing s with
  | zero => exact .of (.refl _)
  | succ n ih =>
    refine .of ?_
    unfold drain
    dsimp only
    repeat' split
    all_goals simp [ih]

@[simp] theorem settleTrace_keepsCanon (s : State) (c : Fin 16) : KeepsCanon s (settleTrace s c) := .of (by simp [settleTrace])

@[simp] theorem settleTraces_keepsCanon (s : State) : KeepsCanon s (settleTraces s) := .of (by simp [settleTraces])

@[simp] theorem Chk.go_keepsCanon (c : Chk) : KeepsCanon c.s (Chk.go c).s := .of id

/-! ### Commands of a queue -/

@[simp] theorem updQ_keepsCanon (s : State) (q : Fin 32) (f : Queue → Queue) : KeepsCanon s (updQ s q f) := .of id

@[simp] theorem addClamps_keepsCanon (s : State) (q : Fin 32) (n : Nat) : KeepsCanon s (addClamps s q n) := .of id

@[simp] theorem pushCmd_keepsCanon (s : State) (q : Fin 32) (c : Cmd) : KeepsCanon s (pushCmd s q c) := .of id

@[simp] theorem updE_keepsCanon (s : State) (e : Fin 96) (f : Engine → Engine) : KeepsCanon s (updE s e f) := .of id

@[simp] theorem abortEngine_keepsCanon (s : State) (e : Fin 96) : KeepsCanon s (abortEngine s e) := .of id

@[simp] theorem abortSome_keepsCanon (s : State) (es : List Nat) : KeepsCanon s (abortSome s es) := .of (by simp [abortSome])

@[simp] theorem raise_keepsCanon (s : State) (v : Nat) : KeepsCanon s (raise s v) := .of (by simp [raise])

@[simp] theorem fromHost_keepsCanon (s : State) {go : State → State} (hgo : ∀ s, CanonFrom s (go s)) :
    KeepsCanon s (fromHost s go) := by
  refine .of ?_
  simp [fromHost, hgo]

@[simp] theorem writeRec_keepsCanon (s : State) (q : Fin 32) (r : List Byte × Bool) :
    KeepsCanon s (writeRec s q r) := .of (by simp [writeRec])

@[simp] theorem writeRecs_keepsCanon (q : Fin 32) (n : Nat) (s : State) : KeepsCanon s (writeRecs q n s) := by
  induction n generalizing s with
  | zero => exact .of (.refl _)
  | succ n ih => refine .of ?_; unfold writeRecs; split <;> simp [ih]

@[simp] theorem flushRecs_keepsCanon (s : State) (q : Fin 32) : KeepsCanon s (flushRecs s q) := .of (by simp [flushRecs])

@[simp] theorem endWork_keepsCanon (s : State) (c : Cmd) (status : Nat) (w : Who) : KeepsCanon s (endWork s c status w) :=
  (endWork_aside s c status w).keepsCanon

@[simp] theorem putRec_keepsCanon (s : State) (q : Fin 32) (c : Cmd) (status : Nat) :
    KeepsCanon s (putRec s q c status) := .of (by simp [putRec])

@[simp] theorem tokenMap_keepsCanon (s : State) (t : Nat) (f : BitVec 32 → BitVec 32) : KeepsCanon s (tokenMap s t f) := .of id

@[simp] theorem leaveRunning_keepsCanon (s : State) (q : Fin 32) (st : QState) : KeepsCanon s (leaveRunning s q st) := .of id

@[simp] theorem containCmd_keepsCanon (s : State) (q : Fin 32) (c : Cmd) : KeepsCanon s (containCmd s q c) := .of (by simp [containCmd])

@[simp] theorem containAll_keepsCanon (s : State) (q : Fin 32) : KeepsCanon s (containAll s q) := by
  refine .of ?_
  dsimp only [containAll]
  repeat' split
  all_goals simp

@[simp] theorem containHead_keepsCanon (s : State) (q : Fin 32) : KeepsCanon s (containHead s q) := .of (by simp [containHead])

@[simp] theorem signalEffect_keepsCanon (s : State) (w : Work) : KeepsCanon s (signalEffect s w) := by
  refine .of ?_
  unfold signalEffect
  split <;> simp

@[simp] theorem finishCmd_keepsCanon (s : State) (q : Fin 32) (c : Cmd) : KeepsCanon s (finishCmd s q c) := .of (by simp [finishCmd])

@[simp] theorem doneCmd_keepsCanon (s : State) (q : Fin 32) (c : Cmd) : KeepsCanon s (doneCmd s q c) := .of (by simp [doneCmd])

@[simp] theorem popCmd_keepsCanon (s : State) (q : Fin 32) : KeepsCanon s (popCmd s q) := .of id

@[simp] theorem setCmd_keepsCanon (s : State) (q : Fin 32) (c : Cmd) : KeepsCanon s (setCmd s q c) := .of id

theorem fetchHead_got_keepsCanon {s : State} {q : Fin 32} {env : List Finding} {c : Chk} {d : Desc} (h : fetchHead s q env = .got c d) :
    KeepsCanon s c.s := (fetchHead_got h).1.keepsCanon

theorem fetchHead_bad_keepsCanon {s : State} {q : Fin 32} {env : List Finding} {c : Chk} (h : fetchHead s q env = .bad c) :
    KeepsCanon s c.s := (fetchHead_bad h).keepsCanon

@[simp] theorem startRow_keepsCanon (s : State) (q : Fin 32) (env : List Finding) (isRow : State → Desc → Bool)
    {body : Chk → Desc → Nat → State}
    (hb : ∀ c d n, CanonFrom c.s (body c d n)) : KeepsCanon s (startRow s q env isRow body) := by
  refine .of ?_
  unfold startRow
  split
  · rfl
  next c hc => simp [fetchHead_bad_keepsCanon hc]
  next c d hc => simp [fun n => KeepsCanon.of (hb c d n), fetchHead_got_keepsCanon hc]

@[simp] theorem startAlone_keepsCanon (s : State) (q : Fin 32) (env : List Finding) (isRow : State → Desc → Bool)
    {body : Chk → Desc → Nat → State}
    (hb : ∀ c d n, CanonFrom c.s (body c d n)) : KeepsCanon s (startAlone s q env isRow body) := by
  refine .of ?_
  simp [startAlone, startRow_keepsCanon s q env isRow hb]

@[simp] theorem startWork_keepsCanon (s : State) (w : Who) (d : Desc) (mask : Nat) : KeepsCanon s (startWork s w d mask) :=
  (startWork_aside s w d mask).keepsCanon

@[simp] theorem startCmdOn_keepsCanon (mask : Nat) (s : State) (q : Fin 32) (d : Desc) (clamps : Nat) (f : Cmd → Cmd) :
    KeepsCanon s (startCmdOn mask s q d clamps f) := .of (by simp [startCmdOn])

@[simp] theorem joinCores_keepsCanon (s : State) (q : Fin 32) (idx : BitVec 32) (d : Desc) (mask : Nat) :
    KeepsCanon s (joinCores s q idx d mask) := .of (by simp [joinCores])

@[simp] theorem startCmd_keepsCanon (s : State) (q : Fin 32) (d : Desc) (clamps : Nat) (f : Cmd → Cmd) :
    KeepsCanon s (startCmd s q d clamps f) := .of (by simp [startCmd])

/-! ### Ports: sending and receiving -/

@[simp] theorem updP_keepsCanon (s : State) (p : Fin 16) (f : Port → Port) : KeepsCanon s (updP s p f) := .of id

@[simp] theorem outMsg_keepsCanon (s : State) (m : OutMsg) : KeepsCanon s (outMsg s m) := .of id

@[simp] theorem portMalformed_keepsCanon (s : State) (p : Fin 16) : KeepsCanon s (portMalformed s p) := .of (by simp [portMalformed])

@[simp] theorem portDrop_keepsCanon (s : State) (p : Fin 16) : KeepsCanon s (portDrop s p) := .of (by simp [portDrop])

@[simp] theorem outFlit_keepsCanon (s : State) (p : Fin 16) (x : SentFlit) : KeepsCanon s (outFlit s p x) := .of id

@[simp] theorem outRetryReq_keepsCanon (s : State) (p : Fin 16) : KeepsCanon s (outRetryReq s p) := .of id

@[simp] theorem traceLink_keepsCanon (s : State) (p : Fin 16) (kind info vc : Nat) (phase : Bool) (seq : Nat) (payload : List Byte) :
    KeepsCanon s (traceLink s p kind info vc phase seq payload) := .of (by simp [traceLink])

@[simp] theorem freeBuf_keepsCanon (s : State) (b : RxBuf) : KeepsCanon s (freeBuf s b) := .of id

@[simp] theorem freeBufs_keepsCanon (s : State) (bs : List RxBuf) : KeepsCanon s (freeBufs s bs) :=
  canonFrom_foldl (fun s b => (freeBuf_keepsCanon s b).from) bs s

@[simp] theorem emitFlit_keepsCanon (s : State) (p : Fin 16) (f : OutFlit) : KeepsCanon s (emitFlit s p f) := .of (by simp [emitFlit])

@[simp] theorem flushPort_keepsCanon (n : Nat) (s : State) (p : Fin 16) : KeepsCanon s (flushPort n s p) := by
  induction n generalizing s with
  | zero => exact .of (.refl _)
  | succ n ih =>
    refine .of ?_
    unfold flushPort
    repeat' split
    all_goals simp [ih]

@[simp] theorem sendOwed_keepsCanon (n : Nat) (s : State) (p : Fin 16) : KeepsCanon s (sendOwed n s p) := by
  induction n generalizing s with
  | zero => exact .of (.refl _)
  | succ n ih =>
    refine .of ?_
    unfold sendOwed
    repeat' split
    all_goals simp [ih]

@[simp] theorem returnCredits_keepsCanon (s : State) : KeepsCanon s (returnCredits s) := .of (by simp [returnCredits])

@[simp] theorem flush_keepsCanon (s : State) (p : Fin 16) : KeepsCanon s (flush s p) := .of (by simp [flush])

@[simp] theorem enqueue_keepsCanon (s : State) (p : Fin 16) (fs : List OutFlit) : KeepsCanon s (enqueue s p fs) := .of (by simp [enqueue])

@[simp] theorem transmit_keepsCanon (s : State) (out : Fin 16) (vc : Nat) (phase : Bool) (bs : List Byte) (bufs : List RxBuf) :
    KeepsCanon s (transmit s out vc phase bs bufs) := .of (by simp [transmit])

@[simp] theorem sendPacket_keepsCanon (s : State) (dst dport cls vc : Nat) (body : List Byte) :
    KeepsCanon s (sendPacket s dst dport cls vc body) := by
  refine .of ?_
  dsimp only [sendPacket]
  repeat' split
  all_goals simp

@[simp] theorem askRetry_keepsCanon (s : State) (p : Fin 16) : KeepsCanon s (askRetry s p) := .of (by simp [askRetry])

@[simp] theorem fecCount_keepsCanon (s : State) (p : Fin 16) (l : LineCheck) : KeepsCanon s (fecCount s p l) := .of id

theorem notFlit_keepsCanon {s t : State} {p : Fin 16} {f : Flit} {n : Nat} (h : notFlit s p f n = some t) : KeepsCanon s t := by
  refine .of ?_
  unfold notFlit at h
  split at h
  · cases h
  · split at h <;> cases h <;> simp

@[simp] theorem dropPart_keepsCanon (s : State) (p : Fin 16) (x : PartPkt) : KeepsCanon s (dropPart s p x) := .of (by simp [dropPart])

@[simp] theorem finishPacket_keepsCanon (s : State) (p : Fin 16) (x : PartPkt) : KeepsCanon s (finishPacket s p x).1 := by
  refine .of ?_
  dsimp only [finishPacket]
  repeat' split
  all_goals simp

@[simp] theorem malformedData_keepsCanon (s : State) (p : Fin 16) (f : Flit) :
    KeepsCanon s (malformedData s p f) := .of (by simp [malformedData])

@[simp] theorem takeData_keepsCanon (s : State) (p : Fin 16) (f : Flit) (b : RxBuf) : KeepsCanon s (takeData s p f b).1 := by
  refine .of ?_
  dsimp only [takeData]
  repeat' split
  all_goals simp

@[simp] theorem rxSequenced_keepsCanon (s : State) (p : Fin 16) (f : Flit) (room : Bool) :
    KeepsCanon s (rxSequenced s p f room).state := by
  refine .of ?_
  simp [rxSequenced, apply_ite Rx.state]

@[simp] theorem rxData_keepsCanon (s : State) (p : Fin 16) (f : Flit) : KeepsCanon s (rxData s p f).1 := by
  refine .of ?_
  unfold rxData
  split
  next t h => exact (notFlit_keepsCanon h).from
  next =>
    have hseq := (rxSequenced_keepsCanon s p f ((rxBufFor s.ports[p] p.val f.vc.toNat f.phase).isSome || decide (9 ≤ f.vc.toNat))).from
    dsimp only
    split
    next t h => rw [h] at hseq; exact hseq
    next t h =>
      rw [h, Rx.state_accept] at hseq
      split <;> simp [hseq]

/-! ### MOVE -/

@[simp] theorem copyBody_keepsCanon (q : Fin 32) (c : Chk) (d : Desc) (n : Nat) : KeepsCanon c.s (copyBody q c d n) := by
  refine .of ?_
  dsimp only [copyBody]
  repeat' split
  all_goals simp

@[simp] theorem fillBody_keepsCanon (q : Fin 32) (c : Chk) (d : Desc) (n : Nat) : KeepsCanon c.s (fillBody q c d n) := by
  refine .of ?_
  dsimp only [fillBody]
  repeat' split
  all_goals simp

@[simp] theorem atomicStep_keepsCanon (w : Who) (code : Nat) (a : Atomic) (x : Chk × List Nat) (p : Nat × Nat) :
    KeepsCanon x.1.s (atomicStep w code a x p).1.s := by
  refine .of ?_
  dsimp only [atomicStep]
  repeat' split
  all_goals simp

/-- A fold of atomic steps. -/
@[simp] theorem atomicSteps_keepsCanon (w : Who) (code : Nat) (a : Atomic) (ps : List (Nat × Nat)) (x : Chk × List Nat) :
    KeepsCanon x.1.s (ps.foldl (atomicStep w code a) x).1.s := 
  canonFrom_foldlBy (fun x : Chk × List Nat => x.1.s) (fun x p => (atomicStep_keepsCanon w code a x p).from) ps x

@[simp] theorem atomicBody_keepsCanon (code : Nat) (q : Fin 32) (c : Chk) (d : Desc) (n : Nat) :
    KeepsCanon c.s (atomicBody code q c d n) := by
  refine .of ?_
  dsimp only [atomicBody]
  split
  · simp
  · split <;> simp

@[simp] theorem startAtomic_keepsCanon (code : Nat) (q : Fin 32) (env : List Finding) (s : State) :
    KeepsCanon s (startAtomic code q env s) := .of (by simp [startAtomic])

/-! ### Reductions -/

@[simp] theorem updG_keepsCanon (s : State) (n : Nat) (f : Group → Group) : KeepsCanon s (updG s n f) := .of id

@[simp] theorem setReduce_keepsCanon (s : State) (q : Fin 32) (r : Reduce) : KeepsCanon s (setReduce s q r) := .of id

@[simp] theorem sendPkt_keepsCanon (s : State) (addr dport : Nat) (p : Pkt) :
    KeepsCanon s (sendPkt s addr dport p) := .of (by simp [sendPkt])

@[simp] theorem sendAll_keepsCanon (s : State) (ms : List Member) (p : Pkt) : KeepsCanon s (sendAll s ms p) := .of (by simp [sendAll])

@[simp] theorem cflEvent_keepsCanon (s : State) (q : Fin 32) (r : Reduce) (cause : Nat) (rank? : Option Nat) (count : Nat)
    (window? addr? : Option Nat) :
    KeepsCanon s (cflEvent s q r cause rank? count window? addr?) := .of (by simp [cflEvent])

@[simp] theorem cflStale_keepsCanon (s : State) : KeepsCanon s (cflStale s) := .of (by simp [cflStale])

@[simp] theorem holdWrites_keepsCanon (s : State) (q : Fin 32) (ws : List MemWrite) : KeepsCanon s (holdWrites s q ws) := .of id

@[simp] theorem writeResult_keepsCanon (s : State) (q : Fin 32) (r : Reduce) (i n : Nat) (payload : List Byte) (poison : Bool) :
    KeepsCanon s (writeResult s q r i n payload poison) := .of (by simp [writeResult])

@[simp] theorem guardWrite_keepsCanon (s : State) (q : Fin 32) (r : Reduce) (v : Nat) : KeepsCanon s (guardWrite s q r v).1 := by
  refine .of ?_
  simp [guardWrite]

@[simp] theorem writeGuard_keepsCanon (s : State) (q : Fin 32) (r : Reduce) (v : Nat) : KeepsCanon s (writeGuard s q r v).1 := by
  refine .of ?_
  simp [writeGuard]

@[simp] theorem markEnded_keepsCanon (s : State) (r : Reduce) (outcome : Nat) :
    KeepsCanon s (markEnded s r outcome) := .of (by simp [markEnded])

@[simp] theorem completeReduce_keepsCanon (s : State) (q : Fin 32) (c : Cmd) (status : Nat) :
    KeepsCanon s (completeReduce s q c status) := by
  refine .of ?_
  simp [completeReduce]

@[simp] theorem finishReduce_keepsCanon (s : State) (q : Fin 32) (r : Reduce) (outcome rank nan ovf : Nat) :
    KeepsCanon s (finishReduce s q r outcome rank nan ovf) := by
  refine .of ?_
  unfold finishReduce
  split <;> simp

@[simp] theorem endGuarded_keepsCanon (s : State) (q : Fin 32) (r : Reduce) (outcome rank : Nat) (win : Option Nat) :
    KeepsCanon s (endGuarded s q r outcome rank win) := by
  refine .of ?_
  dsimp only [endGuarded]
  repeat' split
  all_goals simp

@[simp] theorem endReduce_keepsCanon (s : State) (q : Fin 32) (r : Reduce) (outcome rank : Nat) (win : Option Nat) :
    KeepsCanon s (endReduce s q r outcome rank win) := .of (by simp [endReduce])

@[simp] theorem homeEnds_keepsCanon (s : State) (q : Fin 32) (r : Reduce) (why rank : Nat) (win : Option Nat) :
    KeepsCanon s (homeEnds s q r why rank win) := .of (by simp [homeEnds])

@[simp] theorem tryFinish_keepsCanon (s : State) (q : Fin 32) : KeepsCanon s (tryFinish s q) := by
  refine .of ?_
  unfold tryFinish
  split <;> simp

@[simp] theorem homeDone_keepsCanon (s : State) (q : Fin 32) : KeepsCanon s (homeDone s q) := by
  refine .of ?_
  unfold homeDone
  split <;> simp

@[simp] theorem completeWindow_keepsCanon (s : State) (q : Fin 32) (r : Reduce) (x : Window) :
    KeepsCanon s (completeWindow s q r x) := by
  refine .of ?_
  simp [completeWindow]

@[simp] theorem putWindow_keepsCanon (s : State) (q : Fin 32) (r : Reduce) (x : Window) : KeepsCanon s (putWindow s q r x) := by
  refine .of ?_
  simp [putWindow]

@[simp] theorem compareCopies_keepsCanon (s : State) (q : Fin 32) (r : Reduce) (c : CopyCrc) :
    KeepsCanon s (compareCopies s q r c).1 := by
  refine .of ?_
  dsimp only [compareCopies]
  repeat' split
  all_goals simp

@[simp] theorem readPart_keepsCanon (s : State) (q : Fin 32) (env : List Finding) (r : Reduce) (i n : Nat) :
    KeepsCanon s (readPart s q env r i n).1 := .of (by simp [readPart])

@[simp] theorem sendGrants_keepsCanon (s : State) (g : Group) (r : Reduce) (w : Nat) (ms : List Member) :
    KeepsCanon s (sendGrants s g r w ms) := .of (by simp [sendGrants])

@[simp] theorem substEvents_keepsCanon (s : State) (q : Fin 32) (ranks : List Nat) : KeepsCanon s (substEvents s q ranks) := by
  refine canonFrom_foldl (fun s k => ?_) ranks s
  dsimp only
  repeat' split
  all_goals simp

@[simp] theorem ranksLate_keepsCanon (s : State) (q : Fin 32) (ahead : List Nat) (hit : Window → Nat → Bool) :
    KeepsCanon s (ranksLate s q ahead hit) := by
  refine .of ?_
  unfold ranksLate
  split <;> simp

@[simp] theorem routesGone_keepsCanon (s : State) (q : Fin 32) (gone : Nat → Bool) : KeepsCanon s (routesGone s q gone) := by
  refine .of ?_
  unfold routesGone
  split <;> simp

@[simp] theorem routesLost_keepsCanon (s : State) (p : Fin 16) : KeepsCanon s (routesLost s p) := .of (by simp [routesLost])

@[simp] theorem holdOrStale_keepsCanon (s : State) (src port : Nat) (p : Pkt) (bytes : List Byte) :
    KeepsCanon s (holdOrStale s src port p bytes) := .of (by simp [holdOrStale])

@[simp] theorem answerGrant_keepsCanon (s : State) (q : Fin 32) (src : Nat) (p : Pkt) (env : List Finding) :
    KeepsCanon s (answerGrant s q src p env) := by
  refine .of ?_
  unfold answerGrant
  split <;> simp

@[simp] theorem takeContrib_keepsCanon (s : State) (q : Fin 32) (p : Pkt) (accBad : Bool) :
    KeepsCanon s (takeContrib s q p accBad) := by
  refine .of ?_
  dsimp only [takeContrib]
  repeat' split
  all_goals simp

@[simp] theorem takeResult_keepsCanon (s : State) (q : Fin 32) (p : Pkt) : KeepsCanon s (takeResult s q p) := by
  refine .of ?_
  unfold takeResult
  split <;> simp

@[simp] theorem takeDone_keepsCanon (s : State) (q : Fin 32) (p : Pkt) : KeepsCanon s (takeDone s q p) := by
  refine .of ?_
  unfold takeDone
  split <;> simp

@[simp] theorem takeAbort_keepsCanon (s : State) (q : Fin 32) (p : Pkt) : KeepsCanon s (takeAbort s q p) := by
  refine .of ?_
  unfold takeAbort
  split <;> simp

@[simp] theorem deliverPkt_keepsCanon (s : State) (src port : Nat) (bytes : List Byte) (env : List Finding) (accBad : Bool) :
    KeepsCanon s (deliverPkt s src port bytes env accBad) := by
  refine .of ?_
  dsimp only [deliverPkt]
  repeat' split
  all_goals simp

@[simp] theorem deliverReduction_keepsCanon (s : State) (p : Fin 16) (src port : Nat) (bytes : List Byte) (env : List Finding)
    (accBad : Bool) :
    KeepsCanon s (deliverReduction s p src port bytes env accBad) := .of (by simp [deliverReduction])

@[simp] theorem deliverAs_keepsCanon (type : Nat) (src : BitVec 16) (port : Fin 16) (pkt : List Byte) (env : List Finding)
    (accBad : Bool) (s : State) :
    KeepsCanon s (deliverAs type src port pkt env accBad s) := .of (by simp [deliverAs])

/-! ### Groups -/

@[simp] theorem takeEarly_keepsCanon (s : State) (env : List Finding) (group bucket step : Nat) :
    KeepsCanon s (takeEarly s env group bucket step) := .of (by simp [takeEarly])

@[simp] theorem unarmedBody_keepsCanon (q : Fin 32) (c : Chk) (d : Desc) (n guard : Nat) :
    KeepsCanon c.s (unarmedBody q c d n guard) := by
  refine .of ?_
  simp [unarmedBody]

@[simp] theorem reduceBody_keepsCanon (q : Fin 32) (c : Chk) (d : Desc) (n : Nat) : KeepsCanon c.s (reduceBody q c d n) := by
  refine .of ?_
  simp [reduceBody]

@[simp] theorem readEntries_keepsCanon (addr k j : Nat) (c : Chk) : KeepsCanon c.s (readEntries addr k j c).1.s := by
  induction k generalizing j c with
  | zero => exact .of (.refl _)
  | succ k ih =>
    refine .of ?_
    dsimp only [readEntries]
    repeat' split
    all_goals simp [ih]

@[simp] theorem readTable_keepsCanon (s : State) (env : List Finding) (addr n : Nat) : KeepsCanon s (readTable s env addr n).1 :=
  readEntries_keepsCanon _ _ _ _

@[simp] theorem armGroup_keepsCanon (s : State) (n : Fin 8) (env : List Finding) : KeepsCanon s (armGroup s n env) := by
  refine .of ?_
  dsimp only [armGroup]
  repeat' split
  all_goals simp

@[simp] theorem grpCtlEffect_keepsCanon (s : State) (n : Fin 8) (v : Nat) (env : List Finding) :
    KeepsCanon s (grpCtlEffect s n v env) := by
  refine .of ?_
  simp [grpCtlEffect]

@[simp] theorem grpWrite_keepsCanon (s : State) (n : Fin 8) (off v : Nat) (clamped : Bool) (env : List Finding) :
    KeepsCanon s (grpWrite s n off v clamped env) := .of (by simp [grpWrite])

@[simp] theorem grpCtlWrite_keepsCanon (s : State) (n : Fin 8) (v : Nat) (env : List Finding) :
    KeepsCanon s (grpCtlWrite s n v env) := by
  refine .of ?_
  simp [grpCtlWrite]

/-! ### HALT, enabling and disabling, job-fatal errors -/

@[simp] theorem updPart_keepsCanon (s : State) : KeepsCanon s (updPart s) := .of (by simp [updPart])

@[simp] theorem tracePhases_keepsCanon (s : State) (c : Cmd) (w : Who) (ps : List Nat) : KeepsCanon s (tracePhases s c w ps) := by
  refine .of ?_
  simp [tracePhases]

@[simp] theorem stopUpdate_keepsCanon (s : State) (w : Who) (cmd : Cmd) (blocks : List (List MemWrite × Bool))
    (chunks : List (List MemWrite × Nat)) (guarded : Nat) (tripped : Bool) :
    KeepsCanon s (stopUpdate s w cmd blocks chunks guarded tripped).1 := .of (by simp [stopUpdate])

@[simp] theorem stopReduce_keepsCanon (s : State) (q : Fin 32) (r : Reduce) (held : List MemWrite) (quiet : Bool) :
    KeepsCanon s (stopReduce s q r held quiet).1 := .of (by simp [stopReduce])

@[simp] theorem stopOne_keepsCanon (s : State) (q : Fin 32) (c : Cmd) (status : Nat) (quiet : Bool) :
    KeepsCanon s (stopOne s q c status quiet) := by
  refine .of ?_
  unfold stopOne
  split <;> simp

@[simp] theorem stopQueue_keepsCanon (s : State) (q : Fin 32) (st : QState) (status cause : Nat) (quiet : Bool) :
    KeepsCanon s (stopQueue s q st status cause quiet) := .of (by simp [stopQueue])

@[simp] theorem haltMask_keepsCanon (s : State) (mask : Nat) (quiet : Bool) :
    KeepsCanon s (haltMask s mask quiet) := .of (by simp [haltMask])

@[simp] theorem sendHalt_keepsCanon (s : State) (except : Option (Fin 16)) (msg : Nat → List Byte) :
    KeepsCanon s (sendHalt s except msg) := by
  refine .of ?_
  simp [sendHalt]

@[simp] theorem haltRequest_keepsCanon (s : State) (v : Nat) : KeepsCanon s (haltRequest s v) := .of (by simp [haltRequest])

@[simp] theorem applyHaltMsg_keepsCanon (s : State) (p : Fin 16) (msg : List Byte) : KeepsCanon s (applyHaltMsg s p msg) := by
  refine .of ?_
  simp [applyHaltMsg]

@[simp] theorem queueEnable_keepsCanon (s : State) (q : Fin 32) (v : Nat) : KeepsCanon s (queueEnable s q v) := by
  refine .of ?_
  unfold queueEnable
  extract_lets was u st v
  have hu : CanonFrom s u := by simp [u]
  have hv : CanonFrom s v := hu
  repeat' split
  all_goals simp [hu, hv]

@[simp] theorem queueDisable_keepsCanon (s : State) (q : Fin 32) (v : Nat) :
    KeepsCanon s (queueDisable s q v) := .of (by simp [queueDisable])

@[simp] theorem queueCtlWrite_keepsCanon (s : State) (q : Fin 32) (v : Nat) :
    KeepsCanon s (queueCtlWrite s q v) := .of (by simp [queueCtlWrite])

@[simp] theorem abortMissing_keepsCanon (s : State) (n : Nat) (b : LiveBucket) :
    KeepsCanon s (abortMissing s n b) := .of (by simp [abortMissing])

@[simp] theorem jobFatalSteps_keepsCanon (s : State) : KeepsCanon s (jobFatalSteps s) := by
  refine .of ?_
  simp [jobFatalSteps]

@[simp] theorem jobFatalError_keepsCanon (s : State) (w : Who) (cause unit index count : Nat) :
    KeepsCanon s (jobFatalError s w cause unit index count) := .of (by simp [jobFatalError])

/-! ### Runs of LAYER descriptors -/

@[simp] theorem retireEngine_keepsCanon (s : State) (w : Who) (e : Fin 96) :
    KeepsCanon s (retireEngine s w e) := .of (by simp [retireEngine])

@[simp] theorem engUncorrected_keepsCanon (s : State) (w : Who) (e : Fin 96) (l : Nat) : KeepsCanon s (engUncorrected s w e l) := by
  refine .of ?_
  simp [engUncorrected]

@[simp] theorem stageUncorrected_keepsCanon (s : State) (w : Who) (c : Fin 16) (l : Nat) :
    KeepsCanon s (stageUncorrected s w c l) := by
  refine .of ?_
  simp [stageUncorrected]

@[simp] theorem layerEcc_keepsCanon (w : Who) (s : State) (f : EngFault) : KeepsCanon s (layerEcc w s f) := by
  refine .of ?_
  unfold layerEcc
  split <;> simp

@[simp] theorem reconfig_keepsCanon (s : State) (w : Who) (e : Fin 96) (c : SpliceCfg) : KeepsCanon s (reconfig s w e c) := by
  refine .of ?_
  simp [reconfig]

@[simp] theorem tracePass_keepsCanon (s : State) (w : Who) (e : Fin 96) (tag tile steps : Nat) :
    KeepsCanon s (tracePass s w e tag tile steps) := .of (by simp [tracePass])

@[simp] theorem layerPass_keepsCanon (w : Who) (e : Fin 96) (cfg : SpliceCfg) (psn : Bool) (ts : List Nat) (s : State) :
    KeepsCanon s (layerPass w e cfg psn ts s) := .of (by simp [layerPass])

@[simp] theorem dealTiles_keepsCanon (s : State) (w : Who) (l : LayerD) (cfg : SpliceCfg) (psn : Bool) (tiles : List Nat)
    (mine : Nat → Bool) :
    KeepsCanon s (dealTiles s w l cfg psn tiles mine) := by
  unfold dealTiles
  refine canonFrom_foldl (fun s x => ?_) _ s
  dsimp only
  generalize List.filter _ _ = ts
  split <;> simp

@[simp] theorem engFault_keepsCanon (w : Who) (x : State × List EngErr) (f : EngFault) : KeepsCanon x.1 (engFault w x f).1 := by
  refine .of ?_
  unfold engFault
  split <;> simp

@[simp] theorem accFlag_keepsCanon (x : State × List (Nat × Nat)) (e bit : Nat) :
    KeepsCanon x.1 (accFlag x e bit).1 := .of (by simp [accFlag])

@[simp] theorem countTiles_keepsCanon (s : State) (tiles : List Nat) (ev : TileEv) : KeepsCanon s (countTiles s tiles ev) := by
  refine .of ?_
  simp [countTiles]

@[simp] theorem accFlags_keepsCanon (s : State) (tiles : List Nat) (flagged : List (Nat × Nat)) (ev : TileEv) :
    KeepsCanon s (accFlags s tiles flagged ev).1 := .of (by simp [accFlags])

@[simp] theorem Over.line_keepsCanon (w : Who) (x : Over) (l : Nat) : KeepsCanon x.c.s (Over.line w x l).c.s := by
  refine .of ?_
  dsimp only [Over.line]
  repeat' split
  all_goals simp

@[simp] theorem Over.read_keepsCanon (w : Who) (x : Over) (r : Nat × Nat) :
    KeepsCanon x.c.s (Over.read w x r).c.s := .of (by simp [Over.read])

@[simp] theorem readTensors_keepsCanon (w : Who) (x : Over) (l : LayerD) (p : Policy) (hs : List (List Nat)) (hidx r : Nat)
    (replay : Bool) :
    KeepsCanon x.c.s (readTensors w x l p hs hidx r replay).c.s := by
  refine .of ?_
  dsimp only [readTensors]
  repeat' split
  all_goals simp

@[simp] theorem containRun_keepsCanon (s : State) (q : Fin 32) (before : List Cmd) (c : Cmd) (all : Bool) (res : List Byte) :
    KeepsCanon s (containRun s q before c all res) := .of (by simp [containRun])

@[simp] theorem stopRun_keepsCanon (s : State) (q : Fin 32) (before : List Cmd) (c : Cmd) (poison all : Bool) :
    KeepsCanon s (stopRun s q before c poison all) := .of (by simp [stopRun])

@[simp] theorem degraded_keepsCanon (s : State) (ceil : Option Nat) : KeepsCanon s (degraded s ceil) := .of (by simp [degraded])

@[simp] theorem usedEngines_keepsCanon (s : State) (psn : Bool) (tiles : List Nat) : KeepsCanon s (usedEngines s psn tiles) := .of id

@[simp] theorem poisonSlots_keepsCanon (s : State) (e : Fin 96) : KeepsCanon s (poisonSlots s e) := .of id

@[simp] theorem runOp_keepsCanon (s : State) (w : Who) (r : Run) (o : OpRec) (block : List Byte) (bad : Over) :
    KeepsCanon s (runOp s w r o block bad).1 := .of (by simp [runOp])

@[simp] theorem dealAgain_keepsCanon (q : Fin 32) (idx : BitVec 32) (r : Run) (ev : TileEv) (e : Fin 96) (x : State × OpRec) :
    KeepsCanon x.1 (dealAgain q idx r ev e x).1 := .of (by simp [dealAgain])

@[simp] theorem opFault_keepsCanon (q : Fin 32) (idx : BitVec 32) (r : Run) (ev : TileEv) (x : State × OpRec) (f : EngFault) :
    KeepsCanon x.1 (opFault q idx r ev x f).1 := .of (by simp [opFault])

@[simp] theorem runFaults_keepsCanon (s : State) (q : Fin 32) (idx : BitVec 32) (k : Nat) (r : Run) (o : OpRec) (ev : TileEv)
    (faults : List EngFault) :
    KeepsCanon s (runFaults s q idx k r o ev faults).1 := .of (by simp [runFaults])

@[simp] theorem beginBlock_keepsCanon (w : Nat × Nat) (s : State) (p : Policy) (ceil : Option Nat) (addr step : Nat) (b : List Byte) :
    KeepsCanon s (beginBlock w s p ceil addr step b) := .of (by simp [beginBlock])

@[simp] theorem beginRun_keepsCanon (w : Nat × Nat) (s : State) (d : Desc) (b : List Byte) : KeepsCanon s (beginRun w s d b).1 := by
  refine .of ?_
  simp [beginRun]

@[simp] theorem stopLayer_keepsCanon (s : State) (q : Fin 32) (d : Desc) (n mask : Nat) (all : Bool) (res : List Byte) :
    KeepsCanon s (stopLayer s q d n mask all res) := by
  refine .of ?_
  dsimp only [stopLayer]
  repeat' split
  all_goals simp

@[simp] theorem layerBody_keepsCanon (q : Fin 32) (faults : List EngFault) (c : Chk) (d : Desc) (n : Nat) (r : Run) :
    KeepsCanon c.s (layerBody q faults c d n r) := by
  refine .of ?_
  unfold layerBody
  extract_lets idx w ly l p man block hidx rs x seen sa sb sc eddy n₁ x₁ n₂ s tiles mask s₁ before k z s₂ bad y s₃
  have hstart : CanonFrom c.s s₁ := by simp [s₁, s, x₁, x]
  have hrun : CanonFrom c.s s₃ := by simp [s₃, y, s₂, z, hstart]
  split
  · simp [hstart]
  · split <;> simp [hrun]

@[simp] theorem stoppedAtBlock_keepsCanon (q : Fin 32) (c : Chk) (d : Desc) (n : Nat) (ceil : Option Nat) (st : Stop) (res : List Byte) :
    KeepsCanon c.s (stoppedAtBlock q c d n ceil st res) := .of (by simp [stoppedAtBlock])

@[simp] theorem firstLayer_keepsCanon (q : Fin 32) (faults : List EngFault) (c : Chk) (d : Desc) (n : Nat) :
    KeepsCanon c.s (firstLayer q faults c d n) := by
  refine .of ?_
  dsimp only [firstLayer]
  repeat' split
  all_goals simp

@[simp] theorem nextLayer_keepsCanon (q : Fin 32) (faults : List EngFault) (c : Chk) (d : Desc) (n : Nat) (r : Run) :
    KeepsCanon c.s (nextLayer q faults c d n r) := by
  refine .of ?_
  dsimp only [nextLayer]
  repeat' split
  all_goals simp

@[simp] theorem replayEvent_keepsCanon (s : State) (q : Fin 32) (idx : BitVec 32) (r : Run) (o : OpRec) (stands : Bool) :
    KeepsCanon s (replayEvent s q idx r o stands) := .of (by simp [replayEvent])

@[simp] theorem rerunOp_keepsCanon (q : Fin 32) (r : Run) (faults : List EngFault) (idx : Nat → BitVec 32) (x : Rerun) (o : OpRec) :
    KeepsCanon x.c.s (rerunOp q r faults idx x o).c.s := by
  refine .of ?_
  dsimp only [rerunOp]
  repeat' split
  all_goals simp

@[simp] theorem stopAt_keepsCanon (s : State) (q : Fin 32) (cmds : List Cmd) (k : Nat) (poison all : Bool) :
    KeepsCanon s (stopAt s q cmds k poison all) := by
  refine .of ?_
  unfold stopAt
  split <;> simp

@[simp] theorem startReplay_keepsCanon (q : Fin 32) (s : State) (r : Run) (m : Nat) (o : OpRec) :
    KeepsCanon s (startReplay q s r m o) := by
  refine .of ?_
  simp [startReplay]

@[simp] theorem replayRun_keepsCanon (q : Fin 32) (env : List Finding) (faults : List EngFault) (s : State) (r : Run) (m : Nat) :
    KeepsCanon s (replayRun q env faults s r m) := by
  refine .of ?_
  dsimp only [replayRun]
  repeat' split
  all_goals simp

@[simp] theorem standsRecord_keepsCanon (s : State) (q : Fin 32) (r : Run) (cmds : List Cmd) :
    KeepsCanon s (standsRecord s q r cmds) := by
  refine .of ?_
  dsimp only [standsRecord]
  repeat' split
  all_goals simp

@[simp] theorem commitRun_keepsCanon (s : State) (q : Fin 32) (r : Run) : KeepsCanon s (commitRun s q r) := by
  refine .of ?_
  dsimp only [commitRun]
  repeat' split
  all_goals simp

/-! ### Array engines -/

@[simp] theorem scrWrite_keepsCanon (s : State) (e : Fin 96) (off : Nat) (bs : List Byte) :
    KeepsCanon s (scrWrite s e off bs) := .of id

@[simp] theorem EChk.readLine_keepsCanon (e : Fin 96) (c : EChk) (l : Nat) : KeepsCanon c.s (EChk.readLine e c l).s := by
  refine .of ?_
  dsimp only [EChk.readLine]
  repeat' split
  all_goals simp

@[simp] theorem EChk.read_keepsCanon (e : Fin 96) (c : EChk) (off n : Nat) :
    KeepsCanon c.s (EChk.read e c off n).s := .of (by simp [EChk.read])

@[simp] theorem loadEffect_keepsCanon (e : Fin 96) (i : ArrayInsn) (a : Bool) (s : State) : KeepsCanon s (loadEffect e i a s) := by
  refine .of ?_
  dsimp only [loadEffect]
  repeat' split
  all_goals simp

@[simp] theorem engFlag_keepsCanon (s : State) (e : Fin 96) (bit : Nat) : KeepsCanon s (engFlag s e bit) := .of (by simp [engFlag])

@[simp] theorem engPoison_keepsCanon (s : State) (e : Fin 96) : KeepsCanon s (engPoison s e) := .of (by simp [engPoison])

@[simp] theorem slotStep_keepsCanon (e : Fin 96) (q : Nat) (first psn float : Bool) (rs cs : Nat → Nat)
    (f : Nat → Nat → Int × Int → Acc → Acc)
    (x : StepEv) : KeepsCanon x.c.s (slotStep e q first psn float rs cs f x).c.s := by
  refine .of ?_
  unfold slotStep
  extract_lets found src c₀ c₁ c₂ sideBad new acc flags all ok as tag s₀ s₁ s₂
  have hread : CanonFrom x.c.s c₂.s := by
    have hslot : CanonFrom x.c.s c₁.s := by
      unfold c₁
      split <;> simp [c₀, src]
    unfold c₂
    split <;> simp [hslot]
  have hflags : ∀ c as psn, KeepsCanon c.s (flags c as psn).c.s := fun c as psn => .of (by simp [flags])
  split
  · exact hread
  split <;> simp [hflags, s₂, s₁, s₀, hread]

@[simp] theorem StepEv.flags_keepsCanon (e : Fin 96) (x : StepEv) : KeepsCanon x.c.s (StepEv.flags e x) := .of (by simp [StepEv.flags])

@[simp] theorem oneStep_keepsCanon (e : Fin 96) (i : ArrayInsn) (cfg : SpliceCfg) (b : StatBuf) (x : StepEv) (t : Nat) :
    KeepsCanon x.c.s (oneStep e i cfg b x t).c.s := .of (by simp [oneStep])

@[simp] theorem stepsEffect_keepsCanon (e : Fin 96) (i : ArrayInsn) (a : Bool) (b : StatBuf) (s : State) :
    KeepsCanon s (stepsEffect e i a b s) := .of (by simp [stepsEffect])

@[simp] theorem ewiseBlock_keepsCanon (e : Fin 96) (i : ArrayInsn) (x : StepEv) (j : Nat) :
    KeepsCanon x.c.s (ewiseBlock e i x j).c.s := by
  refine .of ?_
  simp [ewiseBlock]

@[simp] theorem ewiseEffect_keepsCanon (e : Fin 96) (i : ArrayInsn) (s : State) :
    KeepsCanon s (ewiseEffect e i s) := .of (by simp [ewiseEffect])

theorem tryLoad_keepsCanon {e : Fin 96} {s t : State} (h : tryLoad e s = some t) : KeepsCanon s t := by
  refine .of ?_
  unfold tryLoad at h
  split at h
  · cases h
  · dsimp only at h
    split at h
    · cases h
    · obtain ⟨a, -, rfl⟩ := Option.map_eq_some_iff.1 h
      simp

theorem tryStep_keepsCanon {e : Fin 96} {s t : State} (h : tryStep e s = some t) : KeepsCanon s t := by
  refine .of ?_
  unfold tryStep at h
  split at h
  · cases h
  · split at h
    · cases h
    · obtain ⟨b, -, rfl⟩ := Option.map_eq_some_iff.1 h
      simp
  · cases h
    simp
  · cases h
    simp

@[simp] theorem engAdvance_keepsCanon (e : Fin 96) (n : Nat) (s : State) : KeepsCanon s (engAdvance e n s) := by
  induction n generalizing s with
  | zero => exact .of (.refl _)
  | succ n ih =>
    refine .of ?_
    unfold engAdvance
    split
    next t h => simp [ih, tryStep_keepsCanon h]
    next =>
      split
      next t h => simp [ih, tryLoad_keepsCanon h]
      next => rfl

@[simp] theorem engRun_keepsCanon (e : Fin 96) (s : State) : KeepsCanon s (engRun e s) := .of (by simp [engRun])

@[simp] theorem inject_keepsCanon (e : Fin 96) (i : ArrayInsn) (o : ArrayOp) (s : State) :
    KeepsCanon s (inject e i o s) := .of (by simp [inject])

/-! ### The gauge -/

@[simp] theorem updGauge_keepsCanon (s : State) (f : Gauge → Gauge) : KeepsCanon s (updGauge s f) := .of id

@[simp] theorem jumpTo_keepsCanon (s : State) (new : Nat) : KeepsCanon s (jumpTo s new) := .of id

@[simp] theorem adopt_keepsCanon (s : State) (new : Nat) : KeepsCanon s (adopt s new) := .of (by simp [adopt])

@[simp] theorem tick_keepsCanon (s : State) : KeepsCanon s (tick s) := .of id

@[simp] theorem freeRun_keepsCanon (s : State) : KeepsCanon s (freeRun s) := .of id

@[simp] theorem adoptSource_keepsCanon (s : State) (count sub epoch : Nat) : KeepsCanon s (adoptSource s count sub epoch) := by
  refine .of ?_
  simp [adoptSource]

@[simp] theorem relink_keepsCanon (s : State) (now : Option (Fin 16)) : KeepsCanon s (relink s now) := by
  refine .of ?_
  dsimp only [relink]
  repeat' split
  all_goals simp

@[simp] theorem gaugePortLeft_keepsCanon (s : State) (p : Fin 16) : KeepsCanon s (gaugePortLeft s p) := .of (by simp [gaugePortLeft])

@[simp] theorem gaugeLost_keepsCanon (s : State) : KeepsCanon s (gaugeLost s) := .of (by simp [gaugeLost])

@[simp] theorem gaugeLock_keepsCanon (s : State) (t epoch : Nat) : KeepsCanon s (gaugeLock s t epoch) := .of (by simp [gaugeLock])

@[simp] theorem gaugeAdopt_keepsCanon (s : State) (t epoch : Nat) : KeepsCanon s (gaugeAdopt s t epoch) := .of (by simp [gaugeAdopt])

/-! ### The life of a port -/

@[simp] theorem linkEvent_keepsCanon (s : State) (p : Fin 16) (cause old : Nat) : KeepsCanon s (linkEvent s p cause old) := by
  refine .of ?_
  simp [linkEvent]

@[simp] theorem portDrops_keepsCanon (n : Nat) (s : State) (p : Fin 16) : KeepsCanon s (portDrops n s p) := by
  induction n generalizing s with
  | zero => exact .of (.refl _)
  | succ n ih =>
    refine .of ?_
    unfold portDrops
    simp [ih]

@[simp] theorem forgetBufs_keepsCanon (s : State) (p : Fin 16) : KeepsCanon s (forgetBufs s p) := .of id

@[simp] theorem portLeave_keepsCanon (s : State) (p : Fin 16) (st : PState) : KeepsCanon s (portLeave s p st) := .of (by simp [portLeave])

@[simp] theorem portDown_keepsCanon (s : State) (p : Fin 16) : KeepsCanon s (portDown s p) := .of (by simp [portDown])

@[simp] theorem portQuarantine_keepsCanon (s : State) (p : Fin 16) (reason : Nat) : KeepsCanon s (portQuarantine s p reason) := by
  refine .of ?_
  simp [portQuarantine]

@[simp] theorem portCtlWrite_keepsCanon (s : State) (p : Fin 16) (v : Nat) :
    KeepsCanon s (portCtlWrite s p v) := .of (by simp [portCtlWrite])

@[simp] theorem routeLoad_keepsCanon (s : State) (addr : Nat) (env : List Finding) : KeepsCanon s (routeLoad s addr env) := by
  refine .of ?_
  dsimp only [routeLoad]
  repeat' split
  all_goals simp

@[simp] theorem routeWrite_keepsCanon (s : State) (v : Nat) (env : List Finding) :
    KeepsCanon s (routeWrite s v env) := .of (by simp [routeWrite])

@[simp] theorem joinTranscript_keepsCanon (s : State) (p : Fin 16) (bytes : List Byte) :
    KeepsCanon s (joinTranscript s p bytes) := .of id

@[simp] theorem enterAuth_keepsCanon (s : State) (p : Fin 16) : KeepsCanon s (enterAuth s p) := .of (by simp [enterAuth])

@[simp] theorem backActive_keepsCanon (s : State) (p : Fin 16) : KeepsCanon s (backActive s p) := .of (by simp [backActive])

@[simp] theorem sendAuth_keepsCanon (s : State) (p : Fin 16) (name : String) (body : List Byte) :
    KeepsCanon s (sendAuth s p name body) := by
  refine .of ?_
  simp [sendAuth]

@[simp] theorem authLine_keepsCanon (s : State) (p : Fin 16) (l : LineCheck) {go : State → State} (hgo : ∀ s, CanonFrom s (go s)) :
    KeepsCanon s (authLine s p l go) := by
  refine .of ?_
  simp [authLine, fun s => KeepsCanon.of (hgo s)]

@[simp] theorem takeHello_keepsCanon (s : State) (p : Fin 16) (m : HelloMsg) : KeepsCanon s (takeHello s p m) := .of (by simp [takeHello])

@[simp] theorem authMsg_keepsCanon (s : State) (p : Fin 16) (m : LinkMsg) (step : Nat) {go : State → State}
    (hgo : ∀ s, CanonFrom s (go s)) : KeepsCanon s (authMsg s p m step go) := by
  refine .of ?_
  simp [authMsg, fun s => KeepsCanon.of (hgo s)]

@[simp] theorem goActive_keepsCanon (s : State) (p : Fin 16) : KeepsCanon s (goActive s p) := .of (by simp [goActive])

@[simp] theorem retrainAt_keepsCanon (s : State) (p : Fin 16) (w : Nat) (ls : List Nat) : KeepsCanon s (retrainAt s p w ls) := by
  refine .of ?_
  simp [retrainAt]

@[simp] theorem laneDown_keepsCanon (s : State) (p : Fin 16) (ok : List Nat) : KeepsCanon s (laneDown s p ok) := .of (by simp [laneDown])

@[simp] theorem deliver_keepsCanon (s : State) (d : Delivered) (env : List Finding) (accBad : Bool) :
    KeepsCanon s (deliver s d env accBad) := .of (by simp [deliver])

@[simp] theorem deliverLooped_keepsCanon (s : State) : KeepsCanon s (deliverLooped s) := by
  refine .of ?_
  unfold deliverLooped
  split <;> simp

@[simp] theorem idle_keepsCanon (s : State) : KeepsCanon s (idle s) := .of (by simp [idle])

/-! ### Snapshots, traces and the mailbox -/

@[simp] theorem snapselWrite_keepsCanon (s : State) (v : Nat) : KeepsCanon s (snapselWrite s v) := by
  refine .of ?_
  unfold snapselWrite
  extract_lets u
  have hu : CanonFrom s u := by simp [u]
  split <;> exact hu

@[simp] theorem suStore_keepsCanon (s : State) (off v : Nat) : KeepsCanon s (suStore s off v) := .of (by simp [suStore])

@[simp] theorem tctlWrite_keepsCanon (s : State) (c : Fin 16) (v : Nat) : KeepsCanon s (tctlWrite s c v) := .of (by simp [tctlWrite])

@[simp] theorem trigWrite_keepsCanon (s : State) (c : Fin 16) (v : Nat) : KeepsCanon s (trigWrite s c v) := .of (by simp [trigWrite])

@[simp] theorem markWrite_keepsCanon (s : State) (v : Nat) : KeepsCanon s (markWrite s v) := .of (by simp [markWrite])

@[simp] theorem evselWrite_keepsCanon (s : State) (c : Fin 16) (v : Nat) : KeepsCanon s (evselWrite s c v) := .of (by simp [evselWrite])

@[simp] theorem mbxSelWrite_keepsCanon (s : State) (v : Nat) : KeepsCanon s (mbxSelWrite s v) := .of (by simp [mbxSelWrite])

@[simp] theorem mbxReqWrite_keepsCanon (s : State) (v : Nat) : KeepsCanon s (mbxReqWrite s v) := .of (by simp [mbxReqWrite])

/-! ### Queues -/

@[simp] theorem startDone_keepsCanon (s : State) (q : Fin 32) (d : Desc) (clamps : Nat) (f : Cmd → Cmd) :
    KeepsCanon s (startDone s q d clamps f) := .of (by simp [startDone])

@[simp] theorem signalBody_keepsCanon (q : Fin 32) (c : Chk) (d : Desc) (n : Nat) : KeepsCanon c.s (signalBody q c d n) := by
  refine .of ?_
  dsimp only [signalBody]
  repeat' split
  all_goals simp

@[simp] theorem evAdmit_keepsCanon (s : State) : KeepsCanon s (evAdmit s) := by
  refine .of ?_
  unfold evAdmit
  split <;> simp

@[simp] theorem writeEvent_keepsCanon (s : State) : KeepsCanon s (writeEvent s) := by
  refine .of ?_
  unfold writeEvent
  split <;> simp

/-! ### Wipes and device-fatal errors -/

@[simp] theorem clearBanks_keepsCanon (s : State) : KeepsCanon s (clearBanks s) := .of id

@[simp] theorem wipeBanks_keepsCanon (s : State) : KeepsCanon s (wipeBanks s) := .of (by simp [wipeBanks])

@[simp] theorem wipe_keepsCanon (ok : Bool) (s : State) : KeepsCanon s (wipe ok s) := .of (by simp [wipe])

@[simp] theorem flushEvents_keepsCanon (n : Nat) (s : State) : KeepsCanon s (flushEvents n s) := by
  induction n generalizing s with
  | zero => exact .of (.refl _)
  | succ n ih =>
    refine .of ?_
    unfold flushEvents
    simp [ih]

@[simp] theorem fatalRecord_keepsCanon (s : State) (cause unit index : Nat) : KeepsCanon s (fatalRecord s cause unit index) := by
  refine .of ?_
  simp [fatalRecord]

@[simp] theorem fatalQueues_keepsCanon (s : State) : KeepsCanon s (fatalQueues s) := by
  refine .of ?_
  simp [fatalQueues]

@[simp] theorem fatalPorts_keepsCanon (s : State) : KeepsCanon s (fatalPorts s) := .of (by simp [fatalPorts])

@[simp] theorem deviceFatalAt_keepsCanon (s : State) (cause unit index : Nat) (wipeOk : Bool) :
    KeepsCanon s (deviceFatalAt s cause unit index wipeOk) := .of (by simp [deviceFatalAt])

@[simp] theorem deviceFatal_keepsCanon (s : State) (cause : Nat) (wipeOk : Bool) : KeepsCanon s (deviceFatal s cause wipeOk) := by
  refine .of ?_
  simp [deviceFatal]

@[simp] theorem zeroKeys_keepsCanon (s : State) : KeepsCanon s (zeroKeys s) := .of id

/-! ### Resets, boot and power -/

@[simp] theorem heldState_keepsCanon (s : State) (cause : Nat) : KeepsCanon s (heldState s cause) :=
  .of fun h => ⟨cellsWf_filter memDefault _ _ h.1, rfl⟩

@[simp] theorem romHold_keepsCanon (s : State) (status : Nat) : KeepsCanon s (romHold s status) := .of id

@[simp] theorem selfTest_keepsCanon (s : State) (found : List (Fin 96 × BitVec 5)) : KeepsCanon s (selfTest s found) := by
  unfold selfTest
  refine canonFrom_foldl (fun s e => ?_) (List.finRange 96) s
  dsimp only
  split
  · exact .refl s
  · split <;> simp

@[simp] theorem bootImage_keepsCanon (s : State) (env : BootEnv) (m : Image) (slotB fallback : Bool) :
    KeepsCanon s (bootImage s env m slotB fallback) := .of (by simp [bootImage])

@[simp] theorem boot_keepsCanon (s : State) (env : BootEnv) : KeepsCanon s (boot s env) := by
  refine .of ?_
  dsimp only [boot]
  repeat' split
  all_goals simp

@[simp] theorem moduleReset_keepsCanon (s : State) (cause : Nat) (env : BootEnv) : KeepsCanon s (moduleReset s cause env) := by
  refine .of ?_
  simp [moduleReset]

@[simp] theorem glbRstWrite_keepsCanon (s : State) (v : Nat) (env : BootEnv) :
    KeepsCanon s (glbRstWrite s v env) := .of (by simp [glbRstWrite])

@[simp] theorem readyCheck_keepsCanon (s : State) : KeepsCanon s (readyCheck s) := .of (by simp [readyCheck])

@[simp] theorem powerOff_keepsCanon (s : State) : KeepsCanon s (powerOff s) := 
  .of fun h => (heldState_keepsCanon { s with unlocked := false } 0).from h

@[simp] theorem raiseEvents_keepsCanon (s : State) (es : List (Nat × Bool)) : KeepsCanon s (raiseEvents s es) := .of (by simp [raiseEvents])

@[simp] theorem criticalShutdown_keepsCanon (s : State) (sensor : Nat) (rose wipeOk : Bool) :
    KeepsCanon s (criticalShutdown s sensor rose wipeOk) := .of (by simp [criticalShutdown])

/-! ### The host link -/

@[simp] theorem maskedBytes_keepsCanon (s : State) (a mask i : Nat) (bs : List Byte) : KeepsCanon s (maskedBytes s a mask i bs) := by
  induction bs generalizing s i with
  | nil => exact .of (.refl _)
  | cons b bs ih => exact .of (by simp [maskedBytes, ih])

/-! ### Management -/

@[simp] theorem mreply_keepsCanon (s : State) (name : String) (code : Nat) (data : List Byte) :
    KeepsCanon s (mreply s name code data) := .of id

@[simp] theorem collectEvent_keepsCanon (s : State) (name : String) : KeepsCanon s (collectEvent s name) := by
  refine .of ?_
  unfold collectEvent
  split <;> simp

@[simp] theorem setFw_keepsCanon (s : State) (f : FwState) : KeepsCanon s (setFw s f) := .of id

@[simp] theorem putFlash_keepsCanon (s : State) (b : Bool) (m : Option Image) : KeepsCanon s (putFlash s b m) := .of id

@[simp] theorem fwStep_keepsCanon (s : State) (tr : Transport) (name : String) (ok : FwState → Bool) {go : State → State}
    (hgo : ∀ s, CanonFrom s (go s)) : KeepsCanon s (fwStep s tr name ok go) := by
  refine .of ?_
  simp [fwStep, hgo]

/-! ### Register writes -/

@[simp] theorem suStoreClamped_keepsCanon (s : State) (off v c : Nat) :
    KeepsCanon s (suStoreClamped s off v c) := .of (by simp [suStoreClamped])

@[simp] theorem ringWrite_keepsCanon (s : State) (q : Fin 32) (off v : Nat) :
    KeepsCanon s (ringWrite s q off v) := .of (by simp [ringWrite])

@[simp] theorem evWrite_keepsCanon (s : State) (v : Nat) : KeepsCanon s (evWrite s v) := .of (by simp [evWrite])

@[simp] theorem jobseedWrite_keepsCanon (s : State) (v : Nat) : KeepsCanon s (jobseedWrite s v) := .of (by simp [jobseedWrite])

@[simp] theorem gauCtlWrite_keepsCanon (s : State) (v : Nat) : KeepsCanon s (gauCtlWrite s v) := .of (by simp [gauCtlWrite])

@[simp] theorem cfgCtlWrite_keepsCanon (s : State) (v : Nat) : KeepsCanon s (cfgCtlWrite s v) := .of (by simp [cfgCtlWrite])

@[simp] theorem cfgRefWrite_keepsCanon (s : State) (v : Nat) : KeepsCanon s (cfgRefWrite s v) := .of (by simp [cfgRefWrite])

@[simp] theorem w1cWrite_keepsCanon (s : State) (off v : Nat) : KeepsCanon s (w1cWrite s off v) := by
  refine .of ?_
  unfold w1cWrite
  split <;> simp

@[simp] theorem writeQue_keepsCanon (s : State) (off v : Nat) : KeepsCanon s (writeQue s off v) := by
  refine .of ?_
  dsimp only [writeQue]
  repeat' split
  all_goals simp

@[simp] theorem writeMem_keepsCanon (s : State) (off v : Nat) : KeepsCanon s (writeMem s off v) := .of (by simp [writeMem])

@[simp] theorem writeLnk_keepsCanon (s : State) (off v : Nat) : KeepsCanon s (writeLnk s off v) := .of (by simp [writeLnk])

@[simp] theorem writeCfl_keepsCanon (s : State) (off v : Nat) : KeepsCanon s (writeCfl s off v) := by
  refine .of ?_
  dsimp only [writeCfl]
  repeat' split
  all_goals simp

@[simp] theorem writeObs_keepsCanon (s : State) (off v : Nat) : KeepsCanon s (writeObs s off v) := .of (by simp [writeObs])

@[simp] theorem writeMbx_keepsCanon (s : State) (off v : Nat) : KeepsCanon s (writeMbx s off v) := .of (by simp [writeMbx])

@[simp] theorem writeCfg_keepsCanon (s : State) (off v : Nat) : KeepsCanon s (writeCfg s off v) := .of (by simp [writeCfg])

@[simp] theorem writeCore_keepsCanon (s : State) (off v : Nat) : KeepsCanon s (writeCore s off v) := by
  refine .of ?_
  unfold writeCore
  split <;> simp

@[simp] theorem bar0Write_keepsCanon (s : State) (off v : Nat) : KeepsCanon s (bar0Write s off v) := by
  refine .of ?_
  dsimp only [bar0Write]
  repeat' split
  all_goals simp

@[simp] theorem drift_keepsCanon (s : State) : KeepsCanon s (drift s) := .of (by simp [drift])

/-! ### SPDM -/

@[simp] theorem reply_keepsCanon (s : State) (name : String) (data : List Byte) : KeepsCanon s (reply s name data) := .of id

@[simp] theorem spdmError_keepsCanon (s : State) (code : String) : KeepsCanon s (spdmError s code) := .of id

@[simp] theorem bankRead_keepsCanon (s : State) (f : BankFind) : KeepsCanon s (bankRead s f) := .of (by simp [bankRead])

@[simp] theorem spdmServe_keepsCanon (s : State) (rq : SpdmReq) {go : State → State} (hgo : ∀ s, CanonFrom s (go s)) :
    KeepsCanon s (spdmServe s rq go) := by
  refine .of ?_
  unfold spdmServe
  split
  · exact .refl s
  · split <;> simp [fun s => KeepsCanon.of (hgo s)]

@[simp] theorem spdm_keepsCanon (s : State) (rq : SpdmReq) {go : State → State} (hgo : ∀ s, CanonFrom s (go s)) :
    KeepsCanon s (spdm s rq go) := by
  refine .of ?_
  simp [spdm, hgo]

@[simp] theorem signed_keepsCanon (s : State) (name : String) (data : List Byte) :
    KeepsCanon s (signed s name data) := .of (by simp [signed])

@[simp] theorem setSession_keepsCanon (s : State) (tr : Transport) (x : Session) : KeepsCanon s (setSession s tr x) := .of id

@[simp] theorem vendor_keepsCanon (s : State) (tr : Transport) (rq : SpdmReq) (code : Nat) {go : State → State}
    (hgo : ∀ s, CanonFrom s (go s)) : KeepsCanon s (vendor s tr rq code go) := by
  refine .of ?_
  simp [vendor, hgo]

@[simp] theorem endSessions_keepsCanon (s : State) : KeepsCanon s (endSessions s) := .of (by simp [endSessions])

/-! ### The vector engine -/

@[simp] theorem TX.load_keepsCanon (w : Who) (i : Insn) (sh : ShardD) (x : TX) : KeepsCanon x.c.s (TX.load w i sh x).c.s := by
  refine .of ?_
  dsimp only [TX.load]
  repeat' split
  all_goals simp

@[simp] theorem TX.store_keepsCanon (w : Who) (i : Insn) (sh : ShardD) (x : TX) : KeepsCanon x.c.s (TX.store w i sh x).c.s := by
  refine .of ?_
  unfold TX.store
  split <;> simp

@[simp] theorem TX.exec_keepsCanon (w : Who) (i : Insn) (x : TX) : KeepsCanon x.c.s (TX.exec w i x).c.s := by
  refine .of ?_
  dsimp only [TX.exec]
  repeat' split
  all_goals simp

@[simp] theorem issue_keepsCanon (op : Nat) (c : Fin 16) (o : TwineOps) (s : State) : KeepsCanon s (issue op c o s) := .of (by simp [issue])

/-! ### UPDATE -/

@[simp] theorem Pass.chunk_keepsCanon (w : Who) (is : List Insn) (pass2 : Bool) (p : Pass) (j : Nat) :
    KeepsCanon p.x.c.s (Pass.chunk w is pass2 p j).x.c.s := by
  refine .of ?_
  dsimp only [Pass.chunk]
  repeat' split
  all_goals simp

@[simp] theorem runPass_keepsCanon (w : Who) (is : List Insn) (pass2 : Bool) (count : Nat) (x : TX) :
    KeepsCanon x.c.s (runPass w is pass2 count x).x.c.s := .of (by simp [runPass])

@[simp] theorem Blocks.next_keepsCanon (w : Who) (sh : ShardD) (b : Blocks) (k : Nat) :
    KeepsCanon b.c.s (Blocks.next w sh b k).c.s := by
  refine .of ?_
  dsimp only [Blocks.next]
  repeat' split
  all_goals simp

@[simp] theorem UpdOut.early_keepsCanon (x : TX) (poison : Bool) : KeepsCanon x.c.s (UpdOut.early x poison).x.c.s := .of id

@[simp] theorem UpdOut.close_keepsCanon (w : Who) (sh : ShardD) (o : UpdOut) : KeepsCanon o.x.c.s (UpdOut.close w sh o).x.c.s := by
  refine .of ?_
  dsimp only [UpdOut.close]
  repeat' split
  all_goals simp

@[simp] theorem updPass2_keepsCanon (w : Who) (sh : ShardD) (is : List Insn) (x : TX) (bs : List (List MemWrite × Bool)) :
    KeepsCanon x.c.s (updPass2 w sh is x bs).x.c.s := by
  refine .of ?_
  dsimp only [updPass2]
  repeat' split
  all_goals simp

@[simp] theorem updPhases_keepsCanon (w : Who) (sh : ShardD) (is : List Insn) (word : Nat) (x : TX) :
    KeepsCanon x.c.s (updPhases w sh is word x).x.c.s := by
  refine .of ?_
  dsimp only [updPhases]
  repeat' split
  all_goals simp

@[simp] theorem putUpdate_keepsCanon (q : Fin 32) (d : Desc) (n : Nat) (slot : Option Nat) (o : UpdOut) :
    KeepsCanon o.x.c.s (putUpdate q d n slot o) := by
  refine .of ?_
  dsimp only [putUpdate]
  repeat' split
  all_goals simp

@[simp] theorem updateBody_keepsCanon (q : Fin 32) (c : Chk) (d : Desc) (n : Nat) : KeepsCanon c.s (updateBody q c d n) := by
  refine .of ?_
  simp [updateBody]

@[simp] theorem updFlags_keepsCanon (s : State) (c : Cmd) : KeepsCanon s (updFlags s c) := .of (by simp [updFlags])

@[simp] theorem countChunks_keepsCanon (s : State) (q : Fin 32) (c : Cmd) (chunks : Nat) :
    KeepsCanon s (countChunks s q c chunks) := by
  refine .of ?_
  simp [countChunks]

@[simp] theorem updEffect_keepsCanon (s : State) (q : Fin 32) (c : Cmd) (norm : List MemWrite) (blocks : List (List MemWrite × Bool))
    (chunks : List (List MemWrite × Nat)) (tripped : Bool) :
    KeepsCanon s (updEffect s q c norm blocks chunks tripped) := .of (by simp [updEffect])

/-! ### TABLE_LOAD, PROGRAM_LOAD and completion -/

@[simp] theorem CbCopy.next_keepsCanon (w : Who) (src dst : Nat) (x : CbCopy) (j : Nat) :
    KeepsCanon x.c.s (CbCopy.next w src dst x j).c.s := by
  refine .of ?_
  dsimp only [CbCopy.next]
  repeat' split
  all_goals simp

@[simp] theorem codebookBody_keepsCanon (q : Fin 32) (c : Chk) (d : Desc) (n : Nat) : KeepsCanon c.s (codebookBody q c d n) := by
  refine .of ?_
  simp [codebookBody]

@[simp] theorem eddyBody_keepsCanon (q : Fin 32) (c : Chk) (d : Desc) (n : Nat) :
    KeepsCanon c.s (eddyBody q c d n) := .of (by simp [eddyBody])

@[simp] theorem eddyEffect_keepsCanon (s : State) (t : Nat) (image : List Byte) : KeepsCanon s (eddyEffect s t image) := .of id

@[simp] theorem precInitBody_keepsCanon (q : Fin 32) (c : Chk) (d : Desc) (n : Nat) : KeepsCanon c.s (precInitBody q c d n) := by
  refine .of ?_
  simp [precInitBody]

@[simp] theorem programBody_keepsCanon (q : Fin 32) (c : Chk) (d : Desc) (n : Nat) : KeepsCanon c.s (programBody q c d n) := by
  refine .of ?_
  simp [programBody]

@[simp] theorem programEffect_keepsCanon (s : State) (n : Nat) (image : List Byte) : KeepsCanon s (programEffect s n image) := .of id

@[simp] theorem doneEffect_keepsCanon (s : State) (q : Fin 32) (c : Cmd) : KeepsCanon s (doneEffect s q c) := by
  refine .of ?_
  unfold doneEffect
  split <;> simp

@[simp] theorem containDone_keepsCanon (s : State) (q : Fin 32) (c : Cmd) : KeepsCanon s (containDone s q c) := by
  refine .of ?_
  unfold containDone
  split <;> simp

@[simp] theorem updateDone_keepsCanon (s : State) (q : Fin 32) (c : Cmd) : KeepsCanon s (updateDone s q c) := .of (by simp [updateDone])

/-! ### Commands -/

/-- Where a command goes on, it keeps the canonical form. -/
def KeepsForm (s : State) (o : Res) : Prop := ∀ t, o = .next t → CanonFrom s t

@[simp] theorem keepsForm_next {s t : State} : KeepsForm s (.next t) ↔ CanonFrom s t :=
  ⟨fun h => h t rfl, fun h u hu => by cases hu; exact h⟩

@[simp] theorem keepsForm_ite {s : State} {p : Prop} [Decidable p] {a b : Res} :
    KeepsForm s (if p then a else b) ↔ if p then KeepsForm s a else KeepsForm s b := by
  split <;> rfl

/-- A flit that is not the row's own has been counted; another is dropped or accepted by its checks. -/
theorem execCreditFlit_keepsForm (p : Fin 16) (f : Flit) (s : State) : KeepsForm s (execCreditFlit p f s) := by
  have hseq := (rxSequenced_keepsCanon s p f true).from
  unfold execCreditFlit
  split
  next t h => simp [notFlit_keepsCanon h]
  next =>
    split
    next t h => simpa [h] using hseq
    next t h =>
      rw [h, Rx.state_accept] at hseq
      simp [hseq]

theorem execKeyUpdate_keepsForm (p : Fin 16) (f : Flit) (s : State) : KeepsForm s (execKeyUpdate p f s) := by
  have hseq := (rxSequenced_keepsCanon s p f true).from
  unfold execKeyUpdate
  split
  next t h => simp [notFlit_keepsCanon h]
  next =>
    split
    · simp
    · split
      next t h => simpa [h] using hseq
      next t h =>
        rw [h, Rx.state_accept] at hseq
        simp [hseq]

theorem execRetryReq_keepsForm (p : Fin 16) (f : Flit) (s : State) : KeepsForm s (execRetryReq p f s) := by
  unfold execRetryReq
  split
  next t h => simp [notFlit_keepsCanon h]
  next =>
    dsimp only
    repeat' split
    all_goals simp

theorem execConfigurationSweep_keepsForm (disturbed : Bool) (s : State) : KeepsForm s (execConfigurationSweep disturbed s) := by
  unfold execConfigurationSweep
  split
  · simp
  · extract_lets crc old u now
    have hu : CanonFrom s u := by simp [u]
    simp [hu]

theorem execFinish_keepsForm (tr : Transport) (rq : SpdmReq) (ok : Bool) (s : State) : KeepsForm s (execFinish tr rq ok s) := by
  refine keepsForm_next.2 (spdm_keepsCanon s rq fun s => ?_).from
  split <;> simp

theorem execDeadlineDue_keepsForm (q : Fin 32) (u : Fin 16) (s : State) : KeepsForm s (execDeadlineDue q u s) := by
  unfold execDeadlineDue
  split <;> simp

theorem execLayer_keepsForm (q : Fin 32) (env : List Finding) (faults : List EngFault) (s : State) :
    KeepsForm s (execLayer q env faults s) := by
  unfold execLayer
  split <;> simp

theorem execCommit_keepsForm (q : Fin 32) (s : State) : KeepsForm s (execCommit q s) := by
  unfold execCommit
  split <;> simp

theorem execMailboxSnapshotLatch_keepsForm (s : State) : KeepsForm s (execMailboxSnapshotLatch s) := by
  unfold execMailboxSnapshotLatch
  split <;> simp

theorem execHdmWrite_keepsForm (x : Nat) (data : List Byte) (mask : BitVec 64) (env : List Finding) (s : State) :
    KeepsForm s (execHdmWrite x data mask env s) := by
  unfold execHdmWrite
  split <;> simp

theorem execPatrolScrub_keepsForm (f : Finding) (s : State) : KeepsForm s (execPatrolScrub f s) := by
  unfold execPatrolScrub
  split <;> simp

theorem execGetMeasurements_keepsForm (_tr : Transport) (rq : SpdmReq) (index : Byte) (s : State) :
    KeepsForm s (execGetMeasurements _tr rq index s) := by
  unfold execGetMeasurements
  split <;> simp

theorem execJobKeyClearTakesEffect_keepsForm (s : State) : KeepsForm s (execJobKeyClearTakesEffect s) := by
  unfold execJobKeyClearTakesEffect
  split <;> simp

theorem execWindowOpen_keepsForm (q : Fin 32) (env : List Finding) (accBad : Bool) (s : State) :
    KeepsForm s (execWindowOpen q env accBad s) := by
  dsimp only [execWindowOpen]
  repeat' split
  all_goals simp

theorem execAbandon_keepsForm (q : Fin 32) (s : State) : KeepsForm s (execAbandon q s) := by
  dsimp only [execAbandon]
  repeat' split
  all_goals simp

theorem execRouteLossAbandon_keepsForm (q : Fin 32) (s : State) : KeepsForm s (execRouteLossAbandon q s) := by
  dsimp only [execRouteLossAbandon]
  repeat' split
  all_goals simp

theorem execReplay_keepsForm (q : Fin 32) (env : List Finding) (faults : List EngFault) (s : State) :
    KeepsForm s (execReplay q env faults s) := by
  dsimp only [execReplay]
  repeat' split
  all_goals simp

theorem execGaugeFrame_keepsForm (f : GaugeFrame) (s : State) : KeepsForm s (execGaugeFrame f s) := by
  dsimp only [execGaugeFrame]
  repeat' split
  all_goals simp

theorem execGaugeTick_keepsForm (s : State) : KeepsForm s (execGaugeTick s) := by
  dsimp only [execGaugeTick]
  repeat' split
  all_goals simp

theorem execDataFlit_keepsForm (p : Fin 16) (f : Flit) (env : List Finding) (accBad : Bool) (s : State) :
    KeepsForm s (execDataFlit p f env accBad s) := by
  dsimp only [execDataFlit]
  repeat' split
  all_goals simp

theorem execSnapLatch_keepsForm (q : Fin 32) (s : State) : KeepsForm s (execSnapLatch q s) := by
  dsimp only [execSnapLatch]
  repeat' split
  all_goals simp

theorem execWaitGaugeTick_keepsForm (q : Fin 32) (s : State) : KeepsForm s (execWaitGaugeTick q s) := by
  dsimp only [execWaitGaugeTick]
  repeat' split
  all_goals simp

theorem execHdmRead_keepsForm (x : Nat) (env : List Finding) (s : State) : KeepsForm s (execHdmRead x env s) := by
  dsimp only [execHdmRead]
  repeat' split
  all_goals simp

theorem execIdeKm_keepsForm (m : IdeMsg) (s : State) : KeepsForm s (execIdeKm m s) := by
  dsimp only [execIdeKm]
  repeat' split
  all_goals simp

theorem execGetPldmCommands_keepsForm (tr : Transport) (ty : Byte) (s : State) : KeepsForm s (execGetPldmCommands tr ty s) := by
  dsimp only [execGetPldmCommands]
  repeat' split
  all_goals simp

theorem execGetPdr_keepsForm (tr : Transport) (h : Nat) (s : State) : KeepsForm s (execGetPdr tr h s) := by
  dsimp only [execGetPdr]
  repeat' split
  all_goals simp

theorem execCommandCompletion_keepsForm (q : Fin 32) (s : State) : KeepsForm s (execCommandCompletion q s) := by
  dsimp only [execCommandCompletion]
  repeat' split
  all_goals simp

theorem execGaugeSet_keepsForm (p : Fin 16) (m : GaugeSet) (s : State) : KeepsForm s (execGaugeSet p m s) := by
  simp [execGaugeSet]

@[simp] theorem tamper_keepsCanon (s : State) (k : TamperKind) (wipeOk : Bool) : KeepsCanon s (tamper s k wipeOk) := .of (by simp [tamper])

@[simp] theorem lcAdvance_keepsCanon (s : State) (target : Nat) (digest : BitVec 256) (wipeOk : Bool) (env : BootEnv) :
    KeepsCanon s (lcAdvance s target digest wipeOk env) := .of (by simp [lcAdvance])

/-- Every command keeps the canonical form. -/
theorem exec_keepsForm (i : Instr) (s : State) : KeepsForm s (exec i s) := by
  cases i with
  | creditFlit p f => exact execCreditFlit_keepsForm p f s
  | keyUpdate p f => exact execKeyUpdate_keepsForm p f s
  | retryReq p f => exact execRetryReq_keepsForm p f s
  | configurationSweep d => exact execConfigurationSweep_keepsForm d s
  | finish tr rq ok => exact execFinish_keepsForm tr rq ok s
  | deadlineDue q u => exact execDeadlineDue_keepsForm q u s
  | layer q env faults => exact execLayer_keepsForm q env faults s
  | commit q => exact execCommit_keepsForm q s
  | mailboxSnapshotLatch => exact execMailboxSnapshotLatch_keepsForm s
  | hdmWrite x data mask env => exact execHdmWrite_keepsForm x data mask env s
  | patrolScrub f => exact execPatrolScrub_keepsForm f s
  | getMeasurements tr rq index => exact execGetMeasurements_keepsForm tr rq index s
  | jobKeyClearTakesEffect => exact execJobKeyClearTakesEffect_keepsForm s
  | windowOpen q env accBad => exact execWindowOpen_keepsForm q env accBad s
  | abandon q => exact execAbandon_keepsForm q s
  | routeLossAbandon q => exact execRouteLossAbandon_keepsForm q s
  | replay q env faults => exact execReplay_keepsForm q env faults s
  | gaugeFrame f => exact execGaugeFrame_keepsForm f s
  | gaugeTick => exact execGaugeTick_keepsForm s
  | dataFlit p f env accBad => exact execDataFlit_keepsForm p f env accBad s
  | snapLatch q => exact execSnapLatch_keepsForm q s
  | waitGaugeTick q => exact execWaitGaugeTick_keepsForm q s
  | hdmRead x env => exact execHdmRead_keepsForm x env s
  | ideKm m => exact execIdeKm_keepsForm m s
  | getPldmCommands tr ty => exact execGetPldmCommands_keepsForm tr ty s
  | getPdr tr h => exact execGetPdr_keepsForm tr h s
  | commandCompletion q => exact execCommandCompletion_keepsForm q s
  | gaugeSet p m => exact execGaugeSet_keepsForm p m s
  | sqTail => simp [exec, execSqTail]
  | cqHead => simp [exec, execCqHead]
  | evHead => simp [exec, execEvHead]
  | haltTakesEffect => simp [exec, execHaltTakesEffect]
  | heldWriteTakesEffect => simp [exec, execHeldWriteTakesEffect]
  | suWrite => simp [exec, execSuWrite]
  | powerControllerWindow => simp [exec, execPowerControllerWindow]
  | trainComplete => simp [exec, execTrainComplete]
  | alignComplete => simp [exec, execAlignComplete]
  | retrainComplete => simp [exec, execRetrainComplete]
  | laneLoss => simp [exec, execLaneLoss]
  | signalLoss => simp [exec, execSignalLoss]
  | retryStorm => simp [exec, execRetryStorm]
  | creditStarvation => simp [exec, execCreditStarvation]
  | _ => exact keepsForm_next.2 (by simp)

end Sys2Proof.Machine

namespace Sys2Proof.Safety

open Sys2Proof.Machine

/-- Settles O3: each function keeps the form where those that it calls do, and a reset lists no register and drops whole cells. -/
theorem everyStepKeepsTheCanonicalForm : Obligations.EveryStepKeepsTheCanonicalForm := by
  intro s t h
  unfold step at h
  split at h
  · obtain rfl := Host.Outcome.next.inj h
    exact (idle_keepsCanon s).from
  · next c rest _ => exact exec_keepsForm c { s with pending := rest } t h

end Sys2Proof.Safety
end

section
/-! ## A MOVE that moves bits: COPY, TRANSPOSE and FILL (O7) -/

namespace Sys2Proof.Machine

open Sys2Proof.Safety

/-! ### Clamps of a reference that leave its format and its address (R46, R54, R58, R70) -/

theorem clampIf_fst {α : Type} (c : Bool) (b a : α) : (clampIf c b a).1 = if c then b else a := by
  unfold clampIf
  split <;> rfl

theorem TRef.clampRole_addr (r : TRef) : r.clampRole.1.addr = r.addr := by
  rw [TRef.clampRole, clampIf_fst]
  split <;> rfl

theorem TRef.clampConv_fmt (r : TRef) : r.clampConv.1.fmt = r.fmt := by
  simp only [TRef.clampConv, Cl.bind, clampIf_fst]
  repeat' split
  all_goals rfl

theorem TRef.clampPlain_addr (r : TRef) : r.clampPlain.1.addr = r.clampAddr.1.addr := by
  rw [← TRef.clampRole_addr r.clampAddr.1]
  simp only [TRef.clampPlain, Cl.bind, clampIf_fst]
  repeat' split
  all_goals rfl

/-- Without a conversion DST takes the format of SRC (R363). -/
theorem moveOf_dstFmt {d : Desc} (hconv : mvConvBit d = false) : (moveOf d).1.dst.fmt = (moveOf d).1.src.fmt := by
  simp only [moveOf, hconv, Cl.bind, Bool.false_eq_true, if_false, TRef.clampConv_fmt]

/-! ### The command that starts -/

section Start

variable {q : Fin 32} {env : List Finding} {s : State} {c : Chk} {d : Desc}

/-- What a MOVE without conversion holds: its elements, each at its place (R266, R363). -/
theorem MoveD.writes_of_plain {m : MoveD} (hconv : m.conv = false) (hfmt : m.dst.fmt = m.src.fmt) (ss ds : Scales) :
    m.writes s d ss ds =
      if m.tr then matWrites m.dst.addr m.dstr (fmtWidth (fmtOf m.src.fmt)) m.cols m.rows fun i j =>
          matElem s m.src.addr m.sstr (fmtWidth (fmtOf m.src.fmt)) m.cols j i
        else matWrites m.dst.addr m.dstr (fmtWidth (fmtOf m.src.fmt)) m.rows m.cols fun i j =>
          matElem s m.src.addr m.sstr (fmtWidth (fmtOf m.src.fmt)) m.cols i j := by
  cases htr : m.tr <;> simp [MoveD.writes, MoveD.drows, MoveD.dcols, MoveD.srcPos, hconv, hfmt, htr]

/-- A MOVE without conversion of which every read and check goes through holds its elements. -/
theorem copyBody_moves (hgo : Going s c) (hconv : mvConvBit d = false)
    (hr : ReadOk s (who s q d)
      (matRanges (moveOf d).1.src.addr (moveOf d).1.sstr (fmtWidth (fmtOf (moveOf d).1.src.fmt)) (moveOf d).1.rows (moveOf d).1.cols))
    (hw : WriteOk s (who s q d) (moveOf d).1.dests) (n : Nat) :
    StartsAs q s d (fun x => { x with
      writes := (moveOf d).1.writes s d ⟨0, [], [], []⟩ ⟨0, [], [], []⟩
      dests := (moveOf d).1.dests }) (copyBody q c d n) := by
  have hsource := hgo.reads hr
  have hdest := hsource.writes hw
  unfold copyBody
  simp only [moveOf_conv, hconv, Bool.false_and, Bool.false_eq_true, if_false, hgo.whoOf_eq, hgo.stop, hsource.stop, hdest.stop,
    hdest.writes_eq]
  refine StartsAs.aside ?_ (countShared_aside _ _ _ _)
  exact startCmd_startsAs hdest.spares.aside (fun _ => rfl) (fun _ => rfl)

theorem exec_copy : exec (.copy q env) s = execCopy q env s := rfl
theorem exec_fill : exec (.fill q env) s = execFill q env s := rfl

/-- OP COPY is no atomic. -/
theorem isBadAtomic_of_copy (hcopy : isCopyOp d = true) : isBadAtomic d = false := by
  have hop : mvOp d ≠ 2 := fun h => by simp [isCopyOp, h] at hcopy
  simp [isBadAtomic, hop]

/-- The row of a MOVE without conversion, by its TRANSPOSE bit. -/
theorem exec_copyRow (h : Ready s q env c d) (hkind : dKind d = 2) (hcopy : isCopyOp d = true) (hconv : mvConvBit d = false) :
    exec (if mvTrBit d then .transpose q env else .copy q env) s = .next (copyBody q c d (b2n (decide (0x0B ≤ dKindRaw d)))) := by
  cases htr : mvTrBit d
  · rw [if_neg Bool.false_ne_true, exec_copy, execCopy, startAlone_of_ready h (by simp [hkind, hcopy, hconv, htr]),
      isBadAtomic_of_copy hcopy, if_neg Bool.false_ne_true]
  · rw [if_pos rfl, exec_transpose, execTranspose, startAlone_of_ready h (by simp [hkind, hcopy, htr])]

/-- FILL reads nothing, so that the findings of its line checks stop nothing, and it holds its pattern (R363). -/
theorem fillBody_fills (hc : Canonical s) (h : Ready s q env c d) (n : Nat) :
    let rs := matRanges ((TRef.parse d 0x38).clampAddr).1.addr (strideClamp (fieldAt d 0x54 4 0 32) (dim24 (fieldAt d 0x4C 4 0 32)).1).1 8
      (dim24 (fieldAt d 0x48 4 0 32)).1 (dim24 (fieldAt d 0x4C 4 0 32)).1
    WriteOk s (who s q d) rs →
    StartsAs q s d (fun x => { x with
      writes := matWrites ((TRef.parse d 0x38).clampAddr).1.addr (strideClamp (fieldAt d 0x54 4 0 32) (dim24 (fieldAt d 0x4C 4 0 32)).1).1 8
        (dim24 (fieldAt d 0x48 4 0 32)).1 (dim24 (fieldAt d 0x4C 4 0 32)).1 fun _ j => bits (mvFill d) (8 * (j % 8)) 8
      dests := rs }) (fillBody q c d n) := by
  intro rs hw
  obtain ⟨-, hfetch, -⟩ := h
  obtain ⟨haside, -, hstop⟩ := fetchHead_got hfetch
  have hopen := Chk.writes_open hstop (SameSight.of_aside haside hc).toSameAccess hw
  have hchecked : Aside s (rs.foldl (fun c r => Chk.write (who s q d) c r.1 r.2) c).s :=
    haside.trans (Aside.foldlBy Chk.s (fun c r => Chk.write_aside _ c r.1 r.2) rs c)
  have hwho : whoOf q c.s.queues[q].head d = who s q d := by rw [queues_aside haside]; rfl
  simp only [fillBody, TRef.clampPlain_addr, hwho]
  rw [hopen]
  exact startCmd_startsAs hchecked (fun _ => rfl) (fun _ => rfl)

end Start

end Sys2Proof.Machine

namespace Sys2Proof.Safety

open Sys2Proof.Machine

/-- Settles O7: nothing stops a MOVE's reads and checks, so that it holds the elements as they are in memory at its start, or the pattern. -/
theorem movesWithoutConversion : Obligations.MovesWithoutConversion := by
  refine ⟨fun q env s c d => ?_, fun q env s c d => ?_⟩
  · intro m w hc he h hkind hcopy hconv hr hw
    obtain ⟨clamped, mask, hstart⟩ := copyBody_moves (going_of_ready hc he h) hconv hr hw (b2n (decide (0x0B ≤ dKindRaw d)))
    refine ⟨_, _, exec_copyRow h hkind hcopy hconv, hstart, hkind, rfl, rfl, rfl, ?_⟩
    exact MoveD.writes_of_plain ((moveOf_conv d).trans hconv) (moveOf_dstFmt hconv) _ _
  · intro dst rows cols str hc h hkind hop hw
    obtain ⟨clamped, mask, hstart⟩ := fillBody_fills hc h (b2n (decide (0x0B ≤ dKindRaw d))) hw
    exact ⟨_, _, by rw [exec_fill, execFill, startAlone_of_ready h (by simp [hkind, hop])], hstart, hkind, rfl, rfl, rfl, rfl⟩

end Sys2Proof.Safety
end

section
/-! ## Bank atomics (O9)

Between the words that they write, bank atomics check their reads. A state so reached looks, but for notes aside, like the one that
`atomics` reaches by the writes alone, and what could be read or written at the start still can. -/

namespace Sys2Proof.Machine

open Sys2Proof.Safety

theorem mem_aside {s t : State} (h : Aside s t) : t.mem = s.mem := by rw [h.form]

/-- The marks that a change aside may set are those that it leaves. -/
theorem aside_remarked {s t : State} {m : List Host.Cell} {p : List Nat} {u : List T3Unit}
    (h : Aside { s with mem := m, poison := p, t3 := u } t) :
    Aside { s with mem := t.mem, poison := t.poison, t3 := t.t3 } t := by
  obtain rfl : t.mem = m := mem_aside h
  exact Aside.of h.form h.twine h.events h.canon h.regs

/-- A write changes memory and marks alone, after what else has changed. -/
theorem wr_aside {s t : State} (h : Aside { s with mem := t.mem, poison := t.poison, t3 := t.t3 } t) (a : Nat) (bs : List Byte) :
    Aside { s with mem := (wr t a bs).mem, poison := (wr t a bs).poison, t3 := (wr t a bs).t3 } (wr t a bs) := by
  obtain ⟨m, p, u, hform, -⟩ := wr_form t a bs
  have hs := h.form
  rw [hform]
  exact Aside.of (by rw [hs]) h.twine h.events h.canon h.regs

/-- Atomics from `s` that have gone through as far as the check `c`, where `m` holds what their writes alone leave. -/
structure Atomically (s m : State) (c : Chk) : Prop where
  canon : Canonical c.s
  env : CleanEnv c.env
  stop : c.stop = none
  opened : StaysOpen s c.s
  sight : SameSight m c.s
  aside : Aside { s with mem := c.s.mem, poison := c.s.poison, t3 := c.s.t3 } c.s

namespace Atomically

variable {s m : State} {c k : Chk} {w : Who}

/-- As they begin. -/
theorem of_going (h : Going s c) (n : Nat) : Atomically s s { c with s := { c.s with fresh := n } } := by
  have haside := h.spares.aside.trans (fresh_aside c.s n)
  have hopened : StaysOpen c.s { c.s with fresh := n } := .of_sameMarks ⟨rfl, rfl, rfl, rfl, rfl, rfl, rfl⟩ ⟨rfl, rfl⟩
  exact ⟨h.canonical, h.env, h.stop, (StaysOpen.of_going h).trans hopened, .of_aside haside h.canon,
    aside_remarked (m := s.mem) (p := s.poison) (u := s.t3) haside⟩

theorem going (h : Atomically s m c) : Going c.s c := ⟨h.canon, .refl _, h.env, h.stop⟩

/-- After further checks. -/
theorem checked (h : Atomically s m c) (hk : Going c.s k) : Atomically s m k where
  canon := hk.canonical
  env := hk.env
  stop := hk.stop
  opened := h.opened.trans (.of_going hk)
  sight := h.sight.trans (.of_aside hk.spares.aside h.canon)
  aside := aside_remarked (h.aside.trans hk.spares.aside)

theorem read (h : Atomically s m c) {a n : Nat} (hr : ReadOk s w [(a, n)]) : Atomically s m (Chk.read w c a n) :=
  h.checked (h.going.read (h.opened.reads hr))

theorem write (h : Atomically s m c) {a n : Nat} (hw : WriteOk s w [(a, n)]) : Atomically s m (Chk.write w c a n) :=
  h.checked (h.going.write (h.opened.writes hw))

/-- After a word has been written. -/
theorem put (h : Atomically s m c) (a : Nat) (bs : List Byte) : Atomically s (wr m a bs) { c with s := wr c.s a bs } where
  canon := (wr_keep c.s a bs).1 h.canon
  env := h.env
  stop := h.stop
  opened := h.opened.trans (.of_keepsSound (wr_keepsSound c.s a bs))
  sight := h.sight.wr a bs
  aside := wr_aside h.aside a bs

theorem rdNat_eq (h : Atomically s m c) (a n : Nat) : rdNat c.s a n = rdNat m a n := by rw [rdNat, rdNat, h.sight.rd_eq]

end Atomically

/-- The bytes of an atomic's operand. -/
def operandLen (a : Atomic) : Nat := if a.pair then 2 * a.size else a.size

/-- What an atomic on the operand at `p.1` puts into the word at `p.2` (R260). -/
def newWord (code : Nat) (m : State) (p : Nat × Nat) : Nat :=
  atomicWord code (rdNat m p.2 (atomicOf code).size) (rdNat m p.1 (atomicOf code).size) (rdNat m (p.1 + (atomicOf code).size) (atomicOf code).size)

theorem atomics_cons (code : Nat) (m : State) (p : Nat × Nat) (ps : List (Nat × Nat)) :
    atomics code m (p :: ps) =
      ((atomics code (wr m p.2 (leBytes (atomicOf code).size (newWord code m p))) ps).1,
       rdNat m p.2 (atomicOf code).size ::
         (atomics code (wr m p.2 (leBytes (atomicOf code).size (newWord code m p))) ps).2) := rfl

/-- One atomic whose reads go through: the word found is noted, and the new one written. -/
theorem atomicStep_goes {s m : State} {c : Chk} {w : Who} {code : Nat} {p : Nat × Nat} (h : Atomically s m c)
    (hr : ReadOk s w [(p.1, operandLen (atomicOf code)), (p.2, (atomicOf code).size)]) (olds : List Nat) :
    ∃ k, Atomically s (wr m p.2 (leBytes (atomicOf code).size (newWord code m p))) k ∧
      atomicStep w code (atomicOf code) (c, olds) p = (k, olds ++ [rdNat m p.2 (atomicOf code).size]) := by
  obtain ⟨hsrc, hdst⟩ := List.forall_mem_cons.1 hr
  have hoperand := h.read (List.forall_mem_singleton.2 hsrc)
  have hword := hoperand.read hdst
  refine ⟨_, hword.put p.2 (leBytes (atomicOf code).size (newWord code m p)), ?_⟩
  simp only [operandLen] at hoperand hword ⊢
  simp only [atomicStep, h.stop, hoperand.stop, hword.stop, hword.rdNat_eq, Option.isSome_none, Bool.false_eq_true, if_false]
  rfl

/-- Atomics one after another (R261). -/
theorem atomicSteps_go {s m : State} {c : Chk} {w : Who} {code : Nat} {ps : List (Nat × Nat)} (h : Atomically s m c)
    (hr : ∀ p ∈ ps, ReadOk s w [(p.1, operandLen (atomicOf code)), (p.2, (atomicOf code).size)]) (olds : List Nat) :
    ∃ k, Atomically s (atomics code m ps).1 k ∧
      ps.foldl (atomicStep w code (atomicOf code)) (c, olds) = (k, olds ++ (atomics code m ps).2) := by
  induction ps generalizing m c olds with
  | nil => exact ⟨c, h, by simp [atomics]⟩
  | cons p ps ih =>
    obtain ⟨hp, hps⟩ := List.forall_mem_cons.1 hr
    obtain ⟨k, hk, hstep⟩ := atomicStep_goes h hp olds
    obtain ⟨k', hk', hsteps⟩ := ih hk hps (olds ++ [rdNat m p.2 (atomicOf code).size])
    exact ⟨k', hk', by rw [List.foldl_cons, hstep, hsteps, atomics_cons, List.append_assoc, List.singleton_append]⟩

/-- Atomics leave the bytes outside their words. -/
theorem rdByte_atomics_out {code : Nat} {m : State} (hwf : Memory.wf m.mem = true) {ps : List (Nat × Nat)} {b : Nat}
    (hb : ∀ p ∈ ps, Apart b p.2 (atomicOf code).size) : rdByte (atomics code m ps).1 b = rdByte m b := by
  induction ps generalizing m with
  | nil => rfl
  | cons p ps ih =>
    obtain ⟨hp, hps⟩ := List.forall_mem_cons.1 hb
    obtain ⟨m', p', t', hform, hkeeps⟩ := wr_form m p.2 (leBytes (atomicOf code).size (newWord code m p))
    have hwf' : Memory.wf (wr m p.2 (leBytes (atomicOf code).size (newWord code m p))).mem = true := by
      rw [hform]
      exact hkeeps hwf
    rw [atomics_cons, ih hwf' hps, rdByte_wr_out m p.2 b _ hwf (by rwa [leBytes_length])]

/-! ### The order of arrival (R261, R262) -/

theorem arrival_perm (code fresh : Nat) (ps : List (Nat × Nat)) : (arrival code fresh ps).Perm ps := by
  unfold arrival
  split
  · exact freeOrder_perm fresh ps
  · exact .refl ps

theorem arrival_inOrder {code : Nat} (h : code ≠ 6) (fresh : Nat) (ps : List (Nat × Nat)) : arrival code fresh ps = ps :=
  if_neg (by simpa using h)

/-! ### The command that starts -/

section Start

variable {q : Fin 32} {env : List Finding} {s : State} {c : Chk} {d : Desc}

/-- The places of the operands of an atomic MOVE, and of its words (R260, R363). -/
def operandsOf (code : Nat) (d : Desc) : List Nat :=
  let cols := (dim24 (fieldAt d 0x4C 4 0 32)).1
  atomicSources (atomicOf code) ((TRef.parse d 0x28).clampAddr).1.addr
    (strideClamp (fieldAt d 0x50 4 0 32) (cols * operandLen (atomicOf code))).1 (dim24 (fieldAt d 0x48 4 0 32)).1 cols
def wordsOf (code : Nat) (d : Desc) : List Nat :=
  let cols := (dim24 (fieldAt d 0x4C 4 0 32)).1
  atomicTargets (atomicOf code) ((TRef.parse d 0x38).clampAddr).1.addr
    (strideClamp (fieldAt d 0x54 4 0 32) (cols * (atomicOf code).size)).1 (dim24 (fieldAt d 0x48 4 0 32)).1 cols

/-- The range that takes the words found, for SWAP and CAS (R260). -/
def resultRange (code : Nat) (d : Desc) : Nat × Nat :=
  (mvResult d, (dim24 (fieldAt d 0x48 4 0 32)).1 * (dim24 (fieldAt d 0x4C 4 0 32)).1 * (atomicOf code).size)

/-- The atomics of a MOVE as they reach the bank. -/
def arrivals (code fresh : Nat) (d : Desc) : List (Nat × Nat) := arrival code fresh ((operandsOf code d).zip (wordsOf code d))

/-- An atomic MOVE of which every read and check goes through: its words have changed, and the words found are held (R260, R261). -/
theorem atomicBody_goes {code : Nat} (hgo : Going s c) (hcore : ∀ t ∈ wordsOf code d, regionOf t = .core)
    (hr : ReadOk s (who s q d) ((operandsOf code d).map (·, operandLen (atomicOf code)) ++ (wordsOf code d).map (·, (atomicOf code).size)))
    (hw : (atomicOf code).old = true → WriteOk s (who s q d) [resultRange code d]) (n : Nat) :
    ∃ k dests, Atomically s (atomics code s (arrivals code c.s.fresh d)).1 k ∧
      StartsAs q { s with mem := k.s.mem, poison := k.s.poison, t3 := k.s.t3 } d (fun x => { x with
        writes := if (atomicOf code).old then
            [⟨mvResult d, (atomics code s (arrivals code c.s.fresh d)).2.flatMap (leBytes (atomicOf code).size), .data⟩]
          else []
        dests := dests }) (atomicBody code q c d n) := by
  have hread : ∀ p ∈ arrivals code c.s.fresh d, ReadOk s (who s q d) [(p.1, operandLen (atomicOf code)), (p.2, (atomicOf code).size)] := by
    intro p hp
    obtain ⟨hsrc, hdst⟩ := List.of_mem_zip ((arrival_perm _ _ _).mem_iff.1 hp)
    refine List.forall_mem_cons.2 ⟨hr _ ?_, List.forall_mem_singleton.2 (hr _ ?_)⟩
    · exact List.mem_append_left _ (List.mem_map_of_mem hsrc)
    · exact List.mem_append_right _ (List.mem_map_of_mem hdst)
  obtain ⟨k, hk, hsteps⟩ := atomicSteps_go (.of_going hgo (c.s.fresh + ((operandsOf code d).zip (wordsOf code d)).length)) hread []
  have hinside : ((wordsOf code d).any fun t => regionOf t != .core) = false := by simpa using hcore
  have hwho := hgo.whoOf_eq (q := q) (d := d)
  simp only [arrivals, wordsOf, operandsOf, operandLen, List.nil_append] at hinside hsteps ⊢
  simp only [atomicBody, TRef.clampPlain_addr, hwho, hinside, hsteps, Bool.false_eq_true, if_false]
  cases hold : (atomicOf code).old
  · simp only [hk.stop, Bool.false_eq_true, if_false]
    exact ⟨k, _, hk, startCmd_startsAs hk.aside (fun _ => rfl) (fun _ => rfl)⟩
  · have hres := hk.write (hw hold)
    have hstop := hres.stop
    simp only [if_true, hstop]
    exact ⟨_, _, hres, startCmd_startsAs hres.aside (fun _ => rfl) (fun _ => rfl)⟩

theorem exec_atomicRow (code : Fin 7) : exec (atomicRow code q env) s = .next (startAtomic code q env s) := by
  fin_cases code <;> rfl

end Start

end Sys2Proof.Machine

namespace Sys2Proof.Safety

open Sys2Proof.Machine

/-- Settles O9: every read of an atomic goes through after the words written before it, and what its checks leave is aside. -/
theorem atomicsRunInOrder : Obligations.AtomicsRunInOrder := by
  intro q env s c d code a src dst rows cols n srcs dsts ps m hc he h hkind hop hcode hcore hr hw
  obtain ⟨k, dests, hk, clamped, mask, hstart⟩ :=
    atomicBody_goes (code := code) (going_of_ready hc he h) hcore hr hw (b2n (decide (0x0B ≤ dKindRaw d)))
  have hexec : exec (atomicRow code q env) s = .next (atomicBody code q c d (b2n (decide (0x0B ≤ dKindRaw d)))) := by
    rw [exec_atomicRow, startAtomic, startAlone_of_ready h (by simp [hkind, hop, hcode])]
  have hperm : ps.Perm (srcs.zip dsts) := arrival_perm _ _ _
  have hbytes := fun b => (hstart.aside.bytes hc.2 b).trans ((hk.aside.bytes hc.2 b).symm.trans (hk.sight.rdByte_eq b))
  have hidle : s.queues[q].active = [] := h.1
  refine ⟨_, _, hexec, hstart.idx, hstart.desc, hkind, rfl, rfl, hperm, fun hne => arrival_inOrder hne _ _, rfl, ?_, hstart.others,
    hbytes, fun b hb => ?_, aside_remarked (s := { s with queues := _ }) hstart.aside⟩
  · simpa only [hidle, List.nil_append] using hstart.head
  · rw [hbytes]
    exact rdByte_atomics_out hc.1 fun p hp => hb (p.2, a.size) (List.mem_map_of_mem (List.of_mem_zip (hperm.mem_iff.1 hp)).2)

end Sys2Proof.Safety
end

section
/-! ## The SPDM responder (O53)

The requests that only read all answer with one message; what differs is the message (`Answers`). Every other request is followed to its
answer where it is served. -/
namespace Sys2Proof.Machine

open Sys2Proof.Safety

/-! ### The sealed bank that a request reads (R249) -/

/-- LAST_SRC lies above the flags of MEM_ECCSTAT. -/
theorem regBit_lastSrc {s : State} (hc : Canonical s) (c : Nat) {i : Nat} (hi : i < 4) :
    regBit (lastSrc s c) offEccstat i = regBit s offEccstat i :=
  (regBit_regPutField hc offEccstat 4 3 c (by omega)).trans (bitAt_setBits_below hi)

/-- A corrected error of a sealed bank is flagged and changes the register file alone. -/
theorem bankRead_corrected (s : State) {b : BankFind} (h : b.ue = false) :
    bankRead s b = { s with regs := (bankRead s b).regs } := by simp only [bankRead, h]; rfl

theorem regBit_bankRead_corrected {s : State} (hc : Canonical s) {b : BankFind} (h : b.ue = false) :
    regBit (bankRead s b) offEccstat 0 = true := by
  simp only [bankRead, h]
  exact (regBit_lastSrc ((setFlag_keep _ _ _ _).1 hc) 5 (by omega)).trans (regBit_setFlag hc _ (by omega) (by omega))

/-! ### Requests that are served (R450) -/

theorem spdm_of_not_up {s : State} (rq : SpdmReq) (go : State → State) (h : spdmUp s = false) : spdm s rq go = s := by
  simp [spdm, spdmServe, h]

/-- Without a finding in a sealed bank a request is answered at once. -/
theorem spdm_of_no_bank {s : State} {rq : SpdmReq} (go : State → State) (h : spdmUp s = true) (hb : rq.bank = none) :
    spdm s rq go = if rq.wellFormed then go s else spdmError s "InvalidRequest" := by
  cases hw : rq.wellFormed <;> simp [spdm, spdmServe, h, hb, hw]

/-- A corrected error of a sealed bank is flagged before the answer. -/
theorem spdm_of_corrected {s : State} {rq : SpdmReq} (go : State → State) (h : spdmUp s = true) {b : BankFind} (hb : rq.bank = some b)
    (hu : b.ue = false) : spdm s rq go = if rq.wellFormed then go (bankRead s b) else spdmError (bankRead s b) "InvalidRequest" := by
  cases hw : rq.wellFormed <;> simp [spdm, spdmServe, h, hb, hu, hw]

theorem spdm_of_wellFormed {s : State} {rq : SpdmReq} (go : State → State) (h : spdmUp s = true) (hw : rq.wellFormed = true)
    (hb : rq.bank = none) : spdm s rq go = go s := by rw [spdm_of_no_bank go h hb, if_pos hw]

/-! ### Answers (R436, R437, R448) -/

/-- One message answers, and of the state only the counter of free values may move. -/
def Answers (s t : State) : Prop := ∃ m n, t = { s with fresh := n, outbox := s.outbox ++ [m] }

theorem reply_answers (s : State) (name : String) (data : List Byte) : Answers s (reply s name data) := ⟨_, s.fresh, rfl⟩

theorem spdmError_answers (s : State) (code : String) : Answers s (spdmError s code) := ⟨_, s.fresh, rfl⟩

/-- A request for a signature is answered with it, or with an error where nothing may be signed. -/
theorem signed_answers (s : State) (name : String) (data : List Byte) : Answers s (signed s name data) := by
  unfold signed
  split
  · exact ⟨_, s.fresh + 1, rfl⟩
  · exact spdmError_answers _ _

/-- With d, and no TEST_UNLOCK, a response is signed. -/
theorem signed_of_key {s : State} {d : Nat} (hu : s.unlocked = false) (hd : s.idKey = some d) (name : String) (data : List Byte) :
    signed s name data = { s with
      outbox := s.outbox ++ [.reply name 0 (data ++ leBytes 64 (Config.sm2Sign d (Config.sm3 data) s.fresh))], fresh := s.fresh + 1 } := by
  have hsign : signable s = true := by simp [signable, hu, hd]
  have hkey : s.idKey.getD 0 = d := by rw [hd]; rfl
  simp only [signed, hsign, if_true, hkey]
  rfl

theorem signable_of_locked {s : State} (h : s.unlocked = true ∨ s.idKey = none) : signable s = false := by
  obtain h | h := h <;> simp [signable, h]

theorem signed_of_locked {s : State} (h : s.unlocked = true ∨ s.idKey = none) (name : String) (data : List Byte) :
    signed s name data = { s with outbox := s.outbox ++ [.reply "Unspecified" 1 []] } := by
  simp only [signed, signable_of_locked h]; rfl

/-! ### The requests that read and change nothing -/

/-- GET_MEASUREMENTS answers for every index (R437). -/
theorem measurements_answers (s : State) (rq : SpdmReq) (i : Nat) :
    Answers s (let answer := if rq.sign then signed s "MEASUREMENTS" else reply s "MEASUREMENTS"
      if i = 0 then answer [7]
      else if i = 0xFF then answer ((List.range 7).flatMap fun j => measurement s (j + 1))
      else if i ≤ 7 then answer (measurement s i)
      else spdmError s "InvalidRequest") := by
  have hanswer : ∀ data, Answers s ((if rq.sign then signed s "MEASUREMENTS" else reply s "MEASUREMENTS") data) := by
    intro data
    split
    · exact signed_answers _ _ _
    · exact reply_answers _ _ _
  dsimp only
  split
  · exact hanswer _
  split
  · exact hanswer _
  split
  · exact hanswer _
  · exact spdmError_answers _ _

/-- Each of these requests is served with one answer. -/
theorem spdmQueries_answer {tr : Transport} {rq : SpdmReq} {slot : Nat} {index : Byte} {row : Instr} (h : row ∈ spdmQueries tr rq slot index) :
    ∃ go : State → State, (∀ s, Answers s (go s)) ∧ ∀ s, exec row s = .next (spdm s rq go) := by
  simp only [spdmQueries, List.mem_cons, List.not_mem_nil, or_false] at h
  obtain rfl | rfl | rfl | rfl | rfl | rfl | rfl | rfl := h
  · exact ⟨_, fun s => reply_answers s _ _, fun _ => rfl⟩
  · exact ⟨_, fun s => reply_answers s _ _, fun _ => rfl⟩
  · exact ⟨fun s => outMsg s (.algorithms "SM2" "SM2" "SM3" "SM4-GCM"), fun s => ⟨_, s.fresh, rfl⟩, fun _ => rfl⟩
  · exact ⟨_, fun s => reply_answers s _ _, fun _ => rfl⟩
  · refine ⟨fun s => if slot = 0 then reply s "CERTIFICATE" (chainBytes s.flash.inter s.flash.cert) else spdmError s "InvalidRequest",
      fun s => ?_, fun _ => rfl⟩
    dsimp only
    split
    · exact reply_answers _ _ _
    · exact spdmError_answers _ _
  · exact ⟨_, fun s => signed_answers s _ _, fun _ => rfl⟩
  · exact ⟨_, fun s => measurements_answers s rq index.toNat, fun _ => rfl⟩
  · refine ⟨fun s => if inSession s tr rq then reply s "HEARTBEAT_ACK" [] else spdmError s "UnexpectedRequest", fun s => ?_, fun _ => rfl⟩
    dsimp only
    split
    · exact reply_answers _ _ _
    · exact spdmError_answers _ _

/-- A request served without a finding gets one answer, and InvalidRequest where it is malformed. -/
theorem spdm_answer_of_no_bank {s : State} {rq : SpdmReq} {go : State → State} (hgo : ∀ s, Answers s (go s)) (h : spdmUp s = true)
    (hb : rq.bank = none) : ∃ m n, spdm s rq go = { s with fresh := n, outbox := s.outbox ++ [m] } ∧
      (rq.wellFormed = false → m = .reply "InvalidRequest" 1 []) := by
  rw [spdm_of_no_bank go h hb]
  cases hw : rq.wellFormed
  · exact ⟨.reply "InvalidRequest" 1 [], s.fresh, rfl, fun _ => rfl⟩
  · obtain ⟨m, n, hm⟩ := hgo s
    exact ⟨m, n, hm, nofun⟩

/-- With a corrected error on the way, the flag is set and the answer is given all the same. -/
theorem spdm_answer_of_corrected {s : State} {rq : SpdmReq} {go : State → State} (hgo : ∀ s, Answers s (go s)) (h : spdmUp s = true)
    {b : BankFind} (hb : rq.bank = some b) (hu : b.ue = false) :
    ∃ m n, spdm s rq go = { s with regs := (bankRead s b).regs, fresh := n, outbox := s.outbox ++ [m] } := by
  have hanswer : Answers (bankRead s b) (spdm s rq go) := by
    rw [spdm_of_corrected go h hb hu]
    split
    · exact hgo _
    · exact spdmError_answers _ _
  obtain ⟨m, n, hm⟩ := hanswer
  refine ⟨m, n, hm.trans ?_⟩
  rw [bankRead_corrected s hu]

/-! ### Requests that change a session (R436, R439) -/

section
variable {s : State} {tr : Transport} {rq : SpdmReq} (hup : spdmUp s = true) (hwf : rq.wellFormed = true) (hbank : rq.bank = none)
include hup hwf hbank

theorem exec_keyExchange_of_key {d : Nat} (hu : s.unlocked = false) (hd : s.idKey = some d) :
    ∃ t k e, exec (.keyExchange tr rq) s = .next t ∧
      t = { s with sessions := s.sessions.set (trIdx tr) (.handshake k), fresh := t.fresh, outbox := t.outbox } ∧
      t.outbox = s.outbox ++ [.reply "KEY_EXCHANGE_RSP" 0 (leBytes 64 (Config.sm2Public e) ++
        leBytes 64 (Config.sm2Sign d (Config.sm3 (leBytes 64 (Config.sm2Public e))) (s.fresh + 2)))] := by
  have hsign : signable s = true := by simp [signable, hu, hd]
  let u := setSession { s with fresh := s.fresh + 2 } tr (.handshake (Config.freeNat s.fresh))
  have hrun : exec (.keyExchange tr rq) s =
      .next (signed u "KEY_EXCHANGE_RSP" (leBytes 64 (Config.sm2Public (Config.freeNat (s.fresh + 1))))) := by
    refine congrArg Host.Outcome.next ((spdm_of_wellFormed _ hup hwf hbank).trans ?_)
    simp only [hsign, if_true]; rfl
  exact ⟨_, Config.freeNat s.fresh, Config.freeNat (s.fresh + 1),
    hrun.trans (congrArg Host.Outcome.next (signed_of_key (s := u) hu hd _ _)), rfl, rfl⟩

theorem exec_challenge_of_key {d : Nat} (hu : s.unlocked = false) (hd : s.idKey = some d) :
    exec (.challenge tr rq) s = .next { s with
      outbox := s.outbox ++ [.reply "CHALLENGE_AUTH" 0 ([] ++ leBytes 64 (Config.sm2Sign d (Config.sm3 []) s.fresh))],
      fresh := s.fresh + 1 } :=
  congrArg Host.Outcome.next ((spdm_of_wellFormed _ hup hwf hbank).trans (signed_of_key hu hd _ _))

theorem exec_challenge_of_locked (h : s.unlocked = true ∨ s.idKey = none) :
    exec (.challenge tr rq) s = .next { s with outbox := s.outbox ++ [.reply "Unspecified" 1 []] } :=
  congrArg Host.Outcome.next ((spdm_of_wellFormed _ hup hwf hbank).trans (signed_of_locked h _ _))

theorem exec_keyExchange_of_locked (h : s.unlocked = true ∨ s.idKey = none) :
    exec (.keyExchange tr rq) s = .next { s with outbox := s.outbox ++ [.reply "Unspecified" 1 []] } := by
  refine congrArg Host.Outcome.next ((spdm_of_wellFormed _ hup hwf hbank).trans ?_)
  simp only [signable_of_locked h, Bool.false_eq_true, if_false]
  exact signed_of_locked h _ _

/-- Indices 1 to 7 name one block each. -/
theorem exec_getMeasurements_block {index : Byte} (h1 : 1 ≤ index.toNat) (h7 : index.toNat ≤ 7) :
    exec (.getMeasurements tr rq index) s =
      .next ((if rq.sign then signed s "MEASUREMENTS" else reply s "MEASUREMENTS") (measurement s index.toNat)) := by
  refine congrArg Host.Outcome.next ((spdm_of_wellFormed _ hup hwf hbank).trans ?_)
  simp only [show index.toNat ≠ 0 by omega, show index.toNat ≠ 0xFF by omega, h7, if_true, if_false]

theorem exec_finish_of_handshake {k : Nat} (hk : sessionOf s tr = .handshake k) (hsec : rq.secured = true) (ok : Bool) :
    exec (.finish tr rq ok) s =
      .next (if ok then reply (setSession s tr (.established k)) "FINISH_RSP" [] else spdmError (setSession s tr .none) "DecryptError") := by
  refine congrArg Host.Outcome.next ((spdm_of_wellFormed _ hup hwf hbank).trans ?_)
  simp [hk, hsec]

theorem exec_endSession_of_open (hin : inSession s tr rq = true) :
    exec (.endSession tr rq) s = .next (reply (setSession s tr .none) "END_SESSION_ACK" []) :=
  congrArg Host.Outcome.next ((spdm_of_wellFormed _ hup hwf hbank).trans (if_pos hin))

theorem exec_heartbeat_of_open (hin : inSession s tr rq = true) : exec (.heartbeat tr rq) s = .next (reply s "HEARTBEAT_ACK" []) :=
  congrArg Host.Outcome.next ((spdm_of_wellFormed _ hup hwf hbank).trans (if_pos hin))

end

end Sys2Proof.Machine

namespace Sys2Proof.Safety

open Sys2Proof.Machine

theorem InSession.inSession {s : State} {tr : Transport} {rq : SpdmReq} (h : InSession s tr rq) : inSession s tr rq = true := by
  obtain ⟨-, -, hsec, hest⟩ := h
  simp [Machine.inSession, hsec, hest]

/-- Settles O53: queries by `spdmQueries_answer`, the other requests one after another where they are served. -/
theorem spdmAnswersAndKeepsSessions : Obligations.SpdmAnswersAndKeepsSessions := by
  intro tr rq slot index s say put
  refine ⟨fun row hrow => ?_, fun hup hwf hbank => ⟨?_, ?_, fun d hu hd => ⟨?_, ?_, fun hsign h1 h7 => ?_⟩, fun hlock row hrow => ?_,
    fun hsign h1 h7 => ?_, fun k hk hsec => ⟨?_, ?_⟩, fun hin => ⟨?_, ?_⟩⟩⟩
  · obtain ⟨go, hgo, hrun⟩ := spdmQueries_answer hrow
    refine ⟨fun hup => ?_, fun hup hbank => ?_, fun hup b hb hue hc => ?_⟩
    · rw [hrun, spdm_of_not_up _ _ hup]
    · obtain ⟨m, n, heq, herr⟩ := spdm_answer_of_no_bank hgo hup hbank
      exact ⟨_, m, hrun s, by rw [heq], herr⟩
    · obtain ⟨m, n, heq⟩ := spdm_answer_of_corrected hgo hup hb hue
      refine ⟨_, m, hrun s, by rw [heq], ?_⟩
      rw [heq]
      exact regBit_bankRead_corrected hc hue
  · exact congrArg Host.Outcome.next (spdm_of_wellFormed _ hup hwf hbank)
  · exact congrArg Host.Outcome.next (spdm_of_wellFormed _ hup hwf hbank)
  · exact exec_keyExchange_of_key hup hwf hbank hu hd
  · exact exec_challenge_of_key hup hwf hbank hu hd
  · rw [exec_getMeasurements_block hup hwf hbank h1 h7, if_pos hsign, signed_of_key hu hd]
  · simp only [List.mem_cons, List.not_mem_nil, or_false] at hrow
    obtain rfl | rfl := hrow
    · exact exec_challenge_of_locked hup hwf hbank hlock
    · exact exec_keyExchange_of_locked hup hwf hbank hlock
  · rw [exec_getMeasurements_block hup hwf hbank h1 h7, hsign]
    rfl
  · exact exec_finish_of_handshake hup hwf hbank hk hsec true
  · exact exec_finish_of_handshake hup hwf hbank hk hsec false
  · exact exec_endSession_of_open hup hwf hbank hin.inSession
  · exact exec_heartbeat_of_open hup hwf hbank hin.inSession

end Sys2Proof.Safety
end

section
/-! ## What stays while the module stops (O24, O26, O55)

Stopping commands, ending link sessions, job-fatal and device-fatal sequences and the self-test touch queues, ports, groups, memory,
records and flags, and leave everything else of the state alone (`shell`). What of the rest a function leaves alone too is told in parts: it
keeps every part but those named free. Each function of the model has one lemma, `<name>_still`, an equivalence that `simp` rewrites with. -/

namespace Sys2Proof.Machine

open Sys2Proof.Safety

/-! ### The relation -/

/-- The state without what the sequences that stop the module may touch. -/
def shell (s : State) : State :=
  let r := State.reset
  { s with
    queues := r.queues, tokens := r.tokens, cores := r.cores, fresh := r.fresh, regs := r.regs, mem := r.mem, poison := r.poison, t3 := r.t3
    events := r.events, evWait := r.evWait, evLost := r.evLost, evTail := r.evTail, ueAddr := r.ueAddr, groups := r.groups, ports := r.ports
    looped := r.looped, early := r.early, jobFatal := r.jobFatal, gauge := r.gauge, inService := r.inService, bist := r.bist
    outbox := r.outbox, msixPending := r.msixPending, engines := r.engines }

/-- What sending leaves alone of a port: its state and its keys. -/
def Port.bearing (t : Port) : PState × Nat × Nat × Nat := (t.state, t.secret, t.txKey, t.rxKey)

theorem Port.state_eq {t u : Port} (h : t.bearing = u.bearing) : t.state = u.state := congrArg Prod.fst h

/-- No command of a LAYER runs. -/
def NoLayer (s : State) : Prop := ∀ q : Fin 32, ∀ x ∈ s.queues[q].active, x.work ≠ .layer

/-- What a sequence may leave alone beside `shell`. -/
inductive Part where
  | engines | layers | queues | states | tokens | gauge | job | service | events | ports
  deriving DecidableEq

/-- From `s` to `t` a part is left alone; event records may come. -/
def Part.Same : Part → State → State → Prop
  | .engines, s, t => t.engines = s.engines
  | .layers, s, t => NoLayer s → NoLayer t ∧ t.engines = s.engines
  | .queues, s, t => t.queues = s.queues
  | .states, s, t => ∀ q : Fin 32, t.queues[q].state = s.queues[q].state
  | .tokens, s, t => t.tokens = s.tokens
  | .gauge, s, t => t.gauge = s.gauge
  | .job, s, t => t.jobFatal = s.jobFatal ∧ t.early = s.early
  | .service, s, t => t.inService = s.inService ∧ t.bist = s.bist
  | .events, s, t => s.events <+: t.events ∧ t.evTail = s.evTail
  | .ports, s, t => ∀ p : Fin 16, t.ports[p].bearing = s.ports[p].bearing

/-- From `s` to `t` nothing of `shell` has changed, nor any part but the free ones; messages may leave the module. -/
structure Still (free : List Part) (s t : State) : Prop where
  shell : shell t = shell s
  outbox : s.outbox <+: t.outbox
  tamper : Canonical s → Canonical t ∧ regGet t offTamper = regGet s offTamper
  parts : ∀ p, p ∉ free → p.Same s t

/-- The same statement, which `simp` leaves alone, as `Mends` is for the canonical form. -/
def Rests (free : List Part) (s t : State) : Prop := Still free s t

/-- Whatever has stayed up to `s` stays up to `t`. -/
abbrev KeepsStill (free : List Part) (s t : State) : Prop := ∀ r, Still free r t ↔ Still free r s ∨ Rests free r t

theorem Part.Same.refl (p : Part) (s : State) : p.Same s s := by
  cases p
  case layers => exact fun h => ⟨h, rfl⟩
  case events => exact ⟨List.prefix_refl _, rfl⟩
  case job | service => exact ⟨rfl, rfl⟩
  case states | ports => exact fun _ => rfl
  all_goals rfl

/-- A state that differs in none of the parts. -/
theorem Part.Same.of_eq {s t : State} (hengines : t.engines = s.engines) (hqueues : t.queues = s.queues) (htokens : t.tokens = s.tokens)
    (hgauge : t.gauge = s.gauge) (hjob : t.jobFatal = s.jobFatal ∧ t.early = s.early)
    (hservice : t.inService = s.inService ∧ t.bist = s.bist) (hevents : s.events <+: t.events ∧ t.evTail = s.evTail)
    (hports : t.ports = s.ports) (p : Part) : p.Same s t := by
  cases p
  case layers => exact fun h => ⟨fun q => by rw [hqueues]; exact h q, hengines⟩
  case states => exact fun q => by rw [hqueues]
  case ports => exact fun i => by rw [hports]
  all_goals assumption

theorem Part.same_update (p : Part) (s : State) (regs : List (Nat × BitVec 64)) (msixPending : Vector Bool 34) (outbox : List OutMsg) :
    p.Same s { s with regs := regs, msixPending := msixPending, outbox := outbox } :=
  .of_eq (s := s) (t := { s with regs := regs, msixPending := msixPending, outbox := outbox }) rfl rfl rfl rfl ⟨rfl, rfl⟩ ⟨rfl, rfl⟩
    ⟨List.prefix_refl _, rfl⟩ rfl p

theorem Part.Same.trans {p : Part} {s t u : State} (h : p.Same s t) (k : p.Same t u) : p.Same s u := by
  cases p
  case layers => exact fun x => ⟨(k (h x).1).1, (k (h x).1).2.trans (h x).2⟩
  case events => exact ⟨h.1.trans k.1, k.2.trans h.2⟩
  case job | service => exact ⟨k.1.trans h.1, k.2.trans h.2⟩
  case states | ports => exact fun i => (k i).trans (h i)
  all_goals exact Eq.trans k h

section
variable {free : List Part} {s t u : State}

@[refl, simp] theorem Still.refl (free : List Part) (s : State) : Still free s s :=
  ⟨rfl, List.prefix_refl _, fun h => ⟨h, rfl⟩, fun p _ => .refl p s⟩

theorem Still.trans (h : Still free s t) (k : Still free t u) : Still free s u where
  shell := k.shell.trans h.shell
  outbox := h.outbox.trans k.outbox
  tamper x := ⟨(k.tamper (h.tamper x).1).1, (k.tamper (h.tamper x).1).2.trans (h.tamper x).2⟩
  parts p hp := (h.parts p hp).trans (k.parts p hp)

theorem KeepsStill.of (h : Still free s t) : KeepsStill free s t := fun _ =>
  ⟨Or.inr, fun k => k.elim (fun k => k.trans h) id⟩

theorem KeepsStill.still (h : KeepsStill free s t) : Still free s t := (h s).2 (.inl (.refl free s))

theorem Still.state (h : Still free s t) (hf : .states ∉ free) (q : Fin 32) : t.queues[q].state = s.queues[q].state := h.parts .states hf q
theorem Still.queues (h : Still free s t) (hf : .queues ∉ free) : t.queues = s.queues := h.parts .queues hf
theorem Still.engines (h : Still free s t) (hf : .engines ∉ free) : t.engines = s.engines := h.parts .engines hf
theorem Still.tokens (h : Still free s t) (hf : .tokens ∉ free) : t.tokens = s.tokens := h.parts .tokens hf
theorem Still.gauge (h : Still free s t) (hf : .gauge ∉ free) : t.gauge = s.gauge := h.parts .gauge hf
theorem Still.job (h : Still free s t) (hf : .job ∉ free) : t.jobFatal = s.jobFatal ∧ t.early = s.early := h.parts .job hf
theorem Still.service (h : Still free s t) (hf : .service ∉ free) : t.inService = s.inService ∧ t.bist = s.bist := h.parts .service hf
theorem Still.events (h : Still free s t) (hf : .events ∉ free) : s.events <+: t.events ∧ t.evTail = s.evTail := h.parts .events hf
theorem Still.bearing (h : Still free s t) (hf : .ports ∉ free) (p : Fin 16) : t.ports[p].bearing = s.ports[p].bearing :=
  h.parts .ports hf p

theorem Still.mono {free' : List Part} (h : Still free s t) (hf : free ⊆ free') : Still free' s t :=
  ⟨h.shell, h.outbox, h.tamper, fun p hp => h.parts p fun hm => hp (hf hm)⟩

end

end Sys2Proof.Machine

namespace Sys2Proof.Safety

open Sys2Proof.Machine

/-- What leaves only records aside. -/
theorem Aside.still {s t : State} (h : Aside s t) (free : List Part) : Still free s t where
  shell := by rw [h.form]; rfl
  outbox := by rw [h.form]
  tamper hc := ⟨h.canonical hc, h.regs hc.2 offTamper (by decide)⟩
  parts p _ := .of_eq (by rw [h.form]) (by rw [h.form]) (by rw [h.form]) (by rw [h.form]) (by rw [h.form]; exact ⟨rfl, rfl⟩)
    (by rw [h.form]; exact ⟨rfl, rfl⟩) ⟨h.events, by rw [h.form]⟩ (by rw [h.form]) p

theorem Aside.keepsStill {s t : State} (h : Aside s t) (free : List Part) : KeepsStill free s t := .of (h.still free)

end Sys2Proof.Safety

namespace Sys2Proof.Machine

open Sys2Proof.Safety

/-- A record update of what observers are left and of groups. -/
@[simp] theorem still_update (free : List Part) (r s : State) (fresh : Nat) (poison : List Nat) (t3 : List T3Unit) (evWait : List EvRec)
    (evLost : Nat) (looped : List HeldPkt) (ueAddr : BitVec 64) (groups : Vector Group 8) (cores : Vector Core 16)
    (msixPending : Vector Bool 34) :
    Still free r { s with fresh := fresh, poison := poison, t3 := t3, evWait := evWait, evLost := evLost, looped := looped, ueAddr := ueAddr
                          groups := groups, cores := cores, msixPending := msixPending } ↔ Still free r s :=
  ⟨fun h => ⟨h.shell, h.outbox, h.tamper, fun p hp => by have := h.parts p hp; cases p <;> exact this⟩,
    fun h => ⟨h.shell, h.outbox, h.tamper, fun p hp => by have := h.parts p hp; cases p <;> exact this⟩⟩

/-- Memory written. -/
theorem still_writes (free : List Part) (s : State) {m : List Host.Cell} (p : List Nat) (t : List T3Unit)
    (hw : Memory.wf s.mem = true → Memory.wf m = true) : Still free s { s with mem := m, poison := p, t3 := t } :=
  ⟨rfl, List.prefix_refl _, fun h => ⟨⟨hw h.1, h.2⟩, rfl⟩, fun p _ => by have := Part.Same.refl p s; cases p <;> exact this⟩

/-! ### Branches and folds -/

section
variable {β α : Type} {c : Prop} [Decidable c] {free : List Part}

@[simp] theorem still_ite (r s t : State) : Still free r (if c then s else t) ↔ if c then Still free r s else Still free r t := by
  split <;> rfl

@[simp] theorem still_foldl {f : State → β → State} (hf : ∀ s b, Still free s (f s b)) (l : List β) (s : State) :
    KeepsStill free s (l.foldl f s) := by
  refine .of ?_
  induction l generalizing s with
  | nil => exact .refl _ _
  | cons b l ih => exact (hf s b).trans (ih _)

end

end Sys2Proof.Machine

namespace Sys2Proof.Machine

open Sys2Proof.Safety

section
variable {free : List Part}

/-! ### Registers and memory -/

theorem regPut_still (s : State) {off : Nat} (v : BitVec 64) (ho : off ≠ offTamper) : Still free s (regPut s off v) :=
  ⟨rfl, List.prefix_refl _, fun h => ⟨(regPut_keep s off v).1 h, regGet_regPut_other s off _ v h.2 ho.symm⟩,
    fun p _ => p.same_update s _ _ _⟩

@[simp] theorem regPutField_still (s : State) {off : Nat} (lo w v : Nat) (ho : off ≠ offTamper) : KeepsStill free s (regPutField s off lo w v) :=
  .of (regPut_still s _ ho)

@[simp] theorem cntInc_still (s : State) {off : Nat} (lo w : Nat) (ho : off ≠ offTamper) : KeepsStill free s (cntInc s off lo w) :=
  regPutField_still s lo w _ ho

@[simp] theorem setFlag_still (s : State) {off : Nat} (bit cnt : Nat) (ho : off ≠ offTamper) : KeepsStill free s (setFlag s off bit cnt) :=
  .of (by simp [setFlag, ho])

@[simp] theorem setFlagOnly_still (s : State) {off : Nat} (bit : Nat) (ho : off ≠ offTamper) : KeepsStill free s (setFlagOnly s off bit) :=
  regPutField_still s bit 1 1 ho

@[simp] theorem offErrStat_ne_offTamper : offErrStat ≠ offTamper := by decide
@[simp] theorem offCflEvstat_ne_offTamper : offCflEvstat ≠ offTamper := by decide
@[simp] theorem offCflEvcnt_ne_offTamper : offCflEvcnt ≠ offTamper := by decide
@[simp] theorem offUpdStat_ne_offTamper : offUpdStat ≠ offTamper := by decide
@[simp] theorem offPerr_ne_offTamper (p : Fin 16) : offPerr p ≠ offTamper := by simp only [offPerr, offTamper]; omega
@[simp] theorem offGrpCtl_ne_offTamper (n : Nat) : offGrpCtl n ≠ offTamper := by simp only [offGrpCtl, offTamper]; omega

@[simp] theorem applyWrites_still (w : Nat × Nat) (s : State) (ws : List MemWrite) : KeepsStill free s (applyWrites w s ws) := by
  obtain ⟨m, p, t, k, h, hw⟩ := applyWrites_form w s ws
  refine .of ?_
  rw [h]
  exact (still_update free s _ k _ _ _ _ _ _ _ _ _).2 (still_writes free s p t hw)

@[simp] theorem freeRanges_still (w : Nat × Nat) (s : State) (rs : List (Nat × Nat)) : KeepsStill free s (freeRanges w s rs) :=
  applyWrites_still w s _

@[simp] theorem wrNoted_still (s : State) (a : Nat) (bs : List Byte) : KeepsStill free s (wrNoted s a bs) := by
  obtain ⟨m, p, t, h, hw⟩ := wr_form s a bs
  have hwr : Still free s (wr s a bs) := by rw [h]; exact still_writes free s p t hw
  exact .of (hwr.trans ((wrNoted_aside s a bs).still free))

/-! ### Records aside -/

@[simp] theorem countShared_still (s : State) (mask code n : Nat) : KeepsStill free s (countShared s mask code n) :=
  (countShared_aside s mask code n).keepsStill free
@[simp] theorem countEv_still (s : State) (c : Fin 16) (code n : Nat) : KeepsStill free s (countEv s c code n) :=
  (countEv_aside s c code n).keepsStill free
@[simp] theorem shareEnds_still (s : State) (mask : Nat) (w : Who) : KeepsStill free s (shareEnds s mask w) :=
  (shareEnds_aside s mask w).keepsStill free
@[simp] theorem triggerAll_still (s : State) (bit info : Nat) : KeepsStill free s (triggerAll s bit info) :=
  (triggerAll_aside s bit info).keepsStill free
@[simp] theorem traceRec_still (s : State) (c : Fin 16) (kind unit index info : Nat) (w : Who) (data : Nat) :
    KeepsStill free s (traceRec s c kind unit index info w data) := (traceRec_aside s c kind unit index info w data).keepsStill free
@[simp] theorem tracePhases_still (s : State) (c : Cmd) (w : Who) (ps : List Nat) : KeepsStill free s (tracePhases s c w ps) :=
  (tracePhases_aside s c w ps).keepsStill free
@[simp] theorem endWork_still (s : State) (c : Cmd) (status : Nat) (w : Who) : KeepsStill free s (endWork s c status w) :=
  (endWork_aside s c status w).keepsStill free
@[simp] theorem evPush_still (s : State) (q : Nat) (bytes : List Byte) : KeepsStill free s (evPush s q bytes) :=
  (evPush_aside s q bytes).keepsStill free
@[simp] theorem errEvent_still (s : State) (w : Who) (cause cls unit index count addr : Nat) :
    KeepsStill free s (errEvent s w cause cls unit index count addr) := (errEvent_aside s w cause cls unit index count addr).keepsStill free
@[simp] theorem queueEvent_still (s : State) (cause : Nat) (w : Who) : KeepsStill free s (queueEvent s cause w) :=
  (queueEvent_aside s cause w).keepsStill free
@[simp] theorem Chk.writeOpen_still (w : Who) (s : State) (rs : List (Nat × Nat)) : KeepsStill free s (Chk.writeOpen w s rs).s :=
  (Chk.writeOpen_aside w s rs).keepsStill free
@[simp] theorem freshen_still (s : State) : KeepsStill free s (freshen s) := (freshen_aside s).keepsStill free

/-! ### Queues -/

/-- Commands and state of a queue stay where only its records change. -/
theorem updQ_still (s : State) (q : Fin 32) {f : Queue → Queue} (hq : .queues ∈ free) (hs : (f s.queues[q]).state = s.queues[q].state)
    (ha : NoLayer s → ∀ x ∈ (f s.queues[q]).active, x.work ≠ .layer) : Still free s (updQ s q f) := by
  refine ⟨rfl, List.prefix_refl _, fun h => ⟨h, rfl⟩, fun p hp => ?_⟩
  cases p
  case queues => exact absurd hq hp
  case states =>
    intro k
    by_cases hk : k = q
    · subst hk; simpa using hs
    · simp [Vector.getElem_set_ne, Fin.val_ne_of_ne (Ne.symm hk)]
  case layers =>
    refine fun h => ⟨fun k x hx => ?_, rfl⟩
    by_cases hk : k = q
    · subst hk
      exact ha h x (by simpa using hx)
    · exact h k x (by simpa [Vector.getElem_set_ne, Fin.val_ne_of_ne (Ne.symm hk)] using hx)
  case job | service => exact ⟨rfl, rfl⟩
  case events => exact ⟨List.prefix_refl _, rfl⟩
  case ports => exact fun _ => rfl
  all_goals rfl

@[simp] theorem updQ_records_still (s : State) (q : Fin 32) {f : Queue → Queue} (hq : .queues ∈ free)
    (hf : ∀ u, (f u).state = u.state ∧ (f u).active = u.active) : KeepsStill free s (updQ s q f) :=
  .of (updQ_still s q hq (hf _).1 fun h x hx => h q x (by rwa [(hf _).2] at hx))

@[simp] theorem raise_still (s : State) (v : Nat) : KeepsStill free s (raise s v) := by
  refine .of ?_
  rw [raise_eq]
  exact ⟨rfl, List.prefix_append _ _, fun h => ⟨h, rfl⟩,
    fun p _ => p.same_update s _ _ _⟩

@[simp] theorem writeRec_still (s : State) (q : Fin 32) (r : List Byte × Bool) (hq : .queues ∈ free) : KeepsStill free s (writeRec s q r) :=
  .of (by simp [writeRec, hq])

@[simp] theorem writeRecs_still (q : Fin 32) (n : Nat) (s : State) (hq : .queues ∈ free) : KeepsStill free s (writeRecs q n s) := by
  induction n generalizing s with
  | zero => exact .of (.refl _ _)
  | succ n ih => refine .of ?_; unfold writeRecs; split <;> simp [ih, hq]

@[simp] theorem flushRecs_still (s : State) (q : Fin 32) (hq : .queues ∈ free) : KeepsStill free s (flushRecs s q) := writeRecs_still q _ s hq

@[simp] theorem putRec_still (s : State) (q : Fin 32) (c : Cmd) (status : Nat) (hq : .queues ∈ free) : KeepsStill free s (putRec s q c status) :=
  .of (by simp [putRec, hq])

/-! ### Ports: sending -/

theorem updP_still (s : State) (p : Fin 16) {f : Port → Port} (hf : (f s.ports[p]).bearing = s.ports[p].bearing) :
    Still free s (updP s p f) := by
  refine ⟨rfl, List.prefix_refl _, fun h => ⟨h, rfl⟩, fun x _ => ?_⟩
  cases x
  case ports =>
    intro k
    by_cases hk : k = p
    · subst hk; simpa using hf
    · simp [Vector.getElem_set_ne, Fin.val_ne_of_ne (Ne.symm hk)]
  case job | service => exact ⟨rfl, rfl⟩
  case events => exact ⟨List.prefix_refl _, rfl⟩
  case layers => exact fun h => ⟨h, rfl⟩
  case states => exact fun _ => rfl
  all_goals rfl

@[simp] theorem updP_waiting_still (s : State) (p : Fin 16) (g : Port → List OutFlit) :
    KeepsStill free s (updP s p fun t => { t with waiting := g t }) := .of (updP_still s p rfl)

@[simp] theorem outMsg_still (s : State) (m : OutMsg) : KeepsStill free s (outMsg s m) :=
  .of ⟨rfl, List.prefix_append _ _, fun h => ⟨h, rfl⟩,
    fun p _ => p.same_update s _ _ _⟩

@[simp] theorem outFlit_still (s : State) (p : Fin 16) (x : SentFlit) : KeepsStill free s (outFlit s p x) := outMsg_still s _

@[simp] theorem portDrop_still (s : State) (p : Fin 16) : KeepsStill free s (portDrop s p) := setFlag_still s 5 48 (offPerr_ne_offTamper p)

@[simp] theorem traceLink_still (s : State) (p : Fin 16) (kind info vc : Nat) (phase : Bool) (seq : Nat) (payload : List Byte) :
    KeepsStill free s (traceLink s p kind info vc phase seq payload) := .of (by simp [traceLink])

theorem takeCredit_bearing (t : Port) (f : OutFlit) : (takeCredit t f).bearing = t.bearing := by
  unfold takeCredit
  repeat' split
  all_goals rfl

@[simp] theorem freeBuf_still (s : State) (b : RxBuf) : KeepsStill free s (freeBuf s b) := by
  refine .of (updP_still s _ ?_)
  dsimp only
  split <;> rfl

@[simp] theorem freeBufs_still (s : State) (bs : List RxBuf) : KeepsStill free s (freeBufs s bs) :=
  still_foldl (fun s b => (freeBuf_still s b).still) bs s

@[simp] theorem emitFlit_still (s : State) (p : Fin 16) (f : OutFlit) : KeepsStill free s (emitFlit s p f) := by
  refine .of ?_
  dsimp only [emitFlit]
  refine Still.trans ?_ (freeBufs_still _ _).still
  refine Still.trans ?_ (outFlit_still _ _ _).still
  refine Still.trans ?_ (updP_still _ p (takeCredit_bearing _ f))
  split <;> simp

@[simp] theorem flushPort_still (n : Nat) (s : State) (p : Fin 16) : KeepsStill free s (flushPort n s p) := by
  induction n generalizing s with
  | zero => exact .of (.refl _ _)
  | succ n ih =>
    refine .of ?_
    unfold flushPort
    repeat' split
    all_goals simp [ih]

@[simp] theorem sendOwed_still (n : Nat) (s : State) (p : Fin 16) : KeepsStill free s (sendOwed n s p) := by
  induction n generalizing s with
  | zero => exact .of (.refl _ _)
  | succ n ih =>
    refine .of ?_
    unfold sendOwed
    repeat' split
    all_goals simp [ih]

@[simp] theorem returnCredits_still (s : State) : KeepsStill free s (returnCredits s) := .of (by simp [returnCredits])
@[simp] theorem flush_still (s : State) (p : Fin 16) : KeepsStill free s (flush s p) := .of (by simp [flush])
@[simp] theorem enqueue_still (s : State) (p : Fin 16) (fs : List OutFlit) : KeepsStill free s (enqueue s p fs) :=
  .of (by simp [enqueue])

@[simp] theorem transmit_still (s : State) (out : Fin 16) (vc : Nat) (phase : Bool) (bs : List Byte) (bufs : List RxBuf) :
    KeepsStill free s (transmit s out vc phase bs bufs) := .of (by simp [transmit])

@[simp] theorem sendPacket_still (s : State) (dst dport cls vc : Nat) (body : List Byte) :
    KeepsStill free s (sendPacket s dst dport cls vc body) := by
  refine .of ?_
  dsimp only [sendPacket]
  repeat' split
  all_goals simp

@[simp] theorem sendPkt_still (s : State) (addr dport : Nat) (p : Pkt) : KeepsStill free s (sendPkt s addr dport p) :=
  .of (by simp [sendPkt])
@[simp] theorem sendAll_still (s : State) (ms : List Member) (p : Pkt) : KeepsStill free s (sendAll s ms p) := .of (by simp [sendAll])

/-! ### Reductions that stop -/

@[simp] theorem updG_still (s : State) (n : Nat) (f : Group → Group) : KeepsStill free s (updG s n f) := .of (by simp [updG])

@[simp] theorem cflEvent_still (s : State) (q : Fin 32) (r : Reduce) (cause : Nat) (rank? : Option Nat) (count : Nat)
    (window? addr? : Option Nat) : KeepsStill free s (cflEvent s q r cause rank? count window? addr?) := .of (by simp [cflEvent])

@[simp] theorem cflStale_still (s : State) : KeepsStill free s (cflStale s) := .of (by simp [cflStale])

@[simp] theorem guardWrite_still (s : State) (q : Fin 32) (r : Reduce) (v : Nat) : KeepsStill free s (guardWrite s q r v).1 := by
  refine .of ?_
  dsimp only [guardWrite]
  repeat' split
  all_goals simp

@[simp] theorem markEnded_still (s : State) (r : Reduce) (outcome : Nat) : KeepsStill free s (markEnded s r outcome) :=
  .of (by simp [markEnded])

@[simp] theorem stopReduce_still (s : State) (q : Fin 32) (r : Reduce) (held : List MemWrite) (quiet : Bool) :
    KeepsStill free s (stopReduce s q r held quiet).1 := .of (by simp [stopReduce])

/-! ### Commands that stop (R384) -/

@[simp] theorem updPart_still (s : State) : KeepsStill free s (updPart s) := .of (by simp [updPart])

@[simp] theorem stopUpdate_still (s : State) (w : Who) (cmd : Cmd) (blocks : List (List MemWrite × Bool))
    (chunks : List (List MemWrite × Nat)) (guarded : Nat) (tripped : Bool) :
    KeepsStill free s (stopUpdate s w cmd blocks chunks guarded tripped).1 := by
  refine .of ?_
  dsimp only [stopUpdate]
  split <;> simp

end

end Sys2Proof.Machine

namespace Sys2Proof.Machine

open Sys2Proof.Safety

/-! ### Queues that stop (R384) -/

section
variable {free : List Part}

@[simp] theorem updE_still (s : State) (e : Fin 96) (f : Engine → Engine) (he : .engines ∈ free) (hl : .layers ∈ free) :
    KeepsStill free s (updE s e f) := by
  refine .of ⟨rfl, List.prefix_refl _, fun h => ⟨h, rfl⟩, fun p hp => ?_⟩
  cases p
  case engines => exact absurd he hp
  case layers => exact absurd hl hp
  case job | service => exact ⟨rfl, rfl⟩
  case events => exact ⟨List.prefix_refl _, rfl⟩
  case states | ports => exact fun _ => rfl
  all_goals rfl

@[simp] theorem abortSome_still (s : State) (es : List Nat) (he : .engines ∈ free) (hl : .layers ∈ free) : KeepsStill free s (abortSome s es) :=
  .of (by simp [abortSome, abortEngine, he, hl])

/-- Engines abort where a command of a LAYER stops. -/
theorem stopOne_still (s : State) (q : Fin 32) (c : Cmd) (status : Nat) (quiet : Bool) (hq : .queues ∈ free)
    (hl : c.work = .layer → .engines ∈ free ∧ .layers ∈ free) : Still free s (stopOne s q c status quiet) := by
  unfold stopOne
  split
  case h_4 h => simp [hq, hl h]
  all_goals simp [hq]

theorem still_foldl_mem {β : Type} {f : State → β → State} (l : List β) (hf : ∀ s, ∀ b ∈ l, Still free s (f s b)) (s : State) :
    Still free s (l.foldl f s) := by
  induction l generalizing s with
  | nil => exact .refl _ _
  | cons b l ih => exact (hf s b (by simp)).trans (ih (fun s x hx => hf s x (by simp [hx])) _)

/-- The commands that run after a queue has left RUNNING: those of the other queues, with fences that wait for less. -/
theorem leaveRunning_queue (s : State) (q : Fin 32) (st : QState) (k : Fin 32) :
    (leaveRunning s q st).queues[k].state = (if k = q then st else s.queues[k].state) ∧
      ∀ x ∈ (leaveRunning s q st).queues[k].active, x.work = .layer → x ∈ s.queues[k].active := by
  by_cases hk : k = q
  · subst hk
    simp [leaveRunning, dropFences]
  · refine ⟨by simp [leaveRunning, dropFences, hk, Vector.getElem_set_ne, Fin.val_ne_of_ne (Ne.symm hk)], fun x hx hw => ?_⟩
    simp only [leaveRunning, dropFences, Fin.getElem_fin, Vector.getElem_map, updQ_queues, List.mem_map,
      Vector.getElem_set_ne _ _ (Fin.val_ne_of_ne (Ne.symm hk))] at hx
    obtain ⟨y, hy, rfl⟩ := hx
    split at hw
    · cases hw
    · exact hy

theorem leaveRunning_still (s : State) (q : Fin 32) (st : QState) (hq : .queues ∈ free) (hs : .states ∈ free) :
    Still free s (leaveRunning s q st) := by
  refine ⟨rfl, List.prefix_refl _, fun h => ⟨h, rfl⟩, fun p hp => ?_⟩
  cases p
  case queues => exact absurd hq hp
  case states => exact absurd hs hp
  case layers => exact fun h => ⟨fun k x hx hw => h k x ((leaveRunning_queue s q st k).2 x hx hw) hw, rfl⟩
  case job | service => exact ⟨rfl, rfl⟩
  case events => exact ⟨List.prefix_refl _, rfl⟩
  case ports => exact fun _ => rfl
  all_goals rfl

/-- The commands of a queue, one after another. -/
theorem stopAll_still (s : State) (q : Fin 32) (l : List Cmd) (status : Nat) (quiet : Bool) (hq : .queues ∈ free)
    (hl : ∀ c ∈ l, c.work = .layer → .engines ∈ free ∧ .layers ∈ free) : Still free s (l.foldl (fun s c => stopOne s q c status quiet) s) :=
  still_foldl_mem l (fun s c hc => stopOne_still s q c status quiet hq (hl c hc)) s

@[simp] theorem stopQueue_still (s : State) (q : Fin 32) (st : QState) (status cause : Nat) (quiet : Bool) (hq : .queues ∈ free)
    (hs : .states ∈ free) (he : .engines ∈ free) : KeepsStill free s (stopQueue s q st status cause quiet) := by
  have hstop (free : List Part) (hq : .queues ∈ free) (hs : .states ∈ free)
      (hl : ∀ c ∈ s.queues[q].active, c.work = .layer → .engines ∈ free ∧ .layers ∈ free) :
      Still free s (stopQueue s q st status cause quiet) := by
    refine Still.trans ?_ (queueEvent_still _ _ _).still
    exact (stopAll_still s q _ status quiet hq hl).trans (leaveRunning_still _ q st hq hs)
  refine .of ?_
  by_cases hn : NoLayer s
  · exact hstop free hq hs fun c hc hw => absurd hw (hn q c hc)
  · have h := hstop (.layers :: free) (by simp [hq]) (by simp [hs]) fun _ _ _ => by simp [he]
    refine ⟨h.shell, h.outbox, h.tamper, fun p hp => ?_⟩
    by_cases hp' : p = .layers
    · subst hp'; exact fun x => absurd x hn
    · exact h.parts p (by simp [hp, hp'])

@[simp] theorem haltMask_still (s : State) (mask : Nat) (quiet : Bool) (hq : .queues ∈ free) (hs : .states ∈ free) (he : .engines ∈ free) :
    KeepsStill free s (haltMask s mask quiet) := .of (by simp [haltMask, hq, hs, he])

/-- A stopped queue alone changes its state. -/
theorem stopQueue_state (s : State) (q : Fin 32) (st : QState) (status cause : Nat) (quiet : Bool) (k : Fin 32) :
    (stopQueue s q st status cause quiet).queues[k].state = if k = q then st else s.queues[k].state := by
  have hevent := (queueEvent_still (free := []) (leaveRunning (s.queues[q].active.foldl (fun s c => stopOne s q c status quiet) s) q st)
    cause (haltWho s q)).still.state (by simp) k
  have hstop := (stopAll_still (free := [.queues, .engines, .layers]) s q s.queues[q].active status quiet (by simp)
    fun _ _ _ => by simp).state (by simp) k
  refine hevent.trans ((leaveRunning_queue _ q st k).1.trans ?_)
  rw [hstop]

/-- HALT halts the running queues of its mask. -/
theorem haltMask_state (s : State) (mask : Nat) (quiet : Bool) (k : Fin 32) :
    (haltMask s mask quiet).queues[k].state =
      if bitAt mask k.val = true ∧ s.queues[k].state = .running then .halted else s.queues[k].state := by
  have hfold (l : List (Fin 32)) (s : State) : (l.foldl (fun s q =>
      if bitAt mask q.val && s.queues[q].state == .running then stopQueue s q .halted 2 0x02 quiet else s) s).queues[k].state =
      if k ∈ l ∧ bitAt mask k.val = true ∧ s.queues[k].state = .running then .halted else s.queues[k].state := by
    induction l generalizing s with
    | nil => simp
    | cons q l ih =>
      rw [List.foldl_cons, ih]
      by_cases hstop : bitAt mask q.val = true ∧ s.queues[q].state = .running
      · simp only [hstop, beq_self_eq_true, Bool.and_self, if_true, stopQueue_state]
        by_cases hk : k = q
        · subst hk
          simp only [if_true, reduceCtorEq, and_false, if_false, List.mem_cons, true_or, true_and]
          rw [if_pos hstop]
        · simp [hk]
      · have hkeep : (bitAt mask q.val && s.queues[q].state == .running) = false := by
          simpa using hstop
        simp only [hkeep, Bool.false_eq_true, if_false]
        by_cases hk : k = q
        · subst hk
          exact (if_neg fun h => hstop h.2).trans (if_neg fun h => hstop h.2).symm
        · simp [hk]
  have htrigger := (triggerAll_still (free := []) ((List.finRange 32).foldl (fun s q =>
    if bitAt mask q.val && s.queues[q].state == .running then stopQueue s q .halted 2 0x02 quiet else s) s) 53 3).still.state (by simp) k
  refine htrigger.trans ((hfold (List.finRange 32) s).trans ?_)
  simp

/-! ### The job-fatal sequence (R405) -/

@[simp] theorem abortMissing_still (s : State) (n : Nat) (b : LiveBucket) : KeepsStill free s (abortMissing s n b) :=
  .of (by simp [abortMissing])

/-- What stays does not depend on the job-fatal error in force. -/
theorem Still.withJobFatal {s t : State} (h : Still free s t) (b : Bool) : Still free { s with jobFatal := b } { t with jobFatal := b } := by
  refine ⟨h.shell, h.outbox, h.tamper, fun p hp => ?_⟩
  have hsame := h.parts p hp
  cases p
  case job => exact ⟨rfl, hsame.2⟩
  all_goals exact hsame

/-- Nor does it depend on the packets held early. -/
theorem Still.withEarly {s t : State} (h : Still free s t) (l : List HeldPkt) : Still free { s with early := l } { t with early := l } := by
  refine ⟨h.shell, h.outbox, h.tamper, fun p hp => ?_⟩
  have hsame := h.parts p hp
  cases p
  case job => exact ⟨hsame.1, rfl⟩
  all_goals exact hsame

/-- The ABORTs for the buckets of one group, which leave although a job-fatal error is in force. -/
def abortGroup (s : State) (nb : Nat × List LiveBucket) : State :=
  let g := grpOf s nb.1
  if g.armed && !(selfMember g).backup then
    { nb.2.foldl (fun s b => abortMissing s nb.1 b) { s with jobFatal := false } with jobFatal := true }
  else s

theorem abortGroup_still {s : State} (h : s.jobFatal = true) (nb : Nat × List LiveBucket) : Still free s (abortGroup s nb) := by
  have haborts : Still free { s with jobFatal := false } (nb.2.foldl (fun s b => abortMissing s nb.1 b) { s with jobFatal := false }) :=
    (still_foldl (fun s b => (abortMissing_still s nb.1 b).still) _ _).still
  have hs : { s with jobFatal := true } = s := by rw [← h]
  unfold abortGroup
  dsimp only
  split
  · exact hs ▸ haborts.withJobFatal true
  · exact .refl _ _

theorem abortGroup_jobFatal {s : State} (h : s.jobFatal = true) (nb : Nat × List LiveBucket) : (abortGroup s nb).jobFatal = true := by
  unfold abortGroup
  dsimp only
  split
  · rfl
  · exact h

theorem abortGroups_still (l : List (Nat × List LiveBucket)) {s : State} (h : s.jobFatal = true) : Still free s (l.foldl abortGroup s) := by
  induction l generalizing s with
  | nil => exact .refl _ _
  | cons nb l ih => exact (abortGroup_still h nb).trans (ih (abortGroup_jobFatal h nb))

/-- The groups as the sequence leaves them. -/
def groupsEnd (s : State) : State :=
  (List.range 8).foldl (fun s n => updG (regPutField s (offGrpCtl n) 0 1 0) n fun g => { disarmed g 0 0 with held := [] }) s

@[simp] theorem groupsEnd_still (s : State) : KeepsStill free s (groupsEnd s) := .of (by simp [groupsEnd])

/-- The sequence up to the packets held early. -/
def jobEnds (s : State) : State :=
  groupsEnd (((List.range 8).map fun n => (n, liveBuckets { s with jobFatal := true } n)).foldl abortGroup
    (haltMask { s with jobFatal := true } 0xFFFFFFFF true))

theorem jobFatalSteps_eq (s : State) :
    jobFatalSteps s = (jobEnds s).early.foldl (fun s _ => cflStale s) { jobEnds s with early := [] } := rfl

theorem jobEnds_still (s : State) (hq : .queues ∈ free) (hs : .states ∈ free) (he : .engines ∈ free) :
    Still free { s with jobFatal := true } (jobEnds s) := by
  have hhalt : Still free { s with jobFatal := true } (haltMask { s with jobFatal := true } 0xFFFFFFFF true) :=
    (haltMask_still _ _ _ hq hs he).still
  have hjob := (haltMask_still (free := [.queues, .states, .engines]) { s with jobFatal := true } 0xFFFFFFFF true (by simp) (by simp)
    (by simp)).still.job (by simp)
  exact hhalt.trans ((abortGroups_still _ hjob.1).trans (groupsEnd_still _).still)

/-- Of what stays, the sequence changes the error in force and the packets held early. -/
theorem jobFatalSteps_still (s : State) (hq : .queues ∈ free) (hs : .states ∈ free) (he : .engines ∈ free) :
    Still free { s with jobFatal := true, early := [] } (jobFatalSteps s) := by
  rw [jobFatalSteps_eq]
  exact ((jobEnds_still s hq hs he).withEarly []).trans (still_foldl (fun s _ => (cflStale_still s).still) _ _).still

theorem jobFatalSteps_state (s : State) (k : Fin 32) :
    (jobFatalSteps s).queues[k].state = if s.queues[k].state = .running then .halted else s.queues[k].state := by
  have hmask : bitAt 0xFFFFFFFF k.val = true := by revert k; decide
  have hhalt := haltMask_state { s with jobFatal := true } 0xFFFFFFFF true k
  simp only [hmask, true_and] at hhalt
  have hjob := (haltMask_still (free := [.queues, .states, .engines]) { s with jobFatal := true } 0xFFFFFFFF true (by simp) (by simp)
    (by simp)).still.job (by simp)
  have hends : (jobEnds s).queues[k].state = (haltMask { s with jobFatal := true } 0xFFFFFFFF true).queues[k].state :=
    ((abortGroups_still (free := []) _ hjob.1).trans (groupsEnd_still _).still).state (by simp) k
  rw [← hhalt, ← hends, jobFatalSteps_eq]
  generalize jobEnds s = u
  exact (still_foldl (free := []) (fun s (_ : HeldPkt) => (cflStale_still s).still) u.early { u with early := [] }).still.state (by simp) k

/-- Every group is disarmed and holds no packet. -/
theorem groupsEnd_group (s : State) (g : Fin 8) : (groupsEnd s).groups[g].armed = false ∧ (groupsEnd s).groups[g].held = [] := by
  have hfold (l : List Nat) (s : State) (h : g.val ∈ l ∨ s.groups[g].armed = false ∧ s.groups[g].held = []) :
      let t := l.foldl (fun s n => updG (regPutField s (offGrpCtl n) 0 1 0) n fun g => { disarmed g 0 0 with held := [] }) s
      t.groups[g].armed = false ∧ t.groups[g].held = [] := by
    induction l generalizing s with
    | nil => exact h.resolve_left (by simp)
    | cons n l ih =>
      refine ih _ ?_
      by_cases hn : grpFin n = g
      · right
        subst hn
        simp [disarmed]
      · have hn' : g.val ≠ n := fun h => hn (by ext; simp [grpFin, ← h])
        obtain h | h := h
        · exact .inl ((List.mem_cons.1 h).resolve_left hn')
        · right
          simpa [Vector.getElem_set_ne, Fin.val_ne_of_ne hn, regPutField] using h
  exact hfold (List.range 8) s (.inl (by simp))

theorem jobFatalSteps_group (s : State) (g : Fin 8) : (jobFatalSteps s).groups[g].armed = false ∧ (jobFatalSteps s).groups[g].held = [] := by
  have hstale (l : List HeldPkt) (s : State) : (l.foldl (fun s _ => cflStale s) s).groups = s.groups := by
    induction l generalizing s with
    | nil => rfl
    | cons x l ih => exact ih _
  have hends : (jobEnds s).groups[g].armed = false ∧ (jobEnds s).groups[g].held = [] := groupsEnd_group _ g
  rw [jobFatalSteps_eq]
  generalize jobEnds s = u at hends
  rw [hstale]
  exact hends

end

end Sys2Proof.Machine

namespace Sys2Proof.Machine

open Sys2Proof.Safety

section
variable {free : List Part}

theorem jobFatalError_still (s : State) (w : Who) (cause unit index count : Nat) (hq : .queues ∈ free) (hs : .states ∈ free)
    (he : .engines ∈ free) (hj : .job ∈ free) : Still free s (jobFatalError s w cause unit index count) := by
  have hjob (u : State) : Still free u { u with jobFatal := true, early := [] } := by
    refine ⟨rfl, List.prefix_refl _, fun h => ⟨h, rfl⟩, fun p hp => ?_⟩
    have hsame := Part.Same.refl p u
    cases p
    case job => exact absurd hj hp
    all_goals exact hsame
  have herr := (errEvent_still (free := free) s w cause 2 unit index count 0).still
  unfold jobFatalError
  dsimp only
  split
  · exact herr
  · exact (herr.trans (hjob _)).trans (jobFatalSteps_still _ hq hs he)

/-- Queues that do not run stay as they are. -/
theorem jobFatalError_state (s : State) (w : Who) (cause unit index count : Nat) (k : Fin 32) (h : s.queues[k].state ≠ .running) :
    (jobFatalError s w cause unit index count).queues[k].state = s.queues[k].state := by
  have herr := (errEvent_still (free := []) s w cause 2 unit index count 0).still.state (by simp) k
  unfold jobFatalError
  dsimp only
  split
  · exact herr
  · rw [jobFatalSteps_state, herr, if_neg h]

/-! ### Engines that are retired, and the self-test (R34, R104) -/

/-- What finds an engine bad: its part of the self-test and its service. -/
theorem Still.service_update (s : State) (v : Vector Bool 96) (b : Vector Nat 96) (h : .service ∈ free) :
    Still free s { s with inService := v, bist := b } := by
  refine ⟨rfl, List.prefix_refl _, fun h => ⟨h, rfl⟩, fun p hp => ?_⟩
  have hsame := Part.Same.refl p s
  cases p
  case service => exact absurd h hp
  all_goals exact hsame

theorem retireEngine_still (s : State) (w : Who) (e : Fin 96) (hq : .queues ∈ free) (hs : .states ∈ free) (he : .engines ∈ free)
    (hj : .job ∈ free) (hv : .service ∈ free) : Still free s (retireEngine s w e) := by
  have hflag : Still free s (setFlag { s with inService := s.inService.set e false } offErrStat 3 48) :=
    (Still.service_update s _ s.bist hv).trans (setFlag_still _ _ _ (by simp)).still
  unfold retireEngine
  dsimp only
  split
  · exact hflag.trans (jobFatalError_still _ _ _ _ _ _ hq hs he hj)
  · exact hflag.trans (errEvent_still _ _ _ _ _ _ _ _).still

theorem retireEngine_state (s : State) (w : Who) (e : Fin 96) (k : Fin 32) (h : s.queues[k].state ≠ .running) :
    (retireEngine s w e).queues[k].state = s.queues[k].state := by
  unfold retireEngine
  dsimp only
  split
  · exact jobFatalError_state _ _ _ _ _ _ k h
  · exact (errEvent_still (free := []) _ _ _ _ _ _ _ _).still.state (by simp) k

/-- What the self-test does about one engine. -/
def testEngine (found : List (Fin 96 × BitVec 5)) (s : State) (e : Fin 96) : State :=
  let code := if decide (16 < s.fuses[e]) then some 0x1E else (found.find? fun f => f.1 == e).map fun f => f.2.toNat
  match code with
  | none => s
  | some c => if c = 0x1F then s else retireEngine { s with bist := s.bist.set e c } Who.none e

theorem selfTest_eq (s : State) (found : List (Fin 96 × BitVec 5)) : selfTest s found = (List.finRange 96).foldl (testEngine found) s := rfl

theorem testEngine_still (found : List (Fin 96 × BitVec 5)) (s : State) (e : Fin 96) (hq : .queues ∈ free) (hs : .states ∈ free)
    (he : .engines ∈ free) (hj : .job ∈ free) (hv : .service ∈ free) : Still free s (testEngine found s e) := by
  unfold testEngine
  dsimp only
  split
  · exact .refl _ _
  split
  · exact .refl _ _
  · exact (Still.service_update s s.inService _ hv).trans (retireEngine_still _ _ _ hq hs he hj hv)

theorem testEngine_state (found : List (Fin 96 × BitVec 5)) (s : State) (e : Fin 96) (k : Fin 32) (h : s.queues[k].state ≠ .running) :
    (testEngine found s e).queues[k].state = s.queues[k].state := by
  unfold testEngine
  dsimp only
  split
  · rfl
  split
  · rfl
  · exact retireEngine_state _ _ _ k h

theorem selfTest_still (s : State) (found : List (Fin 96 × BitVec 5)) (hq : .queues ∈ free) (hs : .states ∈ free) (he : .engines ∈ free)
    (hj : .job ∈ free) (hv : .service ∈ free) : Still free s (selfTest s found) :=
  (still_foldl (fun s e => testEngine_still found s e hq hs he hj hv) _ _).still

theorem selfTest_state (s : State) (found : List (Fin 96 × BitVec 5)) (k : Fin 32) (h : s.queues[k].state ≠ .running) :
    (selfTest s found).queues[k].state = s.queues[k].state := by
  rw [selfTest_eq]
  induction List.finRange 96 generalizing s with
  | nil => rfl
  | cons e l ih =>
    have hstep := testEngine_state found s e k h
    rw [List.foldl_cons, ih _ (by rwa [hstep]), hstep]

/-! ### A REDUCE that its lost routes end (R299, R320, R407) -/

/-- A queue whose commands change. -/
theorem updQ_cmds_still (s : State) (q : Fin 32) (f : Queue → Queue) (hq : .queues ∈ free) (hs : .states ∈ free) (hl : .layers ∈ free) :
    KeepsStill free s (updQ s q f) := by
  refine .of ⟨rfl, List.prefix_refl _, fun h => ⟨h, rfl⟩, fun p hp => ?_⟩
  cases p
  case queues => exact absurd hq hp
  case states => exact absurd hs hp
  case layers => exact absurd hl hp
  case job | service => exact ⟨rfl, rfl⟩
  case events => exact ⟨List.prefix_refl _, rfl⟩
  case ports => exact fun _ => rfl
  all_goals rfl

theorem tokenMap_still (s : State) (t : Nat) (f : BitVec 32 → BitVec 32) (ht : .tokens ∈ free) : KeepsStill free s (tokenMap s t f) := by
  refine .of ⟨rfl, List.prefix_refl _, fun h => ⟨h, rfl⟩, fun p hp => ?_⟩
  have hsame := Part.Same.refl p s
  cases p
  case tokens => exact absurd ht hp
  all_goals exact hsame

end

/-- What commands that end are free to change. -/
def Part.ofEnds : List Part := [.queues, .states, .layers, .tokens]

section

theorem updQ_ends (s : State) (q : Fin 32) (f : Queue → Queue) : KeepsStill Part.ofEnds s (updQ s q f) :=
  updQ_cmds_still s q f (by simp [Part.ofEnds]) (by simp [Part.ofEnds]) (by simp [Part.ofEnds])

theorem putRec_ends (s : State) (q : Fin 32) (c : Cmd) (status : Nat) : KeepsStill Part.ofEnds s (putRec s q c status) :=
  putRec_still s q c status (by simp [Part.ofEnds])

theorem signalEffect_ends (s : State) (w : Work) : KeepsStill Part.ofEnds s (signalEffect s w) := by
  refine .of ?_
  unfold signalEffect
  split
  · exact (tokenMap_still s _ _ (by simp [Part.ofEnds])).still
  · exact .refl _ _

theorem containCmd_ends (s : State) (q : Fin 32) (c : Cmd) : KeepsStill Part.ofEnds s (containCmd s q c) := by
  refine .of ?_
  unfold containCmd
  dsimp only
  split
  · exact (updQ_ends _ _ _).still
  · refine Still.trans ?_ (queueEvent_still _ _ _).still
    refine Still.trans ?_ (leaveRunning_still _ _ _ (by simp [Part.ofEnds]) (by simp [Part.ofEnds]))
    exact (setFlag_still _ _ _ (by simp)).still.trans (putRec_ends _ _ _ _).still

theorem finishCmd_ends (s : State) (q : Fin 32) (c : Cmd) : KeepsStill Part.ofEnds s (finishCmd s q c) := by
  refine .of ?_
  simp only [finishCmd, putRec_ends, still_ite, tokenMap_still (free := Part.ofEnds) _ _ _ (by simp [Part.ofEnds])]
  simp [signalEffect_ends]

theorem doneCmd_ends (s : State) (q : Fin 32) (c : Cmd) : KeepsStill Part.ofEnds s (doneCmd s q c) := by
  refine .of ?_
  simp [doneCmd, finishCmd_ends, containCmd_ends]

theorem completeReduce_ends (s : State) (q : Fin 32) (c : Cmd) (status : Nat) : KeepsStill Part.ofEnds s (completeReduce s q c status) := by
  refine .of ?_
  simp [completeReduce, popCmd, doneCmd_ends, containCmd_ends, putRec_ends, updQ_ends]

theorem finishReduce_ends (s : State) (q : Fin 32) (r : Reduce) (outcome rank nan ovf : Nat) :
    KeepsStill Part.ofEnds s (finishReduce s q r outcome rank nan ovf) := by
  refine .of ?_
  unfold finishReduce
  split <;> simp [setCmd, updQ_ends, completeReduce_ends]

theorem endReduce_ends (s : State) (q : Fin 32) (r : Reduce) (outcome rank : Nat) (win : Option Nat) :
    KeepsStill Part.ofEnds s (endReduce s q r outcome rank win) := by
  have hguard : Still Part.ofEnds s (writeGuard s q r 0xFFFFFFFF).1 := by simp [writeGuard, holdWrites, updQ_ends]
  refine .of (hguard.trans ?_)
  unfold endReduce endGuarded
  dsimp only
  refine Still.trans ?_ (finishReduce_ends _ _ _ _ _ _ _).still
  split <;> simp

theorem homeEnds_ends (s : State) (q : Fin 32) (r : Reduce) (why rank : Nat) (win : Option Nat) :
    KeepsStill Part.ofEnds s (homeEnds s q r why rank win) := .of (by simp [homeEnds, endReduce_ends])

theorem substEvents_ends (s : State) (q : Fin 32) (ranks : List Nat) : KeepsStill Part.ofEnds s (substEvents s q ranks) := by
  refine still_foldl (fun s k => ?_) ranks s
  dsimp only
  repeat' split
  all_goals simp [setReduce, updQ_ends]

theorem ranksLate_ends (s : State) (q : Fin 32) (ahead : List Nat) (hit : Window → Nat → Bool) :
    KeepsStill Part.ofEnds s (ranksLate s q ahead hit) := by
  refine .of ?_
  unfold ranksLate
  split <;> simp [homeEnds_ends, substEvents_ends, sendGrants, setReduce, updQ_ends]

theorem routesGone_ends (s : State) (q : Fin 32) (gone : Nat → Bool) : KeepsStill Part.ofEnds s (routesGone s q gone) := by
  refine .of ?_
  unfold routesGone
  split <;> simp [ranksLate_ends, setReduce, updQ_ends]

theorem routesLost_ends (s : State) (p : Fin 16) : Still Part.ofEnds s (routesLost s p) := by simp [routesLost, routesGone_ends]

end

end Sys2Proof.Machine

namespace Sys2Proof.Machine

open Sys2Proof.Safety

section
variable {free : List Part}

/-! ### Ports that leave (R320, R495) -/

theorem linkEvent_still (s : State) (p : Fin 16) (cause old : Nat) : KeepsStill free s (linkEvent s p cause old) := .of (by simp [linkEvent])

@[simp] theorem portDrops_still (n : Nat) (s : State) (p : Fin 16) : KeepsStill free s (portDrops n s p) := by
  induction n generalizing s with
  | zero => exact .of (.refl _ _)
  | succ n ih =>
    refine .of ?_
    unfold portDrops
    simp [ih]

@[simp] theorem forgetBufs_still (s : State) (p : Fin 16) : KeepsStill free s (forgetBufs s p) := by
  refine .of ⟨rfl, List.prefix_refl _, fun h => ⟨h, rfl⟩, fun x _ => ?_⟩
  have hsame := Part.Same.refl x s
  cases x
  case ports => exact fun k => by simp [forgetBufs, Port.bearing]
  all_goals exact hsame

theorem gaugePortLeft_still (s : State) (p : Fin 16) (hg : .gauge ∈ free) : Still free s (gaugePortLeft s p) := by
  unfold gaugePortLeft
  split
  · refine ⟨rfl, List.prefix_refl _, fun h => ⟨h, rfl⟩, fun x hx => ?_⟩
    have hsame := Part.Same.refl x s
    cases x
    case gauge => exact absurd hg hx
    all_goals exact hsame
  · exact .refl _ _

theorem updP_ports_still (s : State) (p : Fin 16) (f : Port → Port) (hp : .ports ∈ free) : Still free s (updP s p f) := by
  refine ⟨rfl, List.prefix_refl _, fun h => ⟨h, rfl⟩, fun x hx => ?_⟩
  have hsame := Part.Same.refl x s
  cases x
  case ports => exact absurd hp hx
  all_goals exact hsame

/-- What the port holds for others is given up before its link logic is reset. -/
def portEmptied (s : State) (p : Fin 16) : State :=
  let t := s.ports[p]
  if hasSession t then freeBufs (portDrops (waitingPackets t) s p) (t.waiting.filterMap OutFlit.buf) else s

/-- What the end of its session costs the others. -/
def portLost (s : State) (p : Fin 16) : State := returnCredits (routesLost (gaugePortLeft (forgetBufs s p) p) p)

theorem portLeave_eq (s : State) (p : Fin 16) (st : PState) :
    portLeave s p st =
      let u := updP (portEmptied s p) p fun t => { portCleared t with state := st }
      if hasSession s.ports[p] then portLost u p else u := rfl

theorem portEmptied_still (s : State) (p : Fin 16) : Still free s (portEmptied s p) := by
  unfold portEmptied
  dsimp only
  split <;> simp

theorem portLost_still (s : State) (p : Fin 16) (hg : .gauge ∈ free) (hr : ∀ u : State, u.queues = s.queues → Still free u (routesLost u p)) :
    Still free s (portLost s p) := by
  have hleft : Still free s (gaugePortLeft (forgetBufs s p) p) := (forgetBufs_still s p).still.trans (gaugePortLeft_still _ p hg)
  have hqueues : (gaugePortLeft (forgetBufs s p) p).queues = s.queues :=
    ((forgetBufs_still (free := [.gauge]) s p).still.trans (gaugePortLeft_still _ p (by simp))).queues (by simp)
  exact (hleft.trans (hr _ hqueues)).trans (returnCredits_still _).still

theorem portLeave_still (s : State) (p : Fin 16) (st : PState) (hp : .ports ∈ free) (hg : .gauge ∈ free)
    (hr : ∀ u : State, u.queues = s.queues → Still free u (routesLost u p)) : Still free s (portLeave s p st) := by
  have hcleared : Still free s (updP (portEmptied s p) p fun t => { portCleared t with state := st }) :=
    (portEmptied_still s p).trans (updP_ports_still _ _ _ hp)
  have hqueues : (updP (portEmptied s p) p fun t => { portCleared t with state := st }).queues = s.queues :=
    (portEmptied_still (free := []) s p).queues (by simp)
  rw [portLeave_eq]
  dsimp only
  split
  · exact hcleared.trans (portLost_still _ p hg fun u hu => hr u (hu.trans hqueues))
  · exact hcleared

/-- The port that leaves takes its new state and loses its keys; the others keep theirs. -/
theorem portLeave_bearing (s : State) (p : Fin 16) (st : PState) (k : Fin 16) :
    (portLeave s p st).ports[k].bearing = if k = p then (st, 0, 0, 0) else s.ports[k].bearing := by
  have hcleared : (updP (portEmptied s p) p fun t => { portCleared t with state := st }).ports[k].bearing =
      if k = p then (st, 0, 0, 0) else s.ports[k].bearing := by
    by_cases hk : k = p
    · subst hk; simp [Port.bearing, portCleared]
    · have hsame := (portEmptied_still (free := []) s p).bearing (by simp) k
      simpa [hk, Vector.getElem_set_ne, Fin.val_ne_of_ne (Ne.symm hk)] using hsame
  rw [portLeave_eq]
  dsimp only
  split
  · refine ((portLost_still (free := .gauge :: Part.ofEnds) _ p (by simp) fun u _ => ?_).bearing (by simp [Part.ofEnds]) k).trans hcleared
    exact (routesLost_ends u p).mono (by simp)
  · exact hcleared

/-- A port goes down, whatever REDUCE its routes end. -/
theorem portDown_still (s : State) (p : Fin 16) : Still (.ports :: .gauge :: Part.ofEnds) s (portDown s p) := by
  have hleave : Still (.ports :: .gauge :: Part.ofEnds) s (portLeave s p .detect) :=
    portLeave_still s p .detect (by simp) (by simp) fun u _ => (routesLost_ends u p).mono fun x hx => by simp [hx]
  unfold portDown
  dsimp only
  split
  · exact hleave.trans (linkEvent_still _ _ _ _).still
  · exact hleave

theorem endSessions_still (s : State) : Still (.ports :: .gauge :: Part.ofEnds) s (endSessions s) := by
  refine (still_foldl (fun s p => ?_) (List.finRange 16) s).still
  split
  · exact portDown_still s p
  · exact .refl _ _

/-! ### The device-fatal sequence (R406) -/

theorem events_still (s : State) (l w : List EvRec) (n : Nat) (h : .events ∈ free) : Still free s { s with events := l, evWait := w, evTail := n } := by
  refine ⟨rfl, List.prefix_refl _, fun h => ⟨h, rfl⟩, fun x hx => ?_⟩
  have hsame := Part.Same.refl x s
  cases x
  case events => exact absurd h hx
  all_goals exact hsame

theorem evAdmit_still (s : State) (h : .events ∈ free) : Still free s (evAdmit s) := by
  unfold evAdmit
  split
  · exact .refl _ _
  split
  · exact events_still s _ _ s.evTail h
  · exact .refl _ _

theorem writeEvent_still (s : State) (h : .events ∈ free) : Still free s (writeEvent s) := by
  unfold writeEvent
  split
  · exact .refl _ _
  next e r _ =>
    split
    · have hadmit : Still free s (evAdmit { s with events := r }) := (events_still s r s.evWait s.evTail h).trans (evAdmit_still _ h)
      have hwrite := hadmit.trans (wrNoted_still _ (evSlotOf s) e.bytes).still
      refine Still.trans ?_ (raise_still _ _).still
      exact (hwrite.trans (events_still _ _ _ (s.evTail + 1) h)).trans (wrNoted_still _ _ _).still
    · exact .refl _ _

theorem flushEvents_still (n : Nat) (s : State) (h : .events ∈ free) : Still free s (flushEvents n s) := by
  induction n generalizing s with
  | zero => exact .refl _ _
  | succ n ih => exact (writeEvent_still s h).trans (ih _)

theorem fatalRecord_still (s : State) (cause unit index : Nat) (h : .events ∈ free) : Still free s (fatalRecord s cause unit index) := by
  have hflush (u : State) : Still free u (flushEvents (u.events.length + u.evWait.length) u) := flushEvents_still _ u h
  unfold fatalRecord
  dsimp only
  split
  · exact (errEvent_still _ _ _ _ _ _ _ _).still.trans (hflush _)
  · exact ((errEvent_still _ _ _ _ _ _ _ _).still.trans (hflush _)).trans (raise_still _ _).still

end

end Sys2Proof.Machine

namespace Sys2Proof.Machine

open Sys2Proof.Safety

section

/-- A bank that a command of any queue has shared keeps OVERLAP (R455). -/
def allSharesEnd (s : State) : State :=
  (List.finRange 32).foldl (fun s q => s.queues[q].active.foldl (fun s c => shareEnds s c.cores (whoOf q c.idx c.desc)) s) s

theorem allSharesEnd_still {free : List Part} (s : State) : Still free s (allSharesEnd s) := by
  unfold allSharesEnd
  refine (still_foldl (fun s q => ?_) _ _).still
  exact (still_foldl (fun s c => (shareEnds_still s _ _).still) _ _).still

theorem fatalQueues_eq (s : State) : fatalQueues s = { allSharesEnd s with queues := (allSharesEnd s).queues.map fun u =>
    { u with state := if u.state == .running then .halted else u.state, active := [], recs := [], run := none } } := rfl

/-- The queues as the sequence leaves them. -/
theorem fatalQueues_queue (s : State) (q : Fin 32) : (fatalQueues s).queues[q] = { s.queues[q] with
    state := if s.queues[q].state = .running then .halted else s.queues[q].state, active := [], recs := [], run := none } := by
  have hshare := (allSharesEnd_still (free := []) s).queues (by simp)
  rw [fatalQueues_eq]
  generalize allSharesEnd s = u at hshare
  simp only [hshare, Fin.getElem_fin, Vector.getElem_map, beq_iff_eq]

theorem fatalQueues_active (s : State) (q : Fin 32) : (fatalQueues s).queues[q].active = [] := by rw [fatalQueues_queue]

theorem fatalQueues_still (s : State) : Still [.queues, .states] s (fatalQueues s) := by
  have hactive := fatalQueues_active s
  have hshare : Still [.queues, .states] s (allSharesEnd s) := allSharesEnd_still s
  rw [fatalQueues_eq] at hactive ⊢
  generalize allSharesEnd s = u at hactive hshare
  refine hshare.trans ⟨rfl, List.prefix_refl _, fun h => ⟨h, rfl⟩, fun p hp => ?_⟩
  have hsame := Part.Same.refl p u
  cases p
  case queues | states => exact absurd (by simp) hp
  case layers => exact fun _ => ⟨fun q x hx => by rw [hactive q] at hx; simp at hx, rfl⟩
  all_goals exact hsame

/-- Where no command runs, no REDUCE loses its routes. -/
theorem routesLost_of_idle {s : State} (h : ∀ q : Fin 32, s.queues[q].active = []) (p : Fin 16) : routesLost s p = s := by
  have hgone (q : Fin 32) (gone : Nat → Bool) : routesGone s q gone = s := by simp only [routesGone, reduceOf, h]
  unfold routesLost
  dsimp only
  induction List.finRange 32 with
  | nil => rfl
  | cons q l ih => rw [List.foldl_cons, hgone]; exact ih

theorem fatalPorts_still {s : State} (h : ∀ q : Fin 32, s.queues[q].active = []) : Still [.ports, .gauge] s (fatalPorts s) := by
  unfold fatalPorts
  induction List.finRange 16 generalizing s with
  | nil => exact .refl _ _
  | cons p l ih =>
    rw [List.foldl_cons]
    have hstep : Still [.ports, .gauge] s (if s.ports[p].state == .disabled then s else portLeave s p .disabled) := by
      split
      · exact .refl _ _
      · refine portLeave_still s p .disabled (by simp) (by simp) fun u hu => ?_
        rw [routesLost_of_idle (fun q => by rw [hu]; exact h q)]
    exact hstep.trans (ih fun q => by rw [hstep.queues (by simp)]; exact h q)

/-- A port is DISABLED, and without keys where it was not before. -/
theorem fatalPorts_bearing (s : State) (k : Fin 16) :
    (fatalPorts s).ports[k].bearing = if s.ports[k].state = .disabled then s.ports[k].bearing else (.disabled, 0, 0, 0) := by
  have hfold (l : List (Fin 16)) (s : State) :
      (l.foldl (fun s p => if s.ports[p].state == .disabled then s else portLeave s p .disabled) s).ports[k].bearing =
        if k ∉ l ∨ s.ports[k].state = .disabled then s.ports[k].bearing else (.disabled, 0, 0, 0) := by
    induction l generalizing s with
    | nil => simp
    | cons p l ih =>
      rw [List.foldl_cons, ih]
      have hstate (t : State) : t.ports[k].state = t.ports[k].bearing.1 := rfl
      by_cases hp : s.ports[p].state = .disabled
      · simp only [hp, beq_self_eq_true, if_true]
        by_cases hk : k = p
        · subst hk
          exact (if_pos (.inr hp)).trans (if_pos (.inr hp)).symm
        · simp [hk]
      · simp only [beq_eq_false_iff_ne.2 hp, Bool.false_eq_true, if_false, hstate, portLeave_bearing]
        by_cases hk : k = p
        · subst hk
          rw [if_pos rfl, if_pos (.inr rfl)]
          exact (if_neg fun h => h.elim (fun hk => hk (by simp)) hp).symm
        · simp [hk]
  refine (hfold (List.finRange 16) s).trans ?_
  simp

/-! ### A device-fatal error (R395, R406) -/

/-- Steps 1 to 4. -/
def fatalSteps (s : State) (cause unit index : Nat) : State := fatalPorts (fatalQueues (fatalRecord s cause unit index))

/-- What the steps leave alone. -/
theorem fatalSteps_still (s : State) (cause unit index : Nat) :
    Still [.queues, .states, .events, .ports, .gauge] s (fatalSteps s cause unit index) := by
  have hqueues : Still [.queues, .states, .events, .ports, .gauge] s (fatalQueues (fatalRecord s cause unit index)) :=
    (fatalRecord_still s cause unit index (by simp)).trans ((fatalQueues_still _).mono (by simp))
  exact hqueues.trans ((fatalPorts_still (fatalQueues_active _)).mono (by simp))

theorem fatalSteps_queue (s : State) (cause unit index : Nat) (q : Fin 32) : (fatalSteps s cause unit index).queues[q] = { s.queues[q] with
    state := if s.queues[q].state = .running then .halted else s.queues[q].state, active := [], recs := [], run := none } := by
  have hrecord : (fatalRecord s cause unit index).queues = s.queues :=
    (fatalRecord_still (free := [.events]) s cause unit index (by simp)).queues (by simp)
  have hports : (fatalPorts (fatalQueues (fatalRecord s cause unit index))).queues = (fatalQueues (fatalRecord s cause unit index)).queues :=
    (fatalPorts_still (fatalQueues_active _)).queues (by simp)
  rw [fatalSteps, hports, fatalQueues_queue, hrecord]

theorem fatalSteps_bearing (s : State) (cause unit index : Nat) (p : Fin 16) :
    (fatalSteps s cause unit index).ports[p].bearing = if s.ports[p].state = .disabled then s.ports[p].bearing else (.disabled, 0, 0, 0) := by
  have hqueues : Still [.queues, .states, .events] s (fatalQueues (fatalRecord s cause unit index)) :=
    (fatalRecord_still s cause unit index (by simp)).trans ((fatalQueues_still _).mono (by simp))
  have hsame := hqueues.bearing (by simp) p
  have hstate : (fatalQueues (fatalRecord s cause unit index)).ports[p].state = s.ports[p].state :=
    Port.state_eq hsame
  rw [fatalSteps, fatalPorts_bearing, hstate, hsame]

/-- The unit that the error names. -/
def fatalInfo (s : State) (cause unit index : Nat) : Nat := errUnitWord (fatalRecord s cause unit index) unit index

theorem deviceFatalAt_eq {s : State} (h : s.fatal = none) (cause unit index : Nat) (ok : Bool) :
    deviceFatalAt s cause unit index ok =
      { wipe ok (fatalSteps s cause unit index) with fatal := some ⟨cause, fatalInfo s cause unit index⟩ } := by
  rw [deviceFatalAt, if_neg (by simp [h])]
  rfl

theorem deviceFatalAt_of_fatal {s : State} (h : s.fatal.isSome = true) (cause unit index : Nat) (ok : Bool) :
    deviceFatalAt s cause unit index ok = wipe ok s := by rw [deviceFatalAt, if_pos h]

/-- A wipe changes the sealed banks and the register file. -/
theorem wipe_form (ok : Bool) (s : State) : wipe ok s = { clearBanks s with regs := (wipe ok s).regs } := by
  cases ok <;> rfl

end

end Sys2Proof.Machine
end

section
/-! ## The gravest errors (O26) -/

namespace Sys2Proof.Machine

open Sys2Proof.Safety

/-! ### Fields of registers (R475) -/

theorem testBit_bits (x lo w i : Nat) : (bits x lo w).testBit i = (decide (i < w) && x.testBit (lo + i)) := by
  rw [bits, Nat.testBit_mod_two_pow, Nat.testBit_shiftRight]

/-- A field put takes its place among the bits. -/
theorem testBit_setBits (x lo w v i : Nat) :
    (setBits x lo w v).testBit i = if i < lo then x.testBit i else if i < lo + w then v.testBit (i - lo) else x.testBit i := by
  have hx : x = 2 ^ lo * (x >>> lo) + x % 2 ^ lo := by rw [Nat.shiftRight_eq_div_pow, Nat.div_add_mod]
  have hy : x >>> lo = 2 ^ w * (x >>> lo / 2 ^ w) + bits x lo w := (Nat.div_add_mod _ _).symm
  have hput : setBits x lo w v = 2 ^ lo * (2 ^ w * (x >>> lo / 2 ^ w) + v % 2 ^ w) + x % 2 ^ lo := by
    have hle : bits x lo w * 2 ^ lo = 2 ^ lo * bits x lo w := Nat.mul_comm _ _
    have hsum : x = 2 ^ lo * (2 ^ w * (x >>> lo / 2 ^ w)) + 2 ^ lo * bits x lo w + x % 2 ^ lo := by
      rw [← Nat.mul_add, ← hy, ← hx]
    unfold setBits
    rw [hle, Nat.mul_add, Nat.mul_comm (v % 2 ^ w)]
    omega
  rw [hput, Nat.testBit_two_pow_mul_add _ (Nat.mod_lt _ (by positivity))]
  split
  next h => simp [Nat.testBit_mod_two_pow, h]
  next h =>
    rw [Nat.testBit_two_pow_mul_add _ (Nat.mod_lt _ (by positivity))]
    split
    next h' => simp [Nat.testBit_mod_two_pow, h', show i < lo + w by omega]
    next h' =>
      rw [if_neg (by omega), Nat.testBit_div_two_pow, Nat.testBit_shiftRight]
      congr 1
      omega

theorem bits_setBits_same (x lo w v : Nat) : bits (setBits x lo w v) lo w = v % 2 ^ w := by
  refine Nat.eq_of_testBit_eq fun i => ?_
  rw [testBit_bits, testBit_setBits, Nat.testBit_mod_two_pow]
  by_cases hi : i < w
  · simp [hi]
  · simp [hi]

theorem bits_setBits_apart {x lo w v lo' w' : Nat} (h : lo + w ≤ lo' ∨ lo' + w' ≤ lo) : bits (setBits x lo w v) lo' w' = bits x lo' w' := by
  refine Nat.eq_of_testBit_eq fun i => ?_
  rw [testBit_bits, testBit_bits, testBit_setBits]
  by_cases hi : i < w'
  · obtain h | h := h
    · rw [if_neg (by omega), if_neg (by omega)]
    · rw [if_pos (by omega)]
  · simp [hi]

/-- A register of 64 bits holds every field that lies in it. -/
theorem bits_ofNat (n lo w : Nat) (h : lo + w ≤ 64) : bits (BitVec.ofNat 64 n).toNat lo w = bits n lo w := by
  refine Nat.eq_of_testBit_eq fun i => ?_
  rw [testBit_bits, testBit_bits, BitVec.toNat_ofNat, Nat.testBit_mod_two_pow]
  by_cases hi : i < w
  · simp [hi, show lo + i < 64 by omega]
  · simp [hi]

theorem regField_regPutField_same {s : State} (hc : Canonical s) (off lo w v : Nat) (h : lo + w ≤ 64) :
    regField (regPutField s off lo w v) off lo w = v % 2 ^ w := by
  rw [regField, regPutField, regGet_regPut_same s off _ hc.2, bits_ofNat _ _ _ h, bits_setBits_same]

theorem regField_regPutField_apart {s : State} (hc : Canonical s) (off : Nat) {lo w v lo' w' : Nat} (h : lo + w ≤ lo' ∨ lo' + w' ≤ lo)
    (h' : lo' + w' ≤ 64) : regField (regPutField s off lo w v) off lo' w' = regField s off lo' w' := by
  rw [regField, regPutField, regGet_regPut_same s off _ hc.2, bits_ofNat _ _ _ h', bits_setBits_apart h, regField]

theorem regBit_eq_regField (s : State) (off i : Nat) : regBit s off i = (regField s off i 1 == 1) := rfl

/-- A flag that is set is counted once more. -/
theorem regField_setFlag {s : State} (hc : Canonical s) (off : Nat) {bit cnt : Nat} (h : bit < cnt) (hcnt : cnt + 16 ≤ 64) :
    regField (setFlag s off bit cnt) off cnt 16 = min (regField s off cnt 16 + 1) 65535 := by
  have hput : Canonical (regPutField s off bit 1 1) := (regPutField_keep s off bit 1 1).1 hc
  rw [setFlag, cntInc, regField_regPutField_same hput _ _ _ _ hcnt, regField_regPutField_apart hc off (.inl h) hcnt]
  exact Nat.mod_eq_of_lt (by omega)

/-! ### A wipe (R273, R449) -/

/-- What a wipe leaves in TAMPER: WIPE set and counted where it completes. -/
structure Wiped (ok : Bool) (s t : State) : Prop where
  canon : Canonical s → Canonical t
  flag : Canonical s → ok = true → regBit t offTamper 4 = true
  count : Canonical s → ok = true → regField t offTamper 16 16 = min (regField s offTamper 16 16 + 1) 65535

theorem wipe_wiped (ok : Bool) (s : State) : Wiped ok s (wipe ok s) where
  canon hc := by
    have hclear : Canonical (clearBanks s) := hc
    cases ok
    · exact hclear
    · exact (setFlag_keep _ _ _ _).1 hclear
  flag hc hok := by
    subst hok
    exact regBit_setFlag (s := clearBanks s) hc offTamper (by omega) (by omega)
  count hc hok := by
    subst hok
    exact regField_setFlag (s := clearBanks s) hc offTamper (by omega) (by omega)

/-- What stays before a wipe does not bear on it. -/
theorem Still.wiped {free : List Part} {s t u : State} {ok : Bool} (h : Still free s t) (k : Wiped ok t u) : Wiped ok s u where
  canon hc := k.canon (h.tamper hc).1
  flag hc := k.flag (h.tamper hc).1
  count hc hok := by
    have hsame := (h.tamper hc).2
    rw [k.count (h.tamper hc).1 hok, regField, regField, hsame]

end Sys2Proof.Machine

namespace Sys2Proof.Machine

open Sys2Proof.Safety

/-! ### What a device-fatal error leaves (R406, R449) -/

/-- What every device-fatal error leaves, whether one was in force or not. -/
structure FatalEnds (cause : Nat) (ok : Bool) (s t : State) : Prop where
  shell : shell t = shell { clearBanks s with fatal := t.fatal }
  tokens : t.tokens = s.tokens
  engines : t.engines = s.engines
  wiped : Wiped ok s t
  bearing : ∀ p : Fin 16, t.ports[p].bearing = s.ports[p].bearing ∨ t.ports[p].bearing = (.disabled, 0, 0, 0)
  first : s.fatal = none → (t.fatal.map fun f => f.cause) = some cause
  again : s.fatal.isSome = true → t.fatal = s.fatal

/-- What the first one does to queues and ports. -/
structure FatalStops (s t : State) : Prop where
  queues : ∀ q : Fin 32, t.queues[q] = { s.queues[q] with
    state := if s.queues[q].state = .running then .halted else s.queues[q].state, active := [], recs := [], run := none }
  ports : ∀ p : Fin 16, t.ports[p].state = .disabled

theorem wipe_fatalEnds {s : State} (h : s.fatal.isSome = true) (cause : Nat) (ok : Bool) : FatalEnds cause ok s (wipe ok s) where
  shell := by rw [wipe_form]; rfl
  tokens := by rw [wipe_form]; rfl
  engines := by rw [wipe_form]; rfl
  wiped := wipe_wiped ok s
  bearing p := .inl (by rw [wipe_form]; rfl)
  first hn := by simp [hn] at h
  again _ := by rw [wipe_form]; rfl

theorem deviceFatalAt_fatalEnds (s : State) (cause unit index : Nat) (ok : Bool) :
    FatalEnds cause ok s (deviceFatalAt s cause unit index ok) := by
  cases hf : s.fatal with
  | some f =>
    have hsome : s.fatal.isSome = true := by rw [hf]; rfl
    rw [deviceFatalAt_of_fatal hsome]
    exact wipe_fatalEnds hsome cause ok
  | none =>
    rw [deviceFatalAt_eq hf]
    have hstill := fatalSteps_still s cause unit index
    have hbearing := fatalSteps_bearing s cause unit index
    generalize fatalSteps s cause unit index = u at hstill hbearing
    have hwiped := hstill.wiped (wipe_wiped ok u)
    have hclear : shell (clearBanks u) = shell (clearBanks s) := congrArg clearBanks hstill.shell
    rw [wipe_form] at hwiped ⊢
    exact ⟨congrArg (fun x : State => { x with fatal := some ⟨cause, fatalInfo s cause unit index⟩ }) hclear,
      hstill.tokens (by simp), hstill.engines (by simp), ⟨hwiped.canon, hwiped.flag, hwiped.count⟩,
      fun p => (ite_eq_or_eq _ _ _).imp (hbearing p).trans (hbearing p).trans, fun _ => rfl, fun h => by simp [hf] at h⟩

theorem deviceFatalAt_fatalStops {s : State} (h : s.fatal = none) (cause unit index : Nat) (ok : Bool) :
    FatalStops s (deviceFatalAt s cause unit index ok) := by
  rw [deviceFatalAt_eq h]
  have hqueue := fatalSteps_queue s cause unit index
  have hbearing := fatalSteps_bearing s cause unit index
  generalize fatalSteps s cause unit index = u at hqueue hbearing
  rw [wipe_form]
  refine ⟨hqueue, fun p => ?_⟩
  have hp := hbearing p
  split at hp
  next hs => exact (Port.state_eq hp).trans hs
  next => exact congrArg Prod.fst hp

end Sys2Proof.Machine

namespace Sys2Proof.Machine

open Sys2Proof.Safety

/-! ### The events that raise one (R251, R396, R427, R433) -/

/-- A finding flagged on the way changes the register file and MEM_UEADDR alone. -/
structure Flagged (s u : State) : Prop where
  form : ∃ regs a, u = { s with regs := regs, ueAddr := a }
  canon : Canonical s → Canonical u

theorem Flagged.refl (s : State) : Flagged s s := ⟨⟨s.regs, s.ueAddr, rfl⟩, id⟩

theorem exec_trngFailure {s : State} (h : firmwareRuns s = true) (ok : Bool) :
    exec (.trngFailure ok) s = .next (deviceFatalAt s 0x0E 3 0 ok) := congrArg Host.Outcome.next (if_pos h)

theorem exec_firmwareRemeasure_bad {s : State} (h : firmwareRuns s = true) (ok : Bool) :
    exec (.firmwareRemeasure false ok) s = .next (deviceFatalAt s 0x0A 3 0 ok) := congrArg Host.Outcome.next (if_pos (by simp [h]))

theorem exec_firmwareRemeasure_good (s : State) (ok : Bool) : exec (.firmwareRemeasure true ok) s = .next s :=
  congrArg Host.Outcome.next (if_neg (by simp))

theorem exec_firmwareWatchdog {s : State} (h : firmwareRuns s = true) (ok : Bool) :
    exec (.firmwareWatchdog ok) s = .next (deviceFatalAt s 0x0A 3 0 ok) := congrArg Host.Outcome.next (if_pos h)

theorem exec_patrolScrub_flit {s : State} {l n : Nat} (hin : inService s = true) (ht : regionOf (64 * l) = .t1 ∨ regionOf (64 * l) = .t2)
    (hb : backed s (64 * l) = true) (ok : Bool) : exec (.patrolScrub ⟨l, .flitUe ok, n⟩) s = .next (deviceFatalAt s 0x07 3 0 ok) := by
  change execPatrolScrub _ s = _
  simp [execPatrolScrub, hin, ht, hb, deviceFatal]

/-- An error of a sealed bank that its ECC cannot correct, as it is recorded (R250, R254). -/
def bankFlagged (s : State) (f : BankFind) : State :=
  { lastSrc (setFlag s offEccstat 1 32) 5 with
    ueAddr := BitVec.ofNat 64 (5 * 2 ^ 61 + f.cluster.val * 2 ^ 54 + bits f.line 0 14 * 2 ^ 6) }

theorem bankFlagged_flagged (s : State) (f : BankFind) : Flagged s (bankFlagged s f) where
  form := ⟨(lastSrc (setFlag s offEccstat 1 32) 5).regs, _, rfl⟩
  canon hc := by
    have hflags : Canonical (lastSrc (setFlag s offEccstat 1 32) 5) := (lastSrc_keep _ _).1 ((setFlag_keep s offEccstat 1 32).1 hc)
    exact ⟨hflags.1, hflags.2⟩

/-- It is device-fatal before GET_VERSION is answered. -/
theorem exec_getVersion_bank {s : State} {tr : Transport} {rq : SpdmReq} {b : BankFind} (hup : spdmUp s = true) (hb : rq.bank = some b)
    (hue : b.ue = true) :
    exec (.getVersion tr rq) s = .next (deviceFatalAt (bankFlagged s b) 0x08 2 b.cluster.val b.wipeOk) := by
  change execGetVersion tr rq s = _
  simp only [execGetVersion, spdm, spdmServe, hup, hb, hue, bankRead, Bool.not_true, Bool.false_eq_true, if_true, if_false]
  rfl

/-- The rows of O26 whose finding is device-fatal. -/
def GraveRow (s : State) (row : Instr) (cause : Nat) (ok : Bool) : Prop :=
  (row = .trngFailure ok ∧ cause = 0x0E) ∨ (row = .firmwareRemeasure false ok ∧ cause = 0x0A) ∨
    (row = .firmwareWatchdog ok ∧ cause = 0x0A) ∨
    (∃ l n, row = .patrolScrub ⟨l, .flitUe ok, n⟩ ∧ s.phase = .run ∧ (regionOf (64 * l) = .t1 ∨ regionOf (64 * l) = .t2) ∧
      backed s (64 * l) = true ∧ cause = 0x07) ∨
    (∃ tr rq b, row = .getVersion tr rq ∧ rq.bank = some b ∧ b.ue = true ∧ b.wipeOk = ok ∧ cause = 0x08)

theorem GraveRow.exec {s : State} {row : Instr} {cause : Nat} {ok : Bool} (h : GraveRow s row cause ok) (hup : firmwareRuns s = true)
    (hf : s.fatal = none) : ∃ u unit index, exec row s = .next (deviceFatalAt u cause unit index ok) ∧ Flagged s u := by
  obtain ⟨rfl, rfl⟩ | ⟨rfl, rfl⟩ | ⟨rfl, rfl⟩ | ⟨l, n, rfl, hrun, ht, hb, rfl⟩ | ⟨tr, rq, b, rfl, hbank, hue, rfl, rfl⟩ := h
  · exact ⟨s, 3, 0, exec_trngFailure hup ok, .refl s⟩
  · exact ⟨s, 3, 0, exec_firmwareRemeasure_bad hup ok, .refl s⟩
  · exact ⟨s, 3, 0, exec_firmwareWatchdog hup ok, .refl s⟩
  · have hin : inService s = true := by simp [Machine.inService, hrun, hf]
    exact ⟨s, 3, 0, exec_patrolScrub_flit hin ht hb ok, .refl s⟩
  · have hserve : spdmUp s = true := by simp [spdmUp, hup, hf]
    exact ⟨bankFlagged s b, 2, b.cluster.val, exec_getVersion_bank hserve hbank hue, bankFlagged_flagged s b⟩

/-! ### A tamper event (R442) -/

/-- The wipe of step 2, which is device-fatal where it fails. -/
def tamperWiped (s : State) (ok : Bool) : State :=
  if ok then wipe ok (zeroKeys s) else deviceFatalAt (wipe ok (zeroKeys s)) 0x09 3 0 false

theorem tamper_eq (s : State) (k : TamperKind) (ok : Bool) :
    tamper s k ok =
      let u := setFlagOnly (deviceFatalAt (tamperWiped s ok) 0x0B 3 0 ok) offTamper (tamperBit k)
      { u with otp := { u.otp with tamper := min 15 (u.otp.tamper + 1) } } := rfl

/-- What the two wipes of a tamper event leave. -/
structure Tampered (ok : Bool) (s t : State) : Prop where
  shell : shell t = shell { clearBanks (zeroKeys s) with fatal := t.fatal }
  fatal : t.fatal.isSome = true
  first : s.fatal = none → (t.fatal.map fun f => f.cause) = some (if ok then 0x0B else 0x09)
  bearing : ∀ p : Fin 16, ∃ st, t.ports[p].bearing = (st, 0, 0, 0)
  canon : Canonical s → Canonical t
  flag : Canonical s → ok = true → regBit t offTamper 4 = true
  count : Canonical s → ok = true → regField t offTamper 16 16 = min 65535 (regField s offTamper 16 16 + 2)

theorem FatalEnds.isSome {cause : Nat} {ok : Bool} {s t : State} (h : FatalEnds cause ok s t) : t.fatal.isSome = true := by
  cases hf : s.fatal with
  | none =>
    have hfirst := h.first hf
    cases ht : t.fatal with
    | none => simp [ht] at hfirst
    | some _ => rfl
  | some f => rw [h.again (by simp [hf]), hf]; rfl

theorem tamperWiped_fatalEnds (s : State) (ok : Bool) (hf : s.fatal = none) :
    (tamperWiped s ok).fatal.map (fun f => f.cause) = if ok then none else some 0x09 := by
  cases ok
  · have hends := deviceFatalAt_fatalEnds (wipe false (zeroKeys s)) 0x09 3 0 false
    exact hends.first hf
  · have hwipe : (wipe true (zeroKeys s)).fatal = s.fatal := by rw [wipe_form]; rfl
    simp [tamperWiped, hwipe, hf]

/-- The second wipe finds the keys zero, and no device-fatal error but one of the first. -/
structure TamperStarted (ok : Bool) (s u : State) : Prop where
  shell : shell u = shell { clearBanks (zeroKeys s) with fatal := u.fatal }
  bearing : ∀ p : Fin 16, ∃ st, u.ports[p].bearing = (st, 0, 0, 0)
  wiped : Wiped ok (zeroKeys s) u
  cause : s.fatal = none → u.fatal.map (fun f => f.cause) = if ok then none else some 0x09

theorem zeroKeys_bearing (s : State) (p : Fin 16) : (zeroKeys s).ports[p].bearing = (s.ports[p].state, 0, 0, 0) := by
  simp [zeroKeys, Port.bearing]

theorem tamperWiped_started (s : State) (ok : Bool) : TamperStarted ok s (tamperWiped s ok) := by
  have hwiped := wipe_wiped ok (zeroKeys s)
  have hcause := tamperWiped_fatalEnds s ok
  cases ok with
  | true =>
    refine ⟨?_, fun p => ⟨s.ports[p].state, ?_⟩, hwiped, hcause⟩
    · change shell (wipe true (zeroKeys s)) = _
      rw [wipe_form]; rfl
    · change (wipe true (zeroKeys s)).ports[p].bearing = _
      rw [wipe_form]; exact zeroKeys_bearing s p
  | false =>
    have hends := deviceFatalAt_fatalEnds (wipe false (zeroKeys s)) 0x09 3 0 false
    refine ⟨?_, fun p => ?_, ⟨fun hc => hends.wiped.canon (hwiped.canon hc), fun _ h => by simp at h, fun _ h => by simp at h⟩, hcause⟩
    · exact hends.shell
    · obtain h | h := hends.bearing p
      · exact ⟨_, h.trans (zeroKeys_bearing s p)⟩
      · exact ⟨_, h⟩

theorem tamper_wipes (s : State) (ok : Bool) : Tampered ok s (deviceFatalAt (tamperWiped s ok) 0x0B 3 0 ok) := by
  have hstart := tamperWiped_started s ok
  generalize tamperWiped s ok = u at hstart
  have hends := deviceFatalAt_fatalEnds u 0x0B 3 0 ok
  generalize deviceFatalAt u 0x0B 3 0 ok = t at hends
  have hclear : shell { clearBanks u with fatal := t.fatal } = shell { clearBanks (zeroKeys s) with fatal := t.fatal } :=
    congrArg (fun x : State => { clearBanks x with fatal := t.fatal }) hstart.shell
  refine ⟨hends.shell.trans hclear, hends.isSome, fun hf => ?_, fun p => ?_, fun hc => hends.wiped.canon (hstart.wiped.canon hc),
    fun hc hok => hends.wiped.flag (hstart.wiped.canon hc) hok, fun hc hok => ?_⟩
  · have hcause := hstart.cause hf
    cases ok with
    | true => exact hends.first (by simpa using hcause)
    | false =>
      have hsome : u.fatal.isSome = true := by
        cases hu : u.fatal with
        | none => simp [hu] at hcause
        | some _ => rfl
      rw [hends.again hsome]
      exact hcause
  · obtain h | h := hends.bearing p
    · obtain ⟨st, hst⟩ := hstart.bearing p
      exact ⟨st, h.trans hst⟩
    · exact ⟨_, h⟩
  · rw [hends.wiped.count (hstart.wiped.canon hc) hok, hstart.wiped.count hc hok]
    have hzero : regField (zeroKeys s) offTamper 16 16 = regField s offTamper 16 16 := rfl
    rw [hzero]
    omega

end Sys2Proof.Machine

namespace Sys2Proof.Machine

open Sys2Proof.Safety

/-! ### The core watchdog (R396, R405) -/

theorem Still.stopping {s t : State} (h : Still [.queues, .states, .engines] s t) : Stopping s t := by
  have hfill := congrArg (fun x : State => { x with
    queues := t.queues, tokens := t.tokens, cores := t.cores, fresh := t.fresh, regs := t.regs, mem := t.mem, poison := t.poison, t3 := t.t3
    events := t.events, evWait := t.evWait, evLost := t.evLost, evTail := t.evTail, ueAddr := t.ueAddr, groups := t.groups, ports := t.ports
    looped := t.looped, early := t.early, jobFatal := t.jobFatal, gauge := t.gauge, inService := t.inService, bist := t.bist
    outbox := t.outbox, msixPending := t.msixPending, engines := t.engines }) h.shell
  have htokens := h.tokens (by simp)
  have hgauge := h.gauge (by simp)
  have hjob := h.job (by simp)
  have hservice := h.service (by simp)
  have hevents := h.events (by simp)
  refine ⟨hfill.trans ?_, fun hn => (h.parts .layers (by simp) hn).2⟩
  rw [htokens, hgauge, hjob.1, hjob.2, hservice.1, hservice.2, hevents.2]
  rfl

/-- The holding buffer takes a record of no command. -/
theorem evPush_of_openRoom {s : State} (h : OpenRoom s 1) (bytes : List Byte) :
    evPush s 0xFF bytes = { s with events := s.events ++ [⟨0xFF, bytes⟩] } := by
  have hlen : s.events.length + 1 ≤ 256 := h
  have hfilter : (s.events.filter fun e => e.queue == 0xFF).length ≤ s.events.length := List.length_filter_le _ _
  have h512 : ¬512 ≤ s.events.length := by omega
  have h256 : ¬256 ≤ (s.events.filter fun e => e.queue == 0xFF).length := by omega
  simp [evPush, h512, h256]

theorem errEvent_told {s : State} (h : OpenRoom s 1) (cause cls unit index : Nat) :
    ⟨0xFF, eventBytes s 0x07 0xFF (cause + cls * 2 ^ 8) 0xFFFFFFFF
      (le4 0 ++ le4 0 ++ le4 (errUnitWord s unit index) ++ le4 0 ++ le8 0)⟩ ∈ (errEvent s Who.none cause cls unit index 0 0).events := by
  have hpush := evPush_of_openRoom h (eventBytes s 0x07 0xFF (cause + cls * 2 ^ 8) 0xFFFFFFFF
    (le4 0 ++ le4 0 ++ le4 (errUnitWord s unit index) ++ le4 0 ++ le8 0))
  have hrest (u : State) : u.events <+: (triggerAll (if cls == 0 then setFlag u offErrStat 0 16
      else if cls == 2 then setFlagOnly u offErrStat 2 else u) 52 2).events := by
    refine ((?_ : Still [] u _).trans (triggerAll_still _ 52 2).still).events (by simp) |>.1
    simp
  refine (hrest _).subset ?_
  have hsame : evPush s Who.none.q (evRecord s 0x07 Who.none.q (cause + cls * 2 ^ 8) Who.none.idx
      (le4 Who.none.layer ++ le4 Who.none.op ++ le4 (errUnitWord s unit index) ++ le4 0 ++ le8 0)) = _ := hpush
  rw [hsame]
  simp

end Sys2Proof.Machine

namespace Sys2Proof.Safety

open Sys2Proof.Machine

/-- The core watchdog of a module in service, with no job-fatal error in force. -/
theorem exec_coreWatchdog {s : State} (hin : inService s = true) (hjob : s.jobFatal = false) (c : Fin 16) :
    ∃ e : State, exec (.coreWatchdog c) s = .next (jobFatalSteps e) ∧ Still [] s e ∧
      (OpenRoom s 1 → ⟨0xFF, eventBytes s 0x07 0xFF (0x06 + 2 * 2 ^ 8) 0xFFFFFFFF
        (le4 0 ++ le4 0 ++ le4 (errUnitWord s 1 c.val) ++ le4 0 ++ le8 0)⟩ ∈ e.events) := by
  have hstill : Still [] s (errEvent s Who.none 0x06 2 1 c.val 0 0) := (errEvent_still _ _ _ _ _ _ _ _).still
  have hrun : exec (.coreWatchdog c) s = .next (jobFatalError s Who.none 0x06 1 c.val 0) := congrArg Host.Outcome.next (if_pos hin)
  refine ⟨_, hrun.trans ?_, hstill, fun h => errEvent_told h _ _ _ _⟩
  rw [jobFatalError, if_neg (by simp [(hstill.job (by simp)).1, hjob])]

/-- A device-fatal error of O26 that is the first. -/
theorem graveRow_stops {s : State} {row : Instr} {cause : Nat} {ok : Bool} (h : GraveRow s row cause ok) (hup : firmwareRuns s = true)
    (hf : s.fatal = none) :
    ∃ t, exec row s = .next t ∧ (t.fatal.map fun f => f.cause) = some cause ∧
      (∀ q : Fin 32, t.queues[q].active = [] ∧ t.queues[q].head = s.queues[q].head ∧
        t.queues[q].state = (if s.queues[q].state = .running then .halted else s.queues[q].state)) ∧
      (∀ p : Fin 16, t.ports[p].state = .disabled) ∧ (∀ k : Fin 3, t.sessions[k] = .none) ∧
      t.t3key = none ∧ t.jobClear = none ∧ t.idKey = none ∧ t.measLog = [] ∧
      (ok = true → Canonical s → regBit t offTamper 4 = true) ∧ t.phase = s.phase ∧ t.tokens = s.tokens ∧ t.otp = s.otp ∧
      t.flash = s.flash ∧ fusesOf t = fusesOf s ∧ t.engines = s.engines ∧ t.programs = s.programs ∧ t.eddies = s.eddies ∧
      t.routes = s.routes ∧ t.pending = s.pending := by
  obtain ⟨u, unit, index, hrun, ⟨regs, a, hu⟩, hcanon⟩ := h.exec hup hf
  have hfu : u.fatal = none := by rw [hu]; exact hf
  have hends := deviceFatalAt_fatalEnds u cause unit index ok
  have hstops := deviceFatalAt_fatalStops hfu cause unit index ok
  generalize deviceFatalAt u cause unit index ok = t at hrun hends hstops
  have hkept {α : Type} (f : State → α) := congrArg f hends.shell
  have hsessions : t.sessions = Vector.replicate 3 .none := hkept State.sessions
  refine ⟨t, hrun, hends.first hfu, fun q => ?_, hstops.ports, fun k => by rw [hsessions]; simp, hkept State.t3key,
    hkept State.jobClear, hkept State.idKey, hkept State.measLog,
    fun hok hc => hends.wiped.flag (hcanon hc) hok, ?_⟩
  · rw [hstops.queues q, hu]
    exact ⟨rfl, rfl, rfl⟩
  · subst hu
    exact ⟨hkept State.phase, hends.tokens, hkept State.otp, hkept State.flash,
      hkept fusesOf, hends.engines, hkept State.programs, hkept State.eddies,
      hkept State.routes, hkept State.pending⟩

/-- A tamper event of a powered module. -/
theorem tamper_stops {s : State} (hc : Canonical s) (hp : s.phase ≠ .off) (k : TamperKind) (ok : Bool) :
    ∃ t, exec (.tamperEvent k ok) s = .next t ∧ t.fatal.isSome = true ∧
      (s.fatal = none → (t.fatal.map fun f => f.cause) = some (if ok then 0x0B else 0x09)) ∧
      t.otp = { s.otp with tamper := min 15 (s.otp.tamper + 1) } ∧ t.ide = [] ∧ t.t3key = none ∧ t.idKey = none ∧ t.measLog = [] ∧
      t.t1key = none ∧ t.t2key = none ∧ (∀ p : Fin 16, t.ports[p].txKey = 0 ∧ t.ports[p].rxKey = 0 ∧ t.ports[p].secret = 0) ∧
      (∀ j : Fin 3, t.sessions[j] = .none) ∧ regBit t offTamper (tamperBit k) = true ∧
      (ok = true → regBit t offTamper 4 = true ∧ regField t offTamper 16 16 = min 65535 (regField s offTamper 16 16 + 2)) ∧
      fusesOf t = fusesOf s ∧ t.flash = s.flash ∧ t.pending = s.pending := by
  have hwipes := tamper_wipes s ok
  have hrun : exec (.tamperEvent k ok) s = .next (tamper s k ok) := congrArg Host.Outcome.next (if_neg (by simpa using hp))
  rw [tamper_eq] at hrun
  generalize deviceFatalAt (tamperWiped s ok) 0x0B 3 0 ok = t at hwipes hrun
  have hct := hwipes.canon hc
  have hbit : tamperBit k < 4 := by cases k <;> decide
  have hkept {α : Type} (f : State → α) := congrArg f hwipes.shell
  have hsessions : t.sessions = Vector.replicate 3 .none := hkept State.sessions
  have hotp : t.otp = s.otp := hkept State.otp
  have hflag : regBit (setFlagOnly t offTamper (tamperBit k)) offTamper (tamperBit k) = true :=
    (regBit_regPutField hct offTamper _ 1 1 (by omega)).trans (bitAt_setBits_one _ _)
  have hwipe : regBit (setFlagOnly t offTamper (tamperBit k)) offTamper 4 = regBit t offTamper 4 := by
    rw [regBit_eq_regField, regBit_eq_regField, setFlagOnly, regField_regPutField_apart hct offTamper (.inl (by omega)) (by omega)]
  have hcount : regField (setFlagOnly t offTamper (tamperBit k)) offTamper 16 16 = regField t offTamper 16 16 :=
    regField_regPutField_apart hct offTamper (.inl (by omega)) (by omega)
  refine ⟨_, hrun, hwipes.fatal, hwipes.first, congrArg (fun o : Otp => { o with tamper := min 15 (o.tamper + 1) }) hotp,
    hkept State.ide, hkept State.t3key, hkept State.idKey,
    hkept State.measLog, hkept State.t1key, hkept State.t2key, fun p => ?_,
    fun j => (congrArg (fun v : Vector Session 3 => v[j]) hsessions).trans (by simp), hflag,
    fun hok => ⟨hwipe.trans (hwipes.flag hc hok), hcount.trans (hwipes.count hc hok)⟩, hkept fusesOf,
    hkept State.flash, hkept State.pending⟩
  obtain ⟨st, hst⟩ := hwipes.bearing p
  simp only [Port.bearing, Prod.mk.injEq] at hst
  obtain ⟨-, hsecret, htx, hrx⟩ := hst
  exact ⟨htx, hrx, hsecret⟩

/-- Settles O26: the first device-fatal error by `graveRow_stops`, a further one by its wipe, a tamper event by `tamper_stops`, and the core
watchdog by what stays through the job-fatal sequence. -/
theorem gravestErrorsStopTheModule : Obligations.GravestErrorsStopTheModule := by
  refine ⟨fun s row cause ok hup hf hrow => ⟨exec_firmwareRemeasure_good s ok, graveRow_stops hrow hup hf⟩, fun s ok hup hf row hrow => ?_,
    fun s k ok hc hp => tamper_stops hc hp k ok, fun s c hin hjob => ?_⟩
  · simp only [List.mem_cons, List.not_mem_nil, or_false] at hrow
    obtain rfl | rfl | rfl := hrow
    · rw [exec_trngFailure hup, deviceFatalAt_of_fatal hf]
    · rw [exec_firmwareRemeasure_bad hup, deviceFatalAt_of_fatal hf]
    · rw [exec_firmwareWatchdog hup, deviceFatalAt_of_fatal hf]
  · obtain ⟨e, hrun, herr, htold⟩ := exec_coreWatchdog hin hjob c
    have hsteps : Still [.queues, .states, .engines] { e with jobFatal := true, early := [] } (jobFatalSteps e) :=
      jobFatalSteps_still e (by simp) (by simp) (by simp)
    have hstart : Still [.queues, .states, .engines] { s with jobFatal := true, early := [] } { e with jobFatal := true, early := [] } :=
      ((herr.mono (by simp)).withJobFatal true).withEarly []
    refine ⟨_, hrun, (hsteps.job (by simp)).1, (hsteps.job (by simp)).2, fun q => ?_, jobFatalSteps_group e, fun hroom => ?_,
      (hstart.trans hsteps).stopping⟩
    · rw [jobFatalSteps_state, herr.state (by simp)]
    · exact List.mem_append_left _ ((hsteps.events (by simp)).1.subset (htold hroom))

end Sys2Proof.Safety
end

section
/-! ## Resets and the boot (O24) -/

namespace Sys2Proof.Machine

open Sys2Proof.Safety

/-! ### The module held in reset (R493, R500) -/

theorem heldState_queue (s : State) (cause : Nat) (q : Fin 32) : (heldState s cause).queues[q] = Queue.reset := by
  have h : (heldState s cause).queues = Vector.replicate 32 Queue.reset := rfl
  rw [h]
  simp

theorem heldState_port (s : State) (cause : Nat) (p : Fin 16) : (heldState s cause).ports[p] = Port.reset := by
  have h : (heldState s cause).ports = Vector.replicate 16 Port.reset := rfl
  rw [h]
  simp

theorem exec_perstAssert (s : State) :
    exec .perstAssert s = .next (if s.phase = .off then { s with perst := true } else heldState { s with perst := true } 1) := by
  change execPerstAssert s = _
  simp only [execPerstAssert, beq_iff_eq]

theorem exec_perstRelease {s : State} (hp : s.perst = true) (hh : s.phase = .held) (env : BootEnv) :
    exec (.perstRelease env) s = .next (boot (heldState { s with perst := false } s.resetCause) env) :=
  congrArg Host.Outcome.next (if_pos (by simp [hp, hh]))

/-! ### The zeroed tiers (R247, R493) -/

theorem exec_t1Init {s : State} (hz : s.phase = .zeroing) (hf : s.fatal = none) :
    exec .t1Init s = .next { s with t1Init := true, phase := if s.t2Init then .run else .zeroing } := by
  change execT1Init s = _
  simp only [execT1Init, hz, hf, readyCheck, beq_self_eq_true, Option.isNone_none, Bool.and_self, if_true, Bool.true_and]
  split
  · rfl
  · rw [← hz]

theorem exec_t2Init {s : State} (hz : s.phase = .zeroing) (hf : s.fatal = none) :
    exec .t2Init s = .next { s with t2Init := true, phase := if s.t1Init then .run else .zeroing } := by
  change execT2Init s = _
  simp only [execT2Init, hz, hf, readyCheck, beq_self_eq_true, Option.isNone_none, Bool.and_self, if_true, Bool.and_true]
  split
  · rfl
  · rw [← hz]

/-! ### The boot (R429 to R432) -/

/-- The state in which the self-test of a booted image starts. -/
def bootStart (s : State) (m : Image) (slotB fallback : Bool) : State :=
  let k1 := Config.freeNat s.fresh % 2 ^ 256
  let k2 := Config.freeNat (s.fresh + 1) % 2 ^ 256
  let s := { s with phase := .zeroing, bl := imgBl m, fresh := s.fresh + 2, t1key := some k1, t2key := some k2
                    boot := { romStatus := 0, image := some m, slotB := slotB, fallback := fallback
                              ownerSig := (ownerActive s).isSome, meas := imageMeas m } }
  { s with measLog := [(1, romMeasure s), (2, secLc s + 2 ^ 64 * secBoot s)] ++ (List.range 5).map fun i => (3 + i, s.boot.meas.getD i 0) }

theorem bootImage_eq (s : State) (env : BootEnv) (m : Image) (slotB fallback : Bool) :
    bootImage s env m slotB fallback = selfTest (bootStart s m slotB fallback) env.selftest := rfl

/-- The sealed banks wiped at the start of a boot. -/
def bootWiped (s : State) : State := { wipeBanks s with sessions := s.sessions }

/-- The findings of a boot of which no check of R431 but the choice of the image fails. -/
structure BootSound (s : State) (env : BootEnv) : Prop where
  wipe : env.wipeOk = true
  trng : env.trngOk = true
  loop : env.loopOk = true
  closed : s.loopOpen = false
  state : lcState s ≠ 4
  locked : s.unlocked = false
  identity : identityOk s env = true

/-- The boot choice depends on the one-time-programmable memory, the flash, the serial number and the root alone. -/
theorem bootChoice_congr {s t : State} (hotp : t.otp = s.otp) (hflash : t.flash = s.flash) (hserial : t.serial = s.serial)
    (hroot : t.romRoot = s.romRoot) : bootChoice t = bootChoice s := by
  have hvalid : imageValid t = imageValid s := by
    funext m
    simp only [imageValid, ownerActive, hotp, hserial, hroot]
  simp only [bootChoice, hflash, hvalid]

/-- A sound boot boots the chosen image. -/
theorem boot_of_sound {s : State} {env : BootEnv} (h : BootSound s env) {m : Image} {b f : Bool} (hm : bootChoice s = some (m, b, f)) :
    boot s env = selfTest (bootStart { bootWiped s with idKey := some (identityKey s) } m b f) env.selftest := by
  obtain ⟨hwipe, htrng, hloop, hclosed, hstate, hlocked, hid⟩ := h
  have hchoice : bootChoice { bootWiped s with idKey := some (identityKey s) } = some (m, b, f) :=
    (bootChoice_congr (s := s) rfl rfl rfl rfl).trans hm
  have hopen : (bootWiped s).loopOpen = false := hclosed
  have hlc : (lcState (bootWiped s) == 4) = false := beq_eq_false_iff_ne.2 hstate
  have hlatch : (bootWiped s).unlocked = false := hlocked
  have hident : identityOk (bootWiped s) env = true := hid
  have hboot : boot s env = if !env.wipeOk then deviceFatal (romHold s 0) 0x09 false
      else if !env.trngOk then romHold (bootWiped s) 0x02
      else if !env.loopOk || (bootWiped s).loopOpen then romHold { bootWiped s with loopOpen := true } 0x01
      else if lcState (bootWiped s) == 4 then romHold (bootWiped s) 0x05
      else if (bootWiped s).unlocked then romHold (bootWiped s) 0x06
      else if !identityOk (bootWiped s) env then romHold (bootWiped s) 0x03
      else match bootChoice { bootWiped s with idKey := some (identityKey s) } with
        | none => romHold { bootWiped s with idKey := some (identityKey s) } 0x04
        | some (m, slotB, fallback) => bootImage { bootWiped s with idKey := some (identityKey s) } env m slotB fallback := rfl
  rw [hboot, hchoice]
  simp only [hwipe, htrng, hloop, hopen, hlc, hlatch, hident, Bool.not_true, Bool.or_self, Bool.false_eq_true, if_false, bootImage_eq]

end Sys2Proof.Machine

namespace Sys2Proof.Safety

open Sys2Proof.Machine

/-- What a boot keeps and what it brings (R431). -/
theorem exec_perstRelease_sound {s : State} {env : BootEnv} (hp : s.perst = true) (hh : s.phase = .held) (h : BootSound s env) {m : Image}
    {b f : Bool} (hm : bootChoice s = some (m, b, f)) :
    ∃ t, exec (.perstRelease env) s = .next t ∧ t.perst = false ∧ t.phase = .zeroing ∧ t.fatal = none ∧ t.boot.image = some m ∧
      t.idKey = some (identityKey s) ∧ t.otp = s.otp ∧ t.flash = s.flash ∧ t.romRoot = s.romRoot ∧ fusesOf t = fusesOf s := by
  have hsound : BootSound (heldState { s with perst := false } s.resetCause) env :=
    ⟨h.wipe, h.trng, h.loop, h.closed, h.state, h.locked, h.identity⟩
  have hchoice : bootChoice (heldState { s with perst := false } s.resetCause) = some (m, b, f) :=
    (bootChoice_congr (s := s) rfl rfl rfl rfl).trans hm
  have hrun := exec_perstRelease hp hh env
  rw [boot_of_sound hsound hchoice] at hrun
  have hshell := (selfTest_still (free := [.queues, .states, .engines, .job, .service])
    (bootStart { bootWiped (heldState { s with perst := false } s.resetCause) with
      idKey := some (identityKey (heldState { s with perst := false } s.resetCause)) } m b f) env.selftest (by simp) (by simp) (by simp)
    (by simp) (by simp)).shell
  generalize selfTest _ env.selftest = t at hrun hshell
  have hkept {α : Type} (g : State → α) := congrArg g hshell
  exact ⟨t, hrun, hkept State.perst, hkept State.phase, hkept State.fatal, hkept fun x => x.boot.image, hkept State.idKey, hkept State.otp,
    hkept State.flash, hkept State.romRoot, hkept fusesOf⟩

/-- Settles O24: the held state by its fields, the boot by `boot_of_sound`, and either tier by whether the other is zero. -/
theorem releasedModulesEnterService : Obligations.ReleasedModulesEnterService := by
  refine ⟨fun s env => ⟨?_, fun hp hh hlc hlocked hwipe htrng hloop hclosed hid m b f hm =>
    exec_perstRelease_sound hp hh ⟨hwipe, htrng, hloop, hclosed, hlc, hlocked, hid⟩ hm⟩, fun s hz hf => ⟨exec_t1Init hz hf, exec_t2Init hz hf⟩⟩
  by_cases hoff : s.phase = .off
  · exact ⟨{ s with perst := true }, (exec_perstAssert s).trans (by rw [if_pos hoff]), rfl, rfl, rfl, rfl, fun _ => rfl, fun h => absurd hoff h⟩
  · exact ⟨heldState { s with perst := true } 1, (exec_perstAssert s).trans (by rw [if_neg hoff]), rfl, rfl, rfl, rfl,
      fun h => absurd h hoff, fun _ => ⟨rfl, rfl, rfl, rfl, rfl, heldState_queue _ 1, heldState_port _ 1⟩⟩

end Sys2Proof.Safety
end

section
/-! ## Lifecycle transitions (O55)

O55 fails at one point. The lifecycle field of the statement's state is any list of pairs of numbers, and an entry whose halves add up to 7
counts (R443), such as (5, 2). It names a state 5, which R446 does not have. The statement then allows no transition at all; the model lets
every state but 2 and 4 go to 4 without an authorisation, so that it burns the entry. Of the states 0 to 4 this says nothing. -/

namespace Sys2Proof.Machine

open Sys2Proof.Safety

/-- A module with established sessions whose last lifecycle entry, (5, 2), is none of R443. -/
def strayLifecycle : State :=
  { State.reset with phase := .run, sessions := Vector.replicate 3 (.established 0), otp := { Otp.reset with lc := [(5, 2)] } }

/-- A well-formed LC_ADVANCE request inside the session. -/
def lcRequest : SpdmReq :=
  { wellFormed := true, secured := true, sign := false, bank := none, pciSig := true, vendorId := 0x1FD7, code := 3 }

theorem lcState_stray : lcState strayLifecycle = 5 := by decide

theorem secure_stray : Secure strayLifecycle .doe lcRequest := by
  unfold Secure InSession
  decide

theorem lcAllowed_stray : lcAllowed strayLifecycle 4 0 none = true := by decide

/-- A vendor-defined request inside its session is served. -/
theorem vendor_of_secure {s : State} {tr : Transport} {rq : SpdmReq} {code : Nat} (go : State → State) (h : Secure s tr rq)
    (hhead : vendorHead rq code = true) : vendor s tr rq code go = go s := by
  obtain ⟨⟨hup, hwf, hsec, hest⟩, hbank⟩ := h
  simp [vendor, spdmServe, hup, hbank, hwf, hhead, inSession, hsec, hest]

theorem exec_lcAdvance_stray (env : BootEnv) :
    exec (.lcAdvance .doe lcRequest 4 0 none true env) strayLifecycle = .next (lcAdvance strayLifecycle 4 0 true env) :=
  congrArg Host.Outcome.next ((vendor_of_secure _ secure_stray (by decide)).trans (if_pos lcAllowed_stray))

/-- The entry is burnt, whatever the boot finds. -/
theorem lcAdvance_otp (s : State) (target : Nat) (digest : BitVec 256) (env : BootEnv) :
    (lcAdvance s target digest true env).otp = lcFuses s target digest := by
  unfold lcAdvance
  dsimp only
  rw [if_neg (by simp)]
  exact otp_eq (moduleReset_dieOf _ _ _)

end Sys2Proof.Machine

namespace Sys2Proof.Safety

open Sys2Proof.Machine

/-- Refutes O55: the lifecycle entry (5, 2) names a state that R446 does not have, from which the model goes to state 4. -/
theorem not_lifecycleTransitionsBurnOneEntry : ¬ Obligations.LifecycleTransitionsBurnOneEntry := by
  intro h
  let env : BootEnv := { trngOk := true, loopOk := true, pufOk := true, wipeOk := true, selftest := [] }
  let a : Auth := { ok := true, jokarek := true, key := 0, covers := [], serial := 0, used := 0 }
  have hrow := ((h .doe lcRequest 4 0 none a env strayLifecycle secure_stray rfl rfl).1 rfl).1
  have hanswer := hrow (by simp [lcState_stray]) true
  rw [exec_lcAdvance_stray] at hanswer
  have hstate := Host.Outcome.next.inj hanswer
  have hotp := congrArg State.otp hstate
  have hlc := congrArg Otp.lc ((lcAdvance_otp strayLifecycle 4 0 env).symm.trans hotp)
  rw [lcFuses_lc] at hlc
  simp at hlc

end Sys2Proof.Safety
end

section
/-! ## Contained commands (O17)

O17 fails where a later command writes to the ring of its own queue. The commands that a contained one takes with it end one after another, each
with its writes and then its record (`containAll`), so that a write of the second can meet the record that the first has just left. Nothing in the
statement keeps the writes of the commands off the ring. -/

namespace Sys2Proof.Machine

open Sys2Proof.Safety

/-! ### A ring at its Reset value (R351) -/

/-- A ring whose register reads as at reset has 16 slots from address 0, and its count after them. -/
theorem ring_of_reset {s : State} (h : regGet s (offQcq 0) = 4) (n : Nat) :
    ringSlot s 0 n = 32 * (n % 16) ∧ cqTailOf s 0 = 512 := by
  have hbase : cqBase s 0 = 0 := by simp only [cqBase, regField]; rw [show offQcq (0 : Fin 32).val = offQcq 0 from rfl, h]; decide
  have hsize : cqSize s 0 = 16 := by simp only [cqSize, regField]; rw [show offQcq (0 : Fin 32).val = offQcq 0 from rfl, h]; decide
  refine ⟨?_, ?_⟩
  · rw [ringSlot, hbase, hsize]; omega
  · rw [cqTailOf, hbase, hsize]; rfl

/-- Nothing refuses an access of T1. -/
theorem accessRefusedFor_low (s : State) (w : Nat × Nat) {a : Nat} (h : a ≤ 512) : accessRefusedFor s w a = 0 := by
  have hregion : regionOf a = .t1 := if_pos (by omega)
  simp only [accessRefusedFor, hregion, ite_self]

theorem backed_low (s : State) {a : Nat} (h : a ≤ 512) : backed s a = true := by
  have hregion : regionOf a = .t1 := if_pos (by omega)
  simp only [backed, hregion, decide_eq_true_eq]
  omega

theorem canRecord_of_reset {s : State} (h : regGet s (offQcq 0) = 4) (hrecs : s.queues[(0 : Fin 32)].recs = []) (hf : s.fatal = none) :
    CanRecord s 0 := by
  have hslot : cqSlotOf s 0 ≤ 512 := by
    have := (ring_of_reset h s.queues[(0 : Fin 32)].cqCount).1
    unfold ringSlot at this
    rw [cqSlotOf]
    omega
  have htail : cqTailOf s 0 ≤ 512 := (ring_of_reset h 0).2.le
  exact ⟨by simp [cqOk, accessRefused, accessRefusedFor_low, hslot, htail], hrecs, hf⟩

/-! ### The end of contained commands (R375) -/

/-- A plain command that ends contained takes every running command of its queue with it. -/
theorem exec_commandCompletion_contained {q : Fin 32} {s : State} {x : Cmd} {rest : List Cmd} (hactive : s.queues[q].active = x :: rest)
    (hrecs : s.queues[q].recs = []) (hplain : x.work = .plain) (hstatus : x.status = 1) (hrun : s.queues[q].state = .running)
    (hin : inService s = true) (hev : evBlocked s q = false) : exec (.commandCompletion q) s = .next (containAll s q) := by
  have hflush : (if s.fatal.isSome then s else flushRecs s q) = s := by
    unfold flushRecs
    rw [hrecs]
    exact ite_self s
  have hdone : updateDone s q x = containAll s q := by
    simp only [updateDone, workWrites, containDone, hplain, hstatus]
    rfl
  refine congrArg Host.Outcome.next ?_
  simp only [hflush, hactive, hin, hrun, hev, mayComplete, hplain, hdone]
  rfl

/-- Two commands that end contained: the writes and the record of the first, then those of the second. -/
theorem containAll_pair {q : Fin 32} {s : State} {x y : Cmd} (h : s.queues[q].active = [x, y]) :
    containAll s q =
      let u := putRec (applyWrites (q.val, x.idx.toNat) (updQ s q fun u => { u with active := [] }) x.writes) q x 1
      containCmd (applyWrites (q.val, y.idx.toNat) u y.writes) q y := by
  simp only [containAll, h]
  rfl

/-- What ends the last command writes its record into the next slot and leaves other bytes. -/
theorem rdByte_containCmd {s : State} (hc : Canonical s) (hq : regGet s (offQcq 0) = 4) (hrecs : s.queues[(0 : Fin 32)].recs = [])
    (hf : s.fatal = none) (c : Cmd) {a : Nat} (hslot : Apart a (cqSlotOf s 0) 32) (htail : Apart a (cqTailOf s 0) 8) :
    rdByte (containCmd s 0 c) a = rdByte s a := by
  unfold containCmd
  split
  · rfl
  · have hflag := setFlag_aside s offErrStat 1 32 (by decide)
    have hcu := hflag.canonical hc
    have hqu : regGet (setFlag s offErrStat 1 32) (offQcq 0) = 4 := (hflag.regs hc.2 _ (by decide)).trans hq
    have hslots : cqSlotOf (setFlag s offErrStat 1 32) 0 = cqSlotOf s 0 := cqSlotOf_aside hflag hc 0
    have htails : cqTailOf (setFlag s offErrStat 1 32) 0 = cqTailOf s 0 := cqTailOf_aside hflag hc 0
    have hbytes := hflag.bytes hc.2 a
    have hcan : CanRecord (setFlag s offErrStat 1 32) 0 := canRecord_of_reset hqu hrecs hf
    generalize setFlag s offErrStat 1 32 = u at hcu hslots htails hbytes hcan
    obtain ⟨-, hkept, -, -, -⟩ := putRec_left u 0 c 1 hcu hcan
    have hrec := hkept a (by rwa [hslots]) (by rwa [htails]) (by simp)
    have hcv := (putRec_keep u 0 c 1).1 hcu
    generalize putRec u 0 c 1 = v at hrec hcv
    have hleave : Canonical (leaveRunning v 0 .stopped) := hcv
    have hevent := (queueEvent_aside (leaveRunning v 0 .stopped) 0x01 (whoOf 0 c.idx c.desc)).bytes hleave.2 a
    exact hevent.trans (hrec.trans hbytes)

/-! ### Two commands, the second of which writes to the ring -/

/-- A contained command that has written nothing. -/
def containedCmd : Cmd := { mkCmd 0 [] false with kind := 0, status := 1 }

/-- One that runs after it and has written a byte to address 0, where the first record goes. -/
def ringWriter : Cmd := { mkCmd 1 [] false with kind := 0, status := 1, writes := [⟨0, [0xFF], .data⟩] }

/-- A module in service of which queue 0 runs both. -/
def ringHit : State :=
  { State.reset with
    phase := .run
    queues := State.reset.queues.set 0 { Queue.reset with state := .running, active := [containedCmd, ringWriter] } }

/-- The queue as the first record finds it. -/
def ringHitIdle : State := updQ ringHit 0 fun u => { u with active := [] }

theorem ringHit_canonical : Canonical ringHit := ⟨rfl, rfl⟩

theorem ringHit_ringOpen : RingOpen ringHit 0 :=
  ⟨canRecord_of_reset (by decide) (by decide) rfl, fun n => accessRefusedFor_low _ _ (by rw [(ring_of_reset (by decide) n).1]; omega)⟩

theorem exec_ringHit :
    exec (.commandCompletion 0) ringHit = .next
      (containCmd (applyWrites (0, 1) (putRec ringHitIdle 0 containedCmd 1) [⟨0, [0xFF], .data⟩]) 0 ringWriter) := by
  have hactive : ringHit.queues[(0 : Fin 32)].active = [containedCmd, ringWriter] := rfl
  rw [exec_commandCompletion_contained hactive rfl rfl rfl rfl (by decide) (by decide), containAll_pair hactive]
  rfl

/-- The byte that the second command writes stands where the first record began. -/
theorem rdByte_ringHit :
    rdByte (containCmd (applyWrites (0, 1) (putRec ringHitIdle 0 containedCmd 1) [⟨0, [0xFF], .data⟩]) 0 ringWriter) 0 = 0xFF := by
  have hidle : Canonical ringHitIdle := ringHit_canonical
  obtain ⟨-, -, hqueues, -, haside⟩ := putRec_left ringHitIdle 0 containedCmd 1 hidle (canRecord_of_reset (by decide) rfl rfl)
  have hcu := (putRec_keep ringHitIdle 0 containedCmd 1).1 hidle
  have hcq : regGet (putRec ringHitIdle 0 containedCmd 1) (offQcq 0) = 4 := (haside.regs hidle.2 _ (by decide)).trans (by decide)
  have hfatal : (putRec ringHitIdle 0 containedCmd 1).fatal = none := by rw [haside.form]; rfl
  have hqueue : (putRec ringHitIdle 0 containedCmd 1).queues[(0 : Fin 32)].recs = [] ∧
      (putRec ringHitIdle 0 containedCmd 1).queues[(0 : Fin 32)].cqCount = 1 := by rw [hqueues]; exact ⟨rfl, rfl⟩
  generalize putRec ringHitIdle 0 containedCmd 1 = u at hcu hcq hfatal hqueue
  obtain ⟨hrecs, hcount⟩ := hqueue
  have hwrite : applyWrites (0, 1) u [⟨0, [0xFF], .data⟩] = wr u 0 [0xFF] := by
    have hok : rangeRefused u (0, 1) 0 1 = 0 := by simp [rangeRefused, linesOf, accessRefusedFor_low]
    simp [applyWrites, applyWrite, hok]
  obtain ⟨m, p, t3, hform, hwf⟩ := wr_form u 0 [0xFF]
  have hread : rd (wr u 0 [0xFF]) 0 1 = [0xFF] := rd_wr u 0 [0xFF] hcu.1 hfatal (by decide) fun k hk => backed_low u (by simp at hk; omega)
  rw [hwrite]
  rw [hform] at hread ⊢
  have hcw : Canonical { u with mem := m, poison := p, t3 := t3 } := ⟨hwf hcu.1, hcu.2⟩
  have hring := ring_of_reset (s := { u with mem := m, poison := p, t3 := t3 }) hcq 1
  have hslot : cqSlotOf { u with mem := m, poison := p, t3 := t3 } 0 = 32 := by
    have hsame : cqSlotOf { u with mem := m, poison := p, t3 := t3 } 0 = ringSlot { u with mem := m, poison := p, t3 := t3 } 0 1 := by
      rw [cqSlotOf, ringSlot, ← hcount]
    exact hsame.trans hring.1
  rw [rdByte_containCmd hcw hcq hrecs hfatal _ (by rw [hslot]; intro k hk; omega) (by rw [hring.2]; intro k hk; omega)]
  simpa [rd] using hread

end Sys2Proof.Machine

namespace Sys2Proof.Safety

open Sys2Proof.Machine

/-- Refutes O17: the second of two commands that end contained has written to the ring slot of the first (`ringHit`), so that the record of the
first does not stand. -/
theorem not_containedErrorsStopTheirQueue : ¬ Obligations.ContainedErrorsStopTheirQueue := by
  intro h
  obtain ⟨t, hrun, -, hleft, -⟩ := h.1 0 ringHit containedCmd [ringWriter] ringHit_canonical ringHit_ringOpen rfl rfl rfl rfl (by decide) (by decide)
  have hring := ring_of_reset (s := ringHit) (by decide) 0
  have hslot : ringSlot ringHit 0 (ringHit.queues[(0 : Fin 32)].cqCount + 0) = 0 := hring.1
  have hrecord := hleft (by decide) 0 containedCmd rfl
  rw [hslot] at hrecord
  have hbytes := hrecord fun k hk => backed_low _ (by omega)
  have hfirst : rdByte t 0 = 0 := by
    have hkind : (compRecord ringHit containedCmd 1).head? = some 0 := by decide
    have hhead : some (rdByte t 0) = (compRecord ringHit containedCmd 1).head? := congrArg List.head? hbytes
    exact Option.some.inj (hhead.trans hkind)
  rw [exec_ringHit] at hrun
  have hbyte := rdByte_ringHit
  rw [Host.Outcome.next.inj hrun, hfirst] at hbyte
  exact absurd hbyte (by decide)

end Sys2Proof.Safety
end

section
/-! ## HDM writes (O50)

O50 fails for an HDM window that reaches beyond T2. The base of the window is any 16-bit number of GiB in the state that the statement speaks of,
though a write of MEM_HDM keeps it below the end of T2 (R270). From 0xF000 on the window lies in T3, where a line is not read before a write of
part of it is merged unless the job key serves the access (R245): an uncorrectable error is then not met, and the line is not left poisoned. -/

namespace Sys2Proof.Machine

open Sys2Proof.Safety

/-- A module in service without a job key, whose T3 is backed and whose HDM window begins where T3 does. -/
def hdmInT3 : State :=
  { State.reset with phase := .run, regs := [(offT3Base, 1), (offT3Size, 1), (offHdm, 0x1F0000001)] }

theorem hdmInT3_canonical : Canonical hdmInT3 := ⟨rfl, by decide⟩

theorem hdmInT3_addr : hdmAddr hdmInT3 0 = some t3Start := by decide

/-- Without a job key the line is not read before it is merged. -/
theorem mergeLine_hdmInT3 (env : List Finding) :
    Chk.mergeLine Who.none (Chk.init hdmInT3 env) (t3Start / 64) = Chk.init hdmInT3 env := by
  have hrefused : accessRefusedFor hdmInT3 (Who.none.q, Who.none.idx) (64 * (t3Start / 64)) = 5 := by decide
  have hskip : (accessRefusedFor hdmInT3 (Who.none.q, Who.none.idx) (64 * (t3Start / 64)) != 0) = true := by rw [hrefused]; rfl
  unfold Chk.mergeLine
  dsimp only
  exact if_pos (by rw [Bool.or_eq_true]; exact .inr hskip)

/-- Bytes merged into a line leave the tags of T3 alone. -/
theorem maskedBytes_t3 (a mask : Nat) (bs : List Byte) (s : State) (i : Nat) : (maskedBytes s a mask i bs).t3 = s.t3 := by
  induction bs generalizing s i with
  | nil => rfl
  | cons b bs ih =>
    obtain ⟨m, hm, -⟩ := wrByte_form s (a + i) b
    refine (ih _ _).trans ?_
    split
    · rw [hm]
    · rfl

theorem exec_hdmWrite (x : Nat) (data : List Byte) (mask : BitVec 64) (env : List Finding) (s : State) :
    exec (.hdmWrite x data mask env) s = execHdmWrite x data mask env s := rfl

/-- A write of byte 0 merges it without a look at the line, whatever that would find. -/
theorem execHdmWrite_hdmInT3 (data : List Byte) (env : List Finding) :
    execHdmWrite 0 data 1 env hdmInT3 = .next (maskedBytes hdmInT3 t3Start 1 0 (padTo 64 data)) := by
  have hone : (1 : BitVec 64).toNat = 1 := by decide
  have hfull : ((1 : Nat) == 2 ^ 64 - 1) = false := by decide
  have hnone : ((1 : Nat) == 0) = false := by decide
  simp only [execHdmWrite, hdmInT3_addr, mergeLine_hdmInT3, hone, hfull, hnone, Bool.false_eq_true, if_false]
  rfl

/-- A unit without a tag is no poisoned one. -/
theorem linePoisoned_of_no_tag {s : State} (h : s.t3 = []) : linePoisoned s (t3Start / 64) = false := by
  have hregion : regionOf (64 * (t3Start / 64)) = .t3 := by decide
  have hfind (fab : Nat) : t3Find s fab = none := by rw [t3Find, h]; rfl
  simp only [linePoisoned, hregion, t3Check, hfind]
  rfl

end Sys2Proof.Machine

namespace Sys2Proof.Safety

open Sys2Proof.Machine

/-- Refutes O50: a write of one byte to the HDM window of `hdmInT3`, whose line an uncorrectable error would meet, leaves no line poisoned. -/
theorem not_hostTrafficReachesTheModule : ¬ Obligations.HostTrafficReachesTheModule := by
  intro h
  obtain ⟨-, hwrite, -⟩ := h hdmInT3
  have hrow := hwrite 0 (List.replicate 64 0) 1 [⟨t3Start / 64, .ue, 0⟩] (by decide)
  have hbacked : BackedAll hdmInT3 t3Start 64 := by unfold BackedAll; decide
  have hmerge := (hrow.2 t3Start hdmInT3_addr hbacked hdmInT3_canonical).2
  obtain ⟨t, hrun, hpoison, -⟩ := hmerge (by decide) (by decide) rfl (linePoisoned_of_no_tag rfl)
  have hexec : exec (.hdmWrite 0 (List.replicate 64 0) 1 [⟨t3Start / 64, .ue, 0⟩]) hdmInT3 =
      .next (maskedBytes hdmInT3 t3Start 1 0 (padTo 64 (List.replicate 64 0))) := by
    rw [exec_hdmWrite]
    exact execHdmWrite_hdmInT3 _ _
  rw [hexec] at hrun
  have hclean : linePoisoned t (t3Start / 64) = false := by
    rw [← Host.Outcome.next.inj hrun]
    exact linePoisoned_of_no_tag (maskedBytes_t3 _ _ _ _ _)
  exact absurd hpoison (by rw [hclean]; decide)

end Sys2Proof.Safety
end
